-- ==== Sys2Proof/Word.lean ====
section
/-!
DEFINITION. Sys2Proof/Word.lean: the word and byte types of the machine (R4, R105) and the type of a sparse table.
-/
namespace Sys2Proof

/-- A 64-bit register (R105, R108). -/
abbrev Word := BitVec 64
/-- A byte (R4). -/
abbrev Byte := BitVec 8
/-- A sparse table: values by number, the numbers strictly rising. -/
abbrev Tab (α : Type) := List (Nat × α)

end Sys2Proof
end

