-- ==== Sys2Proof/Syntax.lean ====
section
/-!
DEFINITION. Sys2Proof/Syntax.lean: the instructions and device events of the W12, one constructor per row of
spec/opcode_table.json, in the table's order. An instruction's arguments are the fields of its encoding (R50 to
R59); an event's arguments are what its environment decides (which function, which core, which answer).
-/
namespace Sys2Proof

/-- A scalar register number, s0 to s31 (R105). -/
abbrev SReg := Fin 32
/-- A vector register number, v0 to v31 (R22). -/
abbrev VReg := Fin 32
/-- A predicate number, p0 to p7 (R156). -/
abbrev PReg := Fin 8
/-- A scale register number, e0 to e7 (R22). -/
abbrev EReg := Fin 8
/-- A tile number, t0 to t3 (R57). -/
abbrev TReg := Fin 4
/-- A bobbin number, b0 to b31 (R255). -/
abbrev Bob := Fin 32
/-- An ETYPE code (R159). -/
abbrev ECode := Fin 32

/-- A request that arrives at an arbiter (ARBITER_GRANT): its name, by which it stays known at the next arbiter, its input (R395),
its owner, the partition where it is about to enter the network (R352), the address of its line, whether the slice has no copy of
it or it is an atomic (R327), its bytes. -/
structure Arrival where
  id : Nat
  input : Nat
  owner : Nat
  part : Option Nat
  addr : Nat
  op : Nat
  miss : Bool
  bytes : Nat
  deriving DecidableEq, Repr

/-- How long a packet or flit that is granted in this clock takes beyond it, where no rule fixes that, and whether the output cannot
advance, with the request downstream that withholds its credit where one does (ARBITER_GRANT, R311). -/
structure OutputClock where
  hold : Nat
  stall : Option (Option Nat)
  deriving DecidableEq, Repr

/-- What FLIT_SEND puts on the path to a chip: the operations of this chip whose flits it carries, how many answers that the other
chip awaits, BLEN (Table 15-4). -/
structure FlitLoad where
  chip : Nat
  keys : List Nat
  answers : Nat
  blen : Nat
  deriving DecidableEq, Repr

/-- What Flosil has found erased (R287): the dead switch chips, the failed links of this device, those of the other chip, as masks. -/
structure Erased where
  dead : Nat
  own : Nat
  far : Nat
  deriving DecidableEq, Repr

/-- What ends a remote copy (COPY_FAILED): the other chip, and the fabric cause, or, 16 above it, the refusal of a landing zone. -/
structure CopyEnd where
  peer : Nat
  cause : Nat
  deriving DecidableEq, Repr

/-- Where an access of the host falls in a register block, and its size in bytes (REGISTER_WRITE). -/
structure RegAccess where
  off : Nat
  size : Nat
  deriving DecidableEq, Repr

/-- The addresses of a remote request as its packet carries them (R188): a base and a stride with the elements that are
active, or one address for each access. -/
inductive FarAddrs where
  | strided (base stride : Nat) (elems : List Nat)
  | listed (addrs : List Nat)
  deriving DecidableEq, Repr

/-- Every instruction and event of the opcode table. -/
inductive Instr where
  /-- ADD (R124): Writes the sum of two scalar registers modulo 2^64 to sd. -/
  | add (d a b : SReg)
  /-- SUB (R124): Writes a minus b modulo 2^64 to sd. -/
  | sub (d a b : SReg)
  /-- AND (R124): Writes the bitwise AND of two scalar registers to sd. -/
  | and (d a b : SReg)
  /-- OR (R124): Writes the bitwise OR of two scalar registers to sd. -/
  | or (d a b : SReg)
  /-- XOR (R124): Writes the bitwise XOR of two scalar registers to sd. -/
  | xor (d a b : SReg)
  /-- ANDN (R124): Writes a AND NOT b to sd. -/
  | andn (d a b : SReg)
  /-- ORN (R124): Writes a OR NOT b to sd. -/
  | orn (d a b : SReg)
  /-- SHL (R124): Shifts a left by b[5:0] and writes the result to sd. -/
  | shl (d a b : SReg)
  /-- SHR (R124): Shifts a right logically by b[5:0] and writes the result to sd. -/
  | shr (d a b : SReg)
  /-- SAR (R124): Shifts a right arithmetically by b[5:0] and writes the result to sd. -/
  | sar (d a b : SReg)
  /-- ROL (R124): Rotates a left by b[5:0] and writes the result to sd. -/
  | rol (d a b : SReg)
  /-- ROR (R124): Rotates a right by b[5:0] and writes the result to sd. -/
  | ror (d a b : SReg)
  /-- SLT (R124): Writes 1 to sd if a is less than b as signed values, else 0. -/
  | slt (d a b : SReg)
  /-- SLTN (R124): Writes 1 to sd if a is less than b as unsigned values, else 0. -/
  | sltn (d a b : SReg)
  /-- MIN (R124): Writes the signed minimum of a and b to sd. -/
  | min (d a b : SReg)
  /-- MAX (R124): Writes the signed maximum of a and b to sd. -/
  | max (d a b : SReg)
  /-- MINN (R124): Writes the unsigned minimum of a and b to sd. -/
  | minn (d a b : SReg)
  /-- MAXN (R124): Writes the unsigned maximum of a and b to sd. -/
  | maxn (d a b : SReg)
  /-- MUL (R124): Writes the low 64 bits of a times b to sd. -/
  | mul (d a b : SReg)
  /-- MULH (R124): Writes the high 64 bits of the signed product to sd. -/
  | mulh (d a b : SReg)
  /-- MULHN (R124): Writes the high 64 bits of the unsigned product to sd. -/
  | mulhn (d a b : SReg)
  /-- DIV (R124): Writes the signed quotient rounded toward zero, with defined results for b = 0 and overflow. -/
  | div (d a b : SReg)
  /-- DIVN (R124): Writes the unsigned quotient, all ones for b = 0. -/
  | divn (d a b : SReg)
  /-- REM (R124): Writes the signed remainder with the sign of a. -/
  | rem (d a b : SReg)
  /-- REMN (R124): Writes the unsigned remainder, a for b = 0. -/
  | remn (d a b : SReg)
  /-- CLZ (R124): Writes the number of leading zeros of a to sd. -/
  | clz (d a : SReg)
  /-- CTZ (R124): Writes the number of trailing zeros of a to sd. -/
  | ctz (d a : SReg)
  /-- POPC (R124): Writes the number of set bits of a to sd. -/
  | popc (d a : SReg)
  /-- SEXT (R124): Sign-extends a from b[5:0]+1 bits and writes it to sd. -/
  | sext (d a b : SReg)
  /-- ADDI (R125): Adds a sign-extended 14-bit immediate to a. -/
  | addi (d a : SReg) (i : BitVec 14)
  /-- ANDI (R125): ANDs a with a sign-extended immediate. -/
  | andi (d a : SReg) (i : BitVec 14)
  /-- ORI (R125): ORs a with a sign-extended immediate. -/
  | ori (d a : SReg) (i : BitVec 14)
  /-- XORI (R125): XORs a with a sign-extended immediate. -/
  | xori (d a : SReg) (i : BitVec 14)
  /-- SHLI (R126): Shifts a left by an immediate amount. -/
  | shli (d a : SReg) (n : BitVec 6)
  /-- SHRI (R126): Shifts a right logically by an immediate amount. -/
  | shri (d a : SReg) (n : BitVec 6)
  /-- SARI (R126): Shifts a right arithmetically by an immediate amount. -/
  | sari (d a : SReg) (n : BitVec 6)
  /-- SLTI (R125): Signed compare of a with an immediate, writing 1 or 0. -/
  | slti (d a : SReg) (i : BitVec 14)
  /-- SLTNI (R125): Unsigned compare of a with the sign-extended immediate, writing 1 or 0. -/
  | sltni (d a : SReg) (i : BitVec 14)
  /-- LUI (R127): Writes a 19-bit signed immediate shifted left by 14 to sd. -/
  | lui (d : SReg) (i : BitVec 19)
  /-- ADPC (R127): Writes pc plus a shifted 19-bit signed immediate to sd. -/
  | adpc (d : SReg) (i : BitVec 19)
  /-- BEXT (R128): Extracts an unsigned bit field of a into sd. -/
  | bext (d a : SReg) (p l : BitVec 6)
  /-- BEXT_S (R128): Extracts a sign-extended bit field of a into sd. -/
  | bextS (d a : SReg) (p l : BitVec 6)
  /-- BINS (R128): Inserts the low bits of a into a field of sd. -/
  | bins (d a : SReg) (p l : BitVec 6)
  /-- LD (R129): Loads 1 to 8 bytes from base plus offset, sign or zero extended, into sd. -/
  | ld (d a : SReg) (w : Fin 8) (o : BitVec 11)
  /-- ST (R129): Stores 1 to 8 bytes of ss to base plus offset. -/
  | st (s a : SReg) (w : Fin 8) (o : BitVec 11)
  /-- LDA (R131): Load that is also an acquire at PART or SYS scope. -/
  | lda (d a : SReg) (w : Fin 8) (o : BitVec 11)
  /-- STL (R131): Store that is also a release at PART or SYS scope. -/
  | stl (s a : SReg) (w : Fin 8) (o : BitVec 11)
  /-- BEQ (R132): Branches by a parcel offset if a equals b. -/
  | beq (a b : SReg) (o : BitVec 14)
  /-- BNE (R132): Branches if a differs from b. -/
  | bne (a b : SReg) (o : BitVec 14)
  /-- BLT (R132): Branches if a is less than b, signed. -/
  | blt (a b : SReg) (o : BitVec 14)
  /-- BGE (R132): Branches if a is at least b, signed. -/
  | bge (a b : SReg) (o : BitVec 14)
  /-- BLTN (R132): Branches if a is less than b, unsigned. -/
  | bltn (a b : SReg) (o : BitVec 14)
  /-- BGEN (R132): Branches if a is at least b, unsigned. -/
  | bgen (a b : SReg) (o : BitVec 14)
  /-- JMP (R133): Jumps by a 24-bit signed parcel offset. -/
  | jmp (o : BitVec 24)
  /-- CALL (R133): Writes the return address to s1 and jumps by a 24-bit parcel offset. -/
  | call (o : BitVec 24)
  /-- JR (R134): Jumps to the address in sa, trapping if bit 0 is set. -/
  | jr (a : SReg)
  /-- CALLR (R134): Writes the return address to sd and jumps to the address in sa. -/
  | callr (d a : SReg)
  /-- AMO_SWAP (R135): Atomically swaps b into memory and returns the old value. -/
  | amoSwap (d a b : SReg) (o : Fin 4) (z : Bool)
  /-- AMO_ADD (R135): Atomically adds b to memory and returns the old value. -/
  | amoAdd (d a b : SReg) (o : Fin 4) (z : Bool)
  /-- AMO_AND (R135): Atomic AND into memory returning the old value. -/
  | amoAnd (d a b : SReg) (o : Fin 4) (z : Bool)
  /-- AMO_OR (R135): Atomic OR into memory returning the old value. -/
  | amoOr (d a b : SReg) (o : Fin 4) (z : Bool)
  /-- AMO_XOR (R135): Atomic XOR into memory returning the old value. -/
  | amoXor (d a b : SReg) (o : Fin 4) (z : Bool)
  /-- AMO_MIN (R135): Atomic signed minimum into memory returning the old value. -/
  | amoMin (d a b : SReg) (o : Fin 4) (z : Bool)
  /-- AMO_MAX (R135): Atomic signed maximum into memory returning the old value. -/
  | amoMax (d a b : SReg) (o : Fin 4) (z : Bool)
  /-- AMO_MINN (R135): Atomic unsigned minimum into memory returning the old value. -/
  | amoMinn (d a b : SReg) (o : Fin 4) (z : Bool)
  /-- AMO_MAXN (R135): Atomic unsigned maximum into memory returning the old value. -/
  | amoMaxn (d a b : SReg) (o : Fin 4) (z : Bool)
  /-- CAS (R136): Atomically stores c if memory equals b and returns the old value. -/
  | cas (d a b c : SReg) (o : Fin 4) (z : Bool)
  /-- FENCE (R137): Orders the shuttle's earlier and later access sets of the given kind at the given scope. -/
  | fence (s : Fin 8) (k : Fin 4)
  /-- TRAP (R138): Takes cause TRAP with EINFO holding a. -/
  | trap (a : SReg)
  /-- RETT (R139): Returns from a trap to EPC, restoring privilege and AIE and clearing EH. -/
  | rett
  /-- CKPT (R140): Requests a tenant checkpoint and writes its sequence number once captured. -/
  | ckpt (d : SReg)
  /-- EXIT (R141): Ends the shuttle's issue; its end takes effect once its work has drained. -/
  | exit
  /-- YIELD (R142): Returns the core's lanes and lets the other ready shuttles issue once. -/
  | yield
  /-- SLOOP (R143): Starts a strip-mined loop, setting SREM and STRIP outside a weave. -/
  | sloop (a : SReg)
  /-- CRR (R146): Reads a control register into sd. -/
  | crr (d : SReg) (r : BitVec 12)
  /-- CRW (R146): Writes a control register with a and returns its old value. -/
  | crw (d a : SReg) (r : BitVec 12)
  /-- CRS (R146): Sets the bits of a in a control register and returns its old value. -/
  | crs (d a : SReg) (r : BitVec 12)
  /-- CRC (R146): Clears the bits of a in a control register and returns its old value. -/
  | crc (d a : SReg) (r : BitVec 12)
  /-- SNEXT (R144): Closes a strip pass, updating SREM and STRIP and drawing a new strip in a weave. -/
  | snext (o : BitVec 24)
  /-- LAUNCH (R145): Reads a 64-byte launch record and enqueues it, writing a status code. -/
  | launch (d a : SReg)
  /-- LAUNCH_LEND (R32): Launches, parking the child in the lend slot when the class queue is full. -/
  | launchLend (d a : SReg)
  /-- FADD (R147): Scalar floating-point add rounded under FCTL.RM. -/
  | fadd (d a b : SReg) (t : Bool)
  /-- FSUB (R147): Scalar floating-point subtract. -/
  | fsub (d a b : SReg) (t : Bool)
  /-- FMUL (R147): Scalar floating-point multiply. -/
  | fmul (d a b : SReg) (t : Bool)
  /-- FDIV (R147): Scalar floating-point divide. -/
  | fdiv (d a b : SReg) (t : Bool)
  /-- FSQRT (R147): Scalar floating-point square root. -/
  | fsqrt (d a : SReg) (t : Bool)
  /-- FMIN (R147): Scalar minimumNumber. -/
  | fmin (d a b : SReg) (t : Bool)
  /-- FMAX (R147): Scalar maximumNumber. -/
  | fmax (d a b : SReg) (t : Bool)
  /-- FCMP_EQ (R147): Writes 1 if the operands are equal, NaN comparing false. -/
  | fcmpEq (d a b : SReg) (t : Bool)
  /-- FCMP_LT (R147): Writes 1 if a is less than b; NaN sets NV. -/
  | fcmpLt (d a b : SReg) (t : Bool)
  /-- FCMP_LE (R147): Writes 1 if a is at most b; NaN sets NV. -/
  | fcmpLe (d a b : SReg) (t : Bool)
  /-- FCLASS (R147): Writes a one-hot class mask of a. -/
  | fclass (d a : SReg) (t : Bool)
  /-- FCVT_F (R147): Converts between F32 and F64. -/
  | fcvtF (d a : SReg) (t : Bool)
  /-- FCVT_I64 (R147): Converts a float to a signed 64-bit integer under RM. -/
  | fcvtI64 (d a : SReg) (t : Bool)
  /-- FCVT_N64 (R147): Converts a float to an unsigned 64-bit integer under RM. -/
  | fcvtN64 (d a : SReg) (t : Bool)
  /-- FCVT_FI (R147): Converts a signed integer to a float. -/
  | fcvtFi (d a : SReg) (t : Bool)
  /-- FCVT_FN (R147): Converts an unsigned integer to a float. -/
  | fcvtFn (d a : SReg) (t : Bool)
  /-- FMA (R148): Scalar fused a*b+c with one rounding. -/
  | fma (d a b c : SReg) (t : Bool)
  /-- FMS (R148): Scalar fused a*b-c. -/
  | fms (d a b c : SReg) (t : Bool)
  /-- FNMA (R148): Scalar fused -(a*b)+c. -/
  | fnma (d a b c : SReg) (t : Bool)
  /-- FNMS (R148): Scalar fused -(a*b)-c. -/
  | fnms (d a b c : SReg) (t : Bool)
  /-- VSETL (R169): Sets VTYPE and VL from a requested length or SREM, clears VSTART, and makes the heddle request. -/
  | vsetl (d a : SReg) (i : BitVec 14)
  /-- VLD (R178): Unit-stride vector load of the active elements. -/
  | vld (c : Bool) (p : PReg) (d : VReg) (a : SReg) (n : Bool)
  /-- VLD_S (R178): Strided vector load. -/
  | vldS (c : Bool) (p : PReg) (d : VReg) (a x : SReg) (n : Bool)
  /-- VLD_X (R178): Indexed vector gather. -/
  | vldX (c : Bool) (p : PReg) (d : VReg) (a : SReg) (x : VReg) (n : Bool)
  /-- VLD_FF (R180): Fault-first unit load that trims VL at the first later faulting element. -/
  | vldFf (c : Bool) (p : PReg) (d : VReg) (a : SReg) (n : Bool)
  /-- VLD_P (R181): Plane load of packed Q elements into bit planes. -/
  | vldP (c : Bool) (p : PReg) (d : VReg) (a x : SReg) (n : Bool)
  /-- VST (R179): Unit-stride vector store of the active elements. -/
  | vst (c : Bool) (p : PReg) (d : VReg) (a : SReg) (n : Bool)
  /-- VST_S (R179): Strided vector store. -/
  | vstS (c : Bool) (p : PReg) (d : VReg) (a x : SReg) (n : Bool)
  /-- VST_X (R179): Unordered indexed scatter. -/
  | vstX (c : Bool) (p : PReg) (d : VReg) (a : SReg) (x : VReg) (n : Bool)
  /-- VST_XO (R179): Ordered indexed scatter performed in ascending element order. -/
  | vstXo (c : Bool) (p : PReg) (d : VReg) (a : SReg) (x : VReg) (n : Bool)
  /-- VST_P (R181): Plane store of Q elements into packed memory under a bit mask. -/
  | vstP (c : Bool) (p : PReg) (d : VReg) (a x : SReg) (n : Bool)
  /-- VAMO_SWAP (R192): Per-element atomic swap at base plus index, optionally returning old values. -/
  | vamoSwap (c : Bool) (p : PReg) (d : VReg) (a : SReg) (b : VReg) (r : Bool)
  /-- VAMO_ADD (R192): Per-element atomic add. -/
  | vamoAdd (c : Bool) (p : PReg) (d : VReg) (a : SReg) (b : VReg) (r : Bool)
  /-- VAMO_AND (R192): Per-element atomic AND. -/
  | vamoAnd (c : Bool) (p : PReg) (d : VReg) (a : SReg) (b : VReg) (r : Bool)
  /-- VAMO_OR (R192): Per-element atomic OR. -/
  | vamoOr (c : Bool) (p : PReg) (d : VReg) (a : SReg) (b : VReg) (r : Bool)
  /-- VAMO_XOR (R192): Per-element atomic XOR. -/
  | vamoXor (c : Bool) (p : PReg) (d : VReg) (a : SReg) (b : VReg) (r : Bool)
  /-- VAMO_MIN (R192): Per-element atomic signed minimum. -/
  | vamoMin (c : Bool) (p : PReg) (d : VReg) (a : SReg) (b : VReg) (r : Bool)
  /-- VAMO_MAX (R192): Per-element atomic signed maximum. -/
  | vamoMax (c : Bool) (p : PReg) (d : VReg) (a : SReg) (b : VReg) (r : Bool)
  /-- VAMO_MINN (R192): Per-element atomic unsigned minimum. -/
  | vamoMinn (c : Bool) (p : PReg) (d : VReg) (a : SReg) (b : VReg) (r : Bool)
  /-- VAMO_MAXN (R192): Per-element atomic unsigned maximum. -/
  | vamoMaxn (c : Bool) (p : PReg) (d : VReg) (a : SReg) (b : VReg) (r : Bool)
  /-- VADD_VV (R198): Elementwise integer add of two vectors. -/
  | vaddVv (c : Bool) (p : PReg) (d a b : VReg)
  /-- VADD_VX (R198): Elementwise integer add of a scalar and a vector. -/
  | vaddVx (c : Bool) (p : PReg) (d : VReg) (a : SReg) (b : VReg)
  /-- VADD_VI (R198): Elementwise integer add of an immediate and a vector. -/
  | vaddVi (c : Bool) (p : PReg) (d : VReg) (i : BitVec 5) (b : VReg)
  /-- VSUB_VV (R198): Elementwise x minus y. -/
  | vsubVv (c : Bool) (p : PReg) (d a b : VReg)
  /-- VSUB_VX (R198): Elementwise scalar minus y. -/
  | vsubVx (c : Bool) (p : PReg) (d : VReg) (a : SReg) (b : VReg)
  /-- VSUB_VI (R198): Elementwise immediate minus y. -/
  | vsubVi (c : Bool) (p : PReg) (d : VReg) (i : BitVec 5) (b : VReg)
  /-- VRSUB_VV (R198): Elementwise y minus x. -/
  | vrsubVv (c : Bool) (p : PReg) (d a b : VReg)
  /-- VRSUB_VX (R198): Elementwise y minus scalar. -/
  | vrsubVx (c : Bool) (p : PReg) (d : VReg) (a : SReg) (b : VReg)
  /-- VRSUB_VI (R198): Elementwise y minus immediate. -/
  | vrsubVi (c : Bool) (p : PReg) (d : VReg) (i : BitVec 5) (b : VReg)
  /-- VMUL_VV (R198): Elementwise integer multiply. -/
  | vmulVv (c : Bool) (p : PReg) (d a b : VReg)
  /-- VMUL_VX (R198): Elementwise integer multiply by a scalar. -/
  | vmulVx (c : Bool) (p : PReg) (d : VReg) (a : SReg) (b : VReg)
  /-- VMUL_VI (R198): Elementwise integer multiply by an immediate. -/
  | vmulVi (c : Bool) (p : PReg) (d : VReg) (i : BitVec 5) (b : VReg)
  /-- VMULH_VV (R198): Elementwise signed high product. -/
  | vmulhVv (c : Bool) (p : PReg) (d a b : VReg)
  /-- VMULH_VX (R198): Signed high product with a scalar. -/
  | vmulhVx (c : Bool) (p : PReg) (d : VReg) (a : SReg) (b : VReg)
  /-- VMULH_VI (R198): Signed high product with an immediate. -/
  | vmulhVi (c : Bool) (p : PReg) (d : VReg) (i : BitVec 5) (b : VReg)
  /-- VMULHN_VV (R198): Elementwise unsigned high product. -/
  | vmulhnVv (c : Bool) (p : PReg) (d a b : VReg)
  /-- VMULHN_VX (R198): Unsigned high product with a scalar. -/
  | vmulhnVx (c : Bool) (p : PReg) (d : VReg) (a : SReg) (b : VReg)
  /-- VMULHN_VI (R198): Unsigned high product with an immediate. -/
  | vmulhnVi (c : Bool) (p : PReg) (d : VReg) (i : BitVec 5) (b : VReg)
  /-- VMADD_VV (R198): Elementwise x*y plus the old destination. -/
  | vmaddVv (c : Bool) (p : PReg) (d a b : VReg)
  /-- VMADD_VX (R198): Scalar times y plus the old destination. -/
  | vmaddVx (c : Bool) (p : PReg) (d : VReg) (a : SReg) (b : VReg)
  /-- VMADD_VI (R198): Immediate times y plus the old destination. -/
  | vmaddVi (c : Bool) (p : PReg) (d : VReg) (i : BitVec 5) (b : VReg)
  /-- VDIV_VV (R198): Elementwise signed divide. -/
  | vdivVv (c : Bool) (p : PReg) (d a b : VReg)
  /-- VDIV_VX (R198): Signed divide of a scalar by y. -/
  | vdivVx (c : Bool) (p : PReg) (d : VReg) (a : SReg) (b : VReg)
  /-- VDIV_VI (R198): Signed divide of an immediate by y. -/
  | vdivVi (c : Bool) (p : PReg) (d : VReg) (i : BitVec 5) (b : VReg)
  /-- VDIVN_VV (R198): Elementwise unsigned divide. -/
  | vdivnVv (c : Bool) (p : PReg) (d a b : VReg)
  /-- VDIVN_VX (R198): Unsigned divide of a scalar by y. -/
  | vdivnVx (c : Bool) (p : PReg) (d : VReg) (a : SReg) (b : VReg)
  /-- VDIVN_VI (R198): Unsigned divide of an immediate by y. -/
  | vdivnVi (c : Bool) (p : PReg) (d : VReg) (i : BitVec 5) (b : VReg)
  /-- VREM_VV (R198): Elementwise signed remainder. -/
  | vremVv (c : Bool) (p : PReg) (d a b : VReg)
  /-- VREM_VX (R198): Signed remainder of a scalar by y. -/
  | vremVx (c : Bool) (p : PReg) (d : VReg) (a : SReg) (b : VReg)
  /-- VREM_VI (R198): Signed remainder of an immediate by y. -/
  | vremVi (c : Bool) (p : PReg) (d : VReg) (i : BitVec 5) (b : VReg)
  /-- VREMN_VV (R198): Elementwise unsigned remainder. -/
  | vremnVv (c : Bool) (p : PReg) (d a b : VReg)
  /-- VREMN_VX (R198): Unsigned remainder of a scalar by y. -/
  | vremnVx (c : Bool) (p : PReg) (d : VReg) (a : SReg) (b : VReg)
  /-- VREMN_VI (R198): Unsigned remainder of an immediate by y. -/
  | vremnVi (c : Bool) (p : PReg) (d : VReg) (i : BitVec 5) (b : VReg)
  /-- VAND_VV (R198): Elementwise bitwise AND. -/
  | vandVv (c : Bool) (p : PReg) (d a b : VReg)
  /-- VAND_VX (R198): Bitwise AND with a scalar. -/
  | vandVx (c : Bool) (p : PReg) (d : VReg) (a : SReg) (b : VReg)
  /-- VAND_VI (R198): Bitwise AND with an immediate. -/
  | vandVi (c : Bool) (p : PReg) (d : VReg) (i : BitVec 5) (b : VReg)
  /-- VOR_VV (R198): Elementwise bitwise OR. -/
  | vorVv (c : Bool) (p : PReg) (d a b : VReg)
  /-- VOR_VX (R198): Bitwise OR with a scalar. -/
  | vorVx (c : Bool) (p : PReg) (d : VReg) (a : SReg) (b : VReg)
  /-- VOR_VI (R198): Bitwise OR with an immediate. -/
  | vorVi (c : Bool) (p : PReg) (d : VReg) (i : BitVec 5) (b : VReg)
  /-- VXOR_VV (R198): Elementwise bitwise XOR. -/
  | vxorVv (c : Bool) (p : PReg) (d a b : VReg)
  /-- VXOR_VX (R198): Bitwise XOR with a scalar. -/
  | vxorVx (c : Bool) (p : PReg) (d : VReg) (a : SReg) (b : VReg)
  /-- VXOR_VI (R198): Bitwise XOR with an immediate. -/
  | vxorVi (c : Bool) (p : PReg) (d : VReg) (i : BitVec 5) (b : VReg)
  /-- VSHL_VV (R198): Shifts y left by x mod w. -/
  | vshlVv (c : Bool) (p : PReg) (d a b : VReg)
  /-- VSHL_VX (R198): Shifts y left by a scalar amount. -/
  | vshlVx (c : Bool) (p : PReg) (d : VReg) (a : SReg) (b : VReg)
  /-- VSHL_VI (R198): Shifts y left by an unsigned immediate. -/
  | vshlVi (c : Bool) (p : PReg) (d : VReg) (i : BitVec 5) (b : VReg)
  /-- VSHR_VV (R198): Shifts y right logically by x mod w. -/
  | vshrVv (c : Bool) (p : PReg) (d a b : VReg)
  /-- VSHR_VX (R198): Logical right shift by a scalar amount. -/
  | vshrVx (c : Bool) (p : PReg) (d : VReg) (a : SReg) (b : VReg)
  /-- VSHR_VI (R198): Logical right shift by an immediate. -/
  | vshrVi (c : Bool) (p : PReg) (d : VReg) (i : BitVec 5) (b : VReg)
  /-- VSAR_VV (R198): Shifts y right arithmetically by x mod w. -/
  | vsarVv (c : Bool) (p : PReg) (d a b : VReg)
  /-- VSAR_VX (R198): Arithmetic right shift by a scalar amount. -/
  | vsarVx (c : Bool) (p : PReg) (d : VReg) (a : SReg) (b : VReg)
  /-- VSAR_VI (R198): Arithmetic right shift by an immediate. -/
  | vsarVi (c : Bool) (p : PReg) (d : VReg) (i : BitVec 5) (b : VReg)
  /-- VMIN_VV (R198): Elementwise signed minimum. -/
  | vminVv (c : Bool) (p : PReg) (d a b : VReg)
  /-- VMIN_VX (R198): Signed minimum with a scalar. -/
  | vminVx (c : Bool) (p : PReg) (d : VReg) (a : SReg) (b : VReg)
  /-- VMIN_VI (R198): Signed minimum with an immediate. -/
  | vminVi (c : Bool) (p : PReg) (d : VReg) (i : BitVec 5) (b : VReg)
  /-- VMAX_VV (R198): Elementwise signed maximum. -/
  | vmaxVv (c : Bool) (p : PReg) (d a b : VReg)
  /-- VMAX_VX (R198): Signed maximum with a scalar. -/
  | vmaxVx (c : Bool) (p : PReg) (d : VReg) (a : SReg) (b : VReg)
  /-- VMAX_VI (R198): Signed maximum with an immediate. -/
  | vmaxVi (c : Bool) (p : PReg) (d : VReg) (i : BitVec 5) (b : VReg)
  /-- VMINN_VV (R198): Elementwise unsigned minimum. -/
  | vminnVv (c : Bool) (p : PReg) (d a b : VReg)
  /-- VMINN_VX (R198): Unsigned minimum with a scalar. -/
  | vminnVx (c : Bool) (p : PReg) (d : VReg) (a : SReg) (b : VReg)
  /-- VMINN_VI (R198): Unsigned minimum with an immediate. -/
  | vminnVi (c : Bool) (p : PReg) (d : VReg) (i : BitVec 5) (b : VReg)
  /-- VMAXN_VV (R198): Elementwise unsigned maximum. -/
  | vmaxnVv (c : Bool) (p : PReg) (d a b : VReg)
  /-- VMAXN_VX (R198): Unsigned maximum with a scalar. -/
  | vmaxnVx (c : Bool) (p : PReg) (d : VReg) (a : SReg) (b : VReg)
  /-- VMAXN_VI (R198): Unsigned maximum with an immediate. -/
  | vmaxnVi (c : Bool) (p : PReg) (d : VReg) (i : BitVec 5) (b : VReg)
  /-- VSADD_VV (R198): Elementwise signed saturating add. -/
  | vsaddVv (c : Bool) (p : PReg) (d a b : VReg)
  /-- VSADD_VX (R198): Signed saturating add of a scalar. -/
  | vsaddVx (c : Bool) (p : PReg) (d : VReg) (a : SReg) (b : VReg)
  /-- VSADD_VI (R198): Signed saturating add of an immediate. -/
  | vsaddVi (c : Bool) (p : PReg) (d : VReg) (i : BitVec 5) (b : VReg)
  /-- VSSUB_VV (R198): Elementwise signed saturating subtract. -/
  | vssubVv (c : Bool) (p : PReg) (d a b : VReg)
  /-- VSSUB_VX (R198): Signed saturating subtract with a scalar. -/
  | vssubVx (c : Bool) (p : PReg) (d : VReg) (a : SReg) (b : VReg)
  /-- VSSUB_VI (R198): Signed saturating subtract with an immediate. -/
  | vssubVi (c : Bool) (p : PReg) (d : VReg) (i : BitVec 5) (b : VReg)
  /-- VSADDN_VV (R198): Elementwise unsigned saturating add. -/
  | vsaddnVv (c : Bool) (p : PReg) (d a b : VReg)
  /-- VSADDN_VX (R198): Unsigned saturating add of a scalar. -/
  | vsaddnVx (c : Bool) (p : PReg) (d : VReg) (a : SReg) (b : VReg)
  /-- VSADDN_VI (R198): Unsigned saturating add of an immediate. -/
  | vsaddnVi (c : Bool) (p : PReg) (d : VReg) (i : BitVec 5) (b : VReg)
  /-- VSSUBN_VV (R198): Elementwise unsigned saturating subtract. -/
  | vssubnVv (c : Bool) (p : PReg) (d a b : VReg)
  /-- VSSUBN_VX (R198): Unsigned saturating subtract with a scalar. -/
  | vssubnVx (c : Bool) (p : PReg) (d : VReg) (a : SReg) (b : VReg)
  /-- VSSUBN_VI (R198): Unsigned saturating subtract with an immediate. -/
  | vssubnVi (c : Bool) (p : PReg) (d : VReg) (i : BitVec 5) (b : VReg)
  /-- VABSD_VV (R198): Elementwise absolute difference. -/
  | vabsdVv (c : Bool) (p : PReg) (d a b : VReg)
  /-- VABSD_VX (R198): Absolute difference with a scalar. -/
  | vabsdVx (c : Bool) (p : PReg) (d : VReg) (a : SReg) (b : VReg)
  /-- VABSD_VI (R198): Absolute difference with an immediate. -/
  | vabsdVi (c : Bool) (p : PReg) (d : VReg) (i : BitVec 5) (b : VReg)
  /-- VMERGE_VV (R198): Writes x where the guard is 1 and y where it is 0, for every element. -/
  | vmergeVv (c : Bool) (p : PReg) (d a b : VReg)
  /-- VMERGE_VX (R198): Merges a scalar and y under the guard. -/
  | vmergeVx (c : Bool) (p : PReg) (d : VReg) (a : SReg) (b : VReg)
  /-- VMERGE_VI (R198): Merges an immediate and y under the guard. -/
  | vmergeVi (c : Bool) (p : PReg) (d : VReg) (i : BitVec 5) (b : VReg)
  /-- VMOV_VV (R198): Copies vector x into the active elements. -/
  | vmovVv (c : Bool) (p : PReg) (d a : VReg)
  /-- VMOV_VX (R198): Broadcasts a scalar into the active elements. -/
  | vmovVx (c : Bool) (p : PReg) (d : VReg) (a : SReg)
  /-- VMOV_VI (R198): Broadcasts an immediate into the active elements. -/
  | vmovVi (c : Bool) (p : PReg) (d : VReg) (i : BitVec 5)
  /-- VFADD_VV (R199): Elementwise floating-point add. -/
  | vfaddVv (c : Bool) (p : PReg) (d a b : VReg)
  /-- VFADD_VX (R199): Floating-point add of a scalar. -/
  | vfaddVx (c : Bool) (p : PReg) (d : VReg) (a : SReg) (b : VReg)
  /-- VFSUB_VV (R199): Elementwise floating-point subtract. -/
  | vfsubVv (c : Bool) (p : PReg) (d a b : VReg)
  /-- VFSUB_VX (R199): Floating-point subtract with a scalar. -/
  | vfsubVx (c : Bool) (p : PReg) (d : VReg) (a : SReg) (b : VReg)
  /-- VFMUL_VV (R199): Elementwise floating-point multiply, under VTYPE.SL for F64. -/
  | vfmulVv (c : Bool) (p : PReg) (d a b : VReg)
  /-- VFMUL_VX (R199): Floating-point multiply by a scalar. -/
  | vfmulVx (c : Bool) (p : PReg) (d : VReg) (a : SReg) (b : VReg)
  /-- VFDIV_VV (R199): Elementwise floating-point divide. -/
  | vfdivVv (c : Bool) (p : PReg) (d a b : VReg)
  /-- VFDIV_VX (R199): Floating-point divide of a scalar by y. -/
  | vfdivVx (c : Bool) (p : PReg) (d : VReg) (a : SReg) (b : VReg)
  /-- VFSQRT (R199): Elementwise floating-point square root of y. -/
  | vfsqrt (c : Bool) (p : PReg) (d b : VReg)
  /-- VFMA_VV (R199): Elementwise x*y plus the old destination, one rounding. -/
  | vfmaVv (c : Bool) (p : PReg) (d a b : VReg)
  /-- VFMA_VX (R199): Fused scalar times y plus the destination. -/
  | vfmaVx (c : Bool) (p : PReg) (d : VReg) (a : SReg) (b : VReg)
  /-- VFMS_VV (R199): Elementwise x*y minus the old destination. -/
  | vfmsVv (c : Bool) (p : PReg) (d a b : VReg)
  /-- VFMS_VX (R199): Fused scalar times y minus the destination. -/
  | vfmsVx (c : Bool) (p : PReg) (d : VReg) (a : SReg) (b : VReg)
  /-- VFNMA_VV (R199): Elementwise -(x*y) plus the old destination. -/
  | vfnmaVv (c : Bool) (p : PReg) (d a b : VReg)
  /-- VFNMA_VX (R199): Fused -(scalar*y) plus the destination. -/
  | vfnmaVx (c : Bool) (p : PReg) (d : VReg) (a : SReg) (b : VReg)
  /-- VFMIN_VV (R199): Elementwise minimumNumber. -/
  | vfminVv (c : Bool) (p : PReg) (d a b : VReg)
  /-- VFMIN_VX (R199): minimumNumber with a scalar. -/
  | vfminVx (c : Bool) (p : PReg) (d : VReg) (a : SReg) (b : VReg)
  /-- VFMAX_VV (R199): Elementwise maximumNumber. -/
  | vfmaxVv (c : Bool) (p : PReg) (d a b : VReg)
  /-- VFMAX_VX (R199): maximumNumber with a scalar. -/
  | vfmaxVx (c : Bool) (p : PReg) (d : VReg) (a : SReg) (b : VReg)
  /-- VFABS (R199): Elementwise absolute value of y, exact. -/
  | vfabs (c : Bool) (p : PReg) (d b : VReg)
  /-- VFNEG (R199): Elementwise negation of y, exact. -/
  | vfneg (c : Bool) (p : PReg) (d b : VReg)
  /-- VFRCP (R201): Elementwise F32 reciprocal by table and polynomial. -/
  | vfrcp (c : Bool) (p : PReg) (d b : VReg)
  /-- VFRSQ (R202): Elementwise F32 reciprocal square root. -/
  | vfrsq (c : Bool) (p : PReg) (d b : VReg)
  /-- VFEXP2 (R203): Elementwise F32 power of two. -/
  | vfexp2 (c : Bool) (p : PReg) (d b : VReg)
  /-- VFLOG2 (R204): Elementwise F32 base-2 logarithm. -/
  | vflog2 (c : Bool) (p : PReg) (d b : VReg)
  /-- VFCLASS (R199): Writes the FCLASS mask of each element of y. -/
  | vfclass (c : Bool) (p : PReg) (d b : VReg)
  /-- VCMP_EQ (R206): Writes x == y of each active element to a predicate. -/
  | vcmpEq (c : Bool) (p : PReg) (s : Bool) (q : PReg) (a : Fin 32) (b : VReg) (n : Bool)
  /-- VCMP_NE (R206): Writes x != y to a predicate. -/
  | vcmpNe (c : Bool) (p : PReg) (s : Bool) (q : PReg) (a : Fin 32) (b : VReg) (n : Bool)
  /-- VCMP_LT (R206): Writes x < y to a predicate. -/
  | vcmpLt (c : Bool) (p : PReg) (s : Bool) (q : PReg) (a : Fin 32) (b : VReg) (n : Bool)
  /-- VCMP_LE (R206): Writes x <= y to a predicate. -/
  | vcmpLe (c : Bool) (p : PReg) (s : Bool) (q : PReg) (a : Fin 32) (b : VReg) (n : Bool)
  /-- VCMP_GT (R206): Writes x > y to a predicate. -/
  | vcmpGt (c : Bool) (p : PReg) (s : Bool) (q : PReg) (a : Fin 32) (b : VReg) (n : Bool)
  /-- VCMP_GE (R206): Writes x >= y to a predicate. -/
  | vcmpGe (c : Bool) (p : PReg) (s : Bool) (q : PReg) (a : Fin 32) (b : VReg) (n : Bool)
  /-- VCMPX_EQ (R207): Exit-on-compare: stops at the first true EQ and sets XSTOP. -/
  | vcmpxEq (c : Bool) (p : PReg) (s : Bool) (q : PReg) (a : Fin 32) (b : VReg) (n : Bool)
  /-- VCMPX_NE (R207): Exit-on-compare for NE. -/
  | vcmpxNe (c : Bool) (p : PReg) (s : Bool) (q : PReg) (a : Fin 32) (b : VReg) (n : Bool)
  /-- VCMPX_LT (R207): Exit-on-compare for LT. -/
  | vcmpxLt (c : Bool) (p : PReg) (s : Bool) (q : PReg) (a : Fin 32) (b : VReg) (n : Bool)
  /-- VCMPX_LE (R207): Exit-on-compare for LE. -/
  | vcmpxLe (c : Bool) (p : PReg) (s : Bool) (q : PReg) (a : Fin 32) (b : VReg) (n : Bool)
  /-- VCMPX_GT (R207): Exit-on-compare for GT. -/
  | vcmpxGt (c : Bool) (p : PReg) (s : Bool) (q : PReg) (a : Fin 32) (b : VReg) (n : Bool)
  /-- VCMPX_GE (R207): Exit-on-compare for GE. -/
  | vcmpxGe (c : Bool) (p : PReg) (s : Bool) (q : PReg) (a : Fin 32) (b : VReg) (n : Bool)
  /-- PAND (R209): Predicate AND over the active elements. -/
  | pand (c : Bool) (p d a b : PReg)
  /-- POR (R209): Predicate OR. -/
  | por (c : Bool) (p d a b : PReg)
  /-- PXOR (R209): Predicate XOR. -/
  | pxor (c : Bool) (p d a b : PReg)
  /-- PANDN (R209): Predicate pa AND NOT pb. -/
  | pandn (c : Bool) (p d a b : PReg)
  /-- PNOT (R209): Predicate NOT of pb. -/
  | pnot (c : Bool) (p d b : PReg)
  /-- PMOV (R209): Copies pb into pd over the active elements. -/
  | pmov (c : Bool) (p d b : PReg)
  /-- PSET (R209): Sets pd over the active elements. -/
  | pset (c : Bool) (p d : PReg)
  /-- PSBF (R210): Sets pd before the first set bit of pb. -/
  | psbf (c : Bool) (p d b : PReg)
  /-- PSIF (R210): Sets pd up to and including the first set bit of pb. -/
  | psif (c : Bool) (p d b : PReg)
  /-- PSOF (R210): Sets pd only at the first set bit of pb. -/
  | psof (c : Bool) (p d b : PReg)
  /-- PPOPC (R210): Writes the count of active set bits of pb to a scalar. -/
  | ppopc (c : Bool) (p : PReg) (d : SReg) (b : PReg)
  /-- PFIRST (R210): Writes the index of the first active set bit of pb, or all ones. -/
  | pfirst (c : Bool) (p : PReg) (d : SReg) (b : PReg)
  /-- VRSUM (R211): Tree-ordered sum reduction into a scalar. -/
  | vrsum (c : Bool) (p : PReg) (d a : SReg) (b : VReg)
  /-- VRSUM_O (R211): Sequentially ordered sum reduction into a scalar. -/
  | vrsumO (c : Bool) (p : PReg) (d a : SReg) (b : VReg)
  /-- VRMAX (R211): Signed or floating-point maximum reduction. -/
  | vrmax (c : Bool) (p : PReg) (d a : SReg) (b : VReg)
  /-- VRMIN (R211): Signed or floating-point minimum reduction. -/
  | vrmin (c : Bool) (p : PReg) (d a : SReg) (b : VReg)
  /-- VRMAXN (R211): Unsigned maximum reduction. -/
  | vrmaxn (c : Bool) (p : PReg) (d a : SReg) (b : VReg)
  /-- VRMINN (R211): Unsigned minimum reduction. -/
  | vrminn (c : Bool) (p : PReg) (d a : SReg) (b : VReg)
  /-- VRAND (R211): AND reduction. -/
  | vrand (c : Bool) (p : PReg) (d a : SReg) (b : VReg)
  /-- VROR (R211): OR reduction. -/
  | vror (c : Bool) (p : PReg) (d a : SReg) (b : VReg)
  /-- VRXOR (R211): XOR reduction. -/
  | vrxor (c : Bool) (p : PReg) (d a : SReg) (b : VReg)
  /-- VSLUP (R212): Slides vb up by a scalar amount into vd. -/
  | vslup (c : Bool) (p : PReg) (d : VReg) (a : SReg) (b : VReg)
  /-- VSLDN (R212): Slides vb down by a scalar amount into vd, filling with zero. -/
  | vsldn (c : Bool) (p : PReg) (d : VReg) (a : SReg) (b : VReg)
  /-- VPERM (R212): Permutes vb by an index vector. -/
  | vperm (c : Bool) (p : PReg) (d a b : VReg)
  /-- VCOMP (R212): Compresses the active elements of vb to the front of vd. -/
  | vcomp (c : Bool) (p : PReg) (d b : VReg)
  /-- VXPND (R212): Expands consecutive elements of vb into the active positions of vd. -/
  | vxpnd (c : Bool) (p : PReg) (d b : VReg)
  /-- VMVS (R212): Moves one vector element to a scalar. -/
  | vmvs (c : Bool) (d a : SReg) (b : VReg)
  /-- VMVV (R212): Writes a scalar value into one vector element. -/
  | vmvv (c : Bool) (d : VReg) (a b : SReg)
  /-- VIOTA (R212): Writes running indices into the active elements. -/
  | viota (c : Bool) (p : PReg) (d : VReg)
  /-- VSCAN (R212): Writes a running sum of vb from a scalar initial value. -/
  | vscan (c : Bool) (p : PReg) (d : VReg) (a : SReg) (b : VReg)
  /-- VCVT (R171): Converts each element from the source ETYPE to VTYPE's type with rounding, stochastic and saturate options. -/
  | vcvt (c : Bool) (p : PReg) (d : VReg) (t : ECode) (b : VReg) (o q g : Bool) (r : Fin 4)
  /-- VQADD (R213): Narrow-family add. -/
  | vqadd (c : Bool) (p : PReg) (d a b : VReg)
  /-- VQSUB (R213): Narrow-family subtract. -/
  | vqsub (c : Bool) (p : PReg) (d a b : VReg)
  /-- VQMUL (R213): Narrow-family multiply. -/
  | vqmul (c : Bool) (p : PReg) (d a b : VReg)
  /-- VQMAC (R213): Narrow-family multiply-accumulate. -/
  | vqmac (c : Bool) (p : PReg) (d a b : VReg)
  /-- VQDOT (R214): Writes one I32 dot product per block of 32 Q elements. -/
  | vqdot (c : Bool) (p : PReg) (d a b : VReg)
  /-- VQSHR (R213): Narrow-family rounding right shift. -/
  | vqshr (c : Bool) (p : PReg) (d a b : VReg)
  /-- VSCL_LD (R172): Loads scale bytes into a scale register. -/
  | vsclLd (c : Bool) (k : EReg) (a : SReg)
  /-- VSCL_ST (R172): Stores scale bytes from a scale register. -/
  | vsclSt (c : Bool) (k : EReg) (a : SReg)
  /-- VSCL_FIT (R173): Computes block scales for VTYPE's type from an F32 group. -/
  | vsclFit (c : Bool) (p : PReg) (k : EReg) (b : VReg)
  /-- VSCL_MOV (R172): Copies scale bytes between scale registers. -/
  | vsclMov (c : Bool) (k j : EReg)
  /-- VSETT (R170): Sets VTYPE from a register value and VL as VSETL does. -/
  | vsett (d a b : SReg)
  /-- VSETB (R270): Waits for one element of a copy's prefix and trims VL to the arrived elements. -/
  | vsetb (d : SReg) (n : Bob) (b : SReg)
  /-- VCTX_SV (R226): Saves the vector, predicate and scale state to a vector section. -/
  | vctxSv (a : SReg)
  /-- VCTX_RS (R226): Restores vector state from a section, making it the home section. -/
  | vctxRs (a : SReg)
  /-- MAT_ATT (R235): Attaches the shuttle to the matrix unit with a row request and waits for its share. -/
  | matAtt (d a : SReg)
  /-- MAT_DET (R236): Zeroes the core's tiles, returns its blocks and detaches the shuttle. -/
  | matDet
  /-- MAT_SHP (R237): Checks and writes MSHAPE, zeroing tiles when attached, and returns nt. -/
  | matShp (d a : SReg)
  /-- CPY_MS (R256): Queues a copy from memory or window into the window. -/
  | cpyMs (n : Bob) (a b c : SReg)
  /-- CPY_SM (R256): Queues a copy from the window to memory or window. -/
  | cpySm (n : Bob) (a b c : SReg)
  /-- CPY_MR (R256): Queues a copy from memory into a vector register group. -/
  | cpyMr (n : Bob) (a b c : SReg)
  /-- CPY_RM (R256): Queues a copy from a vector register group to memory. -/
  | cpyRm (n : Bob) (a b c : SReg)
  /-- CPY_RR (R258): Queues a copy into another shuttle's registers on the same loom. -/
  | cpyRr (n : Bob) (a b c : SReg)
  /-- CPY_MM (R256): Queues a memory-to-memory copy, optionally folded. -/
  | cpyMm (n : Bob) (a b c : SReg)
  /-- CPY_GS (R260): Queues a row gather into the window by N32 row numbers. -/
  | cpyGs (n : Bob) (a b c : SReg)
  /-- CPY_LZ (R275): Queues a copy into a reserved landing-zone slot named by a token. -/
  | cpyLz (n : Bob) (a b c : SReg)
  /-- BWAIT (R266): Waits until the bobbin is not BUSY, then acquires its DONE state or traps on FAILED. -/
  | bwait (n : Bob)
  /-- BCHK (R267): Sets a predicate from the bobbin's chunk mask without waiting. -/
  | bchk (d : PReg) (n : Bob) (b : SReg)
  /-- BREL (R268): Waits until the bobbin is not BUSY and makes it IDLE. -/
  | brel (n : Bob)
  /-- BSTAT (R269): Writes a bobbin status word chosen by a selector. -/
  | bstat (d : SReg) (n : Bob) (b : SReg)
  /-- LZ_OPEN (R273): Opens a landing zone of equal slots in the window and returns its name. -/
  | lzOpen (d a b : SReg)
  /-- LZ_CLOSE (R276): Closes a zone, refusing later arrivals and waiting for accepted ones to land. -/
  | lzClose (a : SReg)
  /-- LZ_RESV (R274): Sends a reservation for a slot of declared length and waits for a token or result code. -/
  | lzResv (d a b : SReg)
  /-- LZ_WAIT (R272): Waits until a slot is COMPLETE or TORN and writes its status word, as an acquire. -/
  | lzWait (d a : SReg)
  /-- LZ_FREE (R272): Returns a COMPLETE or TORN slot to FREE. -/
  | lzFree (a : SReg)
  /-- LZ_STAT (R272): Writes a slot status word without waiting. -/
  | lzStat (d a : SReg)
  /-- CTR_ADD (R296): Atomically adds to a local or remote counter as a release, evaluating its waiters. -/
  | ctrAdd (d a b : SReg)
  /-- CTR_RD (R296): Reads a counter's value. -/
  | ctrRd (d a : SReg)
  /-- CTR_SET (R296): Atomically sets a counter as a release and returns the old value. -/
  | ctrSet (d a b : SReg)
  /-- CTR_WAIT (R297): Waits until a local counter meets a threshold, then acquires. -/
  | ctrWait (a b : SReg)
  /-- TRDL_ARM (R300): With the next instruction, posts a treadle capturing that operation for firing on a counter threshold. -/
  | trdlArm (d a b : SReg)
  /-- TRDL_X (R305): Disarms or frees a treadle entry and reports its prior state. -/
  | trdlX (d a : SReg)
  /-- TRDL_STAT (R305): Writes a treadle status word without waiting. -/
  | trdlStat (d a : SReg)
  /-- EQ_POP (R298): Reads a word of the head error-queue entry and optionally removes it. -/
  | eqPop (d b : SReg)
  /-- EQ_CNT (R298): Writes LOST and EQCNT and optionally clears LOST. -/
  | eqCnt (d b : SReg)
  /-- FAB_QUIET (R299): Waits until every earlier posted remote request is acknowledged or recorded, then writes EQCNT. -/
  | fabQuiet (d : SReg)
  /-- OWN_SET (R323): Changes the shuttle's owner at S and returns the old owner or a refusal value. -/
  | ownSet (d a : SReg)
  /-- HARM_RD (R325): Reads an owner's settled harm balance, optionally waiting for the next broadcast. -/
  | harmRd (d a b : SReg)
  /-- DMX_RD (R325): Reads one delay-matrix cell. -/
  | dmxRd (d a b : SReg)
  /-- DMX_AGG (R325): Reads an aggregate of delay-matrix cells over foreign owners. -/
  | dmxAgg (d a b : SReg)
  /-- ENE_RD (R325): Reads an owner's energy counter of one class. -/
  | eneRd (d a b : SReg)
  /-- MOP (R242): Accumulates an outer product of two vector groups into a tile, optionally block-scaled. -/
  | mop (p : PReg) (tl : TReg) (va vb : VReg) (aty bty : ECode) (sc : Bool) (ea eb : EReg)
  /-- MOPS (R243): F64 outer product with split-precision truncation into an F64 tile. -/
  | mops (p : PReg) (tl : TReg) (va vb : VReg) (aty bty : ECode)
  /-- MZERO (R245): Zeroes a tile and clears its poison. -/
  | mzero (tl : TReg)
  /-- MTLD (R246): Loads a whole tile from memory or window with a row stride after a probe. -/
  | mtld (tl : TReg) (sa sb : SReg)
  /-- MTST (R246): Stores a whole tile to memory or window with a row stride after a probe. -/
  | mtst (tl : TReg) (sa sb : SReg)
  /-- MROW (R247): Copies one tile row into a vector group bit for bit. -/
  | mrow (tl : TReg) (va : VReg) (sa : SReg)
  /-- MWROW (R247): Copies a vector group into one tile row bit for bit. -/
  | mwrow (tl : TReg) (va : VReg) (sa : SReg)
  /-- C_ADDI (R149): Compressed add of a 6-bit signed immediate. -/
  | cAddi (r : SReg) (i : BitVec 6)
  /-- C_LI (R149): Compressed load of a 6-bit signed immediate. -/
  | cLi (r : SReg) (i : BitVec 6)
  /-- C_MOV (R149): Compressed register move. -/
  | cMov (r s : SReg)
  /-- C_ADD (R149): Compressed register add. -/
  | cAdd (r s : SReg)
  /-- C_SUB (R149): Compressed register subtract. -/
  | cSub (r s : SReg)
  /-- C_AND (R149): Compressed register AND. -/
  | cAnd (r s : SReg)
  /-- C_SHLI (R149): Compressed left shift by an immediate. -/
  | cShli (r : SReg) (n : BitVec 6)
  /-- C_SHRI (R149): Compressed logical right shift by an immediate. -/
  | cShri (r : SReg) (n : BitVec 6)
  /-- C_LDSP (R149): Compressed 64-bit load from sp plus 8z. -/
  | cLdsp (r : SReg) (o : BitVec 6)
  /-- C_STSP (R149): Compressed 64-bit store to sp plus 8z. -/
  | cStsp (r : SReg) (o : BitVec 6)
  /-- C_BEQZ (R149): Compressed branch if a register is zero. -/
  | cBeqz (r : SReg) (o : BitVec 6)
  /-- C_BNEZ (R149): Compressed branch if a register is non-zero. -/
  | cBnez (r : SReg) (o : BitVec 6)
  /-- C_J (R149): Compressed jump by an 11-bit parcel offset. -/
  | cJ (o : BitVec 11)
  /-- C_JR (R149): Compressed jump to the address in a register. -/
  | cJr (r : SReg)
  /-- C_NOP (R149): Compressed no-operation. -/
  | cNop
  /-- ASYNC_TRAP_ENTRY (R119): A pending asynchronous cause is taken at the next permitted boundary, abandoning a wait. -/
  | asyncTrapEntry
  /-- LAUNCH_WINDOW_WRITE (R23): A 64-byte host write to a launch window slot is checked and enqueued as a launch. -/
  | launchWindowWrite (fn off len data : Nat)
  /-- SHUTTLE_PLACEMENT (R29): Each clock the launch dispatcher grants a candidate and places one shuttle where it fits. -/
  | shuttlePlacement
  /-- SHUTTLE_END (R141): The shuttle's end takes effect once its work has drained, closing zones and freeing its slot. -/
  | shuttleEnd (core slot : Nat)
  /-- LEND_HANDOVER (R33): A parent's wait on a parked child's DONE saves the parent and starts the child in its slot. -/
  | lendHandover (core slot : Nat)
  /-- PREEMPTION (R43): A pre-empted shuttle stops at a common element-group boundary and its state is saved. -/
  | preemption (core slot b : Nat)
  /-- PREEMPT_AFTER_FAIL_TO_FIT (R43): An eligible launch that has failed to fit for 4,096 clocks makes the dispatcher pre-empt a less urgent shuttle. -/
  | preemptAfterFailToFit (part key b : Nat)
  /-- CONVOY_CLOSE_TIMEOUT (R36): A hardware convoy closes after 64 clocks without a vector instruction from its shuttle. -/
  | convoyCloseTimeout (core : Nat)
  /-- LANE_RETURN (R38): After a wait or the last shuttle leaving, the core returns its clusters once its vector units are empty. -/
  | laneReturn (core : Nat)
  /-- EXECUTE_CLUSTER_REQUEST (R38): A vector instruction reaching the execute unit with no cluster held makes a heddle request. -/
  | executeClusterRequest (core slot : Nat)
  /-- HEDDLE_RECLAIM (R39): A marked core gives up its highest cluster at its next element-group boundary to a starved requester. -/
  | heddleReclaim (core : Nat)
  /-- CONVOY_PROBE (R216): The access unit translates and checks every active element of a convoy before any group issues. -/
  | convoyProbe (core slot : Nat)
  /-- ELEMENT_GROUP_COMMIT (R220): An element group of a convoy commits its writes and stores in group order. -/
  | elementGroupCommit (core slot : Nat)
  /-- LOAD_DATA_RETURN (R130): A parked or outstanding scalar access completes with its data and the shuttle becomes ready. -/
  | loadDataReturn (core slot : Nat)
  /-- PAGE_RESPONSE_S1 (R336): A write to PRQ1RESP answers an S1 page request, walking again or faulting. -/
  | pageResponseS1 (fn v : Nat)
  /-- PAGE_RESPONSE_S2 (R336): A write to PRQ2RESP answers a stage-2 request, walking again or giving ACCESS reason 7. -/
  | pageResponseS2 (fn v : Nat)
  /-- INV1_PAGE (R337): A write to INV1 invalidates stage-1 translations of one VA page. -/
  | inv1Page (fn page : Nat) (glob : Bool)
  /-- INV1_ALL (R337): A write to INV1 with the all bit invalidates every stage-1 translation. -/
  | inv1All (fn : Nat) (glob : Bool)
  /-- INV2_PAGE (R337): A write to INV2 invalidates stage-2 translations of one gPA page. -/
  | inv2Page (fn page : Nat) (glob : Bool)
  /-- INV2_ALL (R337): A write to INV2 with the all bit invalidates every stage-2 translation. -/
  | inv2All (fn : Nat) (glob : Bool)
  /-- INVALIDATION_COMPLETE (R217): An invalidation completes once convoys pinning its translations have drained or been pre-empted. -/
  | invalidationComplete (fn : Nat)
  /-- MIGRATION_ACCEPT (R341): The migration unit accepts one page-in, host move or pull request per clock. -/
  | migrationAccept (part gpage : Nat)
  /-- HOST_MIGRATION_REQUEST (R341): The host asks to move an HBM page to host memory, receiving BUSY, DAMPED or acceptance. -/
  | hostMigrationRequest (part gpage ppn : Nat)
  /-- MIGRATION_COPY_COMPLETE (R340): The page copy ends, the leaf is rewritten and parked accesses walk again. -/
  | migrationCopyComplete (part gpage : Nat) (ok : Bool)
  /-- DAMPING_EXPIRY (R341): A migrated page's damping ends 2,500,000 clocks after its migration. -/
  | dampingExpiry (part gpage : Nat)
  /-- COW_GRANULE_COPY (R365): A store meeting COW copies its granule to the checkpoint bank, logs it and then proceeds. -/
  | cowGranuleCopy (part gpage : Nat)
  /-- COPY_COMMAND_START (R251): The copy engine chooses a head command by the harm rule, probes it and issues its requests. -/
  | copyCommandStart (loom : Nat)
  /-- COPY_DATA_ARRIVAL (R263): Arriving copy bytes advance the bobbin's prefix, chunk mask and arrival pointers. -/
  | copyDataArrival (loom key lo n : Nat) (rdata : List (BitVec 8)) (rpois : Nat)
  /-- COPY_DONE (R261): A command's last byte is written or acknowledged and its bobbin becomes DONE. -/
  | copyDone (loom key : Nat)
  /-- COPY_FAILED (R262): A command ends FAILED, stops moving bytes and reports its cause. -/
  | copyFailed (loom key : Nat) (why : CopyEnd) (outcome : Nat)
  /-- LZ_RESV_ARRIVAL (R274): A reservation request reaches the zone's chip and reserves a slot or returns a code. -/
  | lzResvArrival (src tenant name len : Nat)
  /-- LZ_ARRIVAL (R275): A CPY.LZ's first arrival is accepted or refused, and its bytes land in the slot. -/
  | lzArrival (src tenant token len cpctl : Nat) (rdata : List (BitVec 8)) (rpois : Nat)
  /-- LZ_CLOSE_COMPLETE (R276): A closing zone's accepted commands finish landing and the zone number is freed. -/
  | lzCloseComplete (core zone : Nat)
  /-- TREADLE_COMPLETE (R304): A treadle's captured operation completes or fails and the entry becomes FREE or FAILED. -/
  | treadleComplete (idx : Nat) (ok : Bool) (cause outcome : Nat)
  /-- REMOTE_REQUEST_ARRIVAL (R278): A remote request is checked for tenancy and performed by the target's memory unit. -/
  | remoteRequestArrival (src tenant op : Nat) (addrs : FarAddrs) (size : Nat) (data cmp rpois : List Nat)
  /-- REMOTE_REPLY (R281): The reply to a returning remote request completes it or traps REMOTE_LOAD. -/
  | remoteReply (core slot key : Nat) (ok : Bool) (rdata : List (BitVec 8)) (poison cause outcome : Nat)
  /-- REMOTE_ACK (R282): The acknowledgement or failure of a posted remote request ends its outstanding state. -/
  | remoteAck (core slot key : Nat) (ok : Bool) (cause outcome : Nat)
  /-- FLIT_SEND (R289): The fabric injection arbiter sends the next flit on a path, encrypting and buffering it. -/
  | flitSend (load : FlitLoad)
  /-- FLIT_RECEIVE (R289): A received flit is decoded, authenticated and accepted or discarded with a negative acknowledgement. -/
  | flitReceive (chip hdr body tag requests : Nat) (decodes auth : Bool)
  /-- NEGATIVE_ACKNOWLEDGEMENT (R289): A received negative acknowledgement makes the source replay from its retry buffer. -/
  | negativeAcknowledgement (chip seq : Nat)
  /-- ACKNOWLEDGEMENT_TIMER (R289): An idle reverse path sends an acknowledgement flit after 128 flits or 2,500 clocks. -/
  | acknowledgementTimer (chip : Nat)
  /-- RETRY_TIMEOUT (R289): After 25,000 clocks with ACKSEQ unchanged the source replays outstanding flits. -/
  | retryTimeout (chip : Nat)
  /-- REESTABLISHMENT_COMPLETE (R289): A re-established path resumes with its sequence and key state kept. -/
  | reestablishmentComplete (chip : Nat)
  /-- REESTABLISHMENT_TIMEOUT (R289): A path not re-established within 1 ms is declared lost. -/
  | reestablishmentTimeout (chip : Nat)
  /-- REKEY_TIMEOUT (R290): A path with no fresh key 10 ms after its rekey threshold is declared lost. -/
  | rekeyTimeout (chip : Nat)
  /-- LINK_FAILURE (R287): A change in a path's erased set moves it between Normal, Erased, Double-check and Down modes. -/
  | linkFailure (chip : Nat) (erased : Erased)
  /-- GRANT_HASH_COMPARE (R288): Every 64 flits switch chips compare grant hashes and any disagreement stops injection. -/
  | grantHashCompare (agree : Bool)
  /-- RESYNCHRONISATION_COMPLETE (R288): Fabric resynchronisation ends and each path replays from its first unacknowledged flit. -/
  | resynchronisationComplete
  /-- PATH_LOST (R291): Flosil declares a pair of paths lost and in-flight operations end as Table 15-6 states. -/
  | pathLost (chip : Nat) (peer : Bool)
  /-- PATH_KEY_EXCHANGE (R388): Flosil instances exchange signed ephemeral keys and derive path keys. -/
  | pathKeyExchange (chip kslot : Nat) (rekey : Option Nat)
  /-- ARBITER_GRANT (R309): Each clock a harm-weighted arbiter grants the highest-priority contender and charges waiting clocks. -/
  | arbiterGrant (key : Nat) (arrivals : List Arrival) (out : OutputClock)
  /-- SETTLEMENT_PERIOD_END (R315): At each 4,096-clock period end the accounting unit settles H, DM and energy. -/
  | settlementPeriodEnd
  /-- SETTLEMENT_BROADCAST (R315): The settled balances and entitlements take effect at every arbiter 256 clocks after period end. -/
  | settlementBroadcast
  /-- MATRIX_BLOCK_OFFER (R231): The matrix-attach arbiter offers free blocks to attached cores below their request. -/
  | matrixBlockOffer (loom : Nat)
  /-- MATRIX_RECLAIM (R231): A marked holder gives up blocks above F at its next sweep boundary to a core in deficit. -/
  | matrixReclaim (loom : Nat)
  /-- TILE_OPERATION_EXECUTE (R238): The matrix unit executes the next queued tile operation in sweeps. -/
  | tileOperationExecute (core : Nat)
  /-- LANE_RESIDUE_MISMATCH (R360): A residue mismatch stops the convoy, retires the lane and resumes without a trap. -/
  | laneResidueMismatch (core slot lane k : Nat) (array : Bool)
  /-- UNCORRECTABLE_ERROR (R362): An uncorrectable error is handled by the class of state it strikes. -/
  | uncorrectableError (kind a b : Nat)
  /-- ROLLBACK (R367): The struck partition is restored from its checkpoint image and its shuttles placed again. -/
  | rollback (part : Nat)
  /-- CHECKPOINT_PERIOD (R364): The checkpoint period expires and starts a capture. -/
  | checkpointPeriod (part : Nat)
  /-- CHECKPOINT_CAPTURE (R364): The partition is stopped, its image written, COW set and SEQ advanced. -/
  | checkpointCapture (part : Nat)
  /-- FUNCTION_LEVEL_RESET (R357): A function-level reset ends the partition's shuttles, empties its queues and scrubs its regions. -/
  | functionLevelReset (fn : Nat)
  /-- FEQSTAT_READ (R346): A read of FEQSTAT returns and clears the lost count. -/
  | feqstatRead (fn : Nat)
  /-- MODE_WRITE (R353): A write to MODE selects hardware or host-assisted modes unless a launch has been accepted. -/
  | modeWrite (fn v : Nat)
  /-- FEATACC_WRITE (R382): A write to FEATACC stores the value ANDed with FEATADV unless a launch has been accepted. -/
  | feataccWrite (fn : Nat) (hi : Bool) (v : Nat)
  /-- WATCH_WRITE (R348): A write to a WATCH register arms a counter watch, raising at once if already met. -/
  | watchWrite (fn idx v : Nat)
  /-- COALESCE_TIMER (R349): A vector's coalescing timer expires and sends its pending MSI-X message. -/
  | coalesceTimer (fn vec : Nat)
  /-- MSIX_UNMASK (R349): Unmasking a vector sends its message if a coalescing condition holds. -/
  | msixUnmask (fn vec : Nat)
  /-- LOOMS_WRITE (R354): A write to LOOMS adds clean looms or is refused. -/
  | loomsWrite (part v : Nat)
  /-- PCGS_WRITE (R354): A write to PCGS adds clean pseudo-channel groups or is refused. -/
  | pcgsWrite (part v : Nat)
  /-- CSLICE_WRITE (R354): A write to CSLICE sets the counter slice or is refused. -/
  | csliceWrite (part v : Nat)
  /-- TSLICE_WRITE (R354): A write to TSLICE sets the treadle slice or is refused. -/
  | tsliceWrite (part v : Nat)
  /-- IDENT_WRITE (R351): A write to IDENT sets tenant number, remote owner and scope cap, ignoring 0xFFF. -/
  | identWrite (part v : Nat)
  /-- RELEASE (R354): QCMD RELEASE starts removing a loom, group, or counter or treadle entries from a partition. -/
  | release (part v : Nat)
  /-- FORCE (R354): QCMD FORCE closes open zones or disarms treadles of a region being released. -/
  | force (part v : Nat)
  /-- RELEASE_COMPLETE (R354): A pending release finishes, the region leaves the partition and its scrub starts. -/
  | releaseComplete (part : Nat)
  /-- SCRUB_GO (R355): A write of GO starts a PENDING scrub in host-assisted mode. -/
  | scrubGo (r : Nat)
  /-- SCRUB_COMPLETE (R355): A region's scrub reaches its total and the region becomes CLEAN. -/
  | scrubComplete (r : Nat)
  /-- PWRCAP_WRITE (R377): A write to PWRCAP sets the host cap, clamped to 500-3,400 W. -/
  | pwrcapWrite (v : Nat)
  /-- PWRFLOOR_WRITE (R377): A write to PWRFLOOR sets the floor budget, clamped. -/
  | pwrfloorWrite (v : Nat)
  /-- REGISTER_WRITE (R346): A write to a function register without behaviour of its own sets its writable fields. -/
  | registerWrite (bar fn : Nat) (at_ : RegAccess) (v : Nat)
  /-- HOST_CXL_MEM_ACCESS (R102): A host access to device HBM over CXL.mem is performed and becomes visible at CHIP scope. -/
  | hostCxlMemAccess (wr : Bool) (addr size data : Nat)
  /-- IDENT (R384): Mailbox command returning the device identity certificate chain. -/
  | ident (v : Nat)
  /-- QUOTE (R386): Mailbox command returning measurements and state signed with the identity key. -/
  | quote (v : Nat)
  /-- LEASE (R376): Mailbox command delivering a power lease, accepted if its SEQ is new. -/
  | lease (v : Nat)
  /-- KEYLOAD (R389): Mailbox command loading a path key into a retired slot in host-assisted mode. -/
  | keyload (v : Nat)
  /-- FWLOAD (R385): Mailbox command delivering a piece of a firmware image for slot B. -/
  | fwload (v : Nat)
  /-- DOMAIN (R387): Mailbox command setting the chip number and domain identifier and opening the domain gate. -/
  | domain (v : Nat)
  /-- LEASE_EXPIRY (R376): The current lease expires with no newer one and PWRFLOOR applies. -/
  | leaseExpiry
  /-- BUDGET_UPDATE (R375): Every 1,024 clocks Flosil sets each loom's budget cap from the applied budget. -/
  | budgetUpdate (caps : List Nat)
  /-- SENSOR_SAMPLE (R373): Every 1,024 clocks each loom's sensors are sampled and voted. -/
  | sensorSample (therm cur : List Int)
  /-- DROOP_DETECT (R372): The loom's droop detector fires and installs the current signature. -/
  | droopDetect (loom : Nat)
  /-- DROOP_CAP_EXPIRY (R372): The droop cap lapses 4,096 clocks after the last signature match. -/
  | droopCapExpiry (loom : Nat)
  /-- POWER_GOOD (R379): Power-good starts stage 0 and the boot ROM's image verification. -/
  | powerGood (okA okB : Bool) (verA verB : Nat)
  /-- DEVICE_RESET (R379): A device reset restarts start-up at stage 0 and ends every shuttle it holds. -/
  | deviceReset
  /-- STAGE0_COMPLETE (R379): Stage 0 completes and the device holds at the domain gate. -/
  | stage0Complete
  /-- LOOM_PASS (R379): A loom passes its stage-1 checks and sets its bit in BOOTSTAT.LOOMS. -/
  | loomPass (loom : Nat)
  /-- STAGE1_COMPLETE (R379): Stage 1 ends and stage 2 begins, accepting region writes and launches. -/
  | stage1Complete (coef : Nat)
  /-- RATE_BUCKET_REFILL (R352): Every 256 clocks a partition's token bucket gains RATE bytes up to its size, releasing packets that wait at their injection point. -/
  | rateBucketRefill (part : Nat)
  /-- ILLEGAL_ENCODING (R64): A shuttle issues a bit pattern that is not a listed instruction, such as a reserved major or PMAJOR, and traps with ILLEGAL. -/
  | illegalEncoding (len bits reason : Nat)
  /-- MBCMD_DISCARDED (R383): A write to MBCMD while busy, or with an unlisted or unoffered code, is discarded and sets the mailbox state to error with code 1. -/
  | mbcmdDiscarded (v : Nat)
  deriving DecidableEq, Repr

end Sys2Proof
end

