-- ==== Sys2Proof/WellFormed.lean ====
section
/-!
DEFINITION. Sys2Proof/WellFormed.lean: which terms of Instr stand for an instruction that the tables of the spec
list (R51 to R59) and for an event whose arguments lie in the ranges of R11, R19 and R22. The decoder answers
well-formed instructions only; an event of the agenda that is not well-formed changes nothing.
-/
namespace Sys2Proof

/-- The widths of LD (Table 3-2). -/
def loadWidth (w : Nat) : Bool := decide (w < 7)
/-- The widths of ST (Table 3-2). -/
def storeWidth (w : Nat) : Bool := decide (w < 4)
/-- The widths of LDA (Table 3-2). -/
def acqWidth (w : Nat) : Bool := w == 2 || w == 3 || w == 6
/-- The widths of STL (Table 3-2). -/
def relWidth (w : Nat) : Bool := w == 2 || w == 3
/-- The numbers of the control-register map (R107). -/
def cregMapped (r : Nat) : Bool :=
  decide (r ≤ 0x019) || decide (0x100 ≤ r ∧ r ≤ 0x10B) || decide (0x200 ≤ r ∧ r ≤ 0x3FF)
/-- The operand types of MOP (R58). -/
def mopType (t : Nat) : Bool :=
  t == 0x00 || t == 0x04 || decide (0x08 ≤ t ∧ t ≤ 0x0D) || decide (0x10 ≤ t)

/-- The ranges of names on the device: a core (R11), a shuttle slot (R22), a loom (R11), a function or a partition,
16 standing for the physical function and the system set (R25, R345), a chip (R11). -/
def coreOk (n : Nat) : Bool := decide (n < 160)
def slotOk (n : Nat) : Bool := decide (n < 8)
def loomOk (n : Nat) : Bool := decide (n < 40)
def partOk (n : Nat) : Bool := decide (n ≤ 16)
def chipOk (n : Nat) : Bool := decide (n < 144)
/-- A value that one 8-byte register write carries. -/
def wordOk (v : Nat) : Bool := decide (v < 2 ^ 64)

/-- A fabric cause and an outcome of Table 15-1. -/
def fateOk (cause outcome : Nat) : Bool := decide (1 ≤ cause ∧ cause ≤ 6 ∧ outcome ≤ 2)
/-- The arbiters of Table 1-3 whose clocks ARBITER_GRANT makes: L2 slice ports, pseudo-channel queues, router outputs and fabric
injection. R318 leaves at most 518 router outputs. Log entry 72, DEDUCED. -/
def arbiterOk (key : Nat) : Bool :=
  let n := key / 8
  match key % 8 with
  | 0 => decide (n < 640)
  | 1 => decide (n < 768)
  | 2 => decide (n < 518)
  | 3 => n == 0
  | _ => false
/-- A request that may arrive at an arbiter of a kind (R395, R326, R328). -/
def Arrival.wf (kind : Nat) (a : Arrival) : Bool :=
  let inputs := if kind = 0 then 202 else if kind = 1 then 643 else if kind = 3 then 144 else 65536
  decide (a.input < inputs ∧ a.owner < 64 ∧ a.bytes ≤ 256 ∧ a.op < 3) && a.part.all partOk
    && (decide (2 ≤ kind) || decide (a.addr % 2 ^ 44 < 576000000000))

/-- The well-formed instructions and events. -/
def Instr.wf : Instr → Bool
  | .bext _ _ p l => decide (p.toNat + l.toNat + 1 ≤ 64)
  | .bextS _ _ p l => decide (p.toNat + l.toNat + 1 ≤ 64)
  | .bins _ _ p l => decide (p.toNat + l.toNat + 1 ≤ 64)
  | .ld _ _ w _ => loadWidth w.val
  | .st _ _ w _ => storeWidth w.val
  | .lda _ _ w _ => acqWidth w.val
  | .stl _ _ w _ => relWidth w.val
  | .fence s _ => decide (s.val ≤ 4)
  | .crr _ r => cregMapped r.toNat
  | .crw _ _ r => cregMapped r.toNat
  | .crs _ _ r => cregMapped r.toNat
  | .crc _ _ r => cregMapped r.toNat
  | .vcvt _ _ _ t _ o _ _ r => decide (t.val ≠ 15) && (o || decide (r.val = 0))
  | .mop _ _ _ _ aty bty sc ea eb => mopType aty.val && mopType bty.val && (sc || decide (ea.val = 0 ∧ eb.val = 0))
  | .mops _ _ _ _ aty bty => aty.val == 14 && bty.val == 14
  | .cAddi r _ => decide (r.val ≠ 0)
  | .cLi r _ => decide (r.val ≠ 0)
  | .cMov r _ => decide (r.val ≠ 0)
  | .cAdd r _ => decide (r.val ≠ 0)
  | .cSub r _ => decide (r.val ≠ 0)
  | .cAnd r _ => decide (r.val ≠ 0)
  | .cShli r _ => decide (r.val ≠ 0)
  | .cShri r _ => decide (r.val ≠ 0)
  | .cLdsp r _ => decide (r.val ≠ 0)
  | .launchWindowWrite fn off len data => partOk fn && decide (off + len ≤ 4096) && decide (0 < len) && decide (data < 2 ^ (8 * len))
  | .shuttleEnd core slot => coreOk core && slotOk slot
  | .lendHandover core slot => coreOk core && slotOk slot
  | .preemption core slot _ => coreOk core && slotOk slot
  | .preemptAfterFailToFit part _ _ => partOk part
  | .convoyCloseTimeout core => coreOk core
  | .laneReturn core => coreOk core
  | .executeClusterRequest core slot => coreOk core && slotOk slot
  | .heddleReclaim core => coreOk core
  | .convoyProbe core slot => coreOk core && slotOk slot
  | .elementGroupCommit core slot => coreOk core && slotOk slot
  | .loadDataReturn core slot => coreOk core && slotOk slot
  | .pageResponseS1 fn v => partOk fn && wordOk v
  | .pageResponseS2 fn v => partOk fn && wordOk v
  | .inv1Page fn _ _ => partOk fn
  | .inv1All fn _ => partOk fn
  | .inv2Page fn _ _ => partOk fn
  | .inv2All fn _ => partOk fn
  | .invalidationComplete fn => partOk fn
  | .migrationAccept part _ => partOk part
  | .hostMigrationRequest part _ _ => partOk part
  | .migrationCopyComplete part _ _ => partOk part
  | .dampingExpiry part _ => partOk part
  | .cowGranuleCopy part _ => partOk part
  | .copyCommandStart loom => loomOk loom
  | .copyDataArrival loom _ _ _ _ _ => loomOk loom
  | .copyDone loom _ => loomOk loom
  | .copyFailed loom _ why outcome => loomOk loom && chipOk why.peer && decide (why.cause < 32) && decide (outcome < 3)
  | .lzResvArrival src tenant _ _ => chipOk src && decide (tenant < 4096)
  | .lzArrival src tenant _ _ _ _ _ => chipOk src && decide (tenant < 4096)
  | .lzCloseComplete core zone => coreOk core && decide (zone < 16)
  | .treadleComplete _ ok cause outcome => ok || fateOk cause outcome
  | .remoteRequestArrival src tenant _ _ _ _ _ _ => chipOk src && decide (tenant < 4096)
  | .remoteReply core slot _ ok _ _ cause outcome => coreOk core && slotOk slot && (ok || fateOk cause outcome)
  | .remoteAck core slot _ ok cause outcome => coreOk core && slotOk slot && (ok || fateOk cause outcome)
  | .flitSend load => chipOk load.chip && decide (load.blen ≤ 192)
  | .flitReceive chip hdr body tag _ _ _ => chipOk chip && decide (hdr < 2 ^ 128 ∧ body < 2 ^ 1536 ∧ tag < 2 ^ 128)
  | .negativeAcknowledgement chip seq => chipOk chip && decide (seq < 2 ^ 32)
  | .acknowledgementTimer chip => chipOk chip
  | .retryTimeout chip => chipOk chip
  | .reestablishmentComplete chip => chipOk chip
  | .reestablishmentTimeout chip => chipOk chip
  | .rekeyTimeout chip => chipOk chip
  | .linkFailure chip e => chipOk chip && decide (e.dead < 2 ^ 36 ∧ e.own < 2 ^ 36 ∧ e.far < 2 ^ 36)
  | .pathLost chip _ => chipOk chip
  | .pathKeyExchange chip kslot rekey => chipOk chip && decide (kslot < 2) && rekey.all fun n => decide (2 ^ 20 ≤ n ∧ n ≤ 2 ^ 40)
  | .arbiterGrant key arrivals _ => arbiterOk key && arrivals.all (·.wf (key % 8))
  | .matrixBlockOffer loom => loomOk loom
  | .matrixReclaim loom => loomOk loom
  | .tileOperationExecute core => coreOk core
  | .laneResidueMismatch core slot lane _ _ => coreOk core && slotOk slot && decide (lane < 256)
  | .rollback part => partOk part
  | .checkpointPeriod part => partOk part
  | .checkpointCapture part => partOk part
  | .functionLevelReset fn => partOk fn
  | .feqstatRead fn => partOk fn
  | .modeWrite fn v => partOk fn && wordOk v
  | .feataccWrite fn _ v => partOk fn && wordOk v
  | .watchWrite fn idx v => partOk fn && decide (idx < 32) && wordOk v
  | .coalesceTimer fn vec => partOk fn && decide (vec < 64)
  | .msixUnmask fn vec => partOk fn && decide (vec < 64)
  | .loomsWrite part v => partOk part && wordOk v
  | .pcgsWrite part v => partOk part && wordOk v
  | .csliceWrite part v => partOk part && wordOk v
  | .tsliceWrite part v => partOk part && wordOk v
  | .identWrite part v => partOk part && wordOk v
  | .release part v => partOk part && wordOk v
  | .force part v => partOk part && wordOk v
  | .releaseComplete part => partOk part
  | .scrubGo r => decide (r < 40) || decide (64 ≤ r ∧ r < 112)
  | .scrubComplete r => decide (r < 40) || decide (64 ≤ r ∧ r < 112)
  | .pwrcapWrite v => wordOk v
  | .pwrfloorWrite v => wordOk v
  | .registerWrite bar fn at_ v => (bar == 0 || bar == 2 && fn == 16) && partOk fn && decide (v < 2 ^ (8 * at_.size))
  | .hostCxlMemAccess _ addr size data => decide (addr + size ≤ 576000000000) && decide (data < 2 ^ (8 * size))
  | .ident v => wordOk v
  | .quote v => wordOk v
  | .lease v => wordOk v
  | .keyload v => wordOk v
  | .fwload v => wordOk v
  | .domain v => wordOk v
  | .budgetUpdate caps => caps.length == 40 && caps.all (fun c => c % 16 == 0 && decide (16 ≤ c ∧ c ≤ 256))
  | .sensorSample therm cur => therm.length == 40 && cur.length == 40
  | .droopDetect loom => loomOk loom
  | .droopCapExpiry loom => loomOk loom
  | .loomPass loom => loomOk loom
  | .rateBucketRefill part => partOk part
  | .illegalEncoding len bits reason => (len == 2 && decide (bits < 2 ^ 15) || len == 4 && decide (bits / 2 ^ 30 = 2) || len == 8 && decide (bits / 2 ^ 62 = 3)) && decide (1 ≤ reason ∧ reason ≤ 4)
  | .mbcmdDiscarded v => wordOk v
  | _ => true

end Sys2Proof
end

