-- ==== Sys2Proof/Decode.lean ====
section
/-!
DEFINITION. Sys2Proof/Decode.lean: from the parcels of an instruction to a constructor of Instr or the REASON of R65
with which the encoding traps, and the encoder. Both are written from Tables 3-2 to 3-8 and the opcode table. W is
formed from two parcels, the first the more significant (R9); X from four (R48).
-/
namespace Sys2Proof

/-- What the bits of one instruction decode to: an instruction, or an ILLEGAL trap with EINFO.REASON (R65). `spare i`
is the encoding of i but for a field that must be zero: REASON 3, unless i itself would give REASON 2. -/
inductive Dec where
  | ok (i : Instr)
  | spare (i : Instr)
  | bad (reason : Nat)
  deriving DecidableEq, Repr

/-- The field of `n` bits of `w` whose lowest bit is `lo`. -/
def fld (w lo n : Nat) : Nat := w / 2 ^ lo % 2 ^ n

/-- Register fields of five, three and two bits (R51). -/
def r5 (w lo : Nat) : Fin 32 := Fin.ofNat 32 (w / 2 ^ lo)
def r3 (w lo : Nat) : Fin 8 := Fin.ofNat 8 (w / 2 ^ lo)
def r2 (w lo : Nat) : Fin 4 := Fin.ofNat 4 (w / 2 ^ lo)

/-- An immediate field of `n` bits. -/
def im (n w lo : Nat) : BitVec n := BitVec.ofNat n (w / 2 ^ lo)

/-- A field value moved to the place of its lowest bit. -/
def sh (x lo : Nat) : Nat := x * 2 ^ lo

/-- Bit `n` of `w`. -/
def bitAt (w n : Nat) : Bool := fld w n 1 == 1

/-- The instruction, provided the bits that its entry leaves unused or requires to be zero are zero: REASON 3
otherwise (R65). `z` is the sum of those fields. -/
def unused (z : Nat) (i : Instr) : Dec := if z = 0 then .ok i else .spare i

/-- The instruction, provided the values of its listed fields are legal: REASON 2 otherwise (R65). -/
def listed (ok : Bool) (r : Dec) : Dec := if ok then r else .bad 2

/-- Major 0x01. -/
def decSalu (w : Nat) : Dec :=
  match fld w 0 9 with
  | 0 => .ok (.add (r5 w 19) (r5 w 14) (r5 w 9))
  | 1 => .ok (.sub (r5 w 19) (r5 w 14) (r5 w 9))
  | 2 => .ok (.and (r5 w 19) (r5 w 14) (r5 w 9))
  | 3 => .ok (.or (r5 w 19) (r5 w 14) (r5 w 9))
  | 4 => .ok (.xor (r5 w 19) (r5 w 14) (r5 w 9))
  | 5 => .ok (.andn (r5 w 19) (r5 w 14) (r5 w 9))
  | 6 => .ok (.orn (r5 w 19) (r5 w 14) (r5 w 9))
  | 7 => .ok (.shl (r5 w 19) (r5 w 14) (r5 w 9))
  | 8 => .ok (.shr (r5 w 19) (r5 w 14) (r5 w 9))
  | 9 => .ok (.sar (r5 w 19) (r5 w 14) (r5 w 9))
  | 10 => .ok (.rol (r5 w 19) (r5 w 14) (r5 w 9))
  | 11 => .ok (.ror (r5 w 19) (r5 w 14) (r5 w 9))
  | 12 => .ok (.slt (r5 w 19) (r5 w 14) (r5 w 9))
  | 13 => .ok (.sltn (r5 w 19) (r5 w 14) (r5 w 9))
  | 14 => .ok (.min (r5 w 19) (r5 w 14) (r5 w 9))
  | 15 => .ok (.max (r5 w 19) (r5 w 14) (r5 w 9))
  | 16 => .ok (.minn (r5 w 19) (r5 w 14) (r5 w 9))
  | 17 => .ok (.maxn (r5 w 19) (r5 w 14) (r5 w 9))
  | 18 => .ok (.mul (r5 w 19) (r5 w 14) (r5 w 9))
  | 19 => .ok (.mulh (r5 w 19) (r5 w 14) (r5 w 9))
  | 20 => .ok (.mulhn (r5 w 19) (r5 w 14) (r5 w 9))
  | 21 => .ok (.div (r5 w 19) (r5 w 14) (r5 w 9))
  | 22 => .ok (.divn (r5 w 19) (r5 w 14) (r5 w 9))
  | 23 => .ok (.rem (r5 w 19) (r5 w 14) (r5 w 9))
  | 24 => .ok (.remn (r5 w 19) (r5 w 14) (r5 w 9))
  | 25 => unused (fld w 9 5) (.clz (r5 w 19) (r5 w 14))
  | 26 => unused (fld w 9 5) (.ctz (r5 w 19) (r5 w 14))
  | 27 => unused (fld w 9 5) (.popc (r5 w 19) (r5 w 14))
  | 28 => .ok (.sext (r5 w 19) (r5 w 14) (r5 w 9))
  | _ => .bad 2

/-- Major 0x06. -/
def decShifti (w : Nat) : Dec :=
  match fld w 12 2 with
  | 0 => unused (fld w 6 6) (.shli (r5 w 19) (r5 w 14) (im 6 w 0))
  | 1 => unused (fld w 6 6) (.shri (r5 w 19) (r5 w 14) (im 6 w 0))
  | 2 => unused (fld w 6 6) (.sari (r5 w 19) (r5 w 14) (im 6 w 0))
  | _ => .bad 2

/-- Major 0x0B. -/
def decBfld (w : Nat) : Dec :=
  listed (decide (fld w 6 6 + fld w 0 6 + 1 ≤ 64)) <|
  match fld w 12 2 with
  | 0 => .ok (.bext (r5 w 19) (r5 w 14) (im 6 w 6) (im 6 w 0))
  | 1 => .ok (.bextS (r5 w 19) (r5 w 14) (im 6 w 6) (im 6 w 0))
  | 2 => .ok (.bins (r5 w 19) (r5 w 14) (im 6 w 6) (im 6 w 0))
  | _ => .bad 3

/-- Major 0x18. -/
def decJreg (w : Nat) : Dec :=
  match fld w 0 9 with
  | 0 => unused (fld w 9 5 + fld w 19 5) (.jr (r5 w 14))
  | 1 => unused (fld w 9 5) (.callr (r5 w 19) (r5 w 14))
  | _ => .bad 2

/-- Major 0x19. -/
def decAmo (w : Nat) : Dec :=
  match fld w 0 4 with
  | 0 => unused (fld w 7 2) (.amoSwap (r5 w 19) (r5 w 14) (r5 w 9) (r2 w 5) (bitAt w 4))
  | 1 => unused (fld w 7 2) (.amoAdd (r5 w 19) (r5 w 14) (r5 w 9) (r2 w 5) (bitAt w 4))
  | 2 => unused (fld w 7 2) (.amoAnd (r5 w 19) (r5 w 14) (r5 w 9) (r2 w 5) (bitAt w 4))
  | 3 => unused (fld w 7 2) (.amoOr (r5 w 19) (r5 w 14) (r5 w 9) (r2 w 5) (bitAt w 4))
  | 4 => unused (fld w 7 2) (.amoXor (r5 w 19) (r5 w 14) (r5 w 9) (r2 w 5) (bitAt w 4))
  | 5 => unused (fld w 7 2) (.amoMin (r5 w 19) (r5 w 14) (r5 w 9) (r2 w 5) (bitAt w 4))
  | 6 => unused (fld w 7 2) (.amoMax (r5 w 19) (r5 w 14) (r5 w 9) (r2 w 5) (bitAt w 4))
  | 7 => unused (fld w 7 2) (.amoMinn (r5 w 19) (r5 w 14) (r5 w 9) (r2 w 5) (bitAt w 4))
  | 8 => unused (fld w 7 2) (.amoMaxn (r5 w 19) (r5 w 14) (r5 w 9) (r2 w 5) (bitAt w 4))
  | _ => .bad 2

/-- Major 0x1C. -/
def decSys (w : Nat) : Dec :=
  match fld w 0 9 with
  | 0 => unused (fld w 9 5 + fld w 19 5) (.trap (r5 w 14))
  | 1 => unused (fld w 9 15) (.rett)
  | 2 => unused (fld w 9 10) (.ckpt (r5 w 19))
  | 3 => unused (fld w 9 15) (.exit)
  | 4 => unused (fld w 9 15) (.yield)
  | 5 => unused (fld w 9 5 + fld w 19 5) (.sloop (r5 w 14))
  | _ => .bad 2

/-- Major 0x1D. -/
def decCreg (w : Nat) : Dec :=
  listed (cregMapped (fld w 2 12)) <|
  match fld w 0 2 with
  | 0 => unused (fld w 14 5) (.crr (r5 w 19) (im 12 w 2))
  | 1 => .ok (.crw (r5 w 19) (r5 w 14) (im 12 w 2))
  | 2 => .ok (.crs (r5 w 19) (r5 w 14) (im 12 w 2))
  | _ => .ok (.crc (r5 w 19) (r5 w 14) (im 12 w 2))

/-- Major 0x1F. -/
def decLaunch (w : Nat) : Dec :=
  match fld w 0 1 with
  | 0 => unused (fld w 1 13) (.launch (r5 w 19) (r5 w 14))
  | _ => unused (fld w 1 13) (.launchLend (r5 w 19) (r5 w 14))

/-- Major 0x20. -/
def decSfp (w : Nat) : Dec :=
  listed (!bitAt w 8) <|
  match fld w 0 7 with
  | 0 => .ok (.fadd (r5 w 19) (r5 w 14) (r5 w 9) (bitAt w 7))
  | 1 => .ok (.fsub (r5 w 19) (r5 w 14) (r5 w 9) (bitAt w 7))
  | 2 => .ok (.fmul (r5 w 19) (r5 w 14) (r5 w 9) (bitAt w 7))
  | 3 => .ok (.fdiv (r5 w 19) (r5 w 14) (r5 w 9) (bitAt w 7))
  | 4 => unused (fld w 8 6) (.fsqrt (r5 w 19) (r5 w 14) (bitAt w 7))
  | 5 => .ok (.fmin (r5 w 19) (r5 w 14) (r5 w 9) (bitAt w 7))
  | 6 => .ok (.fmax (r5 w 19) (r5 w 14) (r5 w 9) (bitAt w 7))
  | 7 => .ok (.fcmpEq (r5 w 19) (r5 w 14) (r5 w 9) (bitAt w 7))
  | 8 => .ok (.fcmpLt (r5 w 19) (r5 w 14) (r5 w 9) (bitAt w 7))
  | 9 => .ok (.fcmpLe (r5 w 19) (r5 w 14) (r5 w 9) (bitAt w 7))
  | 10 => unused (fld w 8 6) (.fclass (r5 w 19) (r5 w 14) (bitAt w 7))
  | 11 => unused (fld w 8 6) (.fcvtF (r5 w 19) (r5 w 14) (bitAt w 7))
  | 12 => unused (fld w 8 6) (.fcvtI64 (r5 w 19) (r5 w 14) (bitAt w 7))
  | 13 => unused (fld w 8 6) (.fcvtN64 (r5 w 19) (r5 w 14) (bitAt w 7))
  | 14 => unused (fld w 8 6) (.fcvtFi (r5 w 19) (r5 w 14) (bitAt w 7))
  | 15 => unused (fld w 8 6) (.fcvtFn (r5 w 19) (r5 w 14) (bitAt w 7))
  | _ => .bad 2

/-- Major 0x21. -/
def decSfma (w : Nat) : Dec :=
  match fld w 0 2 with
  | 0 => unused (fld w 3 1) (.fma (r5 w 19) (r5 w 14) (r5 w 9) (r5 w 4) (bitAt w 2))
  | 1 => unused (fld w 3 1) (.fms (r5 w 19) (r5 w 14) (r5 w 9) (r5 w 4) (bitAt w 2))
  | 2 => unused (fld w 3 1) (.fnma (r5 w 19) (r5 w 14) (r5 w 9) (r5 w 4) (bitAt w 2))
  | _ => unused (fld w 3 1) (.fnms (r5 w 19) (r5 w 14) (r5 w 9) (r5 w 4) (bitAt w 2))

/-- Major 0x29. -/
def decVld (w : Nat) : Dec :=
  match fld w 0 3 with
  | 0 => unused (fld w 4 6) (.vld (bitAt w 23) (r3 w 20) (r5 w 15) (r5 w 10) (bitAt w 3))
  | 1 => unused (fld w 4 1) (.vldS (bitAt w 23) (r3 w 20) (r5 w 15) (r5 w 10) (r5 w 5) (bitAt w 3))
  | 2 => unused (fld w 4 1) (.vldX (bitAt w 23) (r3 w 20) (r5 w 15) (r5 w 10) (r5 w 5) (bitAt w 3))
  | 3 => unused (fld w 4 6) (.vldFf (bitAt w 23) (r3 w 20) (r5 w 15) (r5 w 10) (bitAt w 3))
  | 4 => unused (fld w 4 1) (.vldP (bitAt w 23) (r3 w 20) (r5 w 15) (r5 w 10) (r5 w 5) (bitAt w 3))
  | _ => .bad 2

/-- Major 0x2A. -/
def decVst (w : Nat) : Dec :=
  match fld w 0 3 with
  | 0 => unused (fld w 4 6) (.vst (bitAt w 23) (r3 w 20) (r5 w 15) (r5 w 10) (bitAt w 3))
  | 1 => unused (fld w 4 1) (.vstS (bitAt w 23) (r3 w 20) (r5 w 15) (r5 w 10) (r5 w 5) (bitAt w 3))
  | 2 => unused (fld w 4 1) (.vstX (bitAt w 23) (r3 w 20) (r5 w 15) (r5 w 10) (r5 w 5) (bitAt w 3))
  | 3 => unused (fld w 4 1) (.vstXo (bitAt w 23) (r3 w 20) (r5 w 15) (r5 w 10) (r5 w 5) (bitAt w 3))
  | 4 => unused (fld w 4 1) (.vstP (bitAt w 23) (r3 w 20) (r5 w 15) (r5 w 10) (r5 w 5) (bitAt w 3))
  | _ => .bad 2

/-- Major 0x2B. -/
def decVamo (w : Nat) : Dec :=
  match fld w 0 4 with
  | 0 => .ok (.vamoSwap (bitAt w 23) (r3 w 20) (r5 w 15) (r5 w 10) (r5 w 5) (bitAt w 4))
  | 1 => .ok (.vamoAdd (bitAt w 23) (r3 w 20) (r5 w 15) (r5 w 10) (r5 w 5) (bitAt w 4))
  | 2 => .ok (.vamoAnd (bitAt w 23) (r3 w 20) (r5 w 15) (r5 w 10) (r5 w 5) (bitAt w 4))
  | 3 => .ok (.vamoOr (bitAt w 23) (r3 w 20) (r5 w 15) (r5 w 10) (r5 w 5) (bitAt w 4))
  | 4 => .ok (.vamoXor (bitAt w 23) (r3 w 20) (r5 w 15) (r5 w 10) (r5 w 5) (bitAt w 4))
  | 5 => .ok (.vamoMin (bitAt w 23) (r3 w 20) (r5 w 15) (r5 w 10) (r5 w 5) (bitAt w 4))
  | 6 => .ok (.vamoMax (bitAt w 23) (r3 w 20) (r5 w 15) (r5 w 10) (r5 w 5) (bitAt w 4))
  | 7 => .ok (.vamoMinn (bitAt w 23) (r3 w 20) (r5 w 15) (r5 w 10) (r5 w 5) (bitAt w 4))
  | 8 => .ok (.vamoMaxn (bitAt w 23) (r3 w 20) (r5 w 15) (r5 w 10) (r5 w 5) (bitAt w 4))
  | _ => .bad 2

/-- Major 0x2C. -/
def decVintVV (w : Nat) : Dec :=
  match fld w 0 5 with
  | 0 => .ok (.vaddVv (bitAt w 23) (r3 w 20) (r5 w 15) (r5 w 10) (r5 w 5))
  | 1 => .ok (.vsubVv (bitAt w 23) (r3 w 20) (r5 w 15) (r5 w 10) (r5 w 5))
  | 2 => .ok (.vrsubVv (bitAt w 23) (r3 w 20) (r5 w 15) (r5 w 10) (r5 w 5))
  | 3 => .ok (.vmulVv (bitAt w 23) (r3 w 20) (r5 w 15) (r5 w 10) (r5 w 5))
  | 4 => .ok (.vmulhVv (bitAt w 23) (r3 w 20) (r5 w 15) (r5 w 10) (r5 w 5))
  | 5 => .ok (.vmulhnVv (bitAt w 23) (r3 w 20) (r5 w 15) (r5 w 10) (r5 w 5))
  | 6 => .ok (.vmaddVv (bitAt w 23) (r3 w 20) (r5 w 15) (r5 w 10) (r5 w 5))
  | 7 => .ok (.vdivVv (bitAt w 23) (r3 w 20) (r5 w 15) (r5 w 10) (r5 w 5))
  | 8 => .ok (.vdivnVv (bitAt w 23) (r3 w 20) (r5 w 15) (r5 w 10) (r5 w 5))
  | 9 => .ok (.vremVv (bitAt w 23) (r3 w 20) (r5 w 15) (r5 w 10) (r5 w 5))
  | 10 => .ok (.vremnVv (bitAt w 23) (r3 w 20) (r5 w 15) (r5 w 10) (r5 w 5))
  | 11 => .ok (.vandVv (bitAt w 23) (r3 w 20) (r5 w 15) (r5 w 10) (r5 w 5))
  | 12 => .ok (.vorVv (bitAt w 23) (r3 w 20) (r5 w 15) (r5 w 10) (r5 w 5))
  | 13 => .ok (.vxorVv (bitAt w 23) (r3 w 20) (r5 w 15) (r5 w 10) (r5 w 5))
  | 14 => .ok (.vshlVv (bitAt w 23) (r3 w 20) (r5 w 15) (r5 w 10) (r5 w 5))
  | 15 => .ok (.vshrVv (bitAt w 23) (r3 w 20) (r5 w 15) (r5 w 10) (r5 w 5))
  | 16 => .ok (.vsarVv (bitAt w 23) (r3 w 20) (r5 w 15) (r5 w 10) (r5 w 5))
  | 17 => .ok (.vminVv (bitAt w 23) (r3 w 20) (r5 w 15) (r5 w 10) (r5 w 5))
  | 18 => .ok (.vmaxVv (bitAt w 23) (r3 w 20) (r5 w 15) (r5 w 10) (r5 w 5))
  | 19 => .ok (.vminnVv (bitAt w 23) (r3 w 20) (r5 w 15) (r5 w 10) (r5 w 5))
  | 20 => .ok (.vmaxnVv (bitAt w 23) (r3 w 20) (r5 w 15) (r5 w 10) (r5 w 5))
  | 21 => .ok (.vsaddVv (bitAt w 23) (r3 w 20) (r5 w 15) (r5 w 10) (r5 w 5))
  | 22 => .ok (.vssubVv (bitAt w 23) (r3 w 20) (r5 w 15) (r5 w 10) (r5 w 5))
  | 23 => .ok (.vsaddnVv (bitAt w 23) (r3 w 20) (r5 w 15) (r5 w 10) (r5 w 5))
  | 24 => .ok (.vssubnVv (bitAt w 23) (r3 w 20) (r5 w 15) (r5 w 10) (r5 w 5))
  | 25 => .ok (.vabsdVv (bitAt w 23) (r3 w 20) (r5 w 15) (r5 w 10) (r5 w 5))
  | 26 => .ok (.vmergeVv (bitAt w 23) (r3 w 20) (r5 w 15) (r5 w 10) (r5 w 5))
  | 27 => unused (fld w 5 5) (.vmovVv (bitAt w 23) (r3 w 20) (r5 w 15) (r5 w 10))
  | _ => .bad 2

/-- Major 0x2D. -/
def decVintVX (w : Nat) : Dec :=
  match fld w 0 5 with
  | 0 => .ok (.vaddVx (bitAt w 23) (r3 w 20) (r5 w 15) (r5 w 10) (r5 w 5))
  | 1 => .ok (.vsubVx (bitAt w 23) (r3 w 20) (r5 w 15) (r5 w 10) (r5 w 5))
  | 2 => .ok (.vrsubVx (bitAt w 23) (r3 w 20) (r5 w 15) (r5 w 10) (r5 w 5))
  | 3 => .ok (.vmulVx (bitAt w 23) (r3 w 20) (r5 w 15) (r5 w 10) (r5 w 5))
  | 4 => .ok (.vmulhVx (bitAt w 23) (r3 w 20) (r5 w 15) (r5 w 10) (r5 w 5))
  | 5 => .ok (.vmulhnVx (bitAt w 23) (r3 w 20) (r5 w 15) (r5 w 10) (r5 w 5))
  | 6 => .ok (.vmaddVx (bitAt w 23) (r3 w 20) (r5 w 15) (r5 w 10) (r5 w 5))
  | 7 => .ok (.vdivVx (bitAt w 23) (r3 w 20) (r5 w 15) (r5 w 10) (r5 w 5))
  | 8 => .ok (.vdivnVx (bitAt w 23) (r3 w 20) (r5 w 15) (r5 w 10) (r5 w 5))
  | 9 => .ok (.vremVx (bitAt w 23) (r3 w 20) (r5 w 15) (r5 w 10) (r5 w 5))
  | 10 => .ok (.vremnVx (bitAt w 23) (r3 w 20) (r5 w 15) (r5 w 10) (r5 w 5))
  | 11 => .ok (.vandVx (bitAt w 23) (r3 w 20) (r5 w 15) (r5 w 10) (r5 w 5))
  | 12 => .ok (.vorVx (bitAt w 23) (r3 w 20) (r5 w 15) (r5 w 10) (r5 w 5))
  | 13 => .ok (.vxorVx (bitAt w 23) (r3 w 20) (r5 w 15) (r5 w 10) (r5 w 5))
  | 14 => .ok (.vshlVx (bitAt w 23) (r3 w 20) (r5 w 15) (r5 w 10) (r5 w 5))
  | 15 => .ok (.vshrVx (bitAt w 23) (r3 w 20) (r5 w 15) (r5 w 10) (r5 w 5))
  | 16 => .ok (.vsarVx (bitAt w 23) (r3 w 20) (r5 w 15) (r5 w 10) (r5 w 5))
  | 17 => .ok (.vminVx (bitAt w 23) (r3 w 20) (r5 w 15) (r5 w 10) (r5 w 5))
  | 18 => .ok (.vmaxVx (bitAt w 23) (r3 w 20) (r5 w 15) (r5 w 10) (r5 w 5))
  | 19 => .ok (.vminnVx (bitAt w 23) (r3 w 20) (r5 w 15) (r5 w 10) (r5 w 5))
  | 20 => .ok (.vmaxnVx (bitAt w 23) (r3 w 20) (r5 w 15) (r5 w 10) (r5 w 5))
  | 21 => .ok (.vsaddVx (bitAt w 23) (r3 w 20) (r5 w 15) (r5 w 10) (r5 w 5))
  | 22 => .ok (.vssubVx (bitAt w 23) (r3 w 20) (r5 w 15) (r5 w 10) (r5 w 5))
  | 23 => .ok (.vsaddnVx (bitAt w 23) (r3 w 20) (r5 w 15) (r5 w 10) (r5 w 5))
  | 24 => .ok (.vssubnVx (bitAt w 23) (r3 w 20) (r5 w 15) (r5 w 10) (r5 w 5))
  | 25 => .ok (.vabsdVx (bitAt w 23) (r3 w 20) (r5 w 15) (r5 w 10) (r5 w 5))
  | 26 => .ok (.vmergeVx (bitAt w 23) (r3 w 20) (r5 w 15) (r5 w 10) (r5 w 5))
  | 27 => unused (fld w 5 5) (.vmovVx (bitAt w 23) (r3 w 20) (r5 w 15) (r5 w 10))
  | _ => .bad 2

/-- Major 0x2E. -/
def decVintVI (w : Nat) : Dec :=
  match fld w 0 5 with
  | 0 => .ok (.vaddVi (bitAt w 23) (r3 w 20) (r5 w 15) (im 5 w 10) (r5 w 5))
  | 1 => .ok (.vsubVi (bitAt w 23) (r3 w 20) (r5 w 15) (im 5 w 10) (r5 w 5))
  | 2 => .ok (.vrsubVi (bitAt w 23) (r3 w 20) (r5 w 15) (im 5 w 10) (r5 w 5))
  | 3 => .ok (.vmulVi (bitAt w 23) (r3 w 20) (r5 w 15) (im 5 w 10) (r5 w 5))
  | 4 => .ok (.vmulhVi (bitAt w 23) (r3 w 20) (r5 w 15) (im 5 w 10) (r5 w 5))
  | 5 => .ok (.vmulhnVi (bitAt w 23) (r3 w 20) (r5 w 15) (im 5 w 10) (r5 w 5))
  | 6 => .ok (.vmaddVi (bitAt w 23) (r3 w 20) (r5 w 15) (im 5 w 10) (r5 w 5))
  | 7 => .ok (.vdivVi (bitAt w 23) (r3 w 20) (r5 w 15) (im 5 w 10) (r5 w 5))
  | 8 => .ok (.vdivnVi (bitAt w 23) (r3 w 20) (r5 w 15) (im 5 w 10) (r5 w 5))
  | 9 => .ok (.vremVi (bitAt w 23) (r3 w 20) (r5 w 15) (im 5 w 10) (r5 w 5))
  | 10 => .ok (.vremnVi (bitAt w 23) (r3 w 20) (r5 w 15) (im 5 w 10) (r5 w 5))
  | 11 => .ok (.vandVi (bitAt w 23) (r3 w 20) (r5 w 15) (im 5 w 10) (r5 w 5))
  | 12 => .ok (.vorVi (bitAt w 23) (r3 w 20) (r5 w 15) (im 5 w 10) (r5 w 5))
  | 13 => .ok (.vxorVi (bitAt w 23) (r3 w 20) (r5 w 15) (im 5 w 10) (r5 w 5))
  | 14 => .ok (.vshlVi (bitAt w 23) (r3 w 20) (r5 w 15) (im 5 w 10) (r5 w 5))
  | 15 => .ok (.vshrVi (bitAt w 23) (r3 w 20) (r5 w 15) (im 5 w 10) (r5 w 5))
  | 16 => .ok (.vsarVi (bitAt w 23) (r3 w 20) (r5 w 15) (im 5 w 10) (r5 w 5))
  | 17 => .ok (.vminVi (bitAt w 23) (r3 w 20) (r5 w 15) (im 5 w 10) (r5 w 5))
  | 18 => .ok (.vmaxVi (bitAt w 23) (r3 w 20) (r5 w 15) (im 5 w 10) (r5 w 5))
  | 19 => .ok (.vminnVi (bitAt w 23) (r3 w 20) (r5 w 15) (im 5 w 10) (r5 w 5))
  | 20 => .ok (.vmaxnVi (bitAt w 23) (r3 w 20) (r5 w 15) (im 5 w 10) (r5 w 5))
  | 21 => .ok (.vsaddVi (bitAt w 23) (r3 w 20) (r5 w 15) (im 5 w 10) (r5 w 5))
  | 22 => .ok (.vssubVi (bitAt w 23) (r3 w 20) (r5 w 15) (im 5 w 10) (r5 w 5))
  | 23 => .ok (.vsaddnVi (bitAt w 23) (r3 w 20) (r5 w 15) (im 5 w 10) (r5 w 5))
  | 24 => .ok (.vssubnVi (bitAt w 23) (r3 w 20) (r5 w 15) (im 5 w 10) (r5 w 5))
  | 25 => .ok (.vabsdVi (bitAt w 23) (r3 w 20) (r5 w 15) (im 5 w 10) (r5 w 5))
  | 26 => .ok (.vmergeVi (bitAt w 23) (r3 w 20) (r5 w 15) (im 5 w 10) (r5 w 5))
  | 27 => unused (fld w 5 5) (.vmovVi (bitAt w 23) (r3 w 20) (r5 w 15) (im 5 w 10))
  | _ => .bad 2

/-- Major 0x2F. -/
def decVfpVV (w : Nat) : Dec :=
  match fld w 0 5 with
  | 0 => .ok (.vfaddVv (bitAt w 23) (r3 w 20) (r5 w 15) (r5 w 10) (r5 w 5))
  | 1 => .ok (.vfsubVv (bitAt w 23) (r3 w 20) (r5 w 15) (r5 w 10) (r5 w 5))
  | 2 => .ok (.vfmulVv (bitAt w 23) (r3 w 20) (r5 w 15) (r5 w 10) (r5 w 5))
  | 3 => .ok (.vfdivVv (bitAt w 23) (r3 w 20) (r5 w 15) (r5 w 10) (r5 w 5))
  | 4 => unused (fld w 10 5) (.vfsqrt (bitAt w 23) (r3 w 20) (r5 w 15) (r5 w 5))
  | 5 => .ok (.vfmaVv (bitAt w 23) (r3 w 20) (r5 w 15) (r5 w 10) (r5 w 5))
  | 6 => .ok (.vfmsVv (bitAt w 23) (r3 w 20) (r5 w 15) (r5 w 10) (r5 w 5))
  | 7 => .ok (.vfnmaVv (bitAt w 23) (r3 w 20) (r5 w 15) (r5 w 10) (r5 w 5))
  | 8 => .ok (.vfminVv (bitAt w 23) (r3 w 20) (r5 w 15) (r5 w 10) (r5 w 5))
  | 9 => .ok (.vfmaxVv (bitAt w 23) (r3 w 20) (r5 w 15) (r5 w 10) (r5 w 5))
  | 10 => unused (fld w 10 5) (.vfabs (bitAt w 23) (r3 w 20) (r5 w 15) (r5 w 5))
  | 11 => unused (fld w 10 5) (.vfneg (bitAt w 23) (r3 w 20) (r5 w 15) (r5 w 5))
  | 12 => unused (fld w 10 5) (.vfrcp (bitAt w 23) (r3 w 20) (r5 w 15) (r5 w 5))
  | 13 => unused (fld w 10 5) (.vfrsq (bitAt w 23) (r3 w 20) (r5 w 15) (r5 w 5))
  | 14 => unused (fld w 10 5) (.vfexp2 (bitAt w 23) (r3 w 20) (r5 w 15) (r5 w 5))
  | 15 => unused (fld w 10 5) (.vflog2 (bitAt w 23) (r3 w 20) (r5 w 15) (r5 w 5))
  | 16 => unused (fld w 10 5) (.vfclass (bitAt w 23) (r3 w 20) (r5 w 15) (r5 w 5))
  | _ => .bad 2

/-- Major 0x30. -/
def decVfpVX (w : Nat) : Dec :=
  match fld w 0 5 with
  | 0 => .ok (.vfaddVx (bitAt w 23) (r3 w 20) (r5 w 15) (r5 w 10) (r5 w 5))
  | 1 => .ok (.vfsubVx (bitAt w 23) (r3 w 20) (r5 w 15) (r5 w 10) (r5 w 5))
  | 2 => .ok (.vfmulVx (bitAt w 23) (r3 w 20) (r5 w 15) (r5 w 10) (r5 w 5))
  | 3 => .ok (.vfdivVx (bitAt w 23) (r3 w 20) (r5 w 15) (r5 w 10) (r5 w 5))
  | 5 => .ok (.vfmaVx (bitAt w 23) (r3 w 20) (r5 w 15) (r5 w 10) (r5 w 5))
  | 6 => .ok (.vfmsVx (bitAt w 23) (r3 w 20) (r5 w 15) (r5 w 10) (r5 w 5))
  | 7 => .ok (.vfnmaVx (bitAt w 23) (r3 w 20) (r5 w 15) (r5 w 10) (r5 w 5))
  | 8 => .ok (.vfminVx (bitAt w 23) (r3 w 20) (r5 w 15) (r5 w 10) (r5 w 5))
  | 9 => .ok (.vfmaxVx (bitAt w 23) (r3 w 20) (r5 w 15) (r5 w 10) (r5 w 5))
  | _ => .bad 2

/-- Major 0x31. -/
def decVcmp (w : Nat) : Dec :=
  match fld w 4 1, fld w 0 3 with
  | 0, 0 => unused (fld w 18 1) (.vcmpEq (bitAt w 23) (r3 w 20) (bitAt w 19) (r3 w 15) (r5 w 10) (r5 w 5) (bitAt w 3))
  | 0, 1 => unused (fld w 18 1) (.vcmpNe (bitAt w 23) (r3 w 20) (bitAt w 19) (r3 w 15) (r5 w 10) (r5 w 5) (bitAt w 3))
  | 0, 2 => unused (fld w 18 1) (.vcmpLt (bitAt w 23) (r3 w 20) (bitAt w 19) (r3 w 15) (r5 w 10) (r5 w 5) (bitAt w 3))
  | 0, 3 => unused (fld w 18 1) (.vcmpLe (bitAt w 23) (r3 w 20) (bitAt w 19) (r3 w 15) (r5 w 10) (r5 w 5) (bitAt w 3))
  | 0, 4 => unused (fld w 18 1) (.vcmpGt (bitAt w 23) (r3 w 20) (bitAt w 19) (r3 w 15) (r5 w 10) (r5 w 5) (bitAt w 3))
  | 0, 5 => unused (fld w 18 1) (.vcmpGe (bitAt w 23) (r3 w 20) (bitAt w 19) (r3 w 15) (r5 w 10) (r5 w 5) (bitAt w 3))
  | 1, 0 => unused (fld w 18 1) (.vcmpxEq (bitAt w 23) (r3 w 20) (bitAt w 19) (r3 w 15) (r5 w 10) (r5 w 5) (bitAt w 3))
  | 1, 1 => unused (fld w 18 1) (.vcmpxNe (bitAt w 23) (r3 w 20) (bitAt w 19) (r3 w 15) (r5 w 10) (r5 w 5) (bitAt w 3))
  | 1, 2 => unused (fld w 18 1) (.vcmpxLt (bitAt w 23) (r3 w 20) (bitAt w 19) (r3 w 15) (r5 w 10) (r5 w 5) (bitAt w 3))
  | 1, 3 => unused (fld w 18 1) (.vcmpxLe (bitAt w 23) (r3 w 20) (bitAt w 19) (r3 w 15) (r5 w 10) (r5 w 5) (bitAt w 3))
  | 1, 4 => unused (fld w 18 1) (.vcmpxGt (bitAt w 23) (r3 w 20) (bitAt w 19) (r3 w 15) (r5 w 10) (r5 w 5) (bitAt w 3))
  | 1, 5 => unused (fld w 18 1) (.vcmpxGe (bitAt w 23) (r3 w 20) (bitAt w 19) (r3 w 15) (r5 w 10) (r5 w 5) (bitAt w 3))
  | _, _ => .bad 2

/-- Major 0x32. -/
noncomputable def decVpred (w : Nat) : Dec :=
  match fld w 0 5 with
  | 0 => unused (fld w 8 2 + fld w 13 2 + fld w 18 2) (.pand (bitAt w 23) (r3 w 20) (r3 w 15) (r3 w 10) (r3 w 5))
  | 1 => unused (fld w 8 2 + fld w 13 2 + fld w 18 2) (.por (bitAt w 23) (r3 w 20) (r3 w 15) (r3 w 10) (r3 w 5))
  | 2 => unused (fld w 8 2 + fld w 13 2 + fld w 18 2) (.pxor (bitAt w 23) (r3 w 20) (r3 w 15) (r3 w 10) (r3 w 5))
  | 3 => unused (fld w 8 2 + fld w 13 2 + fld w 18 2) (.pandn (bitAt w 23) (r3 w 20) (r3 w 15) (r3 w 10) (r3 w 5))
  | 4 => unused (fld w 8 7 + fld w 18 2) (.pnot (bitAt w 23) (r3 w 20) (r3 w 15) (r3 w 5))
  | 5 => unused (fld w 8 7 + fld w 18 2) (.pmov (bitAt w 23) (r3 w 20) (r3 w 15) (r3 w 5))
  | 6 => unused (fld w 5 10 + fld w 18 2) (.pset (bitAt w 23) (r3 w 20) (r3 w 15))
  | 7 => unused (fld w 8 7 + fld w 18 2) (.psbf (bitAt w 23) (r3 w 20) (r3 w 15) (r3 w 5))
  | 8 => unused (fld w 8 7 + fld w 18 2) (.psif (bitAt w 23) (r3 w 20) (r3 w 15) (r3 w 5))
  | 9 => unused (fld w 8 7 + fld w 18 2) (.psof (bitAt w 23) (r3 w 20) (r3 w 15) (r3 w 5))
  | 10 => unused (fld w 8 7) (.ppopc (bitAt w 23) (r3 w 20) (r5 w 15) (r3 w 5))
  | 11 => unused (fld w 8 7) (.pfirst (bitAt w 23) (r3 w 20) (r5 w 15) (r3 w 5))
  | _ => .bad 2

/-- Major 0x33. -/
noncomputable def decVred (w : Nat) : Dec :=
  match fld w 0 5 with
  | 0 => .ok (.vrsum (bitAt w 23) (r3 w 20) (r5 w 15) (r5 w 10) (r5 w 5))
  | 1 => .ok (.vrsumO (bitAt w 23) (r3 w 20) (r5 w 15) (r5 w 10) (r5 w 5))
  | 2 => .ok (.vrmax (bitAt w 23) (r3 w 20) (r5 w 15) (r5 w 10) (r5 w 5))
  | 3 => .ok (.vrmin (bitAt w 23) (r3 w 20) (r5 w 15) (r5 w 10) (r5 w 5))
  | 4 => .ok (.vrmaxn (bitAt w 23) (r3 w 20) (r5 w 15) (r5 w 10) (r5 w 5))
  | 5 => .ok (.vrminn (bitAt w 23) (r3 w 20) (r5 w 15) (r5 w 10) (r5 w 5))
  | 6 => .ok (.vrand (bitAt w 23) (r3 w 20) (r5 w 15) (r5 w 10) (r5 w 5))
  | 7 => .ok (.vror (bitAt w 23) (r3 w 20) (r5 w 15) (r5 w 10) (r5 w 5))
  | 8 => .ok (.vrxor (bitAt w 23) (r3 w 20) (r5 w 15) (r5 w 10) (r5 w 5))
  | _ => .bad 2

/-- Major 0x34. -/
noncomputable def decVpermx (w : Nat) : Dec :=
  match fld w 0 5 with
  | 0 => .ok (.vslup (bitAt w 23) (r3 w 20) (r5 w 15) (r5 w 10) (r5 w 5))
  | 1 => .ok (.vsldn (bitAt w 23) (r3 w 20) (r5 w 15) (r5 w 10) (r5 w 5))
  | 2 => .ok (.vperm (bitAt w 23) (r3 w 20) (r5 w 15) (r5 w 10) (r5 w 5))
  | 3 => unused (fld w 10 5) (.vcomp (bitAt w 23) (r3 w 20) (r5 w 15) (r5 w 5))
  | 4 => unused (fld w 10 5) (.vxpnd (bitAt w 23) (r3 w 20) (r5 w 15) (r5 w 5))
  | 5 => unused (fld w 20 3) (.vmvs (bitAt w 23) (r5 w 15) (r5 w 10) (r5 w 5))
  | 6 => unused (fld w 20 3) (.vmvv (bitAt w 23) (r5 w 15) (r5 w 10) (r5 w 5))
  | 7 => unused (fld w 5 10) (.viota (bitAt w 23) (r3 w 20) (r5 w 15))
  | 8 => .ok (.vscan (bitAt w 23) (r3 w 20) (r5 w 15) (r5 w 10) (r5 w 5))
  | _ => .bad 2

/-- Major 0x36. -/
noncomputable def decVq (w : Nat) : Dec :=
  match fld w 0 5 with
  | 0 => .ok (.vqadd (bitAt w 23) (r3 w 20) (r5 w 15) (r5 w 10) (r5 w 5))
  | 1 => .ok (.vqsub (bitAt w 23) (r3 w 20) (r5 w 15) (r5 w 10) (r5 w 5))
  | 2 => .ok (.vqmul (bitAt w 23) (r3 w 20) (r5 w 15) (r5 w 10) (r5 w 5))
  | 3 => .ok (.vqmac (bitAt w 23) (r3 w 20) (r5 w 15) (r5 w 10) (r5 w 5))
  | 4 => .ok (.vqdot (bitAt w 23) (r3 w 20) (r5 w 15) (r5 w 10) (r5 w 5))
  | 5 => .ok (.vqshr (bitAt w 23) (r3 w 20) (r5 w 15) (r5 w 10) (r5 w 5))
  | _ => .bad 2

/-- Major 0x37. -/
noncomputable def decVscl (w : Nat) : Dec :=
  match fld w 0 5 with
  | 0 => unused (fld w 5 5 + fld w 18 5) (.vsclLd (bitAt w 23) (r3 w 15) (r5 w 10))
  | 1 => unused (fld w 5 5 + fld w 18 5) (.vsclSt (bitAt w 23) (r3 w 15) (r5 w 10))
  | 2 => unused (fld w 10 5 + fld w 18 2) (.vsclFit (bitAt w 23) (r3 w 20) (r3 w 15) (r5 w 5))
  | 3 => unused (fld w 8 7 + fld w 18 5) (.vsclMov (bitAt w 23) (r3 w 15) (r3 w 5))
  | _ => .bad 2

/-- Major 0x38. -/
noncomputable def decVmisc (w : Nat) : Dec :=
  match fld w 0 9 with
  | 0 => .ok (.vsett (r5 w 19) (r5 w 14) (r5 w 9))
  | 1 => .ok (.vsetb (r5 w 19) (r5 w 14) (r5 w 9))
  | 2 => unused (fld w 9 5 + fld w 19 5) (.vctxSv (r5 w 14))
  | 3 => unused (fld w 9 5 + fld w 19 5) (.vctxRs (r5 w 14))
  | _ => .bad 2

/-- Major 0x39. -/
noncomputable def decMat (w : Nat) : Dec :=
  match fld w 0 9 with
  | 0 => unused (fld w 9 5) (.matAtt (r5 w 19) (r5 w 14))
  | 1 => unused (fld w 9 15) (.matDet)
  | 2 => unused (fld w 9 5) (.matShp (r5 w 19) (r5 w 14))
  | _ => .bad 2

/-- Major 0x3A. -/
noncomputable def decCpy (w : Nat) : Dec :=
  match fld w 0 4 with
  | 0 => .ok (.cpyMs (r5 w 19) (r5 w 14) (r5 w 9) (r5 w 4))
  | 1 => .ok (.cpySm (r5 w 19) (r5 w 14) (r5 w 9) (r5 w 4))
  | 2 => .ok (.cpyMr (r5 w 19) (r5 w 14) (r5 w 9) (r5 w 4))
  | 3 => .ok (.cpyRm (r5 w 19) (r5 w 14) (r5 w 9) (r5 w 4))
  | 4 => .ok (.cpyRr (r5 w 19) (r5 w 14) (r5 w 9) (r5 w 4))
  | 5 => .ok (.cpyMm (r5 w 19) (r5 w 14) (r5 w 9) (r5 w 4))
  | 6 => .ok (.cpyGs (r5 w 19) (r5 w 14) (r5 w 9) (r5 w 4))
  | 7 => .ok (.cpyLz (r5 w 19) (r5 w 14) (r5 w 9) (r5 w 4))
  | _ => .bad 2

/-- Major 0x3B. -/
noncomputable def decBob (w : Nat) : Dec :=
  match fld w 0 9 with
  | 0 => unused (fld w 9 5 + fld w 19 5) (.bwait (r5 w 14))
  | 1 => unused (fld w 22 2) (.bchk (r3 w 19) (r5 w 14) (r5 w 9))
  | 2 => unused (fld w 9 5 + fld w 19 5) (.brel (r5 w 14))
  | 3 => .ok (.bstat (r5 w 19) (r5 w 14) (r5 w 9))
  | _ => .bad 2

/-- Major 0x3C. -/
noncomputable def decLz (w : Nat) : Dec :=
  match fld w 0 9 with
  | 0 => .ok (.lzOpen (r5 w 19) (r5 w 14) (r5 w 9))
  | 1 => unused (fld w 9 5 + fld w 19 5) (.lzClose (r5 w 14))
  | 2 => .ok (.lzResv (r5 w 19) (r5 w 14) (r5 w 9))
  | 3 => unused (fld w 9 5) (.lzWait (r5 w 19) (r5 w 14))
  | 4 => unused (fld w 9 5 + fld w 19 5) (.lzFree (r5 w 14))
  | 5 => unused (fld w 9 5) (.lzStat (r5 w 19) (r5 w 14))
  | _ => .bad 2

/-- Major 0x3D. -/
noncomputable def decEvt (w : Nat) : Dec :=
  match fld w 0 9 with
  | 0 => .ok (.ctrAdd (r5 w 19) (r5 w 14) (r5 w 9))
  | 1 => unused (fld w 9 5) (.ctrRd (r5 w 19) (r5 w 14))
  | 2 => .ok (.ctrSet (r5 w 19) (r5 w 14) (r5 w 9))
  | 3 => unused (fld w 19 5) (.ctrWait (r5 w 14) (r5 w 9))
  | 4 => .ok (.trdlArm (r5 w 19) (r5 w 14) (r5 w 9))
  | 5 => unused (fld w 9 5) (.trdlX (r5 w 19) (r5 w 14))
  | 6 => unused (fld w 9 5) (.trdlStat (r5 w 19) (r5 w 14))
  | 7 => unused (fld w 14 5) (.eqPop (r5 w 19) (r5 w 9))
  | 8 => unused (fld w 14 5) (.eqCnt (r5 w 19) (r5 w 9))
  | 9 => unused (fld w 9 10) (.fabQuiet (r5 w 19))
  | _ => .bad 2

/-- Major 0x3E. -/
noncomputable def decAcct (w : Nat) : Dec :=
  match fld w 0 9 with
  | 0 => unused (fld w 9 5) (.ownSet (r5 w 19) (r5 w 14))
  | 1 => .ok (.harmRd (r5 w 19) (r5 w 14) (r5 w 9))
  | 2 => .ok (.dmxRd (r5 w 19) (r5 w 14) (r5 w 9))
  | 3 => .ok (.dmxAgg (r5 w 19) (r5 w 14) (r5 w 9))
  | 4 => .ok (.eneRd (r5 w 19) (r5 w 14) (r5 w 9))
  | _ => .bad 2

/-- The instruction of a 32-bit word W (R50, R52 to R55). -/
noncomputable def decode32 (w : Nat) : Dec :=
  match fld w 24 6 with
  | 1 => decSalu w
  | 2 => .ok (.addi (r5 w 19) (r5 w 14) (im 14 w 0))
  | 3 => .ok (.andi (r5 w 19) (r5 w 14) (im 14 w 0))
  | 4 => .ok (.ori (r5 w 19) (r5 w 14) (im 14 w 0))
  | 5 => .ok (.xori (r5 w 19) (r5 w 14) (im 14 w 0))
  | 6 => decShifti w
  | 7 => .ok (.slti (r5 w 19) (r5 w 14) (im 14 w 0))
  | 8 => .ok (.sltni (r5 w 19) (r5 w 14) (im 14 w 0))
  | 9 => .ok (.lui (r5 w 19) (im 19 w 0))
  | 10 => .ok (.adpc (r5 w 19) (im 19 w 0))
  | 11 => decBfld w
  | 12 => listed (loadWidth (fld w 11 3)) (.ok (.ld (r5 w 19) (r5 w 14) (r3 w 11) (im 11 w 0)))
  | 13 => listed (storeWidth (fld w 11 3)) (.ok (.st (r5 w 19) (r5 w 14) (r3 w 11) (im 11 w 0)))
  | 14 => listed (acqWidth (fld w 11 3)) (.ok (.lda (r5 w 19) (r5 w 14) (r3 w 11) (im 11 w 0)))
  | 15 => listed (relWidth (fld w 11 3)) (.ok (.stl (r5 w 19) (r5 w 14) (r3 w 11) (im 11 w 0)))
  | 16 => .ok (.beq (r5 w 19) (r5 w 14) (im 14 w 0))
  | 17 => .ok (.bne (r5 w 19) (r5 w 14) (im 14 w 0))
  | 18 => .ok (.blt (r5 w 19) (r5 w 14) (im 14 w 0))
  | 19 => .ok (.bge (r5 w 19) (r5 w 14) (im 14 w 0))
  | 20 => .ok (.bltn (r5 w 19) (r5 w 14) (im 14 w 0))
  | 21 => .ok (.bgen (r5 w 19) (r5 w 14) (im 14 w 0))
  | 22 => .ok (.jmp (im 24 w 0))
  | 23 => .ok (.call (im 24 w 0))
  | 24 => decJreg w
  | 25 => decAmo w
  | 26 => unused (fld w 3 1) (.cas (r5 w 19) (r5 w 14) (r5 w 9) (r5 w 4) (r2 w 1) (bitAt w 0))
  | 27 => listed (decide (fld w 2 3 ≤ 4)) (unused (fld w 9 15 + fld w 5 4) (.fence (r3 w 2) (r2 w 0)))
  | 28 => decSys w
  | 29 => decCreg w
  | 30 => .ok (.snext (im 24 w 0))
  | 31 => decLaunch w
  | 32 => decSfp w
  | 33 => decSfma w
  | 40 => .ok (.vsetl (r5 w 19) (r5 w 14) (im 14 w 0))
  | 41 => decVld w
  | 42 => decVst w
  | 43 => decVamo w
  | 44 => decVintVV w
  | 45 => decVintVX w
  | 46 => decVintVI w
  | 47 => decVfpVV w
  | 48 => decVfpVX w
  | 49 => decVcmp w
  | 50 => decVpred w
  | 51 => decVred w
  | 52 => decVpermx w
  | 53 => listed (decide (fld w 10 5 ≠ 15)) (unused (if bitAt w 4 then 0 else fld w 0 2) (.vcvt (bitAt w 23) (r3 w 20) (r5 w 15) (r5 w 10) (r5 w 5) (bitAt w 4) (bitAt w 3) (bitAt w 2) (r2 w 0)))
  | 54 => decVq w
  | 55 => decVscl w
  | 56 => decVmisc w
  | 57 => decMat w
  | 58 => decCpy w
  | 59 => decBob w
  | 60 => decLz w
  | 61 => decEvt w
  | 62 => decAcct w
  | _ => .bad 1

/-- A compressed operation that writes rg is illegal with rg = 0, REASON 4, unless a lower reason applies (R59, R65). -/
def writesRg (w : Nat) (r : Dec) : Dec :=
  match r with
  | .bad n => .bad n
  | .spare i => .spare i
  | .ok i => if fld w 6 5 = 0 then .bad 4 else .ok i

/-- The instruction of a one-parcel word (R59). -/
noncomputable def decode16 (w : Nat) : Dec :=
  match fld w 11 4 with
  | 0 => writesRg w (.ok (.cAddi (r5 w 6) (im 6 w 0)))
  | 1 => writesRg w (.ok (.cLi (r5 w 6) (im 6 w 0)))
  | 2 => writesRg w (unused (fld w 5 1) (.cMov (r5 w 6) (r5 w 0)))
  | 3 => writesRg w (unused (fld w 5 1) (.cAdd (r5 w 6) (r5 w 0)))
  | 4 => writesRg w (unused (fld w 5 1) (.cSub (r5 w 6) (r5 w 0)))
  | 5 => writesRg w (unused (fld w 5 1) (.cAnd (r5 w 6) (r5 w 0)))
  | 6 => writesRg w (.ok (.cShli (r5 w 6) (im 6 w 0)))
  | 7 => writesRg w (.ok (.cShri (r5 w 6) (im 6 w 0)))
  | 8 => writesRg w (.ok (.cLdsp (r5 w 6) (im 6 w 0)))
  | 9 => .ok (.cStsp (r5 w 6) (im 6 w 0))
  | 10 => .ok (.cBeqz (r5 w 6) (im 6 w 0))
  | 11 => .ok (.cBnez (r5 w 6) (im 6 w 0))
  | 12 => .ok (.cJ (im 11 w 0))
  | 13 => unused (fld w 0 6) (.cJr (r5 w 6))
  | 14 => unused (fld w 0 11) (.cNop)
  | _ => .bad 1

/-- The instruction of a four-parcel word X (R57, R58). -/
noncomputable def decode64 (x : Nat) : Dec :=
  match fld x 56 6 with
  | 0 => listed (mopType (fld x 27 5) && mopType (fld x 22 5)) (unused (fld x 0 15 + fld x 32 8 + fld x 55 1 + (if bitAt x 21 then 0 else fld x 15 6)) (.mop (r3 x 52) (r2 x 50) (r5 x 45) (r5 x 40) (r5 x 27) (r5 x 22) (bitAt x 21) (r3 x 18) (r3 x 15)))
  | 1 => listed (fld x 27 5 == 14 && fld x 22 5 == 14) (unused (fld x 0 22 + fld x 32 8 + fld x 55 1) (.mops (r3 x 52) (r2 x 50) (r5 x 45) (r5 x 40) (r5 x 27) (r5 x 22)))
  | 2 => unused (fld x 0 50 + fld x 52 4) (.mzero (r2 x 50))
  | 3 => unused (fld x 0 10 + fld x 15 20 + fld x 40 10 + fld x 52 4) (.mtld (r2 x 50) (r5 x 35) (r5 x 10))
  | 4 => unused (fld x 0 10 + fld x 15 20 + fld x 40 10 + fld x 52 4) (.mtst (r2 x 50) (r5 x 35) (r5 x 10))
  | 5 => unused (fld x 0 35 + fld x 40 5 + fld x 52 4) (.mrow (r2 x 50) (r5 x 45) (r5 x 35))
  | 6 => unused (fld x 0 35 + fld x 40 5 + fld x 52 4) (.mwrow (r2 x 50) (r5 x 45) (r5 x 35))
  | _ => .bad 1

/-- The length in bytes that the first parcel gives (R48). -/
def parcelLen (p : Nat) : Nat :=
  match fld p 14 2 with
  | 2 => 4
  | 3 => 8
  | _ => 2

/-- The instruction of `len` bytes whose bits, as R65 shows them in EADDR, are `bits`. -/
noncomputable def decode (len bits : Nat) : Dec :=
  match len with
  | 2 => decode16 bits
  | 4 => decode32 bits
  | _ => decode64 bits

/-- The 16-bit parcels of a list of bytes, the byte at the lower address the less significant (R4). -/
def parcels : List (BitVec 8) → List Nat
  | a :: b :: rest => (a.toNat + 256 * b.toNat) :: parcels rest
  | _ => []

/-- The bits of an instruction from its parcels, the first the most significant (R9, R48). -/
def joinParcels (ps : List Nat) : Nat := ps.foldl (fun acc p => acc * 65536 + p) 0

/-- Decoding a list of bytes: the outcome and the bytes that follow the instruction; none where the bytes end
before the instruction does. -/
noncomputable def decodeBytes (bs : List (BitVec 8)) : Option (Dec × List (BitVec 8)) :=
  match parcels (bs.take 2) with
  | [p] =>
    let n := parcelLen p
    if bs.length < n then none
    else some (decode n (joinParcels (parcels (bs.take n))), bs.drop n)
  | _ => none

/-- The bytes of an instruction of `len` bytes with bits `bits`, lowest address first. -/
def instrBytes (len bits : Nat) : List (BitVec 8) :=
  (List.range (len / 2)).flatMap fun k =>
    let p := bits / 65536 ^ (len / 2 - 1 - k) % 65536
    [BitVec.ofNat 8 p, BitVec.ofNat 8 (p / 256)]

/-- The whole number of parcels in which a row of the opcode table with `nbits` bits is encoded. -/
def tableLen (nbits : Nat) : Nat := if nbits ≤ 16 then 2 else if nbits ≤ 32 then 4 else 8

/-- The instruction that the bytes of a word of the opcode table decode to. Log entry 24, DEDUCED. -/
noncomputable def decodeTableWord (nbits w : Nat) : Option Instr :=
  match decodeBytes (instrBytes (tableLen nbits) w) with
  | some (.ok i, _) => some i
  | _ => none

/-! The encoder: the bits of each instruction from its operands, field by field (Tables 3-1 to 3-8). -/

def Bits.add (d a b : SReg) : Nat := 0x81000000 + sh d.val 19 + sh a.val 14 + sh b.val 9
def Bits.sub (d a b : SReg) : Nat := 0x81000001 + sh d.val 19 + sh a.val 14 + sh b.val 9
def Bits.and (d a b : SReg) : Nat := 0x81000002 + sh d.val 19 + sh a.val 14 + sh b.val 9
def Bits.or (d a b : SReg) : Nat := 0x81000003 + sh d.val 19 + sh a.val 14 + sh b.val 9
def Bits.xor (d a b : SReg) : Nat := 0x81000004 + sh d.val 19 + sh a.val 14 + sh b.val 9
def Bits.andn (d a b : SReg) : Nat := 0x81000005 + sh d.val 19 + sh a.val 14 + sh b.val 9
def Bits.orn (d a b : SReg) : Nat := 0x81000006 + sh d.val 19 + sh a.val 14 + sh b.val 9
def Bits.shl (d a b : SReg) : Nat := 0x81000007 + sh d.val 19 + sh a.val 14 + sh b.val 9
def Bits.shr (d a b : SReg) : Nat := 0x81000008 + sh d.val 19 + sh a.val 14 + sh b.val 9
def Bits.sar (d a b : SReg) : Nat := 0x81000009 + sh d.val 19 + sh a.val 14 + sh b.val 9
def Bits.rol (d a b : SReg) : Nat := 0x8100000A + sh d.val 19 + sh a.val 14 + sh b.val 9
def Bits.ror (d a b : SReg) : Nat := 0x8100000B + sh d.val 19 + sh a.val 14 + sh b.val 9
def Bits.slt (d a b : SReg) : Nat := 0x8100000C + sh d.val 19 + sh a.val 14 + sh b.val 9
def Bits.sltn (d a b : SReg) : Nat := 0x8100000D + sh d.val 19 + sh a.val 14 + sh b.val 9
def Bits.min (d a b : SReg) : Nat := 0x8100000E + sh d.val 19 + sh a.val 14 + sh b.val 9
def Bits.max (d a b : SReg) : Nat := 0x8100000F + sh d.val 19 + sh a.val 14 + sh b.val 9
def Bits.minn (d a b : SReg) : Nat := 0x81000010 + sh d.val 19 + sh a.val 14 + sh b.val 9
def Bits.maxn (d a b : SReg) : Nat := 0x81000011 + sh d.val 19 + sh a.val 14 + sh b.val 9
def Bits.mul (d a b : SReg) : Nat := 0x81000012 + sh d.val 19 + sh a.val 14 + sh b.val 9
def Bits.mulh (d a b : SReg) : Nat := 0x81000013 + sh d.val 19 + sh a.val 14 + sh b.val 9
def Bits.mulhn (d a b : SReg) : Nat := 0x81000014 + sh d.val 19 + sh a.val 14 + sh b.val 9
def Bits.div (d a b : SReg) : Nat := 0x81000015 + sh d.val 19 + sh a.val 14 + sh b.val 9
def Bits.divn (d a b : SReg) : Nat := 0x81000016 + sh d.val 19 + sh a.val 14 + sh b.val 9
def Bits.rem (d a b : SReg) : Nat := 0x81000017 + sh d.val 19 + sh a.val 14 + sh b.val 9
def Bits.remn (d a b : SReg) : Nat := 0x81000018 + sh d.val 19 + sh a.val 14 + sh b.val 9
def Bits.clz (d a : SReg) : Nat := 0x81000019 + sh d.val 19 + sh a.val 14
def Bits.ctz (d a : SReg) : Nat := 0x8100001A + sh d.val 19 + sh a.val 14
def Bits.popc (d a : SReg) : Nat := 0x8100001B + sh d.val 19 + sh a.val 14
def Bits.sext (d a b : SReg) : Nat := 0x8100001C + sh d.val 19 + sh a.val 14 + sh b.val 9
def Bits.addi (d a : SReg) (i : BitVec 14) : Nat := 0x82000000 + sh d.val 19 + sh a.val 14 + i.toNat
def Bits.andi (d a : SReg) (i : BitVec 14) : Nat := 0x83000000 + sh d.val 19 + sh a.val 14 + i.toNat
def Bits.ori (d a : SReg) (i : BitVec 14) : Nat := 0x84000000 + sh d.val 19 + sh a.val 14 + i.toNat
def Bits.xori (d a : SReg) (i : BitVec 14) : Nat := 0x85000000 + sh d.val 19 + sh a.val 14 + i.toNat
def Bits.shli (d a : SReg) (n : BitVec 6) : Nat := 0x86000000 + sh d.val 19 + sh a.val 14 + n.toNat
def Bits.shri (d a : SReg) (n : BitVec 6) : Nat := 0x86001000 + sh d.val 19 + sh a.val 14 + n.toNat
def Bits.sari (d a : SReg) (n : BitVec 6) : Nat := 0x86002000 + sh d.val 19 + sh a.val 14 + n.toNat
def Bits.slti (d a : SReg) (i : BitVec 14) : Nat := 0x87000000 + sh d.val 19 + sh a.val 14 + i.toNat
def Bits.sltni (d a : SReg) (i : BitVec 14) : Nat := 0x88000000 + sh d.val 19 + sh a.val 14 + i.toNat
def Bits.lui (d : SReg) (i : BitVec 19) : Nat := 0x89000000 + sh d.val 19 + i.toNat
def Bits.adpc (d : SReg) (i : BitVec 19) : Nat := 0x8A000000 + sh d.val 19 + i.toNat
def Bits.bext (d a : SReg) (p l : BitVec 6) : Nat := 0x8B000000 + sh d.val 19 + sh a.val 14 + sh p.toNat 6 + l.toNat
def Bits.bextS (d a : SReg) (p l : BitVec 6) : Nat := 0x8B001000 + sh d.val 19 + sh a.val 14 + sh p.toNat 6 + l.toNat
def Bits.bins (d a : SReg) (p l : BitVec 6) : Nat := 0x8B002000 + sh d.val 19 + sh a.val 14 + sh p.toNat 6 + l.toNat
def Bits.ld (d a : SReg) (w : Fin 8) (o : BitVec 11) : Nat := 0x8C000000 + sh d.val 19 + sh a.val 14 + sh w.val 11 + o.toNat
def Bits.st (s a : SReg) (w : Fin 8) (o : BitVec 11) : Nat := 0x8D000000 + sh s.val 19 + sh a.val 14 + sh w.val 11 + o.toNat
def Bits.lda (d a : SReg) (w : Fin 8) (o : BitVec 11) : Nat := 0x8E000000 + sh d.val 19 + sh a.val 14 + sh w.val 11 + o.toNat
def Bits.stl (s a : SReg) (w : Fin 8) (o : BitVec 11) : Nat := 0x8F000000 + sh s.val 19 + sh a.val 14 + sh w.val 11 + o.toNat
def Bits.beq (a b : SReg) (o : BitVec 14) : Nat := 0x90000000 + sh a.val 19 + sh b.val 14 + o.toNat
def Bits.bne (a b : SReg) (o : BitVec 14) : Nat := 0x91000000 + sh a.val 19 + sh b.val 14 + o.toNat
def Bits.blt (a b : SReg) (o : BitVec 14) : Nat := 0x92000000 + sh a.val 19 + sh b.val 14 + o.toNat
def Bits.bge (a b : SReg) (o : BitVec 14) : Nat := 0x93000000 + sh a.val 19 + sh b.val 14 + o.toNat
def Bits.bltn (a b : SReg) (o : BitVec 14) : Nat := 0x94000000 + sh a.val 19 + sh b.val 14 + o.toNat
def Bits.bgen (a b : SReg) (o : BitVec 14) : Nat := 0x95000000 + sh a.val 19 + sh b.val 14 + o.toNat
def Bits.jmp (o : BitVec 24) : Nat := 0x96000000 + o.toNat
def Bits.call (o : BitVec 24) : Nat := 0x97000000 + o.toNat
def Bits.jr (a : SReg) : Nat := 0x98000000 + sh a.val 14
def Bits.callr (d a : SReg) : Nat := 0x98000001 + sh d.val 19 + sh a.val 14
def Bits.amoSwap (d a b : SReg) (o : Fin 4) (z : Bool) : Nat := 0x99000000 + sh d.val 19 + sh a.val 14 + sh b.val 9 + sh o.val 5 + sh z.toNat 4
def Bits.amoAdd (d a b : SReg) (o : Fin 4) (z : Bool) : Nat := 0x99000001 + sh d.val 19 + sh a.val 14 + sh b.val 9 + sh o.val 5 + sh z.toNat 4
def Bits.amoAnd (d a b : SReg) (o : Fin 4) (z : Bool) : Nat := 0x99000002 + sh d.val 19 + sh a.val 14 + sh b.val 9 + sh o.val 5 + sh z.toNat 4
def Bits.amoOr (d a b : SReg) (o : Fin 4) (z : Bool) : Nat := 0x99000003 + sh d.val 19 + sh a.val 14 + sh b.val 9 + sh o.val 5 + sh z.toNat 4
def Bits.amoXor (d a b : SReg) (o : Fin 4) (z : Bool) : Nat := 0x99000004 + sh d.val 19 + sh a.val 14 + sh b.val 9 + sh o.val 5 + sh z.toNat 4
def Bits.amoMin (d a b : SReg) (o : Fin 4) (z : Bool) : Nat := 0x99000005 + sh d.val 19 + sh a.val 14 + sh b.val 9 + sh o.val 5 + sh z.toNat 4
def Bits.amoMax (d a b : SReg) (o : Fin 4) (z : Bool) : Nat := 0x99000006 + sh d.val 19 + sh a.val 14 + sh b.val 9 + sh o.val 5 + sh z.toNat 4
def Bits.amoMinn (d a b : SReg) (o : Fin 4) (z : Bool) : Nat := 0x99000007 + sh d.val 19 + sh a.val 14 + sh b.val 9 + sh o.val 5 + sh z.toNat 4
def Bits.amoMaxn (d a b : SReg) (o : Fin 4) (z : Bool) : Nat := 0x99000008 + sh d.val 19 + sh a.val 14 + sh b.val 9 + sh o.val 5 + sh z.toNat 4
def Bits.cas (d a b c : SReg) (o : Fin 4) (z : Bool) : Nat := 0x9A000000 + sh d.val 19 + sh a.val 14 + sh b.val 9 + sh c.val 4 + sh o.val 1 + z.toNat
def Bits.fence (s : Fin 8) (k : Fin 4) : Nat := 0x9B000000 + sh s.val 2 + k.val
def Bits.trap (a : SReg) : Nat := 0x9C000000 + sh a.val 14
def Bits.rett : Nat := 0x9C000001
def Bits.ckpt (d : SReg) : Nat := 0x9C000002 + sh d.val 19
def Bits.exit : Nat := 0x9C000003
def Bits.yield : Nat := 0x9C000004
def Bits.sloop (a : SReg) : Nat := 0x9C000005 + sh a.val 14
def Bits.crr (d : SReg) (r : BitVec 12) : Nat := 0x9D000000 + sh d.val 19 + sh r.toNat 2
def Bits.crw (d a : SReg) (r : BitVec 12) : Nat := 0x9D000001 + sh d.val 19 + sh a.val 14 + sh r.toNat 2
def Bits.crs (d a : SReg) (r : BitVec 12) : Nat := 0x9D000002 + sh d.val 19 + sh a.val 14 + sh r.toNat 2
def Bits.crc (d a : SReg) (r : BitVec 12) : Nat := 0x9D000003 + sh d.val 19 + sh a.val 14 + sh r.toNat 2
def Bits.snext (o : BitVec 24) : Nat := 0x9E000000 + o.toNat
def Bits.launch (d a : SReg) : Nat := 0x9F000000 + sh d.val 19 + sh a.val 14
def Bits.launchLend (d a : SReg) : Nat := 0x9F000001 + sh d.val 19 + sh a.val 14
def Bits.fadd (d a b : SReg) (t : Bool) : Nat := 0xA0000000 + sh d.val 19 + sh a.val 14 + sh b.val 9 + sh t.toNat 7
def Bits.fsub (d a b : SReg) (t : Bool) : Nat := 0xA0000001 + sh d.val 19 + sh a.val 14 + sh b.val 9 + sh t.toNat 7
def Bits.fmul (d a b : SReg) (t : Bool) : Nat := 0xA0000002 + sh d.val 19 + sh a.val 14 + sh b.val 9 + sh t.toNat 7
def Bits.fdiv (d a b : SReg) (t : Bool) : Nat := 0xA0000003 + sh d.val 19 + sh a.val 14 + sh b.val 9 + sh t.toNat 7
def Bits.fsqrt (d a : SReg) (t : Bool) : Nat := 0xA0000004 + sh d.val 19 + sh a.val 14 + sh t.toNat 7
def Bits.fmin (d a b : SReg) (t : Bool) : Nat := 0xA0000005 + sh d.val 19 + sh a.val 14 + sh b.val 9 + sh t.toNat 7
def Bits.fmax (d a b : SReg) (t : Bool) : Nat := 0xA0000006 + sh d.val 19 + sh a.val 14 + sh b.val 9 + sh t.toNat 7
def Bits.fcmpEq (d a b : SReg) (t : Bool) : Nat := 0xA0000007 + sh d.val 19 + sh a.val 14 + sh b.val 9 + sh t.toNat 7
def Bits.fcmpLt (d a b : SReg) (t : Bool) : Nat := 0xA0000008 + sh d.val 19 + sh a.val 14 + sh b.val 9 + sh t.toNat 7
def Bits.fcmpLe (d a b : SReg) (t : Bool) : Nat := 0xA0000009 + sh d.val 19 + sh a.val 14 + sh b.val 9 + sh t.toNat 7
def Bits.fclass (d a : SReg) (t : Bool) : Nat := 0xA000000A + sh d.val 19 + sh a.val 14 + sh t.toNat 7
def Bits.fcvtF (d a : SReg) (t : Bool) : Nat := 0xA000000B + sh d.val 19 + sh a.val 14 + sh t.toNat 7
def Bits.fcvtI64 (d a : SReg) (t : Bool) : Nat := 0xA000000C + sh d.val 19 + sh a.val 14 + sh t.toNat 7
def Bits.fcvtN64 (d a : SReg) (t : Bool) : Nat := 0xA000000D + sh d.val 19 + sh a.val 14 + sh t.toNat 7
def Bits.fcvtFi (d a : SReg) (t : Bool) : Nat := 0xA000000E + sh d.val 19 + sh a.val 14 + sh t.toNat 7
def Bits.fcvtFn (d a : SReg) (t : Bool) : Nat := 0xA000000F + sh d.val 19 + sh a.val 14 + sh t.toNat 7
def Bits.fma (d a b c : SReg) (t : Bool) : Nat := 0xA1000000 + sh d.val 19 + sh a.val 14 + sh b.val 9 + sh c.val 4 + sh t.toNat 2
def Bits.fms (d a b c : SReg) (t : Bool) : Nat := 0xA1000001 + sh d.val 19 + sh a.val 14 + sh b.val 9 + sh c.val 4 + sh t.toNat 2
def Bits.fnma (d a b c : SReg) (t : Bool) : Nat := 0xA1000002 + sh d.val 19 + sh a.val 14 + sh b.val 9 + sh c.val 4 + sh t.toNat 2
def Bits.fnms (d a b c : SReg) (t : Bool) : Nat := 0xA1000003 + sh d.val 19 + sh a.val 14 + sh b.val 9 + sh c.val 4 + sh t.toNat 2
def Bits.vsetl (d a : SReg) (i : BitVec 14) : Nat := 0xA8000000 + sh d.val 19 + sh a.val 14 + i.toNat
def Bits.vld (c : Bool) (p : PReg) (d : VReg) (a : SReg) (n : Bool) : Nat := 0xA9000000 + sh c.toNat 23 + sh p.val 20 + sh d.val 15 + sh a.val 10 + sh n.toNat 3
def Bits.vldS (c : Bool) (p : PReg) (d : VReg) (a x : SReg) (n : Bool) : Nat := 0xA9000001 + sh c.toNat 23 + sh p.val 20 + sh d.val 15 + sh a.val 10 + sh x.val 5 + sh n.toNat 3
def Bits.vldX (c : Bool) (p : PReg) (d : VReg) (a : SReg) (x : VReg) (n : Bool) : Nat := 0xA9000002 + sh c.toNat 23 + sh p.val 20 + sh d.val 15 + sh a.val 10 + sh x.val 5 + sh n.toNat 3
def Bits.vldFf (c : Bool) (p : PReg) (d : VReg) (a : SReg) (n : Bool) : Nat := 0xA9000003 + sh c.toNat 23 + sh p.val 20 + sh d.val 15 + sh a.val 10 + sh n.toNat 3
def Bits.vldP (c : Bool) (p : PReg) (d : VReg) (a x : SReg) (n : Bool) : Nat := 0xA9000004 + sh c.toNat 23 + sh p.val 20 + sh d.val 15 + sh a.val 10 + sh x.val 5 + sh n.toNat 3
def Bits.vst (c : Bool) (p : PReg) (d : VReg) (a : SReg) (n : Bool) : Nat := 0xAA000000 + sh c.toNat 23 + sh p.val 20 + sh d.val 15 + sh a.val 10 + sh n.toNat 3
def Bits.vstS (c : Bool) (p : PReg) (d : VReg) (a x : SReg) (n : Bool) : Nat := 0xAA000001 + sh c.toNat 23 + sh p.val 20 + sh d.val 15 + sh a.val 10 + sh x.val 5 + sh n.toNat 3
def Bits.vstX (c : Bool) (p : PReg) (d : VReg) (a : SReg) (x : VReg) (n : Bool) : Nat := 0xAA000002 + sh c.toNat 23 + sh p.val 20 + sh d.val 15 + sh a.val 10 + sh x.val 5 + sh n.toNat 3
def Bits.vstXo (c : Bool) (p : PReg) (d : VReg) (a : SReg) (x : VReg) (n : Bool) : Nat := 0xAA000003 + sh c.toNat 23 + sh p.val 20 + sh d.val 15 + sh a.val 10 + sh x.val 5 + sh n.toNat 3
def Bits.vstP (c : Bool) (p : PReg) (d : VReg) (a x : SReg) (n : Bool) : Nat := 0xAA000004 + sh c.toNat 23 + sh p.val 20 + sh d.val 15 + sh a.val 10 + sh x.val 5 + sh n.toNat 3
def Bits.vamoSwap (c : Bool) (p : PReg) (d : VReg) (a : SReg) (b : VReg) (r : Bool) : Nat := 0xAB000000 + sh c.toNat 23 + sh p.val 20 + sh d.val 15 + sh a.val 10 + sh b.val 5 + sh r.toNat 4
def Bits.vamoAdd (c : Bool) (p : PReg) (d : VReg) (a : SReg) (b : VReg) (r : Bool) : Nat := 0xAB000001 + sh c.toNat 23 + sh p.val 20 + sh d.val 15 + sh a.val 10 + sh b.val 5 + sh r.toNat 4
def Bits.vamoAnd (c : Bool) (p : PReg) (d : VReg) (a : SReg) (b : VReg) (r : Bool) : Nat := 0xAB000002 + sh c.toNat 23 + sh p.val 20 + sh d.val 15 + sh a.val 10 + sh b.val 5 + sh r.toNat 4
def Bits.vamoOr (c : Bool) (p : PReg) (d : VReg) (a : SReg) (b : VReg) (r : Bool) : Nat := 0xAB000003 + sh c.toNat 23 + sh p.val 20 + sh d.val 15 + sh a.val 10 + sh b.val 5 + sh r.toNat 4
def Bits.vamoXor (c : Bool) (p : PReg) (d : VReg) (a : SReg) (b : VReg) (r : Bool) : Nat := 0xAB000004 + sh c.toNat 23 + sh p.val 20 + sh d.val 15 + sh a.val 10 + sh b.val 5 + sh r.toNat 4
def Bits.vamoMin (c : Bool) (p : PReg) (d : VReg) (a : SReg) (b : VReg) (r : Bool) : Nat := 0xAB000005 + sh c.toNat 23 + sh p.val 20 + sh d.val 15 + sh a.val 10 + sh b.val 5 + sh r.toNat 4
def Bits.vamoMax (c : Bool) (p : PReg) (d : VReg) (a : SReg) (b : VReg) (r : Bool) : Nat := 0xAB000006 + sh c.toNat 23 + sh p.val 20 + sh d.val 15 + sh a.val 10 + sh b.val 5 + sh r.toNat 4
def Bits.vamoMinn (c : Bool) (p : PReg) (d : VReg) (a : SReg) (b : VReg) (r : Bool) : Nat := 0xAB000007 + sh c.toNat 23 + sh p.val 20 + sh d.val 15 + sh a.val 10 + sh b.val 5 + sh r.toNat 4
def Bits.vamoMaxn (c : Bool) (p : PReg) (d : VReg) (a : SReg) (b : VReg) (r : Bool) : Nat := 0xAB000008 + sh c.toNat 23 + sh p.val 20 + sh d.val 15 + sh a.val 10 + sh b.val 5 + sh r.toNat 4
def Bits.vaddVv (c : Bool) (p : PReg) (d a b : VReg) : Nat := 0xAC000000 + sh c.toNat 23 + sh p.val 20 + sh d.val 15 + sh a.val 10 + sh b.val 5
def Bits.vaddVx (c : Bool) (p : PReg) (d : VReg) (a : SReg) (b : VReg) : Nat := 0xAD000000 + sh c.toNat 23 + sh p.val 20 + sh d.val 15 + sh a.val 10 + sh b.val 5
def Bits.vaddVi (c : Bool) (p : PReg) (d : VReg) (i : BitVec 5) (b : VReg) : Nat := 0xAE000000 + sh c.toNat 23 + sh p.val 20 + sh d.val 15 + sh i.toNat 10 + sh b.val 5
def Bits.vsubVv (c : Bool) (p : PReg) (d a b : VReg) : Nat := 0xAC000001 + sh c.toNat 23 + sh p.val 20 + sh d.val 15 + sh a.val 10 + sh b.val 5
def Bits.vsubVx (c : Bool) (p : PReg) (d : VReg) (a : SReg) (b : VReg) : Nat := 0xAD000001 + sh c.toNat 23 + sh p.val 20 + sh d.val 15 + sh a.val 10 + sh b.val 5
def Bits.vsubVi (c : Bool) (p : PReg) (d : VReg) (i : BitVec 5) (b : VReg) : Nat := 0xAE000001 + sh c.toNat 23 + sh p.val 20 + sh d.val 15 + sh i.toNat 10 + sh b.val 5
def Bits.vrsubVv (c : Bool) (p : PReg) (d a b : VReg) : Nat := 0xAC000002 + sh c.toNat 23 + sh p.val 20 + sh d.val 15 + sh a.val 10 + sh b.val 5
def Bits.vrsubVx (c : Bool) (p : PReg) (d : VReg) (a : SReg) (b : VReg) : Nat := 0xAD000002 + sh c.toNat 23 + sh p.val 20 + sh d.val 15 + sh a.val 10 + sh b.val 5
def Bits.vrsubVi (c : Bool) (p : PReg) (d : VReg) (i : BitVec 5) (b : VReg) : Nat := 0xAE000002 + sh c.toNat 23 + sh p.val 20 + sh d.val 15 + sh i.toNat 10 + sh b.val 5
def Bits.vmulVv (c : Bool) (p : PReg) (d a b : VReg) : Nat := 0xAC000003 + sh c.toNat 23 + sh p.val 20 + sh d.val 15 + sh a.val 10 + sh b.val 5
def Bits.vmulVx (c : Bool) (p : PReg) (d : VReg) (a : SReg) (b : VReg) : Nat := 0xAD000003 + sh c.toNat 23 + sh p.val 20 + sh d.val 15 + sh a.val 10 + sh b.val 5
def Bits.vmulVi (c : Bool) (p : PReg) (d : VReg) (i : BitVec 5) (b : VReg) : Nat := 0xAE000003 + sh c.toNat 23 + sh p.val 20 + sh d.val 15 + sh i.toNat 10 + sh b.val 5
def Bits.vmulhVv (c : Bool) (p : PReg) (d a b : VReg) : Nat := 0xAC000004 + sh c.toNat 23 + sh p.val 20 + sh d.val 15 + sh a.val 10 + sh b.val 5
def Bits.vmulhVx (c : Bool) (p : PReg) (d : VReg) (a : SReg) (b : VReg) : Nat := 0xAD000004 + sh c.toNat 23 + sh p.val 20 + sh d.val 15 + sh a.val 10 + sh b.val 5
def Bits.vmulhVi (c : Bool) (p : PReg) (d : VReg) (i : BitVec 5) (b : VReg) : Nat := 0xAE000004 + sh c.toNat 23 + sh p.val 20 + sh d.val 15 + sh i.toNat 10 + sh b.val 5
def Bits.vmulhnVv (c : Bool) (p : PReg) (d a b : VReg) : Nat := 0xAC000005 + sh c.toNat 23 + sh p.val 20 + sh d.val 15 + sh a.val 10 + sh b.val 5
def Bits.vmulhnVx (c : Bool) (p : PReg) (d : VReg) (a : SReg) (b : VReg) : Nat := 0xAD000005 + sh c.toNat 23 + sh p.val 20 + sh d.val 15 + sh a.val 10 + sh b.val 5
def Bits.vmulhnVi (c : Bool) (p : PReg) (d : VReg) (i : BitVec 5) (b : VReg) : Nat := 0xAE000005 + sh c.toNat 23 + sh p.val 20 + sh d.val 15 + sh i.toNat 10 + sh b.val 5
def Bits.vmaddVv (c : Bool) (p : PReg) (d a b : VReg) : Nat := 0xAC000006 + sh c.toNat 23 + sh p.val 20 + sh d.val 15 + sh a.val 10 + sh b.val 5
def Bits.vmaddVx (c : Bool) (p : PReg) (d : VReg) (a : SReg) (b : VReg) : Nat := 0xAD000006 + sh c.toNat 23 + sh p.val 20 + sh d.val 15 + sh a.val 10 + sh b.val 5
def Bits.vmaddVi (c : Bool) (p : PReg) (d : VReg) (i : BitVec 5) (b : VReg) : Nat := 0xAE000006 + sh c.toNat 23 + sh p.val 20 + sh d.val 15 + sh i.toNat 10 + sh b.val 5
def Bits.vdivVv (c : Bool) (p : PReg) (d a b : VReg) : Nat := 0xAC000007 + sh c.toNat 23 + sh p.val 20 + sh d.val 15 + sh a.val 10 + sh b.val 5
def Bits.vdivVx (c : Bool) (p : PReg) (d : VReg) (a : SReg) (b : VReg) : Nat := 0xAD000007 + sh c.toNat 23 + sh p.val 20 + sh d.val 15 + sh a.val 10 + sh b.val 5
def Bits.vdivVi (c : Bool) (p : PReg) (d : VReg) (i : BitVec 5) (b : VReg) : Nat := 0xAE000007 + sh c.toNat 23 + sh p.val 20 + sh d.val 15 + sh i.toNat 10 + sh b.val 5
def Bits.vdivnVv (c : Bool) (p : PReg) (d a b : VReg) : Nat := 0xAC000008 + sh c.toNat 23 + sh p.val 20 + sh d.val 15 + sh a.val 10 + sh b.val 5
def Bits.vdivnVx (c : Bool) (p : PReg) (d : VReg) (a : SReg) (b : VReg) : Nat := 0xAD000008 + sh c.toNat 23 + sh p.val 20 + sh d.val 15 + sh a.val 10 + sh b.val 5
def Bits.vdivnVi (c : Bool) (p : PReg) (d : VReg) (i : BitVec 5) (b : VReg) : Nat := 0xAE000008 + sh c.toNat 23 + sh p.val 20 + sh d.val 15 + sh i.toNat 10 + sh b.val 5
def Bits.vremVv (c : Bool) (p : PReg) (d a b : VReg) : Nat := 0xAC000009 + sh c.toNat 23 + sh p.val 20 + sh d.val 15 + sh a.val 10 + sh b.val 5
def Bits.vremVx (c : Bool) (p : PReg) (d : VReg) (a : SReg) (b : VReg) : Nat := 0xAD000009 + sh c.toNat 23 + sh p.val 20 + sh d.val 15 + sh a.val 10 + sh b.val 5
def Bits.vremVi (c : Bool) (p : PReg) (d : VReg) (i : BitVec 5) (b : VReg) : Nat := 0xAE000009 + sh c.toNat 23 + sh p.val 20 + sh d.val 15 + sh i.toNat 10 + sh b.val 5
def Bits.vremnVv (c : Bool) (p : PReg) (d a b : VReg) : Nat := 0xAC00000A + sh c.toNat 23 + sh p.val 20 + sh d.val 15 + sh a.val 10 + sh b.val 5
def Bits.vremnVx (c : Bool) (p : PReg) (d : VReg) (a : SReg) (b : VReg) : Nat := 0xAD00000A + sh c.toNat 23 + sh p.val 20 + sh d.val 15 + sh a.val 10 + sh b.val 5
def Bits.vremnVi (c : Bool) (p : PReg) (d : VReg) (i : BitVec 5) (b : VReg) : Nat := 0xAE00000A + sh c.toNat 23 + sh p.val 20 + sh d.val 15 + sh i.toNat 10 + sh b.val 5
def Bits.vandVv (c : Bool) (p : PReg) (d a b : VReg) : Nat := 0xAC00000B + sh c.toNat 23 + sh p.val 20 + sh d.val 15 + sh a.val 10 + sh b.val 5
def Bits.vandVx (c : Bool) (p : PReg) (d : VReg) (a : SReg) (b : VReg) : Nat := 0xAD00000B + sh c.toNat 23 + sh p.val 20 + sh d.val 15 + sh a.val 10 + sh b.val 5
def Bits.vandVi (c : Bool) (p : PReg) (d : VReg) (i : BitVec 5) (b : VReg) : Nat := 0xAE00000B + sh c.toNat 23 + sh p.val 20 + sh d.val 15 + sh i.toNat 10 + sh b.val 5
def Bits.vorVv (c : Bool) (p : PReg) (d a b : VReg) : Nat := 0xAC00000C + sh c.toNat 23 + sh p.val 20 + sh d.val 15 + sh a.val 10 + sh b.val 5
def Bits.vorVx (c : Bool) (p : PReg) (d : VReg) (a : SReg) (b : VReg) : Nat := 0xAD00000C + sh c.toNat 23 + sh p.val 20 + sh d.val 15 + sh a.val 10 + sh b.val 5
def Bits.vorVi (c : Bool) (p : PReg) (d : VReg) (i : BitVec 5) (b : VReg) : Nat := 0xAE00000C + sh c.toNat 23 + sh p.val 20 + sh d.val 15 + sh i.toNat 10 + sh b.val 5
def Bits.vxorVv (c : Bool) (p : PReg) (d a b : VReg) : Nat := 0xAC00000D + sh c.toNat 23 + sh p.val 20 + sh d.val 15 + sh a.val 10 + sh b.val 5
def Bits.vxorVx (c : Bool) (p : PReg) (d : VReg) (a : SReg) (b : VReg) : Nat := 0xAD00000D + sh c.toNat 23 + sh p.val 20 + sh d.val 15 + sh a.val 10 + sh b.val 5
def Bits.vxorVi (c : Bool) (p : PReg) (d : VReg) (i : BitVec 5) (b : VReg) : Nat := 0xAE00000D + sh c.toNat 23 + sh p.val 20 + sh d.val 15 + sh i.toNat 10 + sh b.val 5
def Bits.vshlVv (c : Bool) (p : PReg) (d a b : VReg) : Nat := 0xAC00000E + sh c.toNat 23 + sh p.val 20 + sh d.val 15 + sh a.val 10 + sh b.val 5
def Bits.vshlVx (c : Bool) (p : PReg) (d : VReg) (a : SReg) (b : VReg) : Nat := 0xAD00000E + sh c.toNat 23 + sh p.val 20 + sh d.val 15 + sh a.val 10 + sh b.val 5
def Bits.vshlVi (c : Bool) (p : PReg) (d : VReg) (i : BitVec 5) (b : VReg) : Nat := 0xAE00000E + sh c.toNat 23 + sh p.val 20 + sh d.val 15 + sh i.toNat 10 + sh b.val 5
def Bits.vshrVv (c : Bool) (p : PReg) (d a b : VReg) : Nat := 0xAC00000F + sh c.toNat 23 + sh p.val 20 + sh d.val 15 + sh a.val 10 + sh b.val 5
def Bits.vshrVx (c : Bool) (p : PReg) (d : VReg) (a : SReg) (b : VReg) : Nat := 0xAD00000F + sh c.toNat 23 + sh p.val 20 + sh d.val 15 + sh a.val 10 + sh b.val 5
def Bits.vshrVi (c : Bool) (p : PReg) (d : VReg) (i : BitVec 5) (b : VReg) : Nat := 0xAE00000F + sh c.toNat 23 + sh p.val 20 + sh d.val 15 + sh i.toNat 10 + sh b.val 5
def Bits.vsarVv (c : Bool) (p : PReg) (d a b : VReg) : Nat := 0xAC000010 + sh c.toNat 23 + sh p.val 20 + sh d.val 15 + sh a.val 10 + sh b.val 5
def Bits.vsarVx (c : Bool) (p : PReg) (d : VReg) (a : SReg) (b : VReg) : Nat := 0xAD000010 + sh c.toNat 23 + sh p.val 20 + sh d.val 15 + sh a.val 10 + sh b.val 5
def Bits.vsarVi (c : Bool) (p : PReg) (d : VReg) (i : BitVec 5) (b : VReg) : Nat := 0xAE000010 + sh c.toNat 23 + sh p.val 20 + sh d.val 15 + sh i.toNat 10 + sh b.val 5
def Bits.vminVv (c : Bool) (p : PReg) (d a b : VReg) : Nat := 0xAC000011 + sh c.toNat 23 + sh p.val 20 + sh d.val 15 + sh a.val 10 + sh b.val 5
def Bits.vminVx (c : Bool) (p : PReg) (d : VReg) (a : SReg) (b : VReg) : Nat := 0xAD000011 + sh c.toNat 23 + sh p.val 20 + sh d.val 15 + sh a.val 10 + sh b.val 5
def Bits.vminVi (c : Bool) (p : PReg) (d : VReg) (i : BitVec 5) (b : VReg) : Nat := 0xAE000011 + sh c.toNat 23 + sh p.val 20 + sh d.val 15 + sh i.toNat 10 + sh b.val 5
def Bits.vmaxVv (c : Bool) (p : PReg) (d a b : VReg) : Nat := 0xAC000012 + sh c.toNat 23 + sh p.val 20 + sh d.val 15 + sh a.val 10 + sh b.val 5
def Bits.vmaxVx (c : Bool) (p : PReg) (d : VReg) (a : SReg) (b : VReg) : Nat := 0xAD000012 + sh c.toNat 23 + sh p.val 20 + sh d.val 15 + sh a.val 10 + sh b.val 5
def Bits.vmaxVi (c : Bool) (p : PReg) (d : VReg) (i : BitVec 5) (b : VReg) : Nat := 0xAE000012 + sh c.toNat 23 + sh p.val 20 + sh d.val 15 + sh i.toNat 10 + sh b.val 5
def Bits.vminnVv (c : Bool) (p : PReg) (d a b : VReg) : Nat := 0xAC000013 + sh c.toNat 23 + sh p.val 20 + sh d.val 15 + sh a.val 10 + sh b.val 5
def Bits.vminnVx (c : Bool) (p : PReg) (d : VReg) (a : SReg) (b : VReg) : Nat := 0xAD000013 + sh c.toNat 23 + sh p.val 20 + sh d.val 15 + sh a.val 10 + sh b.val 5
def Bits.vminnVi (c : Bool) (p : PReg) (d : VReg) (i : BitVec 5) (b : VReg) : Nat := 0xAE000013 + sh c.toNat 23 + sh p.val 20 + sh d.val 15 + sh i.toNat 10 + sh b.val 5
def Bits.vmaxnVv (c : Bool) (p : PReg) (d a b : VReg) : Nat := 0xAC000014 + sh c.toNat 23 + sh p.val 20 + sh d.val 15 + sh a.val 10 + sh b.val 5
def Bits.vmaxnVx (c : Bool) (p : PReg) (d : VReg) (a : SReg) (b : VReg) : Nat := 0xAD000014 + sh c.toNat 23 + sh p.val 20 + sh d.val 15 + sh a.val 10 + sh b.val 5
def Bits.vmaxnVi (c : Bool) (p : PReg) (d : VReg) (i : BitVec 5) (b : VReg) : Nat := 0xAE000014 + sh c.toNat 23 + sh p.val 20 + sh d.val 15 + sh i.toNat 10 + sh b.val 5
def Bits.vsaddVv (c : Bool) (p : PReg) (d a b : VReg) : Nat := 0xAC000015 + sh c.toNat 23 + sh p.val 20 + sh d.val 15 + sh a.val 10 + sh b.val 5
def Bits.vsaddVx (c : Bool) (p : PReg) (d : VReg) (a : SReg) (b : VReg) : Nat := 0xAD000015 + sh c.toNat 23 + sh p.val 20 + sh d.val 15 + sh a.val 10 + sh b.val 5
def Bits.vsaddVi (c : Bool) (p : PReg) (d : VReg) (i : BitVec 5) (b : VReg) : Nat := 0xAE000015 + sh c.toNat 23 + sh p.val 20 + sh d.val 15 + sh i.toNat 10 + sh b.val 5
def Bits.vssubVv (c : Bool) (p : PReg) (d a b : VReg) : Nat := 0xAC000016 + sh c.toNat 23 + sh p.val 20 + sh d.val 15 + sh a.val 10 + sh b.val 5
def Bits.vssubVx (c : Bool) (p : PReg) (d : VReg) (a : SReg) (b : VReg) : Nat := 0xAD000016 + sh c.toNat 23 + sh p.val 20 + sh d.val 15 + sh a.val 10 + sh b.val 5
def Bits.vssubVi (c : Bool) (p : PReg) (d : VReg) (i : BitVec 5) (b : VReg) : Nat := 0xAE000016 + sh c.toNat 23 + sh p.val 20 + sh d.val 15 + sh i.toNat 10 + sh b.val 5
def Bits.vsaddnVv (c : Bool) (p : PReg) (d a b : VReg) : Nat := 0xAC000017 + sh c.toNat 23 + sh p.val 20 + sh d.val 15 + sh a.val 10 + sh b.val 5
def Bits.vsaddnVx (c : Bool) (p : PReg) (d : VReg) (a : SReg) (b : VReg) : Nat := 0xAD000017 + sh c.toNat 23 + sh p.val 20 + sh d.val 15 + sh a.val 10 + sh b.val 5
def Bits.vsaddnVi (c : Bool) (p : PReg) (d : VReg) (i : BitVec 5) (b : VReg) : Nat := 0xAE000017 + sh c.toNat 23 + sh p.val 20 + sh d.val 15 + sh i.toNat 10 + sh b.val 5
def Bits.vssubnVv (c : Bool) (p : PReg) (d a b : VReg) : Nat := 0xAC000018 + sh c.toNat 23 + sh p.val 20 + sh d.val 15 + sh a.val 10 + sh b.val 5
def Bits.vssubnVx (c : Bool) (p : PReg) (d : VReg) (a : SReg) (b : VReg) : Nat := 0xAD000018 + sh c.toNat 23 + sh p.val 20 + sh d.val 15 + sh a.val 10 + sh b.val 5
def Bits.vssubnVi (c : Bool) (p : PReg) (d : VReg) (i : BitVec 5) (b : VReg) : Nat := 0xAE000018 + sh c.toNat 23 + sh p.val 20 + sh d.val 15 + sh i.toNat 10 + sh b.val 5
def Bits.vabsdVv (c : Bool) (p : PReg) (d a b : VReg) : Nat := 0xAC000019 + sh c.toNat 23 + sh p.val 20 + sh d.val 15 + sh a.val 10 + sh b.val 5
def Bits.vabsdVx (c : Bool) (p : PReg) (d : VReg) (a : SReg) (b : VReg) : Nat := 0xAD000019 + sh c.toNat 23 + sh p.val 20 + sh d.val 15 + sh a.val 10 + sh b.val 5
def Bits.vabsdVi (c : Bool) (p : PReg) (d : VReg) (i : BitVec 5) (b : VReg) : Nat := 0xAE000019 + sh c.toNat 23 + sh p.val 20 + sh d.val 15 + sh i.toNat 10 + sh b.val 5
def Bits.vmergeVv (c : Bool) (p : PReg) (d a b : VReg) : Nat := 0xAC00001A + sh c.toNat 23 + sh p.val 20 + sh d.val 15 + sh a.val 10 + sh b.val 5
def Bits.vmergeVx (c : Bool) (p : PReg) (d : VReg) (a : SReg) (b : VReg) : Nat := 0xAD00001A + sh c.toNat 23 + sh p.val 20 + sh d.val 15 + sh a.val 10 + sh b.val 5
def Bits.vmergeVi (c : Bool) (p : PReg) (d : VReg) (i : BitVec 5) (b : VReg) : Nat := 0xAE00001A + sh c.toNat 23 + sh p.val 20 + sh d.val 15 + sh i.toNat 10 + sh b.val 5
def Bits.vmovVv (c : Bool) (p : PReg) (d a : VReg) : Nat := 0xAC00001B + sh c.toNat 23 + sh p.val 20 + sh d.val 15 + sh a.val 10
def Bits.vmovVx (c : Bool) (p : PReg) (d : VReg) (a : SReg) : Nat := 0xAD00001B + sh c.toNat 23 + sh p.val 20 + sh d.val 15 + sh a.val 10
def Bits.vmovVi (c : Bool) (p : PReg) (d : VReg) (i : BitVec 5) : Nat := 0xAE00001B + sh c.toNat 23 + sh p.val 20 + sh d.val 15 + sh i.toNat 10
def Bits.vfaddVv (c : Bool) (p : PReg) (d a b : VReg) : Nat := 0xAF000000 + sh c.toNat 23 + sh p.val 20 + sh d.val 15 + sh a.val 10 + sh b.val 5
def Bits.vfaddVx (c : Bool) (p : PReg) (d : VReg) (a : SReg) (b : VReg) : Nat := 0xB0000000 + sh c.toNat 23 + sh p.val 20 + sh d.val 15 + sh a.val 10 + sh b.val 5
def Bits.vfsubVv (c : Bool) (p : PReg) (d a b : VReg) : Nat := 0xAF000001 + sh c.toNat 23 + sh p.val 20 + sh d.val 15 + sh a.val 10 + sh b.val 5
def Bits.vfsubVx (c : Bool) (p : PReg) (d : VReg) (a : SReg) (b : VReg) : Nat := 0xB0000001 + sh c.toNat 23 + sh p.val 20 + sh d.val 15 + sh a.val 10 + sh b.val 5
def Bits.vfmulVv (c : Bool) (p : PReg) (d a b : VReg) : Nat := 0xAF000002 + sh c.toNat 23 + sh p.val 20 + sh d.val 15 + sh a.val 10 + sh b.val 5
def Bits.vfmulVx (c : Bool) (p : PReg) (d : VReg) (a : SReg) (b : VReg) : Nat := 0xB0000002 + sh c.toNat 23 + sh p.val 20 + sh d.val 15 + sh a.val 10 + sh b.val 5
def Bits.vfdivVv (c : Bool) (p : PReg) (d a b : VReg) : Nat := 0xAF000003 + sh c.toNat 23 + sh p.val 20 + sh d.val 15 + sh a.val 10 + sh b.val 5
def Bits.vfdivVx (c : Bool) (p : PReg) (d : VReg) (a : SReg) (b : VReg) : Nat := 0xB0000003 + sh c.toNat 23 + sh p.val 20 + sh d.val 15 + sh a.val 10 + sh b.val 5
def Bits.vfsqrt (c : Bool) (p : PReg) (d b : VReg) : Nat := 0xAF000004 + sh c.toNat 23 + sh p.val 20 + sh d.val 15 + sh b.val 5
def Bits.vfmaVv (c : Bool) (p : PReg) (d a b : VReg) : Nat := 0xAF000005 + sh c.toNat 23 + sh p.val 20 + sh d.val 15 + sh a.val 10 + sh b.val 5
def Bits.vfmaVx (c : Bool) (p : PReg) (d : VReg) (a : SReg) (b : VReg) : Nat := 0xB0000005 + sh c.toNat 23 + sh p.val 20 + sh d.val 15 + sh a.val 10 + sh b.val 5
def Bits.vfmsVv (c : Bool) (p : PReg) (d a b : VReg) : Nat := 0xAF000006 + sh c.toNat 23 + sh p.val 20 + sh d.val 15 + sh a.val 10 + sh b.val 5
def Bits.vfmsVx (c : Bool) (p : PReg) (d : VReg) (a : SReg) (b : VReg) : Nat := 0xB0000006 + sh c.toNat 23 + sh p.val 20 + sh d.val 15 + sh a.val 10 + sh b.val 5
def Bits.vfnmaVv (c : Bool) (p : PReg) (d a b : VReg) : Nat := 0xAF000007 + sh c.toNat 23 + sh p.val 20 + sh d.val 15 + sh a.val 10 + sh b.val 5
def Bits.vfnmaVx (c : Bool) (p : PReg) (d : VReg) (a : SReg) (b : VReg) : Nat := 0xB0000007 + sh c.toNat 23 + sh p.val 20 + sh d.val 15 + sh a.val 10 + sh b.val 5
def Bits.vfminVv (c : Bool) (p : PReg) (d a b : VReg) : Nat := 0xAF000008 + sh c.toNat 23 + sh p.val 20 + sh d.val 15 + sh a.val 10 + sh b.val 5
def Bits.vfminVx (c : Bool) (p : PReg) (d : VReg) (a : SReg) (b : VReg) : Nat := 0xB0000008 + sh c.toNat 23 + sh p.val 20 + sh d.val 15 + sh a.val 10 + sh b.val 5
def Bits.vfmaxVv (c : Bool) (p : PReg) (d a b : VReg) : Nat := 0xAF000009 + sh c.toNat 23 + sh p.val 20 + sh d.val 15 + sh a.val 10 + sh b.val 5
def Bits.vfmaxVx (c : Bool) (p : PReg) (d : VReg) (a : SReg) (b : VReg) : Nat := 0xB0000009 + sh c.toNat 23 + sh p.val 20 + sh d.val 15 + sh a.val 10 + sh b.val 5
def Bits.vfabs (c : Bool) (p : PReg) (d b : VReg) : Nat := 0xAF00000A + sh c.toNat 23 + sh p.val 20 + sh d.val 15 + sh b.val 5
def Bits.vfneg (c : Bool) (p : PReg) (d b : VReg) : Nat := 0xAF00000B + sh c.toNat 23 + sh p.val 20 + sh d.val 15 + sh b.val 5
def Bits.vfrcp (c : Bool) (p : PReg) (d b : VReg) : Nat := 0xAF00000C + sh c.toNat 23 + sh p.val 20 + sh d.val 15 + sh b.val 5
def Bits.vfrsq (c : Bool) (p : PReg) (d b : VReg) : Nat := 0xAF00000D + sh c.toNat 23 + sh p.val 20 + sh d.val 15 + sh b.val 5
def Bits.vfexp2 (c : Bool) (p : PReg) (d b : VReg) : Nat := 0xAF00000E + sh c.toNat 23 + sh p.val 20 + sh d.val 15 + sh b.val 5
def Bits.vflog2 (c : Bool) (p : PReg) (d b : VReg) : Nat := 0xAF00000F + sh c.toNat 23 + sh p.val 20 + sh d.val 15 + sh b.val 5
def Bits.vfclass (c : Bool) (p : PReg) (d b : VReg) : Nat := 0xAF000010 + sh c.toNat 23 + sh p.val 20 + sh d.val 15 + sh b.val 5
def Bits.vcmpEq (c : Bool) (p : PReg) (s : Bool) (q : PReg) (a : Fin 32) (b : VReg) (n : Bool) : Nat := 0xB1000000 + sh c.toNat 23 + sh p.val 20 + sh s.toNat 19 + sh q.val 15 + sh a.val 10 + sh b.val 5 + sh n.toNat 3
def Bits.vcmpNe (c : Bool) (p : PReg) (s : Bool) (q : PReg) (a : Fin 32) (b : VReg) (n : Bool) : Nat := 0xB1000001 + sh c.toNat 23 + sh p.val 20 + sh s.toNat 19 + sh q.val 15 + sh a.val 10 + sh b.val 5 + sh n.toNat 3
def Bits.vcmpLt (c : Bool) (p : PReg) (s : Bool) (q : PReg) (a : Fin 32) (b : VReg) (n : Bool) : Nat := 0xB1000002 + sh c.toNat 23 + sh p.val 20 + sh s.toNat 19 + sh q.val 15 + sh a.val 10 + sh b.val 5 + sh n.toNat 3
def Bits.vcmpLe (c : Bool) (p : PReg) (s : Bool) (q : PReg) (a : Fin 32) (b : VReg) (n : Bool) : Nat := 0xB1000003 + sh c.toNat 23 + sh p.val 20 + sh s.toNat 19 + sh q.val 15 + sh a.val 10 + sh b.val 5 + sh n.toNat 3
def Bits.vcmpGt (c : Bool) (p : PReg) (s : Bool) (q : PReg) (a : Fin 32) (b : VReg) (n : Bool) : Nat := 0xB1000004 + sh c.toNat 23 + sh p.val 20 + sh s.toNat 19 + sh q.val 15 + sh a.val 10 + sh b.val 5 + sh n.toNat 3
def Bits.vcmpGe (c : Bool) (p : PReg) (s : Bool) (q : PReg) (a : Fin 32) (b : VReg) (n : Bool) : Nat := 0xB1000005 + sh c.toNat 23 + sh p.val 20 + sh s.toNat 19 + sh q.val 15 + sh a.val 10 + sh b.val 5 + sh n.toNat 3
def Bits.vcmpxEq (c : Bool) (p : PReg) (s : Bool) (q : PReg) (a : Fin 32) (b : VReg) (n : Bool) : Nat := 0xB1000010 + sh c.toNat 23 + sh p.val 20 + sh s.toNat 19 + sh q.val 15 + sh a.val 10 + sh b.val 5 + sh n.toNat 3
def Bits.vcmpxNe (c : Bool) (p : PReg) (s : Bool) (q : PReg) (a : Fin 32) (b : VReg) (n : Bool) : Nat := 0xB1000011 + sh c.toNat 23 + sh p.val 20 + sh s.toNat 19 + sh q.val 15 + sh a.val 10 + sh b.val 5 + sh n.toNat 3
def Bits.vcmpxLt (c : Bool) (p : PReg) (s : Bool) (q : PReg) (a : Fin 32) (b : VReg) (n : Bool) : Nat := 0xB1000012 + sh c.toNat 23 + sh p.val 20 + sh s.toNat 19 + sh q.val 15 + sh a.val 10 + sh b.val 5 + sh n.toNat 3
def Bits.vcmpxLe (c : Bool) (p : PReg) (s : Bool) (q : PReg) (a : Fin 32) (b : VReg) (n : Bool) : Nat := 0xB1000013 + sh c.toNat 23 + sh p.val 20 + sh s.toNat 19 + sh q.val 15 + sh a.val 10 + sh b.val 5 + sh n.toNat 3
def Bits.vcmpxGt (c : Bool) (p : PReg) (s : Bool) (q : PReg) (a : Fin 32) (b : VReg) (n : Bool) : Nat := 0xB1000014 + sh c.toNat 23 + sh p.val 20 + sh s.toNat 19 + sh q.val 15 + sh a.val 10 + sh b.val 5 + sh n.toNat 3
def Bits.vcmpxGe (c : Bool) (p : PReg) (s : Bool) (q : PReg) (a : Fin 32) (b : VReg) (n : Bool) : Nat := 0xB1000015 + sh c.toNat 23 + sh p.val 20 + sh s.toNat 19 + sh q.val 15 + sh a.val 10 + sh b.val 5 + sh n.toNat 3
def Bits.pand (c : Bool) (p d a b : PReg) : Nat := 0xB2000000 + sh c.toNat 23 + sh p.val 20 + sh d.val 15 + sh a.val 10 + sh b.val 5
def Bits.por (c : Bool) (p d a b : PReg) : Nat := 0xB2000001 + sh c.toNat 23 + sh p.val 20 + sh d.val 15 + sh a.val 10 + sh b.val 5
def Bits.pxor (c : Bool) (p d a b : PReg) : Nat := 0xB2000002 + sh c.toNat 23 + sh p.val 20 + sh d.val 15 + sh a.val 10 + sh b.val 5
def Bits.pandn (c : Bool) (p d a b : PReg) : Nat := 0xB2000003 + sh c.toNat 23 + sh p.val 20 + sh d.val 15 + sh a.val 10 + sh b.val 5
def Bits.pnot (c : Bool) (p d b : PReg) : Nat := 0xB2000004 + sh c.toNat 23 + sh p.val 20 + sh d.val 15 + sh b.val 5
def Bits.pmov (c : Bool) (p d b : PReg) : Nat := 0xB2000005 + sh c.toNat 23 + sh p.val 20 + sh d.val 15 + sh b.val 5
def Bits.pset (c : Bool) (p d : PReg) : Nat := 0xB2000006 + sh c.toNat 23 + sh p.val 20 + sh d.val 15
def Bits.psbf (c : Bool) (p d b : PReg) : Nat := 0xB2000007 + sh c.toNat 23 + sh p.val 20 + sh d.val 15 + sh b.val 5
def Bits.psif (c : Bool) (p d b : PReg) : Nat := 0xB2000008 + sh c.toNat 23 + sh p.val 20 + sh d.val 15 + sh b.val 5
def Bits.psof (c : Bool) (p d b : PReg) : Nat := 0xB2000009 + sh c.toNat 23 + sh p.val 20 + sh d.val 15 + sh b.val 5
def Bits.ppopc (c : Bool) (p : PReg) (d : SReg) (b : PReg) : Nat := 0xB200000A + sh c.toNat 23 + sh p.val 20 + sh d.val 15 + sh b.val 5
def Bits.pfirst (c : Bool) (p : PReg) (d : SReg) (b : PReg) : Nat := 0xB200000B + sh c.toNat 23 + sh p.val 20 + sh d.val 15 + sh b.val 5
def Bits.vrsum (c : Bool) (p : PReg) (d a : SReg) (b : VReg) : Nat := 0xB3000000 + sh c.toNat 23 + sh p.val 20 + sh d.val 15 + sh a.val 10 + sh b.val 5
def Bits.vrsumO (c : Bool) (p : PReg) (d a : SReg) (b : VReg) : Nat := 0xB3000001 + sh c.toNat 23 + sh p.val 20 + sh d.val 15 + sh a.val 10 + sh b.val 5
def Bits.vrmax (c : Bool) (p : PReg) (d a : SReg) (b : VReg) : Nat := 0xB3000002 + sh c.toNat 23 + sh p.val 20 + sh d.val 15 + sh a.val 10 + sh b.val 5
def Bits.vrmin (c : Bool) (p : PReg) (d a : SReg) (b : VReg) : Nat := 0xB3000003 + sh c.toNat 23 + sh p.val 20 + sh d.val 15 + sh a.val 10 + sh b.val 5
def Bits.vrmaxn (c : Bool) (p : PReg) (d a : SReg) (b : VReg) : Nat := 0xB3000004 + sh c.toNat 23 + sh p.val 20 + sh d.val 15 + sh a.val 10 + sh b.val 5
def Bits.vrminn (c : Bool) (p : PReg) (d a : SReg) (b : VReg) : Nat := 0xB3000005 + sh c.toNat 23 + sh p.val 20 + sh d.val 15 + sh a.val 10 + sh b.val 5
def Bits.vrand (c : Bool) (p : PReg) (d a : SReg) (b : VReg) : Nat := 0xB3000006 + sh c.toNat 23 + sh p.val 20 + sh d.val 15 + sh a.val 10 + sh b.val 5
def Bits.vror (c : Bool) (p : PReg) (d a : SReg) (b : VReg) : Nat := 0xB3000007 + sh c.toNat 23 + sh p.val 20 + sh d.val 15 + sh a.val 10 + sh b.val 5
def Bits.vrxor (c : Bool) (p : PReg) (d a : SReg) (b : VReg) : Nat := 0xB3000008 + sh c.toNat 23 + sh p.val 20 + sh d.val 15 + sh a.val 10 + sh b.val 5
def Bits.vslup (c : Bool) (p : PReg) (d : VReg) (a : SReg) (b : VReg) : Nat := 0xB4000000 + sh c.toNat 23 + sh p.val 20 + sh d.val 15 + sh a.val 10 + sh b.val 5
def Bits.vsldn (c : Bool) (p : PReg) (d : VReg) (a : SReg) (b : VReg) : Nat := 0xB4000001 + sh c.toNat 23 + sh p.val 20 + sh d.val 15 + sh a.val 10 + sh b.val 5
def Bits.vperm (c : Bool) (p : PReg) (d a b : VReg) : Nat := 0xB4000002 + sh c.toNat 23 + sh p.val 20 + sh d.val 15 + sh a.val 10 + sh b.val 5
def Bits.vcomp (c : Bool) (p : PReg) (d b : VReg) : Nat := 0xB4000003 + sh c.toNat 23 + sh p.val 20 + sh d.val 15 + sh b.val 5
def Bits.vxpnd (c : Bool) (p : PReg) (d b : VReg) : Nat := 0xB4000004 + sh c.toNat 23 + sh p.val 20 + sh d.val 15 + sh b.val 5
def Bits.vmvs (c : Bool) (d a : SReg) (b : VReg) : Nat := 0xB4000005 + sh c.toNat 23 + sh d.val 15 + sh a.val 10 + sh b.val 5
def Bits.vmvv (c : Bool) (d : VReg) (a b : SReg) : Nat := 0xB4000006 + sh c.toNat 23 + sh d.val 15 + sh a.val 10 + sh b.val 5
def Bits.viota (c : Bool) (p : PReg) (d : VReg) : Nat := 0xB4000007 + sh c.toNat 23 + sh p.val 20 + sh d.val 15
def Bits.vscan (c : Bool) (p : PReg) (d : VReg) (a : SReg) (b : VReg) : Nat := 0xB4000008 + sh c.toNat 23 + sh p.val 20 + sh d.val 15 + sh a.val 10 + sh b.val 5
def Bits.vcvt (c : Bool) (p : PReg) (d : VReg) (t : ECode) (b : VReg) (o q g : Bool) (r : Fin 4) : Nat := 0xB5000000 + sh c.toNat 23 + sh p.val 20 + sh d.val 15 + sh t.val 10 + sh b.val 5 + sh o.toNat 4 + sh q.toNat 3 + sh g.toNat 2 + r.val
def Bits.vqadd (c : Bool) (p : PReg) (d a b : VReg) : Nat := 0xB6000000 + sh c.toNat 23 + sh p.val 20 + sh d.val 15 + sh a.val 10 + sh b.val 5
def Bits.vqsub (c : Bool) (p : PReg) (d a b : VReg) : Nat := 0xB6000001 + sh c.toNat 23 + sh p.val 20 + sh d.val 15 + sh a.val 10 + sh b.val 5
def Bits.vqmul (c : Bool) (p : PReg) (d a b : VReg) : Nat := 0xB6000002 + sh c.toNat 23 + sh p.val 20 + sh d.val 15 + sh a.val 10 + sh b.val 5
def Bits.vqmac (c : Bool) (p : PReg) (d a b : VReg) : Nat := 0xB6000003 + sh c.toNat 23 + sh p.val 20 + sh d.val 15 + sh a.val 10 + sh b.val 5
def Bits.vqdot (c : Bool) (p : PReg) (d a b : VReg) : Nat := 0xB6000004 + sh c.toNat 23 + sh p.val 20 + sh d.val 15 + sh a.val 10 + sh b.val 5
def Bits.vqshr (c : Bool) (p : PReg) (d a b : VReg) : Nat := 0xB6000005 + sh c.toNat 23 + sh p.val 20 + sh d.val 15 + sh a.val 10 + sh b.val 5
def Bits.vsclLd (c : Bool) (k : EReg) (a : SReg) : Nat := 0xB7000000 + sh c.toNat 23 + sh k.val 15 + sh a.val 10
def Bits.vsclSt (c : Bool) (k : EReg) (a : SReg) : Nat := 0xB7000001 + sh c.toNat 23 + sh k.val 15 + sh a.val 10
def Bits.vsclFit (c : Bool) (p : PReg) (k : EReg) (b : VReg) : Nat := 0xB7000002 + sh c.toNat 23 + sh p.val 20 + sh k.val 15 + sh b.val 5
def Bits.vsclMov (c : Bool) (k j : EReg) : Nat := 0xB7000003 + sh c.toNat 23 + sh k.val 15 + sh j.val 5
def Bits.vsett (d a b : SReg) : Nat := 0xB8000000 + sh d.val 19 + sh a.val 14 + sh b.val 9
def Bits.vsetb (d : SReg) (n : Bob) (b : SReg) : Nat := 0xB8000001 + sh d.val 19 + sh n.val 14 + sh b.val 9
def Bits.vctxSv (a : SReg) : Nat := 0xB8000002 + sh a.val 14
def Bits.vctxRs (a : SReg) : Nat := 0xB8000003 + sh a.val 14
def Bits.matAtt (d a : SReg) : Nat := 0xB9000000 + sh d.val 19 + sh a.val 14
def Bits.matDet : Nat := 0xB9000001
def Bits.matShp (d a : SReg) : Nat := 0xB9000002 + sh d.val 19 + sh a.val 14
def Bits.cpyMs (n : Bob) (a b c : SReg) : Nat := 0xBA000000 + sh n.val 19 + sh a.val 14 + sh b.val 9 + sh c.val 4
def Bits.cpySm (n : Bob) (a b c : SReg) : Nat := 0xBA000001 + sh n.val 19 + sh a.val 14 + sh b.val 9 + sh c.val 4
def Bits.cpyMr (n : Bob) (a b c : SReg) : Nat := 0xBA000002 + sh n.val 19 + sh a.val 14 + sh b.val 9 + sh c.val 4
def Bits.cpyRm (n : Bob) (a b c : SReg) : Nat := 0xBA000003 + sh n.val 19 + sh a.val 14 + sh b.val 9 + sh c.val 4
def Bits.cpyRr (n : Bob) (a b c : SReg) : Nat := 0xBA000004 + sh n.val 19 + sh a.val 14 + sh b.val 9 + sh c.val 4
def Bits.cpyMm (n : Bob) (a b c : SReg) : Nat := 0xBA000005 + sh n.val 19 + sh a.val 14 + sh b.val 9 + sh c.val 4
def Bits.cpyGs (n : Bob) (a b c : SReg) : Nat := 0xBA000006 + sh n.val 19 + sh a.val 14 + sh b.val 9 + sh c.val 4
def Bits.cpyLz (n : Bob) (a b c : SReg) : Nat := 0xBA000007 + sh n.val 19 + sh a.val 14 + sh b.val 9 + sh c.val 4
def Bits.bwait (n : Bob) : Nat := 0xBB000000 + sh n.val 14
def Bits.bchk (d : PReg) (n : Bob) (b : SReg) : Nat := 0xBB000001 + sh d.val 19 + sh n.val 14 + sh b.val 9
def Bits.brel (n : Bob) : Nat := 0xBB000002 + sh n.val 14
def Bits.bstat (d : SReg) (n : Bob) (b : SReg) : Nat := 0xBB000003 + sh d.val 19 + sh n.val 14 + sh b.val 9
def Bits.lzOpen (d a b : SReg) : Nat := 0xBC000000 + sh d.val 19 + sh a.val 14 + sh b.val 9
def Bits.lzClose (a : SReg) : Nat := 0xBC000001 + sh a.val 14
def Bits.lzResv (d a b : SReg) : Nat := 0xBC000002 + sh d.val 19 + sh a.val 14 + sh b.val 9
def Bits.lzWait (d a : SReg) : Nat := 0xBC000003 + sh d.val 19 + sh a.val 14
def Bits.lzFree (a : SReg) : Nat := 0xBC000004 + sh a.val 14
def Bits.lzStat (d a : SReg) : Nat := 0xBC000005 + sh d.val 19 + sh a.val 14
def Bits.ctrAdd (d a b : SReg) : Nat := 0xBD000000 + sh d.val 19 + sh a.val 14 + sh b.val 9
def Bits.ctrRd (d a : SReg) : Nat := 0xBD000001 + sh d.val 19 + sh a.val 14
def Bits.ctrSet (d a b : SReg) : Nat := 0xBD000002 + sh d.val 19 + sh a.val 14 + sh b.val 9
def Bits.ctrWait (a b : SReg) : Nat := 0xBD000003 + sh a.val 14 + sh b.val 9
def Bits.trdlArm (d a b : SReg) : Nat := 0xBD000004 + sh d.val 19 + sh a.val 14 + sh b.val 9
def Bits.trdlX (d a : SReg) : Nat := 0xBD000005 + sh d.val 19 + sh a.val 14
def Bits.trdlStat (d a : SReg) : Nat := 0xBD000006 + sh d.val 19 + sh a.val 14
def Bits.eqPop (d b : SReg) : Nat := 0xBD000007 + sh d.val 19 + sh b.val 9
def Bits.eqCnt (d b : SReg) : Nat := 0xBD000008 + sh d.val 19 + sh b.val 9
def Bits.fabQuiet (d : SReg) : Nat := 0xBD000009 + sh d.val 19
def Bits.ownSet (d a : SReg) : Nat := 0xBE000000 + sh d.val 19 + sh a.val 14
def Bits.harmRd (d a b : SReg) : Nat := 0xBE000001 + sh d.val 19 + sh a.val 14 + sh b.val 9
def Bits.dmxRd (d a b : SReg) : Nat := 0xBE000002 + sh d.val 19 + sh a.val 14 + sh b.val 9
def Bits.dmxAgg (d a b : SReg) : Nat := 0xBE000003 + sh d.val 19 + sh a.val 14 + sh b.val 9
def Bits.eneRd (d a b : SReg) : Nat := 0xBE000004 + sh d.val 19 + sh a.val 14 + sh b.val 9
def Bits.mop (p : PReg) (tl : TReg) (va vb : VReg) (aty bty : ECode) (sc : Bool) (ea eb : EReg) : Nat := 0xC000000000000000 + sh p.val 52 + sh tl.val 50 + sh va.val 45 + sh vb.val 40 + sh aty.val 27 + sh bty.val 22 + sh sc.toNat 21 + sh ea.val 18 + sh eb.val 15
def Bits.mops (p : PReg) (tl : TReg) (va vb : VReg) (aty bty : ECode) : Nat := 0xC100000000000000 + sh p.val 52 + sh tl.val 50 + sh va.val 45 + sh vb.val 40 + sh aty.val 27 + sh bty.val 22
def Bits.mzero (tl : TReg) : Nat := 0xC200000000000000 + sh tl.val 50
def Bits.mtld (tl : TReg) (sa sb : SReg) : Nat := 0xC300000000000000 + sh tl.val 50 + sh sa.val 35 + sh sb.val 10
def Bits.mtst (tl : TReg) (sa sb : SReg) : Nat := 0xC400000000000000 + sh tl.val 50 + sh sa.val 35 + sh sb.val 10
def Bits.mrow (tl : TReg) (va : VReg) (sa : SReg) : Nat := 0xC500000000000000 + sh tl.val 50 + sh va.val 45 + sh sa.val 35
def Bits.mwrow (tl : TReg) (va : VReg) (sa : SReg) : Nat := 0xC600000000000000 + sh tl.val 50 + sh va.val 45 + sh sa.val 35
def Bits.cAddi (r : SReg) (i : BitVec 6) : Nat := 0x0000 + sh r.val 6 + i.toNat
def Bits.cLi (r : SReg) (i : BitVec 6) : Nat := 0x0800 + sh r.val 6 + i.toNat
def Bits.cMov (r s : SReg) : Nat := 0x1000 + sh r.val 6 + s.val
def Bits.cAdd (r s : SReg) : Nat := 0x1800 + sh r.val 6 + s.val
def Bits.cSub (r s : SReg) : Nat := 0x2000 + sh r.val 6 + s.val
def Bits.cAnd (r s : SReg) : Nat := 0x2800 + sh r.val 6 + s.val
def Bits.cShli (r : SReg) (n : BitVec 6) : Nat := 0x3000 + sh r.val 6 + n.toNat
def Bits.cShri (r : SReg) (n : BitVec 6) : Nat := 0x3800 + sh r.val 6 + n.toNat
def Bits.cLdsp (r : SReg) (o : BitVec 6) : Nat := 0x4000 + sh r.val 6 + o.toNat
def Bits.cStsp (r : SReg) (o : BitVec 6) : Nat := 0x4800 + sh r.val 6 + o.toNat
def Bits.cBeqz (r : SReg) (o : BitVec 6) : Nat := 0x5000 + sh r.val 6 + o.toNat
def Bits.cBnez (r : SReg) (o : BitVec 6) : Nat := 0x5800 + sh r.val 6 + o.toNat
def Bits.cJ (o : BitVec 11) : Nat := 0x6000 + o.toNat
def Bits.cJr (r : SReg) : Nat := 0x6800 + sh r.val 6
def Bits.cNop : Nat := 0x7000

/-- The bits of an instruction, as EADDR shows them on ILLEGAL (R65). An event has no encoding. -/
def encode : Instr → Nat
  | .add d a b => Bits.add d a b
  | .sub d a b => Bits.sub d a b
  | .and d a b => Bits.and d a b
  | .or d a b => Bits.or d a b
  | .xor d a b => Bits.xor d a b
  | .andn d a b => Bits.andn d a b
  | .orn d a b => Bits.orn d a b
  | .shl d a b => Bits.shl d a b
  | .shr d a b => Bits.shr d a b
  | .sar d a b => Bits.sar d a b
  | .rol d a b => Bits.rol d a b
  | .ror d a b => Bits.ror d a b
  | .slt d a b => Bits.slt d a b
  | .sltn d a b => Bits.sltn d a b
  | .min d a b => Bits.min d a b
  | .max d a b => Bits.max d a b
  | .minn d a b => Bits.minn d a b
  | .maxn d a b => Bits.maxn d a b
  | .mul d a b => Bits.mul d a b
  | .mulh d a b => Bits.mulh d a b
  | .mulhn d a b => Bits.mulhn d a b
  | .div d a b => Bits.div d a b
  | .divn d a b => Bits.divn d a b
  | .rem d a b => Bits.rem d a b
  | .remn d a b => Bits.remn d a b
  | .clz d a => Bits.clz d a
  | .ctz d a => Bits.ctz d a
  | .popc d a => Bits.popc d a
  | .sext d a b => Bits.sext d a b
  | .addi d a i => Bits.addi d a i
  | .andi d a i => Bits.andi d a i
  | .ori d a i => Bits.ori d a i
  | .xori d a i => Bits.xori d a i
  | .shli d a n => Bits.shli d a n
  | .shri d a n => Bits.shri d a n
  | .sari d a n => Bits.sari d a n
  | .slti d a i => Bits.slti d a i
  | .sltni d a i => Bits.sltni d a i
  | .lui d i => Bits.lui d i
  | .adpc d i => Bits.adpc d i
  | .bext d a p l => Bits.bext d a p l
  | .bextS d a p l => Bits.bextS d a p l
  | .bins d a p l => Bits.bins d a p l
  | .ld d a w o => Bits.ld d a w o
  | .st s a w o => Bits.st s a w o
  | .lda d a w o => Bits.lda d a w o
  | .stl s a w o => Bits.stl s a w o
  | .beq a b o => Bits.beq a b o
  | .bne a b o => Bits.bne a b o
  | .blt a b o => Bits.blt a b o
  | .bge a b o => Bits.bge a b o
  | .bltn a b o => Bits.bltn a b o
  | .bgen a b o => Bits.bgen a b o
  | .jmp o => Bits.jmp o
  | .call o => Bits.call o
  | .jr a => Bits.jr a
  | .callr d a => Bits.callr d a
  | .amoSwap d a b o z => Bits.amoSwap d a b o z
  | .amoAdd d a b o z => Bits.amoAdd d a b o z
  | .amoAnd d a b o z => Bits.amoAnd d a b o z
  | .amoOr d a b o z => Bits.amoOr d a b o z
  | .amoXor d a b o z => Bits.amoXor d a b o z
  | .amoMin d a b o z => Bits.amoMin d a b o z
  | .amoMax d a b o z => Bits.amoMax d a b o z
  | .amoMinn d a b o z => Bits.amoMinn d a b o z
  | .amoMaxn d a b o z => Bits.amoMaxn d a b o z
  | .cas d a b c o z => Bits.cas d a b c o z
  | .fence s k => Bits.fence s k
  | .trap a => Bits.trap a
  | .rett => Bits.rett
  | .ckpt d => Bits.ckpt d
  | .exit => Bits.exit
  | .yield => Bits.yield
  | .sloop a => Bits.sloop a
  | .crr d r => Bits.crr d r
  | .crw d a r => Bits.crw d a r
  | .crs d a r => Bits.crs d a r
  | .crc d a r => Bits.crc d a r
  | .snext o => Bits.snext o
  | .launch d a => Bits.launch d a
  | .launchLend d a => Bits.launchLend d a
  | .fadd d a b t => Bits.fadd d a b t
  | .fsub d a b t => Bits.fsub d a b t
  | .fmul d a b t => Bits.fmul d a b t
  | .fdiv d a b t => Bits.fdiv d a b t
  | .fsqrt d a t => Bits.fsqrt d a t
  | .fmin d a b t => Bits.fmin d a b t
  | .fmax d a b t => Bits.fmax d a b t
  | .fcmpEq d a b t => Bits.fcmpEq d a b t
  | .fcmpLt d a b t => Bits.fcmpLt d a b t
  | .fcmpLe d a b t => Bits.fcmpLe d a b t
  | .fclass d a t => Bits.fclass d a t
  | .fcvtF d a t => Bits.fcvtF d a t
  | .fcvtI64 d a t => Bits.fcvtI64 d a t
  | .fcvtN64 d a t => Bits.fcvtN64 d a t
  | .fcvtFi d a t => Bits.fcvtFi d a t
  | .fcvtFn d a t => Bits.fcvtFn d a t
  | .fma d a b c t => Bits.fma d a b c t
  | .fms d a b c t => Bits.fms d a b c t
  | .fnma d a b c t => Bits.fnma d a b c t
  | .fnms d a b c t => Bits.fnms d a b c t
  | .vsetl d a i => Bits.vsetl d a i
  | .vld c p d a n => Bits.vld c p d a n
  | .vldS c p d a x n => Bits.vldS c p d a x n
  | .vldX c p d a x n => Bits.vldX c p d a x n
  | .vldFf c p d a n => Bits.vldFf c p d a n
  | .vldP c p d a x n => Bits.vldP c p d a x n
  | .vst c p d a n => Bits.vst c p d a n
  | .vstS c p d a x n => Bits.vstS c p d a x n
  | .vstX c p d a x n => Bits.vstX c p d a x n
  | .vstXo c p d a x n => Bits.vstXo c p d a x n
  | .vstP c p d a x n => Bits.vstP c p d a x n
  | .vamoSwap c p d a b r => Bits.vamoSwap c p d a b r
  | .vamoAdd c p d a b r => Bits.vamoAdd c p d a b r
  | .vamoAnd c p d a b r => Bits.vamoAnd c p d a b r
  | .vamoOr c p d a b r => Bits.vamoOr c p d a b r
  | .vamoXor c p d a b r => Bits.vamoXor c p d a b r
  | .vamoMin c p d a b r => Bits.vamoMin c p d a b r
  | .vamoMax c p d a b r => Bits.vamoMax c p d a b r
  | .vamoMinn c p d a b r => Bits.vamoMinn c p d a b r
  | .vamoMaxn c p d a b r => Bits.vamoMaxn c p d a b r
  | .vaddVv c p d a b => Bits.vaddVv c p d a b
  | .vaddVx c p d a b => Bits.vaddVx c p d a b
  | .vaddVi c p d i b => Bits.vaddVi c p d i b
  | .vsubVv c p d a b => Bits.vsubVv c p d a b
  | .vsubVx c p d a b => Bits.vsubVx c p d a b
  | .vsubVi c p d i b => Bits.vsubVi c p d i b
  | .vrsubVv c p d a b => Bits.vrsubVv c p d a b
  | .vrsubVx c p d a b => Bits.vrsubVx c p d a b
  | .vrsubVi c p d i b => Bits.vrsubVi c p d i b
  | .vmulVv c p d a b => Bits.vmulVv c p d a b
  | .vmulVx c p d a b => Bits.vmulVx c p d a b
  | .vmulVi c p d i b => Bits.vmulVi c p d i b
  | .vmulhVv c p d a b => Bits.vmulhVv c p d a b
  | .vmulhVx c p d a b => Bits.vmulhVx c p d a b
  | .vmulhVi c p d i b => Bits.vmulhVi c p d i b
  | .vmulhnVv c p d a b => Bits.vmulhnVv c p d a b
  | .vmulhnVx c p d a b => Bits.vmulhnVx c p d a b
  | .vmulhnVi c p d i b => Bits.vmulhnVi c p d i b
  | .vmaddVv c p d a b => Bits.vmaddVv c p d a b
  | .vmaddVx c p d a b => Bits.vmaddVx c p d a b
  | .vmaddVi c p d i b => Bits.vmaddVi c p d i b
  | .vdivVv c p d a b => Bits.vdivVv c p d a b
  | .vdivVx c p d a b => Bits.vdivVx c p d a b
  | .vdivVi c p d i b => Bits.vdivVi c p d i b
  | .vdivnVv c p d a b => Bits.vdivnVv c p d a b
  | .vdivnVx c p d a b => Bits.vdivnVx c p d a b
  | .vdivnVi c p d i b => Bits.vdivnVi c p d i b
  | .vremVv c p d a b => Bits.vremVv c p d a b
  | .vremVx c p d a b => Bits.vremVx c p d a b
  | .vremVi c p d i b => Bits.vremVi c p d i b
  | .vremnVv c p d a b => Bits.vremnVv c p d a b
  | .vremnVx c p d a b => Bits.vremnVx c p d a b
  | .vremnVi c p d i b => Bits.vremnVi c p d i b
  | .vandVv c p d a b => Bits.vandVv c p d a b
  | .vandVx c p d a b => Bits.vandVx c p d a b
  | .vandVi c p d i b => Bits.vandVi c p d i b
  | .vorVv c p d a b => Bits.vorVv c p d a b
  | .vorVx c p d a b => Bits.vorVx c p d a b
  | .vorVi c p d i b => Bits.vorVi c p d i b
  | .vxorVv c p d a b => Bits.vxorVv c p d a b
  | .vxorVx c p d a b => Bits.vxorVx c p d a b
  | .vxorVi c p d i b => Bits.vxorVi c p d i b
  | .vshlVv c p d a b => Bits.vshlVv c p d a b
  | .vshlVx c p d a b => Bits.vshlVx c p d a b
  | .vshlVi c p d i b => Bits.vshlVi c p d i b
  | .vshrVv c p d a b => Bits.vshrVv c p d a b
  | .vshrVx c p d a b => Bits.vshrVx c p d a b
  | .vshrVi c p d i b => Bits.vshrVi c p d i b
  | .vsarVv c p d a b => Bits.vsarVv c p d a b
  | .vsarVx c p d a b => Bits.vsarVx c p d a b
  | .vsarVi c p d i b => Bits.vsarVi c p d i b
  | .vminVv c p d a b => Bits.vminVv c p d a b
  | .vminVx c p d a b => Bits.vminVx c p d a b
  | .vminVi c p d i b => Bits.vminVi c p d i b
  | .vmaxVv c p d a b => Bits.vmaxVv c p d a b
  | .vmaxVx c p d a b => Bits.vmaxVx c p d a b
  | .vmaxVi c p d i b => Bits.vmaxVi c p d i b
  | .vminnVv c p d a b => Bits.vminnVv c p d a b
  | .vminnVx c p d a b => Bits.vminnVx c p d a b
  | .vminnVi c p d i b => Bits.vminnVi c p d i b
  | .vmaxnVv c p d a b => Bits.vmaxnVv c p d a b
  | .vmaxnVx c p d a b => Bits.vmaxnVx c p d a b
  | .vmaxnVi c p d i b => Bits.vmaxnVi c p d i b
  | .vsaddVv c p d a b => Bits.vsaddVv c p d a b
  | .vsaddVx c p d a b => Bits.vsaddVx c p d a b
  | .vsaddVi c p d i b => Bits.vsaddVi c p d i b
  | .vssubVv c p d a b => Bits.vssubVv c p d a b
  | .vssubVx c p d a b => Bits.vssubVx c p d a b
  | .vssubVi c p d i b => Bits.vssubVi c p d i b
  | .vsaddnVv c p d a b => Bits.vsaddnVv c p d a b
  | .vsaddnVx c p d a b => Bits.vsaddnVx c p d a b
  | .vsaddnVi c p d i b => Bits.vsaddnVi c p d i b
  | .vssubnVv c p d a b => Bits.vssubnVv c p d a b
  | .vssubnVx c p d a b => Bits.vssubnVx c p d a b
  | .vssubnVi c p d i b => Bits.vssubnVi c p d i b
  | .vabsdVv c p d a b => Bits.vabsdVv c p d a b
  | .vabsdVx c p d a b => Bits.vabsdVx c p d a b
  | .vabsdVi c p d i b => Bits.vabsdVi c p d i b
  | .vmergeVv c p d a b => Bits.vmergeVv c p d a b
  | .vmergeVx c p d a b => Bits.vmergeVx c p d a b
  | .vmergeVi c p d i b => Bits.vmergeVi c p d i b
  | .vmovVv c p d a => Bits.vmovVv c p d a
  | .vmovVx c p d a => Bits.vmovVx c p d a
  | .vmovVi c p d i => Bits.vmovVi c p d i
  | .vfaddVv c p d a b => Bits.vfaddVv c p d a b
  | .vfaddVx c p d a b => Bits.vfaddVx c p d a b
  | .vfsubVv c p d a b => Bits.vfsubVv c p d a b
  | .vfsubVx c p d a b => Bits.vfsubVx c p d a b
  | .vfmulVv c p d a b => Bits.vfmulVv c p d a b
  | .vfmulVx c p d a b => Bits.vfmulVx c p d a b
  | .vfdivVv c p d a b => Bits.vfdivVv c p d a b
  | .vfdivVx c p d a b => Bits.vfdivVx c p d a b
  | .vfsqrt c p d b => Bits.vfsqrt c p d b
  | .vfmaVv c p d a b => Bits.vfmaVv c p d a b
  | .vfmaVx c p d a b => Bits.vfmaVx c p d a b
  | .vfmsVv c p d a b => Bits.vfmsVv c p d a b
  | .vfmsVx c p d a b => Bits.vfmsVx c p d a b
  | .vfnmaVv c p d a b => Bits.vfnmaVv c p d a b
  | .vfnmaVx c p d a b => Bits.vfnmaVx c p d a b
  | .vfminVv c p d a b => Bits.vfminVv c p d a b
  | .vfminVx c p d a b => Bits.vfminVx c p d a b
  | .vfmaxVv c p d a b => Bits.vfmaxVv c p d a b
  | .vfmaxVx c p d a b => Bits.vfmaxVx c p d a b
  | .vfabs c p d b => Bits.vfabs c p d b
  | .vfneg c p d b => Bits.vfneg c p d b
  | .vfrcp c p d b => Bits.vfrcp c p d b
  | .vfrsq c p d b => Bits.vfrsq c p d b
  | .vfexp2 c p d b => Bits.vfexp2 c p d b
  | .vflog2 c p d b => Bits.vflog2 c p d b
  | .vfclass c p d b => Bits.vfclass c p d b
  | .vcmpEq c p s q a b n => Bits.vcmpEq c p s q a b n
  | .vcmpNe c p s q a b n => Bits.vcmpNe c p s q a b n
  | .vcmpLt c p s q a b n => Bits.vcmpLt c p s q a b n
  | .vcmpLe c p s q a b n => Bits.vcmpLe c p s q a b n
  | .vcmpGt c p s q a b n => Bits.vcmpGt c p s q a b n
  | .vcmpGe c p s q a b n => Bits.vcmpGe c p s q a b n
  | .vcmpxEq c p s q a b n => Bits.vcmpxEq c p s q a b n
  | .vcmpxNe c p s q a b n => Bits.vcmpxNe c p s q a b n
  | .vcmpxLt c p s q a b n => Bits.vcmpxLt c p s q a b n
  | .vcmpxLe c p s q a b n => Bits.vcmpxLe c p s q a b n
  | .vcmpxGt c p s q a b n => Bits.vcmpxGt c p s q a b n
  | .vcmpxGe c p s q a b n => Bits.vcmpxGe c p s q a b n
  | .pand c p d a b => Bits.pand c p d a b
  | .por c p d a b => Bits.por c p d a b
  | .pxor c p d a b => Bits.pxor c p d a b
  | .pandn c p d a b => Bits.pandn c p d a b
  | .pnot c p d b => Bits.pnot c p d b
  | .pmov c p d b => Bits.pmov c p d b
  | .pset c p d => Bits.pset c p d
  | .psbf c p d b => Bits.psbf c p d b
  | .psif c p d b => Bits.psif c p d b
  | .psof c p d b => Bits.psof c p d b
  | .ppopc c p d b => Bits.ppopc c p d b
  | .pfirst c p d b => Bits.pfirst c p d b
  | .vrsum c p d a b => Bits.vrsum c p d a b
  | .vrsumO c p d a b => Bits.vrsumO c p d a b
  | .vrmax c p d a b => Bits.vrmax c p d a b
  | .vrmin c p d a b => Bits.vrmin c p d a b
  | .vrmaxn c p d a b => Bits.vrmaxn c p d a b
  | .vrminn c p d a b => Bits.vrminn c p d a b
  | .vrand c p d a b => Bits.vrand c p d a b
  | .vror c p d a b => Bits.vror c p d a b
  | .vrxor c p d a b => Bits.vrxor c p d a b
  | .vslup c p d a b => Bits.vslup c p d a b
  | .vsldn c p d a b => Bits.vsldn c p d a b
  | .vperm c p d a b => Bits.vperm c p d a b
  | .vcomp c p d b => Bits.vcomp c p d b
  | .vxpnd c p d b => Bits.vxpnd c p d b
  | .vmvs c d a b => Bits.vmvs c d a b
  | .vmvv c d a b => Bits.vmvv c d a b
  | .viota c p d => Bits.viota c p d
  | .vscan c p d a b => Bits.vscan c p d a b
  | .vcvt c p d t b o q g r => Bits.vcvt c p d t b o q g r
  | .vqadd c p d a b => Bits.vqadd c p d a b
  | .vqsub c p d a b => Bits.vqsub c p d a b
  | .vqmul c p d a b => Bits.vqmul c p d a b
  | .vqmac c p d a b => Bits.vqmac c p d a b
  | .vqdot c p d a b => Bits.vqdot c p d a b
  | .vqshr c p d a b => Bits.vqshr c p d a b
  | .vsclLd c k a => Bits.vsclLd c k a
  | .vsclSt c k a => Bits.vsclSt c k a
  | .vsclFit c p k b => Bits.vsclFit c p k b
  | .vsclMov c k j => Bits.vsclMov c k j
  | .vsett d a b => Bits.vsett d a b
  | .vsetb d n b => Bits.vsetb d n b
  | .vctxSv a => Bits.vctxSv a
  | .vctxRs a => Bits.vctxRs a
  | .matAtt d a => Bits.matAtt d a
  | .matDet => Bits.matDet
  | .matShp d a => Bits.matShp d a
  | .cpyMs n a b c => Bits.cpyMs n a b c
  | .cpySm n a b c => Bits.cpySm n a b c
  | .cpyMr n a b c => Bits.cpyMr n a b c
  | .cpyRm n a b c => Bits.cpyRm n a b c
  | .cpyRr n a b c => Bits.cpyRr n a b c
  | .cpyMm n a b c => Bits.cpyMm n a b c
  | .cpyGs n a b c => Bits.cpyGs n a b c
  | .cpyLz n a b c => Bits.cpyLz n a b c
  | .bwait n => Bits.bwait n
  | .bchk d n b => Bits.bchk d n b
  | .brel n => Bits.brel n
  | .bstat d n b => Bits.bstat d n b
  | .lzOpen d a b => Bits.lzOpen d a b
  | .lzClose a => Bits.lzClose a
  | .lzResv d a b => Bits.lzResv d a b
  | .lzWait d a => Bits.lzWait d a
  | .lzFree a => Bits.lzFree a
  | .lzStat d a => Bits.lzStat d a
  | .ctrAdd d a b => Bits.ctrAdd d a b
  | .ctrRd d a => Bits.ctrRd d a
  | .ctrSet d a b => Bits.ctrSet d a b
  | .ctrWait a b => Bits.ctrWait a b
  | .trdlArm d a b => Bits.trdlArm d a b
  | .trdlX d a => Bits.trdlX d a
  | .trdlStat d a => Bits.trdlStat d a
  | .eqPop d b => Bits.eqPop d b
  | .eqCnt d b => Bits.eqCnt d b
  | .fabQuiet d => Bits.fabQuiet d
  | .ownSet d a => Bits.ownSet d a
  | .harmRd d a b => Bits.harmRd d a b
  | .dmxRd d a b => Bits.dmxRd d a b
  | .dmxAgg d a b => Bits.dmxAgg d a b
  | .eneRd d a b => Bits.eneRd d a b
  | .mop p tl va vb aty bty sc ea eb => Bits.mop p tl va vb aty bty sc ea eb
  | .mops p tl va vb aty bty => Bits.mops p tl va vb aty bty
  | .mzero tl => Bits.mzero tl
  | .mtld tl sa sb => Bits.mtld tl sa sb
  | .mtst tl sa sb => Bits.mtst tl sa sb
  | .mrow tl va sa => Bits.mrow tl va sa
  | .mwrow tl va sa => Bits.mwrow tl va sa
  | .cAddi r i => Bits.cAddi r i
  | .cLi r i => Bits.cLi r i
  | .cMov r s => Bits.cMov r s
  | .cAdd r s => Bits.cAdd r s
  | .cSub r s => Bits.cSub r s
  | .cAnd r s => Bits.cAnd r s
  | .cShli r n => Bits.cShli r n
  | .cShri r n => Bits.cShri r n
  | .cLdsp r o => Bits.cLdsp r o
  | .cStsp r o => Bits.cStsp r o
  | .cBeqz r o => Bits.cBeqz r o
  | .cBnez r o => Bits.cBnez r o
  | .cJ o => Bits.cJ o
  | .cJr r => Bits.cJr r
  | .cNop => Bits.cNop
  | .illegalEncoding _ bits _ => bits
  | _ => 0

/-- The length in bytes of an instruction's encoding (R48). -/
def instrLen : Instr → Nat
  | .cAddi .. => 2
  | .cLi .. => 2
  | .cMov .. => 2
  | .cAdd .. => 2
  | .cSub .. => 2
  | .cAnd .. => 2
  | .cShli .. => 2
  | .cShri .. => 2
  | .cLdsp .. => 2
  | .cStsp .. => 2
  | .cBeqz .. => 2
  | .cBnez .. => 2
  | .cJ .. => 2
  | .cJr .. => 2
  | .cNop => 2
  | .mop .. => 8
  | .mops .. => 8
  | .mzero .. => 8
  | .mtld .. => 8
  | .mtst .. => 8
  | .mrow .. => 8
  | .mwrow .. => 8
  | .illegalEncoding len _ _ => len
  | _ => 4

/-- Whether a term of Instr is an instruction with an encoding, and not a device event. -/
def Instr.hasEncoding : Instr → Bool
  | .asyncTrapEntry => false
  | .launchWindowWrite .. => false
  | .shuttlePlacement => false
  | .shuttleEnd .. => false
  | .lendHandover .. => false
  | .preemption .. => false
  | .preemptAfterFailToFit .. => false
  | .convoyCloseTimeout .. => false
  | .laneReturn .. => false
  | .executeClusterRequest .. => false
  | .heddleReclaim .. => false
  | .convoyProbe .. => false
  | .elementGroupCommit .. => false
  | .loadDataReturn .. => false
  | .pageResponseS1 .. => false
  | .pageResponseS2 .. => false
  | .inv1Page .. => false
  | .inv1All .. => false
  | .inv2Page .. => false
  | .inv2All .. => false
  | .invalidationComplete .. => false
  | .migrationAccept .. => false
  | .hostMigrationRequest .. => false
  | .migrationCopyComplete .. => false
  | .dampingExpiry .. => false
  | .cowGranuleCopy .. => false
  | .copyCommandStart .. => false
  | .copyDataArrival .. => false
  | .copyDone .. => false
  | .copyFailed .. => false
  | .lzResvArrival .. => false
  | .lzArrival .. => false
  | .lzCloseComplete .. => false
  | .treadleComplete .. => false
  | .remoteRequestArrival .. => false
  | .remoteReply .. => false
  | .remoteAck .. => false
  | .flitSend .. => false
  | .flitReceive .. => false
  | .negativeAcknowledgement .. => false
  | .acknowledgementTimer .. => false
  | .retryTimeout .. => false
  | .reestablishmentComplete .. => false
  | .reestablishmentTimeout .. => false
  | .rekeyTimeout .. => false
  | .linkFailure .. => false
  | .grantHashCompare .. => false
  | .resynchronisationComplete => false
  | .pathLost .. => false
  | .pathKeyExchange .. => false
  | .arbiterGrant .. => false
  | .settlementPeriodEnd => false
  | .settlementBroadcast => false
  | .matrixBlockOffer .. => false
  | .matrixReclaim .. => false
  | .tileOperationExecute .. => false
  | .laneResidueMismatch .. => false
  | .uncorrectableError .. => false
  | .rollback .. => false
  | .checkpointPeriod .. => false
  | .checkpointCapture .. => false
  | .functionLevelReset .. => false
  | .feqstatRead .. => false
  | .modeWrite .. => false
  | .feataccWrite .. => false
  | .watchWrite .. => false
  | .coalesceTimer .. => false
  | .msixUnmask .. => false
  | .loomsWrite .. => false
  | .pcgsWrite .. => false
  | .csliceWrite .. => false
  | .tsliceWrite .. => false
  | .identWrite .. => false
  | .release .. => false
  | .force .. => false
  | .releaseComplete .. => false
  | .scrubGo .. => false
  | .scrubComplete .. => false
  | .pwrcapWrite .. => false
  | .pwrfloorWrite .. => false
  | .registerWrite .. => false
  | .hostCxlMemAccess .. => false
  | .ident .. => false
  | .quote .. => false
  | .lease .. => false
  | .keyload .. => false
  | .fwload .. => false
  | .domain .. => false
  | .leaseExpiry => false
  | .budgetUpdate .. => false
  | .sensorSample .. => false
  | .droopDetect .. => false
  | .droopCapExpiry .. => false
  | .powerGood .. => false
  | .deviceReset => false
  | .stage0Complete => false
  | .loomPass .. => false
  | .stage1Complete .. => false
  | .rateBucketRefill .. => false
  | .illegalEncoding .. => false
  | .mbcmdDiscarded .. => false
  | _ => true

end Sys2Proof
end

