-- ==== Sys2Proof/Config.lean ====
section
/-!
DEFINITION. Sys2Proof/Config.lean: the free values of the model, each an opaque constant: nothing can evaluate one, so
a statement that holds of the model holds whatever they are. Each is named in an assumption log entry.
-/
namespace Sys2Proof.Config

/-- sp of a shuttle when it starts: R30 leaves it to the device runtime. Argument: a fresh number. Log entry 4, DESIGN CHOICE. -/
opaque spAtStart : Nat → BitVec 64
/-- Whether an active element of a store supplies the final value of its address over the elements before it that write
the same one (R93). Arguments: a fresh number, the element. Log entry 7, DESIGN CHOICE. -/
opaque laterStoreWins : Nat → Nat → Bool
/-- Whether a load returns what a store replaced, where no rule orders the two (R91, R92). Arguments: a fresh number, the
number of the store. Log entry 8, DESIGN CHOICE. -/
opaque readsOld : Nat → Nat → Bool
/-- The order in which the elements of a VAMO that share an address reach its coherence order (R192): an element is
applied among those left in order of this key, ties in ascending order. Arguments: a fresh number, the element. Log entry 9, DESIGN CHOICE. -/
opaque vamoKey : Nat → Nat → Nat
/-- Whether a store comes before an earlier one to the same bytes in their coherence order, where no rule orders the two
(R91, R92). Argument: a fresh number. Log entry 8, DESIGN CHOICE. -/
opaque storesBeneath : Nat → Bool
/-- Which of the entries that the device still holds of a place a walk uses, past their number the one in memory (R337).
Argument: a fresh number. Log entry 10, DESIGN CHOICE. -/
opaque heldEntry : Nat → Nat
/-- The row number that CPY.GS takes from a poisoned index element (R260). Arguments: a fresh number, the element. Log entry 11, DESIGN CHOICE. -/
opaque poisonedRow : Nat → Nat → Nat
/-- The flags that the fold of a copy raises at a destination on another chip, which R257 puts into FFLG: the spec gives no
message that brings them. Argument: a fresh number. Log entry 34, DESIGN CHOICE. -/
opaque farFlags : Nat → Nat
/-- What had become of an operation when its path was lost, where Table 15-6 leaves it to what had been reported. Argument: a
fresh number. Log entry 12, DESIGN CHOICE. -/
opaque lostOutcome : Nat → Nat
/-- The energy, in units of 2^-48 J, that refresh, idle, scrub and training take in a class over a settlement period (R320).
Arguments: a fresh number, the class. Log entry 13, DESIGN CHOICE. -/
opaque idleEnergy : Nat → Nat → Nat
/-- The bytes of flit data of a request of another chip and of its answer, which are charged to the remote owner (R320). Argument: a fresh
number. Log entry 13, DESIGN CHOICE. -/
opaque flitBytes : Nat → Nat
/-- E(63), which Flosil sets (R308). Argument: a fresh number. Log entry 48, DESIGN CHOICE. -/
opaque flosilEntitlement : Nat → Nat
/-- The 192 bytes of a flit's BODY before encryption: R285 does not give their layout. Argument: a fresh number. Log entry 15, DESIGN CHOICE. -/
opaque flitBody : Nat → Nat
/-- The units of 256 bytes that a region's scrub does in a clock (R355). Arguments: a fresh number, the region. Log entry 45, DEDUCED. -/
opaque scrubbedUnits : Nat → Nat → Nat
/-- The bytes of a checkpoint image whose form R364 does not give: its header, treadle entries, zone and slot states, launches. Arguments: a
fresh number, the byte's offset in the image. Log entry 37, DESIGN CHOICE. -/
opaque imageByte : Nat → Nat → BitVec 8
/-- Whether the loss of a path has cut off a packet of which some elements had been accepted (R291). -/
opaque cutPacket : Nat → Bool
/-- AES-256-GCM (R290): the ciphertext of a BODY, and the TAG over HDR and BODY. Arguments: the key, the initialisation
vector, HDR for the TAG, BODY. Log entry 15, DESIGN CHOICE. -/
opaque flitCipher : Nat → Nat → Nat → Nat
opaque flitTag : Nat → Nat → Nat → Nat → Nat
/-- The energy of the package over a settlement period, in units of 2^-20 J, which ECTOT adds up (R377). Argument: a fresh
number. Log entry 13, DESIGN CHOICE. -/
opaque packageEnergy : Nat → Nat
/-- The DER certificate chain of the device identity key, as one number, the first byte lowest, and its length (R386). Log entry 14, DESIGN CHOICE. -/
opaque identityChain : Nat
/-- The length in bytes of `identityChain`. Log entry 14, DESIGN CHOICE. -/
opaque identityChainLen : Nat
/-- The 96 bytes r‖s of an ECDSA P-384 signature with the identity key over the given output (R386). Log entry 14, DESIGN CHOICE. -/
opaque quoteSignature : Nat → Nat
/-- SHA-384 of a byte string given as a number and its length in bytes (R386). Log entry 14, DESIGN CHOICE. -/
opaque sha384 : Nat → Nat → Nat
/-- The measurements M0 and M1: the digests of the accepted image and of the fuse state (R386). Log entry 14, DESIGN CHOICE. -/
opaque imageDigest : Nat → Nat
opaque fuseDigest : Nat → Nat
/-- A path key derived by a key exchange (R388). Arguments: source, destination, epoch, slot, generation. Log entry 15, DESIGN CHOICE. -/
opaque pathKey : Nat → Nat → Nat → Nat → Nat → Nat
/-- The cap in multiples of 16 lanes, less one, modulo 16, that Flosil sets from a loom's thermal and current readings
(R371, R373). Log entry 16, DESIGN CHOICE. -/
opaque sensorCap : Int → Int → Nat
/-- Whether the signature of an image verifies, and the security version it holds (R380). Log entry 17, DESIGN CHOICE. -/
opaque imageVerifies : Nat → Bool
opaque imageVersion : Nat → Nat
/-- The bytes of a page that the migration unit pulls from another chip, and whether its words are poisoned (R343). Log entry 23, DESIGN
CHOICE. -/
opaque pulledByte : Nat → Nat → BitVec 8
opaque pulledPoison : Nat → Nat → Bool

/-- The hash of R372 of the majors and group counts of the members of the last four convoys, the newest convoy first. Log entry 18, DESIGN CHOICE. -/
opaque droopHash : List (List (Nat × Nat)) → Nat

/-- The 632 bytes of a context area that only the device reads (Table 10-2), as one number. Argument: a fresh number. Log entry 69, DESIGN CHOICE. -/
opaque deviceContext : Nat → Nat

end Sys2Proof.Config
end

