-- ==== Sys2Proof/Machine/Num.lean ====
section
/-!
DEFINITION. Sys2Proof/Machine/Num.lean: bit fields and sparse tables, and exact arithmetic on the number formats: decoding,
the operations on exact values, and Round (R122), RoundInt (R162), SRound (R165), the transcendental functions (R200 to
R204). Every result is computed exactly and narrowed once.
-/
namespace Sys2Proof.Machine

/-! ## Tables and bit fields -/

/-- The entry of number `k`, or `d` where the table has none. -/
def tget {α : Type} (d : α) : Tab α → Nat → α
  | [], _ => d
  | (a, v) :: t, k => if a = k then v else tget d t k

/-- The table with `v` at number `k`. -/
def tput {α : Type} : Tab α → Nat → α → Tab α
  | [], k, v => [(k, v)]
  | (a, w) :: t, k, v => if k < a then (k, v) :: (a, w) :: t else if a = k then (k, v) :: t else (a, w) :: tput t k v

/-- The table without an entry of number `k`. -/
def tdel {α : Type} (t : Tab α) (k : Nat) : Tab α := t.filter (fun e => e.1 != k)

/-- Membership, insertion and removal in a strictly rising list of numbers. -/
def sHas : List Nat → Nat → Bool
  | [], _ => false
  | a :: t, k => if a = k then true else if k < a then false else sHas t k
def sAdd : List Nat → Nat → List Nat
  | [], k => [k]
  | a :: t, k => if k < a then k :: a :: t else if a = k then a :: t else a :: sAdd t k
def sDel : List Nat → Nat → List Nat
  | [], _ => []
  | a :: t, k => if k < a then a :: t else if a = k then t else a :: sDel t k

/-- The field of `n` bits of `x` from bit `lo`. -/
def bits (x lo n : Nat) : Nat := x / 2 ^ lo % 2 ^ n
/-- Bit `i` of `x`. -/
def bit (x i : Nat) : Bool := x / 2 ^ i % 2 == 1
/-- `x` with its field of `n` bits from bit `lo` replaced by `v`. -/
def setBits (x lo n v : Nat) : Nat := x - bits x lo n * 2 ^ lo + v % 2 ^ n * 2 ^ lo
/-- `x` with bit `i` set to `b`. -/
def setBit (x i : Nat) (b : Bool) : Nat := setBits x i 1 b.toNat
/-- A word with bits [lo+n-1:lo] replaced. -/
def wordSet (w : Word) (lo n v : Nat) : Word := BitVec.ofNat 64 (setBits w.toNat lo n v)
/-- The low `n` bits of `x` read as a two's-complement integer (SignExt of R121). -/
def sext (x n : Nat) : Int :=
  let u := x % 2 ^ n
  if n ≠ 0 ∧ 2 ^ (n - 1) ≤ u then (u : Int) - (2 : Int) ^ n else (u : Int)
/-- An integer modulo 2^n. -/
def wrapTo (i : Int) (n : Nat) : Nat := (i % (2 : Int) ^ n).toNat
/-- SignExt to a word. -/
def sextW (x n : Nat) : Word := BitVec.ofInt 64 (sext x n)
/-- ⌈a / b⌉. -/
def ceilDiv (a b : Nat) : Nat := (a + b - 1) / b
/-- The number of set bits of `x` among its low `n`. -/
def popc (x : Nat) : Nat → Nat
  | 0 => 0
  | n + 1 => popc x n + (if bit x n then 1 else 0)
/-- The smallest power of two from 1 to 2^8 that is at least `n`. -/
def pow2Up (n : Nat) : Nat :=
  if n ≤ 1 then 1 else 2 ^ (Nat.log2 (n - 1) + 1)

/-! ## Flags of floating-point results: bits 4 to 0 as in Tables 6-4 and 7-4, bit 5 SAT -/

def fNX : Nat := 1
def fUF : Nat := 2
def fOF : Nat := 4
def fDZ : Nat := 8
def fNV : Nat := 16
def fSAT : Nat := 32

/-! ## Element types (R159, R160) -/

/-- The ETYPE codes of floating-point types. -/
def cF8E4 : Nat := 0x08
def cF8E5 : Nat := 0x09
def cF4 : Nat := 0x0A
def cF16 : Nat := 0x0B
def cB16 : Nat := 0x0C
def cF32 : Nat := 0x0D
def cF64 : Nat := 0x0E

def isFloat (t : Nat) : Bool := decide (0x08 ≤ t ∧ t ≤ 0x0E)
def isQ (t : Nat) : Bool := decide (0x10 ≤ t ∧ t ≤ 0x1F)
def isInt (t : Nat) : Bool := decide (t ≤ 0x07)
/-- The I types and the Q types from Q2 are signed; N types are not. -/
def isSignedInt (t : Nat) : Bool := decide (t ≤ 0x03)

/-- The bits of an element (Table 7-1); for a Q type its width. -/
def ebits (t : Nat) : Nat :=
  if t ≤ 0x03 then 8 * 2 ^ t
  else if t ≤ 0x07 then 8 * 2 ^ (t - 4)
  else if t = 0x08 ∨ t = 0x09 then 8
  else if t = 0x0A then 4
  else if t = 0x0B ∨ t = 0x0C then 16
  else if t = 0x0D then 32
  else if t = 0x0E then 64
  else t - 0x0F

/-- The width column of Table 7-1 for floating-point types: the significand with its hidden bit. -/
def sigBits (t : Nat) : Nat :=
  if t = 0x08 then 4 else if t = 0x09 then 3 else if t = 0x0A then 2 else if t = 0x0B then 11
  else if t = 0x0C then 8 else if t = 0x0D then 24 else 53
/-- Exponent bits, fraction bits and bias (Table 7-3). -/
def expBits (t : Nat) : Nat :=
  if t = 0x08 then 4 else if t = 0x09 then 5 else if t = 0x0A then 2 else if t = 0x0B then 5
  else if t = 0x0C then 8 else if t = 0x0D then 8 else 11
def fracBits (t : Nat) : Nat := sigBits t - 1
def biasOf (t : Nat) : Nat := if t = 0x0A then 1 else 2 ^ (expBits t - 1) - 1
/-- F8E4 and F4 have no infinity (Table 7-3). -/
def hasInf (t : Nat) : Bool := !(t == 0x08 || t == 0x0A)

/-- CanonNaN(t) (R121); F4 has no NaN and gives +0 (R122). -/
def canonNaN (t : Nat) : Nat :=
  if t = 0x08 then 0x7F else if t = 0x09 then 0x7E else if t = 0x0A then 0
  else if t = 0x0B then 0x7E00 else if t = 0x0C then 0x7FC0 else if t = 0x0D then 0x7FC00000 else 0x7FF8000000000000

/-! ## Exact values -/

/-- An exact value: NaN (`sig` for a signalling one, or for the result of an invalid operation), ±∞, or ±n/d. -/
inductive Num where
  | nan (sig : Bool)
  | inf (neg : Bool)
  | num (neg : Bool) (n d : Nat)
  deriving DecidableEq, Repr

/-- ±n × 2^e. -/
def scaled (neg : Bool) (n : Nat) (e : Int) : Num :=
  if 0 ≤ e then .num neg (n * 2 ^ e.toNat) 1 else .num neg n (2 ^ (-e).toNat)

/-- The value of an encoding of a floating-point type (R160). -/
def fdecode (t x : Nat) : Num :=
  let m := fracBits t
  let neg := bit x (m + expBits t)
  let e := bits x m (expBits t)
  let f := bits x 0 m
  let emax := 2 ^ expBits t - 1
  if e = emax ∧ t = 0x08 ∧ f = 7 then .nan false
  else if e = emax ∧ hasInf t then
    if f = 0 then .inf neg else .nan (!bit f (m - 1))
  else if e = 0 then scaled neg f (1 - (biasOf t : Int) - m)
  else scaled neg (2 ^ m + f) ((e : Int) - biasOf t - m)

/-- The value of an integer as an exact value. -/
def ofInt (i : Int) : Num := .num (decide (i < 0)) i.natAbs 1

/-- The value of an encoding of any type (R159, R161). -/
def vdecode (t x : Nat) : Num :=
  if isFloat t then fdecode t x
  else if t = 0x10 then ofInt (if x % 2 = 1 then 1 else -1)
  else if isQ t then ofInt (sext x (ebits t))
  else if isSignedInt t then ofInt (sext x (ebits t))
  else ofInt (x % 2 ^ ebits t : Nat)

def Num.isNaN : Num → Bool
  | .nan _ => true
  | _ => false
def Num.isSig : Num → Bool
  | .nan g => g
  | _ => false
def Num.isZero : Num → Bool
  | .num _ n _ => n == 0
  | _ => false
def Num.neg : Num → Num
  | .nan g => .nan g
  | .inf s => .inf (!s)
  | .num s n d => .num (!s) n d
def Num.sign : Num → Bool
  | .nan _ => false
  | .inf s => s
  | .num s _ _ => s
/-- The numerator with its sign. -/
def signed (s : Bool) (n : Nat) : Int := if s then -(n : Int) else (n : Int)

/-- The exact sum; `rm` decides the sign of an exact zero sum (IEEE 754-2019). -/
def nadd (rm : Nat) : Num → Num → Num
  | .nan g, y => .nan (g || y.isSig)
  | x, .nan g => .nan (g || x.isSig)
  | .inf s, .inf r => if s == r then .inf s else .nan true
  | .inf s, .num .. => .inf s
  | .num .., .inf s => .inf s
  | .num s a b, .num r c d =>
    let t := signed s (a * d) + signed r (c * b)
    if t = 0 then .num (if s == r then s else rm == 2) 0 1
    else .num (decide (t < 0)) t.natAbs (b * d)

/-- The exact product. -/
def nmul : Num → Num → Num
  | .nan g, y => .nan (g || y.isSig)
  | x, .nan g => .nan (g || x.isSig)
  | .inf s, .inf r => .inf (s != r)
  | .inf s, .num r n _ => if n = 0 then .nan true else .inf (s != r)
  | .num r n _, .inf s => if n = 0 then .nan true else .inf (s != r)
  | .num s a b, .num r c d => .num (s != r) (a * c) (b * d)

/-- The quotient, with the DZ flag of a finite non-zero value over zero. -/
def ndiv : Num → Num → Num × Nat
  | .nan g, y => (.nan (g || y.isSig), 0)
  | x, .nan g => (.nan (g || x.isSig), 0)
  | .inf _, .inf _ => (.nan true, 0)
  | .inf s, .num r _ _ => (.inf (s != r), 0)
  | .num s _ _, .inf r => (.num (s != r) 0 1, 0)
  | .num s a b, .num r c d =>
    if c = 0 then if a = 0 then (.nan true, 0) else (.inf (s != r), fDZ)
    else (.num (s != r) (a * d) (b * c), 0)

/-- The integer square root of `n`: bit by bit from bit `k` down. -/
def isqrtAux (n : Nat) : Nat → Nat → Nat
  | 0, r => if (r + 1) * (r + 1) ≤ n then r + 1 else r
  | k + 1, r => isqrtAux n k (if (r + 2 ^ (k + 1)) * (r + 2 ^ (k + 1)) ≤ n then r + 2 ^ (k + 1) else r)
def isqrt (n : Nat) : Nat := isqrtAux n (Nat.log2 n / 2 + 1) 0

/-- The root, exact to below half of any rounding grid: `k` is far below every quantum of a result, and an inexact
root is represented by a value strictly between the same neighbours. -/
def nsqrt : Num → Num
  | .nan g => .nan g
  | .inf s => if s then .nan true else .inf false
  | .num s n d =>
    if n = 0 then .num s 0 1
    else if s then .nan true
    else
      let k := 640
      let q := n * 2 ^ (2 * k) / d
      let r := isqrt q
      let exact := r * r * d == n * 2 ^ (2 * k)
      if exact then .num false r (2 ^ k) else .num false (2 * r + 1) (2 ^ (k + 1))

/-- Comparison of values that are not NaN: less, equal (−0 equals +0). -/
def nlt : Num → Num → Bool
  | .nan _, _ => false
  | _, .nan _ => false
  | .inf s, .inf r => s && !r
  | .inf s, .num .. => s
  | .num .., .inf r => !r
  | .num s a b, .num r c d => decide (signed s (a * d) < signed r (c * b))
def neq : Num → Num → Bool
  | .nan _, _ => false
  | _, .nan _ => false
  | .inf s, .inf r => s == r
  | .inf _, .num .. => false
  | .num .., .inf _ => false
  | .num s a b, .num r c d => decide (signed s (a * d) = signed r (c * b))

/-- minimumNumber and maximumNumber of IEEE 754-2019, with NV for a signalling operand (Table 6-10). The flag says
whether the operands were both NaN. -/
def nmin (x y : Num) : Num × Nat :=
  let nv := if x.isSig || y.isSig then fNV else 0
  if x.isNaN then if y.isNaN then (.nan false, nv) else (y, nv)
  else if y.isNaN then (x, nv)
  else if nlt x y then (x, nv) else if nlt y x then (y, nv) else (if x.sign then x else y, nv)
def nmax (x y : Num) : Num × Nat :=
  let nv := if x.isSig || y.isSig then fNV else 0
  if x.isNaN then if y.isNaN then (.nan false, nv) else (y, nv)
  else if y.isNaN then (x, nv)
  else if nlt x y then (y, nv) else if nlt y x then (x, nv) else (if x.sign then y else x, nv)

/-! ## Rounding -/

/-- ⌊log2 (n/d)⌋ for n, d > 0. -/
def floorLog2 (n d : Nat) : Int :=
  let e : Int := (Nat.log2 n : Int) - Nat.log2 d
  let below := if 0 ≤ e then decide (n < d * 2 ^ e.toNat) else decide (n * 2 ^ (-e).toNat < d)
  if below then e - 1 else e

/-- The exponent of the spacing of t's significand grid at |x| = n/d (R122). -/
def gridExp (t n d : Nat) : Int := max (floorLog2 n d) (1 - (biasOf t : Int)) - fracBits t

/-- ⌊(n/d) / 2^q⌋ with the remainder over the denominator: (quotient, remainder, denominator). -/
def overPow (n d : Nat) (q : Int) : Nat × Nat × Nat :=
  if 0 ≤ q then
    let e := d * 2 ^ q.toNat
    (n / e, n % e, e)
  else
    let m := n * 2 ^ (-q).toNat
    (m / d, m % d, d)

/-- Whether a mode rounds a magnitude up, given its sign, whether its integer part is odd, and the remainder. -/
def roundsUp (rm : Nat) (neg odd : Bool) (rem den : Nat) : Bool :=
  if rm = 0 then decide (2 * rem > den) || (decide (2 * rem = den) && odd)
  else if rm = 1 then false
  else if rm = 2 then neg && decide (rem ≠ 0)
  else !neg && decide (rem ≠ 0)

/-- The largest finite value as a significand over an exponent: (m, q) with value m × 2^q. -/
def maxFinite (t : Nat) : Nat × Int :=
  if t = 0x08 then (7, 6) else if t = 0x0A then (3, 1)
  else (2 ^ sigBits t - 1, (2 ^ expBits t - 2 : Nat) - (biasOf t : Int) - fracBits t)

/-- Whether m × 2^q > m' × 2^q'. -/
def gtPow (m : Nat) (q : Int) (m' : Nat) (q' : Int) : Bool :=
  if q' ≤ q then decide (m * 2 ^ (q - q').toNat > m') else decide (m > m' * 2 ^ (q' - q).toNat)

/-- The encoding of ±m × 2^q, a point of t's grid within its range. -/
def encodeGrid (t : Nat) (neg : Bool) (m : Nat) (q : Int) : Nat :=
  let f := fracBits t
  let s := if neg then 2 ^ (f + expBits t) else 0
  if m = 0 then s
  else
    let e := (Nat.log2 m : Int) + q
    let emin : Int := 1 - (biasOf t : Int)
    if e < emin then s + (m * 2 ^ (q - (emin - f)).toNat)
    else
      let sh := e - f - q
      let sig := if 0 ≤ sh then m / 2 ^ sh.toNat else m * 2 ^ (-sh).toNat
      s + (e + biasOf t).toNat * 2 ^ f + (sig - 2 ^ f)

def encodeMax (t : Nat) (neg : Bool) : Nat := encodeGrid t neg (maxFinite t).1 (maxFinite t).2
def encodeInf (t : Nat) (neg : Bool) : Nat :=
  (if neg then 2 ^ (fracBits t + expBits t) else 0) + (2 ^ expBits t - 1) * 2 ^ fracBits t

/-- The overflow result of R122: ±∞ where the mode rounds away from zero for the sign, else ±M. -/
def overflowTo (t rm : Nat) (neg : Bool) : Nat :=
  if hasInf t && (rm == 0 || (rm == 2 && neg) || (rm == 3 && !neg)) then encodeInf t neg else encodeMax t neg

/-- R122 for a value whose grid point ±m × 2^q has been chosen; `inexact` says that it differs from x. -/
def finishRound (t rm : Nat) (neg : Bool) (m : Nat) (q : Int) (inexact : Bool) : Nat × Nat :=
  let M := maxFinite t
  if gtPow m q M.1 M.2 then (overflowTo t rm neg, fOF + fNX)
  else
    let tiny := gtPow 1 (1 - (biasOf t : Int)) m q
    (encodeGrid t neg m q, if inexact then fNX + (if tiny then fUF else 0) else 0)

/-- Round(x, t, rm) (R122): the encoding and the flags. -/
def fround (t rm : Nat) : Num → Nat × Nat
  | .nan g => if t = 0x0A then (0, fNV) else (canonNaN t, if g then fNV else 0)
  | .inf s => if hasInf t then (encodeInf t s, 0) else (encodeMax t s, fNV)
  | .num s n d =>
    if n = 0 then (encodeGrid t s 0 0, 0)
    else
      let q := gridExp t n d
      let (m, r, e) := overPow n d q
      let m' := if roundsUp rm s (m % 2 == 1) r e then m + 1 else m
      finishRound t rm s m' q (r != 0)

/-- RoundInt(x, rm) (R162) of a finite value: the integer, and whether it differs from x. -/
def roundInt (rm : Nat) (s : Bool) (n d : Nat) : Int × Bool :=
  let m := n / d
  let r := n % d
  let m' := if roundsUp rm s (m % 2 == 1) r d then m + 1 else m
  (signed s m', r != 0)

/-- Mix of R165. -/
def mix (x : Nat) : Nat :=
  let z := (x + 0x9E3779B97F4A7C15) % 2 ^ 64
  let z := (z ^^^ (z >>> 30)) * 0xBF58476D1CE4E5B9 % 2 ^ 64
  let z := (z ^^^ (z >>> 27)) * 0x94D049BB133111EB % 2 ^ 64
  z ^^^ (z >>> 31)

/-- SRValue(e) of R165 from VSEED, STRIP, SREM and the member's position in its encoded convoy. -/
def srValue (seed strip srem m e : Nat) : Nat :=
  let x := mix (seed ^^^ strip)
  let x := mix (x ^^^ srem)
  let x := mix (x ^^^ (m * 2 ^ 56) ^^^ e)
  x / 2 ^ 32 % 2 ^ 32

/-- SRound(x, t, rm, e) for a floating-point destination (R165), with u = SRValue(e). In magnitude, u × 1 < frac × 2^32
selects the neighbour of greater value; for a negative x that is the one of smaller magnitude. -/
def sround (t rm u : Nat) : Num → Nat × Nat
  | .num s n d =>
    if n = 0 then fround t rm (.num s n d)
    else
      let q := gridExp t n d
      let (m, r, e) := overPow n d q
      if r = 0 then fround t rm (.num s n d)
      else
        let up := if s then !decide (u * e < (e - r) * 2 ^ 32) else decide (u * e < r * 2 ^ 32)
        finishRound t rm s (if up then m + 1 else m) q true
  | x => fround t rm x

/-- SRound to an integer: the integer, and whether it differs from x. -/
def sroundInt (u : Nat) (s : Bool) (n d : Nat) : Int × Bool :=
  let m := n / d
  let r := n % d
  if r = 0 then (signed s m, false)
  else
    let up := if s then !decide (u * d < (d - r) * 2 ^ 32) else decide (u * d < r * 2 ^ 32)
    (signed s (if up then m + 1 else m), true)

/-! ## Classes (FCLASS of Table 6-10) -/

/-- The FCLASS mask of an encoding. -/
def fclass (t x : Nat) : Nat :=
  let e := bits x (fracBits t) (expBits t)
  match fdecode t x with
  | .nan g => if g then 2 ^ 8 else 2 ^ 9
  | .inf s => if s then 2 ^ 0 else 2 ^ 7
  | .num s n _ =>
    if n = 0 then if s then 2 ^ 3 else 2 ^ 4
    else if e = 0 then if s then 2 ^ 2 else 2 ^ 5
    else if s then 2 ^ 1 else 2 ^ 6

/-! ## Split precision (R167) -/

/-- An F64 multiplicand truncated to the top `n` bytes of its 56-bit field M × 8; SL = 0 and n = 7 keep it. The hidden bit of a
subnormal is 0. Log entry 78, DEDUCED. -/
def splitVal (n x : Nat) : Num :=
  let e := bits x 52 11
  if n = 0 ∨ 7 ≤ n ∨ e = 2047 then fdecode cF64 x
  else
    let M := (if e = 0 then 0 else 2 ^ 52) + bits x 0 52
    let k := 2 ^ (8 * (7 - n))
    scaled (bit x 63) (M * 8 / k * k) ((max e 1 : Nat) - 1023 - 52 - 3 : Int)

/-! ## Transcendental functions (R200 to R204) -/

/-- The nearest multiple of 2^-q to n/d, ties to the even multiple, as the multiple. -/
def gridQ (n d q : Nat) : Nat :=
  let m := n * 2 ^ q / d
  let r := n * 2 ^ q % d
  if roundsUp 0 false (m % 2 == 1) r d then m + 1 else m

/-- A rational in Int over Nat, for the polynomials. -/
structure Ratio where
  n : Int
  d : Nat
  deriving DecidableEq, Repr

def Ratio.add (x y : Ratio) : Ratio := ⟨x.n * y.d + y.n * x.d, x.d * y.d⟩
def Ratio.mul (x y : Ratio) : Ratio := ⟨x.n * y.n, x.d * y.d⟩
def Ratio.toNum (x : Ratio) : Num := .num (decide (x.n < 0)) x.n.natAbs x.d
/-- A rational times 2^e. -/
def Ratio.shift (x : Ratio) (e : Int) : Ratio :=
  if 0 ≤ e then ⟨x.n * 2 ^ e.toNat, x.d⟩ else ⟨x.n, x.d * 2 ^ (-e).toNat⟩
/-- The polynomial with the given coefficients, lowest first, at x. -/
def poly (x : Ratio) : List Ratio → Ratio
  | [] => ⟨0, 1⟩
  | c :: cs => c.add (x.mul (poly x cs))

/-- Norm(y) of a finite non-zero ±n/d whose denominator is a power of two: m as a ratio in [1, 2), and E. -/
def normOf (n d : Nat) : Ratio × Int :=
  let E := floorLog2 n d
  ((Ratio.mk n d).shift (-E), E)

/-- VFRCP (R201) of ±n/d, finite and non-zero: the value to round. -/
def rcpVal (s : Bool) (n d : Nat) : Num :=
  let (m, E) := normOf n d
  if m.n = m.d then (Ratio.shift ⟨signed s 1, 1⟩ (-E)).toNum
  else
    let j := ((m.n - m.d) * 128 / m.d).toNat
    let T : Ratio := ⟨gridQ 256 (257 + 2 * j) 16, 2 ^ 16⟩
    let del := (Ratio.mk 1 1).add (Ratio.mul ⟨-m.n, m.d⟩ T)
    let r := T.mul (poly del [⟨1, 1⟩, ⟨1, 1⟩, ⟨1, 1⟩, ⟨1, 1⟩])
    (Ratio.shift ⟨if s then -r.n else r.n, r.d⟩ (-E)).toNum

/-- Grid(1/√(a/b), 16) as the multiple: the m with (m − 1/2)² ≤ 2^32 b/a ≤ (m + 1/2)². -/
def rsqGrid (a b : Nat) : Nat :=
  let r := isqrt (4 * 2 ^ 32 * b / a)
  (r + 1) / 2

/-- VFRSQ (R202) of n/d, finite and positive. -/
def rsqVal (n d : Nat) : Num :=
  let (m0, E0) := normOf n d
  let odd := E0 % 2 = 1
  let m := if odd then Ratio.mul ⟨2, 1⟩ m0 else m0
  let E := if odd then E0 - 1 else E0
  if m.n = m.d then (Ratio.shift ⟨1, 1⟩ (-(E / 2))).toNum
  else
    let j := ((m.n - m.d) * 32 / m.d).toNat
    let T : Ratio := ⟨rsqGrid (65 + 2 * j) 64, 2 ^ 16⟩
    let del := (Ratio.mk 1 1).add (Ratio.mul ⟨-m.n, m.d⟩ (T.mul T))
    let r := T.mul (poly del [⟨1, 1⟩, ⟨1, 2⟩, ⟨3, 8⟩, ⟨5, 16⟩, ⟨35, 128⟩])
    (r.shift (-(E / 2))).toNum

/-- Grid(2^(q/64), 30) as the multiple: the nearest integer to 2^30 × 2^(q/64). Six square roots of 2^q at 200
fractional bits decide it. -/
def exp2Grid (q : Nat) : Nat :=
  let p := 200
  let root (x : Nat) : Nat := isqrt (x * 2 ^ p)
  let x := root (root (root (root (root (root (2 ^ q * 2 ^ p))))))
  (x / 2 ^ (p - 31) + 1) / 2

/-- An F64 encoding as a ratio. -/
def f64Ratio (x : Nat) : Ratio :=
  match fdecode cF64 x with
  | .num s n d => ⟨signed s n, d⟩
  | _ => ⟨0, 1⟩

/-- c_k of R203: RNE((ln 2)^k / k!, F64) for k from 0 to 5. -/
def expCoef : List Ratio := [⟨1, 1⟩, f64Ratio 0x3FE62E42FEFA39EF, f64Ratio 0x3FCEBFBDFF82C58F, f64Ratio 0x3FAC6B08D704A0C0, f64Ratio 0x3F83B2AB6FBA4E77, f64Ratio 0x3F55D87FE78A6731]

/-- VFEXP2 (R203) of a finite ±a/b. -/
def exp2Val (s : Bool) (a b : Nat) : Num :=
  let big := decide (256 * b < a)
  let x : Ratio := if big then ⟨signed s 256, 1⟩ else ⟨signed s a, b⟩
  let n := (128 * x.n + x.d) / (2 * x.d)
  let f := x.add ⟨-n, 64⟩
  let q := (n % 64).toNat
  let i := (n - q) / 64
  let T : Ratio := ⟨exp2Grid q, 2 ^ 30⟩
  ((T.mul (poly f expCoef)).shift i).toNum

/-- Bits of log2(x / 2^p) for x in [2^p, 2^(p+1)): `k` binary digits, by repeated squaring. -/
def log2Bits (p : Nat) : Nat → Nat → Nat
  | 0, _ => 0
  | k + 1, x =>
    let y := x * x / 2 ^ p
    if 2 ^ (p + 1) ≤ y then 2 ^ k + log2Bits p k (y / 2) else log2Bits p k y

/-- Grid(−log2(T), 40) for T = t/2^16 in [1/2, 2), as a multiple of 2^-40. -/
def log2Grid (t : Nat) : Int :=
  let e : Int := Nat.log2 t
  let m := t * 2 ^ 240 / 2 ^ Nat.log2 t
  let fr := log2Bits 240 80 m
  let v : Int := (e - 16) * 2 ^ 80 + fr
  if t = 2 ^ Nat.log2 t then (16 - e) * 2 ^ 40 else -((v + 2 ^ 39) / 2 ^ 40)

/-- g_k of R204: RNE((−1)^(k+1) / (k × ln 2), F64) for k from 1 to 7. -/
def logCoef : List Ratio :=
  [⟨0, 1⟩, f64Ratio 0x3FF71547652B82FE, f64Ratio 0xBFE71547652B82FE, f64Ratio 0x3FDEC709DC3A03FD, f64Ratio 0xBFD71547652B82FE, f64Ratio 0x3FD2776C50EF9BFE, f64Ratio 0xBFCEC709DC3A03FD, f64Ratio 0x3FCA61762A7ADED9]

/-- VFLOG2 (R204) of n/d, finite and positive. -/
def log2Val (n d : Nat) : Num :=
  let (m0, E0) := normOf n d
  let high := decide (3 * (m0.d : Int) ≤ 2 * m0.n)
  let m : Ratio := if high then ⟨m0.n, 2 * m0.d⟩ else m0
  let E := if high then E0 + 1 else E0
  let near := decide ((m.n - m.d).natAbs * 128 < m.d)
  let j := ((4 * m.n - 3 * m.d) * 64 / m.d).toNat
  let t := gridQ 512 (385 + 2 * j) 16
  let T : Ratio := if near then ⟨1, 1⟩ else ⟨t, 2 ^ 16⟩
  let L : Ratio := if near then ⟨0, 1⟩ else ⟨log2Grid t, 2 ^ 40⟩
  let u := (m.mul T).add ⟨-1, 1⟩
  ((Ratio.mk E 1).add (L.add (poly u logCoef))).toNum

end Sys2Proof.Machine
end

