-- ==== Sys2Proof/Machine/State.lean ====
section
/-!
DEFINITION. Sys2Proof/Machine/State.lean: everything the spec gives the machine to hold, as plain data, and the state
right after reset. INVENTORY.md lists each field with the rule that names it and its reset value.
-/
namespace Sys2Proof.Machine

/-! ## Shuttles -/

/-- The privilege of a shuttle (R106). Privilege F exists on the management cores only, which run no shuttle. -/
inductive Priv where
  | u
  | s
  deriving DecidableEq, Repr

/-- A vector or scale register: its 8 × VLEN bits as one number (R151), one poison mark per byte (R358), and its
extent in bytes (R225). -/
structure VecReg where
  bits : Nat := 0
  poison : Nat := 0
  extent : Nat := 0
  deriving DecidableEq, Repr

/-- The states of a bobbin (R261). -/
inductive BobSt where
  | idle
  | busy
  | done
  | failed
  deriving DecidableEq, Repr

/-- Bytes lo to lo + n − 1 of a copy, which the engine stored after time `from_` and no later than `upTo`. -/
structure Landing where
  lo : Nat
  n : Nat
  from_ : Nat
  upTo : Nat
  deriving DecidableEq, Repr

/-- A bobbin (R261 to R263). `written` holds bit k once destination byte k has been written, and, for FOLD 4 and 5, all its
bits once the scalar has; the three views are computed from it. `dst` is the size of the destination, `win` its window
offset where the copy writes the issuing core's window; `at_` is the time of the engine's last release at it (R98). `cmd` is the
command, issued at time `issued`, and each of `landings` says of a run of destination bytes between which times the engine stored
it, so that a view's acquire covers the bytes that it reports (R263, R267). -/
structure Bobbin where
  st : BobSt := .idle
  form : Nat := 0
  len : Nat := 0
  written : Nat := 0
  win : Option Nat := none
  dst : Nat := 0
  fcause : Nat := 0
  fflg : Nat := 0
  fva : Nat := 0
  at_ : Nat := 0
  cmd : Nat := 0
  issued : Nat := 0
  landings : List Landing := []
  deriving DecidableEq, Repr

/-- A launch record (Table 2-1) after its checks, and what the queue keeps of it: the number of the launch (`key`),
the class queue it is in, which dependences have been met since acceptance (R295), the clock from which its age counts
(R29), how many shuttles have been placed. -/
structure Launch where
  key : Nat
  part : Nat
  entry : Nat
  args : Nat
  vllo : Nat
  vlhi : Nat
  spad : Nat
  weave : Bool
  cls : Nat
  owner : Nat
  vregs : Nat
  escl : Nat
  nshut : Nat
  total : Nat
  disp : Nat
  strlm1 : Nat
  dep0 : Nat
  dep0t : Nat
  dep1 : Nat
  dep1t : Nat
  done : Nat
  dadd : Nat
  lmask : Nat
  launchId : Nat
  met0 : Bool
  met1 : Bool
  since : Nat
  placed : Nat
  deriving DecidableEq, Repr

/-- What a launch still owes its DONE counter (R31): shuttles placed and ended, whether placement is over, and whether
a shuttle of it was lost to a double trap, after which it never completes (R118). -/
structure Track where
  key : Nat
  part : Nat
  done : Nat
  dadd : Nat
  placed : Nat
  ended : Nat
  placing : Bool
  lost : Bool
  deriving DecidableEq, Repr

/-- Where a shuttle stands and what its launch record fixed for it (R22, R24, R30). VLEN is 512 × 2^vlenLog. -/
structure Place where
  core : Nat := 0
  slot : Nat := 0
  part : Nat := 16
  launch : Nat := 0
  launchId : Nat := 0
  cls : Nat := 0
  lmask : Nat := 0
  vlenLog : Nat := 0
  vregs : Nat := 1
  escl : Nat := 0
  spad : Nat := 0
  spadOff : Nat := 0
  weave : Bool := false
  disp : Nat := 0
  total : Nat := 0
  strlm1 : Nat := 0
  placedAt : Nat := 0
  ctxArea : Option Nat := none
  deriving DecidableEq, Repr

/-- What a posted request carries for one element: the element, the target address, the bytes, the bits of them that it
writes, and whether they are poisoned. -/
structure PElem where
  elem : Nat
  key : Nat
  bytes : List Byte
  mask : Nat
  pois : Bool
  deriving DecidableEq, Repr

/-- What a remote request does at its target (R281, R282): AMO with the number of its operation, 9 for CAS. -/
inductive FarOp where
  | load
  | store
  | amo (op : Nat)
  | ctrRd
  | ctrAdd
  | ctrSet
  | resv
  deriving DecidableEq, Repr

/-- What every remote request carries of its issuer (R279, R307): the target chip, the domain tenant number, the owner, the
blame tag; and whether its first flit has been transmitted (R291). -/
structure Carried where
  peer : Nat
  tenant : Nat
  owner : Nat
  tag : Nat
  sent : Bool
  deriving DecidableEq, Repr

/-- A posted remote request (R282): the KIND its failure would have (Table 15-3), what it does, word 1 of the
entry, the elements it carries, and when a fence or release of its issuer first came after it (R97). -/
structure Posted extends Carried where
  key : Nat
  kind : Nat
  op : FarOp
  addr : Word
  elems : List PElem
  fenced : Option Nat := none
  deriving DecidableEq, Repr

/-- The reply to a returning remote request (R281). -/
inductive Reply where
  | waiting
  | data (bytes : List Byte) (poison : Nat)
  | failed (cause outcome : Nat)
  deriving DecidableEq, Repr

/-- A returning remote request of the instruction under way (R281): what it does, the addresses it names with the size of
each access, the bytes of its operands, and the reply. One without addresses stands for the posted AMO of that key, whose
acknowledgement its AQ form waits for (R135). -/
structure Request extends Carried where
  key : Nat
  agent : Nat := 1
  op : FarOp
  addrs : List (Nat × Nat)
  data : List Byte
  va : Word
  reply : Reply
  deriving DecidableEq, Repr

/-- A translation that has missed (R218, R336): the 64 KiB page of the virtual address and the kind of the access, the
request it waits for with its REQID, the stage, the page asked for and the level at which the walk stopped, and whether the answer
was negative. While the request is outstanding the access does not walk again. -/
structure Miss where
  fn : Nat
  req : Nat
  id : Nat
  vpage : Nat
  kind : Nat
  stage : Nat
  page : Nat
  level : Nat
  neg : Bool
  deriving DecidableEq, Repr

/-- Where a permitted access leads: the storage key of its first byte, the chip of a remote access (R278), the memory
type, whether the page can hold poison, and how many bytes the page has; `win` for the local window (R81), whose
accesses have no memory type; the guest page, the pages of its stage-1 and of its stage-2 leaf, and the G bits of both leaves
(R337). -/
structure Phys where
  key : Nat
  remote : Option Nat
  mtype : Nat
  pcap : Bool
  win : Bool
  span : Nat
  gpage : Nat := 0
  vpages : Nat := 1
  gpages : Nat := 1
  spared1 : Bool := false
  spared2 : Bool := false
  deriving DecidableEq, Repr

/-- A translation that the instruction or convoy under way has found, which stays its own (R217, R218): the page and kind,
and where the page's first byte leads. -/
structure Found where
  vpage : Nat
  kind : Nat
  phys : Phys
  deriving DecidableEq, Repr

/-- The loss of the source of a pull under a parked access (R343). -/
structure LostSource where
  page : Nat
  chip : Nat
  cause : Nat
  deriving DecidableEq, Repr

/-- A leaf under migration or copy-on-write that an access meets (R334), with the guest pages that the hint of the access names
(R339, R340). -/
structure HeldLeaf where
  part : Nat
  gpage : Nat
  va : Nat
  cow : Bool
  ahead : List Nat
  deriving DecidableEq, Repr

/-- A fault that the probe under way has found at an address, which stays (R218). -/
structure Faulted where
  va : Nat
  kind : Nat
  cause : Nat
  einfo : Word
  deriving DecidableEq, Repr

/-- What a waiting shuttle waits for (R34). Its instruction is issued again when the wait may be over. A wait for
translations names the page requests, each a function with the number of one, and the leaves (R338); one for an arrival ends once the
bobbin's prefix has grown, or it is no longer BUSY; one for posted requests names their KINDs as a mask and the agents in whose
earlier set those of other shuttles are (R97). -/
inductive Wait where
  | page (ids : List (Nat × Nat)) (leaves : List HeldLeaf)
  | remote
  | counter (idx thr : Nat) (met : Bool)
  | bobbin (b : Nat)
  | arrival (b seen : Nat)
  | chained (at_ : List (Nat × Nat))
  | registers (reads writes : Nat)
  | slot (zone slot : Nat)
  | zone (zone : Nat)
  | copyQueue
  | matrixQueue
  | matrixGrant
  | tiles
  | vectorQueue
  | posted (kinds agents : Nat)
  | quiet
  | others (shids : List Nat)
  | capture (seq : Nat)
  | settle (period : Nat)
  deriving DecidableEq, Repr

/-- Whether a slot holds a shuttle and whether that may issue (R34, R141). -/
inductive Status where
  | vacant
  | ready
  | waiting (w : Wait)
  | ending
  deriving DecidableEq, Repr

/-- What a member of the open convoy has read of local storage for an access that must still hold when its element commits
(R192, R222): the element, the key, the bytes with their mark, whether the convoy's stores come before it, whether it is the
read of an atomic, and whether it must hold only in an element-serial convoy. -/
structure LogRead where
  elem : Nat
  key : Nat
  n : Nat
  v : Nat
  pois : Bool
  late : Bool
  atom : Bool
  plain : Bool
  deriving DecidableEq, Repr

/-- The reply to a remote access of a convoy, kept while that runs again, and, where the access must not be made twice (`once`: R94,
R192), until the convoy is over: the convoy's first member, the member, the element, the chip and address, the bytes with their
marks, or the cause and outcome of a failure. -/
structure Kept where
  pc : Word
  member : Nat
  elem : Nat
  peer : Nat
  addr : Nat
  n : Nat
  v : Nat
  poison : Nat
  once : Bool
  fail : Option (Nat × Nat)
  deriving DecidableEq, Repr

/-- A store that a member of the open convoy has executed and that is performed when its element commits (R220): the
element, the packet it belongs to where the target is remote (R188), the address, the storage key, the bytes, the bits of
them that it writes, the mark, whether it gives way to an earlier element of its store at the same place (R93), the
KIND of its packet (Table 15-3), and, for a VAMO that returns nothing, its operation, whose operand the bytes are. -/
structure Buffered where
  elem : Nat
  packet : Nat
  va : Word
  key : Nat
  remote : Option Nat
  n : Nat
  v : Nat
  mask : Nat
  pois : Bool
  yields : Bool
  kind : Nat
  amo : Option Nat
  deriving DecidableEq, Repr

/-- A member that the open convoy has issued: its elements per group (R43), the registers it wrote with their contents
after it, read as a group of type `code` from `base`, the indexes it wrote there, each standing for `per` of its elements
(32 for a scale byte and for VQDOT), and the flags that its elements raised. -/
structure Member where
  k : Nat
  code : Nat
  base : Nat
  per : Nat
  wrote : List Nat
  vregs : List (Nat × VecReg)
  eregs : List (Nat × VecReg)
  preg : Option (Nat × Nat)
  flags : List (Nat × Nat)
  deriving DecidableEq, Repr

/-- A fault during execution that the open convoy has met (R221): the element, the member, the cause, EADDR and
EINFO[31:0]. -/
structure Pending where
  elem : Nat
  member : Nat
  cause : Nat
  eaddr : Word
  einfo : Nat
  deriving DecidableEq, Repr

/-- The convoy of a shuttle (R60 to R63): its counts, the registers its members wrote (bit k for register k), the
scalar registers its span read and wrote, its first member's address, HWEMAP, the registers, VL, VFLAGS and XSTOP as
they stood at its opening, its members, the reads that must hold when they commit, the stores that have not committed, whether they are those of a VST.XO, whether one of its
accesses is non-repeatable (R222), how many elements all its members have committed (R220), the fault that cuts it, if
one was met, the element at which a requested pre-emption cuts it, and the elements whose remote access waits until every probe of
the convoy is over (R216) and, where it is not to be made twice, until their element group's turn comes (R220). -/
structure Convoy where
  isOpen : Bool := false
  count : Nat := 0
  loads : Nat := 0
  stores : Nat := 0
  cross : Nat := 0
  wroteV : Nat := 0
  wroteE : Nat := 0
  wroteP : Nat := 0
  spanRead : Nat := 0
  spanWrite : Nat := 0
  firstPc : Word := 0
  snapMap : Word := 0
  snapV : List VecReg := []
  snapE : List VecReg := []
  snapP : List Nat := []
  snapVl : Word := 0
  snapFlags : Word := 0
  snapXstop : Word := 0
  members : List Member := []
  reads : List LogRead := []
  buffer : List Buffered := []
  ordered : Bool := false
  serial : Bool := false
  committed : Nat := 0
  fault : Option Pending := none
  cut : Option Nat := none
  wants : List (Nat × Bool) := []
  deriving DecidableEq, Repr

/-- An instruction of the span of the open convoy, as it was fetched: its address, its length, its bits. -/
structure Spanned where
  pc : Word
  len : Nat
  bits : Nat
  deriving DecidableEq, Repr

/-- A convoy that runs again from its first member: its remote accesses are made now, those that are not to be made twice below
element `askTo` only; whether it is element-serial, and the element at which a requested pre-emption cuts it. -/
structure Again where
  askTo : Nat
  serial : Bool
  cut : Option Nat
  deriving DecidableEq, Repr

/-- The agents of a scope (Table 5-3): of a core, of a loom, or of the whole device and beyond. -/
inductive Dom where
  | core (c : Nat)
  | loom (l : Nat)
  | chip
  deriving DecidableEq, Repr

/-- A store whose order before the loads of others may still be open (R89 to R92): its number, its time, the shuttle or
engine that made it with the agent (1 the scalar unit, 2 the vector unit, 4 the matrix unit, 8 instruction fetch) and its
core, the bytes it replaced from a key with their marks, the scopes with respect to which it has been performed and when,
the observers that have returned it or a later store, whether it is half of an atomic, and whether the shuttle's own fetch
may observe it (R120). -/
structure Store where
  id : Nat
  t : Nat
  src : Nat
  agent : Nat
  core : Option Nat
  key : Nat
  old : List (Byte × Bool)
  vis : List (Dom × Nat)
  seen : List (Nat × Nat)
  atom : Bool
  fetchable : Bool
  deriving DecidableEq, Repr

/-- The times of an agent of a shuttle: its loads are performed no earlier than `floor`, and its accesses so far have been
performed at `high` at the earliest (R89, R99). -/
structure View where
  floor : Nat := 0
  high : Nat := 0
  deriving DecidableEq, Repr

/-- A shuttle (R22, R105 to R109, R150 to R158, R261, R283). `stopping` says that a pre-emption of it has been requested and what that
waits for (R109, R265), `killed` holds the cause of a double trap whose save waits (R118); `again` and `span` are of an open convoy
that runs again. Log entry 3, DESIGN CHOICE. -/
structure Shuttle where
  uid : Nat := 0
  status : Status := .vacant
  place : Place := {}
  pc : Word := 0
  regs : Vector Word 32 := Vector.replicate 32 0
  priv : Priv := .u
  owner : Nat := 63
  estat : Word := 2
  epc : Word := 0
  ecause : Word := 0
  eaddr : Word := 0
  einfo : Word := 0
  tvec : Word := 0
  sscratch : Word := 0
  ctxptr : Word := 0
  pgstat : Word := 0
  scopedem : Word := 0
  prbSeq : Word := 0
  vl : Word := 0
  vtype : Word := 0
  vstart : Word := 0
  xstop : Word := 0
  vflags : Word := 0
  fflags : Word := 0
  fctl : Word := 0
  vseed : Word := 0
  strip : Word := 0
  srem : Word := 0
  mshape : Word := 0
  cpctl : Word := 0
  hwemap : Word := 0
  homeIsCtx : Bool := true
  homeBase : Word := 0
  v : Vector VecReg 32 := Vector.replicate 32 {}
  e : Vector VecReg 8 := Vector.replicate 8 {}
  p : Vector Nat 8 := Vector.replicate 8 0
  convoy : Convoy := {}
  bobbins : Vector Bobbin 32 := Vector.replicate 32 {}
  lend : Option Launch := none
  lendBytes : Nat := 0
  lendOff : Nat := 0
  eq : List (Word × Word) := []
  lost : Nat := 0
  posted : List Posted := []
  requests : List Request := []
  missed : List Miss := []
  found : List Found := []
  faulted : List Faulted := []
  kept : List Kept := []
  lostSources : List LostSource := []
  views : Vector View 3 := Vector.replicate 3 {}
  ctrHigh : Nat := 0
  again : Option Again := none
  span : List Spanned := []
  stopping : Option Wait := none
  killed : Option Nat := none
  attached : Bool := false
  matReq : Nat := 0
  lentFrom : Option Nat := none
  inPlace : Bool := false
  restored : Bool := false
  since : Nat := 0
  deriving DecidableEq, Repr

/-! ## Engines and units of a loom -/

/-- The translation context of an access: the partition and the privilege (R252, R300). -/
structure Ctx where
  part : Nat
  priv : Priv
  deriving DecidableEq, Repr

/-- A request, packet or copy command that waits at an arbiter or holds one (R307, R313): its owner and its blame tag, which from clock
`nextAt` on is `next`. -/
structure Flight where
  owner : Nat
  tag : Nat
  next : Nat
  nextAt : Nat
  deriving DecidableEq, Repr

/-- Where a copy command stands (R251, R252): parked on misses, or held by a leaf that migrates or is copied. -/
inductive CmdSt where
  | queued
  | parked
  | held (leaf : HeldLeaf)
  | running
  deriving DecidableEq, Repr

/-- A copy command (R250 to R260) with all that the CPY captured. `bob` is the issuing shuttle's bobbin, `trdl` the
treadle entry of a captured copy, `aim` the shuttle that a CPY.RR writes once it has begun. `pins` are the translations that its
probe has found, `missed` those that it waits for (R252). `moved` holds bit k once source byte k has been copied; its reads are
performed no earlier than `floor` (R101); `sent` says whether a flit of it has been transmitted (R291), `blame` its blame tag
(R307, R313). -/
structure Cmd where
  key : Nat
  core : Nat
  owner : Nat
  form : Nat
  uid : Nat
  bob : Option Nat
  trdl : Option Nat
  a : Word
  b : Word
  len : Nat
  rows : List Nat
  rowlg : Nat
  regA : Nat
  regB : Nat
  fold : Nat
  ftype : Nat
  frm : Nat
  cen : Bool
  ctr : Nat
  ctx : Ctx
  st : CmdSt
  since : Nat
  aim : Nat
  pins : List Found
  missed : List Miss
  moved : Nat
  accepted : Bool
  acc : Nat
  accPoison : Bool
  floor : Nat
  sent : Bool
  blame : Flight
  deriving DecidableEq, Repr

/-- The states of a landing-zone slot (Table 14-7). -/
inductive SlotSt where
  | free
  | reserved
  | complete
  | torn
  deriving DecidableEq, Repr

/-- What a core keeps for a lend child that the dispatcher holds (R32): the launch, the core, the bytes of vector register
file, the offset and size of the scratchpad region. -/
structure Room where
  key : Nat
  core : Nat
  bytes : Nat
  off : Nat
  n : Nat
  deriving DecidableEq, Repr

/-- A slot of a landing zone (R271 to R275); `at_` is the time of its completion's release (R98). -/
structure ZSlot where
  st : SlotSt := .free
  len : Nat := 0
  holder : Nat := 0
  arr : Nat := 0
  claimed : Nat := 0
  at_ : Nat := 0
  deriving DecidableEq, Repr

/-- An open landing zone (R273). -/
structure Zone where
  core : Nat
  num : Nat
  gen : Nat
  base : Nat
  szlg : Nat
  cen : Bool
  ctr : Nat
  uid : Nat
  part : Nat
  closing : Bool
  slots : List ZSlot
  deriving DecidableEq, Repr

/-- A tile of a core's accumulator memory (R234): its accumulator encodings as one number, and one poison mark per
byte. -/
structure Tile where
  bits : Nat := 0
  poison : Nat := 0
  deriving DecidableEq, Repr

/-- A core's request for clusters that the heddle has not answered (R37, R39): the clusters, the owner, the clock it was made,
and the core marked for it (R39). -/
structure LaneReq where
  n : Nat
  owner : Nat
  since : Nat
  marked : Option Nat
  deriving DecidableEq, Repr

/-- What a core holds outside its shuttles: its tiles, its attachment and matrix request with the clock since which it waits for rows (R230, R231), the tile
operations still in its matrix queue (R238), which shuttle's convoy owns its vector queue and when that last issued
(R36), whether its lanes return once its vector units are empty (R38), its request for clusters, the last generation of each zone number
(R273), and the slot that issued last (R34). -/
structure Core where
  tiles : Vector Tile 4 := Vector.replicate 4 {}
  attached : Option Nat := none
  claim : Option Nat := none
  matReq : Nat := 0
  matSince : Nat := 0
  matQueue : List Nat := []
  vqOwner : Option Nat := none
  vqSince : Nat := 0
  laneReturn : Bool := false
  laneReq : Option LaneReq := none
  zoneGens : Tab Nat := []
  last : Nat := 7
  deriving DecidableEq, Repr

/-- A loom (R11, R37 to R40, R231, R355, R371 to R374): clusters and matrix blocks by holder, the free blocks that a core takes
at its next sweep boundary, the core whose deficit is being served, the clock of the last grants of blocks with the cores granted
one in it, the clock in which a holder was last marked with that holder (R319), retired lanes, lane caps, droop table, the last
convoys that its cores started, each with its core and the majors and group counts of its members (R372), sensors, the cores whose
sweep has failed once as a mask (R361), its key slots (R355), whether it is being released. -/
structure Loom where
  clusters : Tab Nat := []
  blocks : Tab Nat := []
  pend : List (Nat × Nat) := []
  serving : Option Nat := none
  granted : Nat × List Nat := (0, [])
  markedAt : Option (Nat × Nat) := none
  retired : List Nat := []
  passed : Bool := false
  budgetCap : Nat := 256
  sensorCap : Nat := 256
  droopCap : Nat := 256
  droopUntil : Nat := 0
  droop : List (Nat × Nat) := []
  convoys : List (Nat × List (Nat × Nat)) := []
  thermOut : Bool := false
  currOut : Bool := false
  thermHist : List Int := []
  currHist : List Int := []
  share : Nat := 100
  arrayFailed : Nat := 0
  keySlots : Nat := 0
  releasing : Bool := false
  deriving DecidableEq, Repr

/-- The states of a region's scrub (Table 21-6). -/
inductive ScrubSt where
  | clean
  | scrubbing
  | pending
  deriving DecidableEq, Repr

/-- A SCRUB register (R355). -/
structure Scrub where
  st : ScrubSt := .pending
  last : Nat := 0
  prog : Nat := 0
  deriving DecidableEq, Repr

/-! ## Treadles -/

/-- The operation that a treadle has captured (Table 15-9). -/
inductive TOp where
  | cpy (c : Cmd)
  | ctrAdd (ref val : Word)
  | amo (op : Nat) (dbl : Bool) (addr val : Word)
  | st (n : Nat) (addr val : Word)
  | launch (l : Launch)
  deriving DecidableEq, Repr

/-- The states of a treadle entry (Table 15-10). -/
inductive TrdlSt where
  | free
  | armed
  | firing
  | failed
  deriving DecidableEq, Repr

/-- A treadle entry that is not FREE (R300 to R305). `order` is its place in the order of arming, `fired` in the order
of firing, and the name of its remote operation, of which `sent` says whether a flit has been transmitted; `parked` are the
translations that its operation waits for, `leaf` a leaf under migration that it waits for (R343), `floor` the time of its firing,
which acquires the counter (R98); `due` says of an ARMED entry that its counter has met it while a capture holds new firings
(R364). -/
structure Treadle where
  idx : Nat
  part : Nat
  shid : Nat
  launchId : Nat
  st : TrdlSt
  ctr : Nat
  thr : Nat
  order : Nat
  fired : Nat
  uid : Nat
  owner : Nat
  core : Nat
  ctx : Ctx
  op : TOp
  cause : Nat
  outcome : Nat
  parked : List Miss
  sent : Bool
  floor : Nat := 0
  leaf : Option HeldLeaf := none
  due : Bool := false
  deriving DecidableEq, Repr

/-! ## Functions, partitions, migration -/

/-- A page request that has not been answered (R335), by the model's own number; `id` is its REQID, 65,536 while it has none;
`queue` is 1 for the S1 queue and 2 for the S2 queue. -/
structure PageReq where
  key : Nat
  id : Nat
  queue : Nat
  page : Nat
  queued : Bool
  words : List Word
  deriving DecidableEq, Repr

/-- A page-table entry that the device holds (R337): its partition, stage and place (stage 1: the gPA), the level, the
address whose walk read it, and the entry with the A and D bits that the walk set. -/
structure Held where
  part : Nat
  stage : Nat
  place : Nat
  level : Nat
  addr : Nat
  entry : Nat
  deriving DecidableEq, Repr

/-- The registers of a function's BAR 0 and its queues (R346 to R350, R353, R382). `msixRecent` holds for a vector the clock of its
last event and the events of that clock (R349). -/
structure Func where
  feqBase : Word := 0
  feqHead : Nat := 0
  feqWrite : Nat := 0
  feqPhase : Bool := true
  feqLost : Nat := 0
  prqBase : Word := 0
  prqHead : Nat := 0
  prqWrite : Nat := 0
  prqPhase : Bool := true
  s1root : Word := 0
  mode : Word := 0
  featLo : Word := 0
  featHi : Word := 0
  coal : Tab Word := []
  watch : Tab Word := []
  msix : Tab Word := []
  msixPend : Tab Nat := []
  msixOldest : Tab Nat := []
  msixRecent : Tab (Nat × Nat) := []
  msixSent : Nat := 0
  reqs : List PageReq := []
  nextReq : Nat := 0
  launched : Bool := false
  invPending : List (Nat × Nat × Bool) := []
  needScrub : Bool := false
  deriving DecidableEq, Repr

/-- A checkpoint image (R364) and the granule log of its bank (R365): each logged guest page with its slot in the bank.
`cmds` holds the copy commands that had not begun; `base` is the bank's first byte, `room` its granules and `size` those that the
image takes of it. Log entry 37, DESIGN CHOICE. -/
structure Image where
  seq : Nat
  base : Nat := 0
  room : Nat := 0
  size : Nat := 0
  shuttles : List Shuttle
  spad : List (Nat × Byte)
  spadPoison : List Nat
  counters : Tab Word
  treadles : List Treadle
  zones : List Zone
  queue : List Launch
  held : List Launch
  tracks : List Track
  cmds : List Cmd
  fired : List (Nat × Launch)
  rooms : List Room
  log : List (Nat × Nat)
  deriving DecidableEq, Repr

/-- A partition block of the physical function (Table 21-4, Table 22-4) and what the dispatcher keeps for the
partition; block 16 is the system-set block (R25, R351). -/
structure Part where
  looms : Nat := 0
  pcgs : Nat := 0
  cbase : Nat := 0
  ccount : Nat := 0
  tbase : Nat := 0
  tcount : Nat := 0
  owners : Nat := 0
  tenant : Nat := 0
  remoteOwner : Nat := 0
  cap : Bool := false
  rate : Nat := 0
  bucket : Nat := 0
  tokens : Nat := 0
  refills : Nat := 0
  hbase : Word := 0
  ctxBase : Word := 0
  ctxCount : Nat := 0
  s2root : Word := 0
  prqBase : Word := 0
  prqHead : Nat := 0
  prqWrite : Nat := 0
  prqPhase : Bool := true
  fpBase : Word := 0
  fpProd : Nat := 0
  fpCons : Nat := 0
  qstat : Nat := 0
  zonesSeen : Nat := 0
  ckBase : Word := 0
  ckSize : Nat := 0
  ckPer : Nat := 2000
  ckSeq : Nat := 0
  ckBank : Nat := 0
  ckUsed : Nat := 0
  image : Option Image := none
  capturing : Bool := false
  lastCapture : Nat := 0
  accepts : Nat := 0
  queue : List Launch := []
  held : List Launch := []
  fired : List (Nat × Launch) := []
  release : Option (Nat × Nat) := none
  forced : Bool := false
  withdrawing : List Nat := []
  deriving DecidableEq, Repr

/-- A migration in progress (R340 to R343): the partition, guest page, physical address of the leaf, source and
destination pages, the source chip of a pull, whether the host asked for it. -/
structure Migration where
  part : Nat
  gpage : Nat
  leaf : Nat
  oldLeaf : Word
  src : Nat
  dst : Nat
  pull : Option Nat
  host : Bool
  deriving DecidableEq, Repr

/-- The migration unit (R341): the migrations in progress, the damping records (partition, guest page, end), the pages
whose page-in was aborted and whose miss goes to the S2 queue next (R342), the status the host was last answered (0
accepted, 1 BUSY, 2 DAMPED, 3 FAILED). -/
structure MigUnit where
  active : List Migration := []
  damped : List (Nat × Nat × Nat) := []
  failed : List (Nat × Nat) := []
  status : Nat := 0
  deriving DecidableEq, Repr

/-! ## Accounting, fabric, power, start-up -/

/-- A contender that waits at an arbiter (R309, R311): its request, its input (R395), its owner, the clock of its arrival; the
partition whose packet it is where it is about to enter the network (R352), the pseudo-channel of its line, whether it is a
miss (R327), its bytes. -/
structure Waiter where
  id : Nat
  input : Nat
  owner : Nat
  since : Nat
  part : Option Nat
  chan : Nat
  line : Nat
  op : Nat
  miss : Bool
  bytes : Nat
  deriving DecidableEq, Repr

/-- A forwarding credit that an L2 slice port has given to a miss in a clock (R327), and the clock from which it is the port's again. -/
structure Credit where
  chan : Nat
  id : Nat
  at_ : Nat
  back : Option Nat
  deriving DecidableEq, Repr

/-- A harm-weighted arbiter (R309 to R317): the deltas it made in the period under way and in the one
before until that is broadcast, its DM increments (number 64 × victim + culprit) of the period under way, its rotating
pointer, the clocks it has accounted for, its contenders, the request that holds its output with the last clock of the hold,
its forwarding credits, and at an L2 slice port the lines that the slice may hold (R327). -/
structure Arb where
  delta : Tab Int := []
  closed : Tab Int := []
  inc : Tab Nat := []
  ptr : Nat := 0
  clocks : Nat := 0
  waiting : List Waiter := []
  holder : Option (Nat × Nat) := none
  credits : List Credit := []
  lines : List Nat := []
  deriving DecidableEq, Repr

/-- The accounting unit (R308, R315, R320, R378): settled balances and cells, the values of the latest broadcast,
energy accumulators in units of 2^-48 J (number 4 × owner + class), what the period under way adds to them, entitlements. -/
structure Acct where
  h : Tab Int := []
  dm : Tab Nat := []
  energy : Tab Nat := []
  spent : Tab Nat := []
  hSeen : Tab Int := []
  dmSeen : Tab Nat := []
  energySeen : Tab Nat := []
  ent : Tab Nat := []
  entSeen : Tab Nat := []
  periods : Nat := 0
  broadcasts : Nat := 0
  deriving DecidableEq, Repr

/-- The modes of a path (Table 15-5). -/
inductive PathMode where
  | normal
  | erased
  | doubleCheck
  | down
  deriving DecidableEq, Repr

/-- A flit (R285, R286): the fields of Table 15-4, `body` and `tag` as transmitted, `copies` the 36 copies of DST that the switch
chips receive, copy k at bit 8k. -/
structure Flit where
  typ : Nat
  src : Nat
  dst : Nat
  kslot : Nat
  seq : Nat
  ackseq : Nat
  blen : Nat
  body : Nat
  tag : Nat
  copies : Nat
  deriving DecidableEq, Repr

/-- What this device keeps of the pair of paths between it and another chip (R285 to R292): `links` are the failed links of the
other chip, `unacked` the flits of the retry buffer, `wire` the flit last transmitted, `dataSeq` the SEQ of the last data flit;
`ackDue` counts the flits accepted since the last acknowledgement, the first of them at `ackSince`; `arrived` counts the
requests of the other chip whose flits have all been accepted and that have not been performed (R292), `owed` the answers that it
awaits. -/
structure Path where
  lost : Bool := true
  links : Nat := 0
  seq : Nat := 0
  dataSeq : Nat := 0
  accepted : Nat := 0
  ackDue : Nat := 0
  ackSince : Nat := 0
  unacked : List Flit := []
  wire : Option Flit := none
  arrived : Nat := 0
  owed : Nat := 0
  replays : Nat := 0
  replaying : Bool := false
  reest : Bool := false
  reestSince : Nat := 0
  epoch : Nat := 0
  kslot : Nat := 0
  keys : Tab Nat := []
  fresh : List Nat := []
  gen : Nat := 0
  inv : Tab Nat := []
  rekey : Nat := 2 ^ 36
  rekeySince : Option Nat := none
  rxSlot : Nat := 0
  authFails : Nat := 0
  authSeq : Nat := 0
  lastNak : Option (Nat × Nat) := none
  progressAt : Nat := 0
  peerLost : Bool := false
  deriving DecidableEq, Repr

/-- The fabric side of the device (R287, R288): the switch chips that have been declared dead and the failed links of this device,
as masks, whether injection is stopped for resynchronisation, the clock at which it
stopped, what the memory unit answered last: 0 or the code of a refusal or failure, the bytes, their poison marks. -/
structure Fabric where
  paths : Tab Path := []
  dead : Nat := 0
  links : Nat := 0
  resync : Bool := false
  resyncAt : Nat := 0
  reply : Option (Nat × List Byte × Nat) := none
  deriving DecidableEq, Repr

/-- Power (R371 to R377). -/
structure Power where
  cap : Nat := 3400
  floor : Nat := 1800
  lastSeq : Nat := 0
  budget : Nat := 0
  expiry : Nat := 0
  leased : Bool := false
  ectot : Nat := 0
  coef : Nat := 0
  deriving DecidableEq, Repr

/-- Start-up (R379 to R387): whether power is good, whether stage 0 has completed, the stage of BOOTSTAT, the image in use,
the fused minimum version, the two image slots (their bytes as one number, whether they verify, their versions), whether
the domain gate is open, the chip number, the domain identifier, M0 to M2, the image being received and the one staged
for slot B. -/
structure Boot where
  powered : Bool := false
  stage0 : Bool := false
  stage : Nat := 0
  image : Nat := 0
  fuse : Nat := 0
  verA : Nat := 0
  verB : Nat := 0
  imgA : Nat := 0
  imgB : Nat := 0
  okA : Bool := false
  okB : Bool := false
  gate : Bool := false
  chip : Nat := 0
  domain : Nat := 0
  alone : Bool := false
  m0 : Nat := 0
  m1 : Nat := 0
  m2 : Nat := 0
  fw : Option (Nat × Nat) := none
  staged : Option Nat := none
  deriving DecidableEq, Repr

/-- The management mailbox (R383). `data` holds MBDATA as one number, the first byte lowest. -/
structure Mailbox where
  st : Nat := 0
  err : Nat := 0
  outLen : Nat := 0
  data : Nat := 0
  deriving DecidableEq, Repr

/-! ## The machine -/

/-- The machine. `cur` is the shuttle that issues next; `others` are the other resident shuttles, `away` the ones that
were pre-empted or whose slot a lend child runs in. `mem` holds every byte of storage: a key below 2^52 is a physical
address, PA[51:44] the chip (R84); key 2^52 + 2^22 × core + offset is a byte of that core's scratchpad (R81).
`poisoned` holds the poison marks of memory: the keys divided by 8 of the marked words (R358), strictly rising.
`stores` are the stores, the newest first, whose order before the loads of others is still open, `now` is the time of the last one
and `ctrAt` when each counter was last updated; all three stand for the order of R89 to R102, not for registers.
`flights` are the requests that arbiters know. `struck` are the partitions whose walk has met a struck page-table entry in the step
under way (R362). `agenda` is the model's own: the device and host events that come next, oldest first. `fresh` is the model's own: how
many free values have been drawn. -/
structure State where
  cur : Shuttle := {}
  others : List Shuttle := []
  away : List Shuttle := []
  mem : List Host.Cell := []
  poisoned : List Nat := []
  stores : List Store := []
  now : Nat := 0
  ctrAt : Tab Nat := []
  counters : Tab Word := []
  cores : Tab Core := []
  looms : Tab Loom := []
  cmds : List Cmd := []
  zones : List Zone := []
  treadles : List Treadle := []
  tracks : List Track := []
  rooms : List Room := []
  funcs : Tab Func := []
  parts : Tab Part := []
  held : List Held := []
  mig : MigUnit := {}
  arbs : Tab Arb := []
  flights : Tab Flight := []
  acct : Acct := {}
  fabric : Fabric := {}
  power : Power := {}
  boot : Boot := {}
  mailbox : Mailbox := {}
  scrubs : Tab Scrub := []
  clock : Nat := 0
  nextKey : Nat := 1
  fresh : Nat := 0
  struck : List Nat := []
  agenda : List Instr := []
  deriving DecidableEq, Repr

/-- Why the machine stops. -/
inductive Fault where
  /-- Raised by no step: an event that is not well-formed names nothing on the part, and changes nothing. Safe. -/
  | illFormedEvent
  deriving DecidableEq, Repr

/-- Why an instruction has no meaning in the model. -/
inductive Refusal where
  /-- Raised by an arm of exec whose instruction the model does not give a meaning. Safe: nothing is claimed of it. -/
  | notModelled (mnemonic : String)
  deriving DecidableEq, Repr

/-- The machine right after a cold reset (R6, R356, R379): no shuttle, nothing in memory, every table empty, which
stands for every register at its reset value. Log entries 1 to 3,
5 and 6, DESIGN CHOICE, name the values the spec leaves open. -/
def State.reset : State := {}

end Sys2Proof.Machine
end

