-- ==== Sys2Proof/Machine/Mem.lean ====
section
/-!
DEFINITION. Sys2Proof/Machine/Mem.lean: the monad of an instruction, the accessors of the state, and the bytes of
storage with their poison marks (R4, R81, R84, R358). All wider accesses are built here from bytes.
-/
namespace Sys2Proof.Machine

/-! ## The monad -/

/-- Why an instruction does not complete: it takes a synchronous cause, it must wait and be issued again, a pre-emption
requested earlier takes effect before it (R43), or the shuttle goes on at the first member of its convoy. -/
inductive Stop where
  | trap (cause : Nat) (eaddr einfo : Word)
  | wait (w : Wait)
  | cut
  | again
  deriving DecidableEq, Repr

/-- The body of an instruction: it reads and writes the state, and may stop. -/
abbrev M := EStateM Stop State

/-- Trap(c, ea, ei) of R121. -/
def trap {α : Type} (c : Nat) (ea ei : Word) : M α := throw (.trap c ea ei)
/-- The shuttle is not ready until the wait may be over (R34). -/
def park {α : Type} (w : Wait) : M α := throw (.wait w)

/-- The cause codes of Table 6-7. -/
def cILLEGAL : Nat := 0x01
def cCONVOY : Nat := 0x02
def cPRIVILEGE : Nat := 0x03
def cMISALIGNED : Nat := 0x04
def cPAGEFAULT : Nat := 0x05
def cACCESS : Nat := 0x06
def cPOISON : Nat := 0x07
def cREMOTE : Nat := 0x08
def cTRAP : Nat := 0x09
def cDETACHED : Nat := 0x0A
def cBOBBIN : Nat := 0x0B
def cZONE : Nat := 0x0C
def cEQ : Nat := 0x0D
def cSOURCE : Nat := 0x0E
def cROLLBACK : Nat := 0x0F

def w64 (n : Nat) : Word := BitVec.ofNat 64 n

/-- ILLEGAL with the instruction's bits in EADDR and REASON in EINFO[63:60] (R65). -/
def illegal {α : Type} (bits reason : Nat) : M α := trap cILLEGAL (w64 bits) (w64 (reason * 2 ^ 60))
/-- ILLEGAL of a feature the driver did not accept: REASON 7 and FBIT (R65). -/
def noFeature {α : Type} (bits fbit : Nat) : M α := trap cILLEGAL (w64 bits) (w64 (7 * 2 ^ 60 + fbit))
/-- Require a condition, with ILLEGAL of the given REASON where it fails. -/
def need (bits reason : Nat) (c : Bool) : M Unit := if c then pure () else illegal bits reason

/-! ## Registers of a shuttle -/

/-- s[r]: s0 reads as zero (R105). -/
def Shuttle.reg (sh : Shuttle) (r : SReg) : Word := if r = 0 then 0 else sh.regs[r]
/-- Wr(r, v) of R121. -/
def Shuttle.wr (sh : Shuttle) (r : SReg) (v : Word) : Shuttle :=
  if r = 0 then sh else { sh with regs := sh.regs.set r v }

/-- The same of the shuttle that issues. -/
def State.reg (s : State) (r : SReg) : Word := s.cur.reg r
def State.wr (s : State) (r : SReg) (v : Word) : State := { s with cur := s.cur.wr r v }
def State.setPc (s : State) (pc : Word) : State := { s with cur := { s.cur with pc := pc } }

def readReg (r : SReg) : M Word := do return (← get).cur.reg r
def writeReg (r : SReg) (v : Word) : M Unit := modify (·.wr r v)
def onCur (f : Shuttle → Shuttle) : M Unit := modify fun s => { s with cur := f s.cur }

/-- VLEN in bytes (R22). -/
def Shuttle.vlen (sh : Shuttle) : Nat := 512 * 2 ^ sh.place.vlenLog
/-- 8 × device-wide core number + slot (Table 6-1). -/
def Shuttle.shid (sh : Shuttle) : Nat := 8 * sh.place.core + sh.place.slot
/-- The fields of VTYPE (Table 7-2). -/
def Shuttle.ety (sh : Shuttle) : Nat := bits sh.vtype.toNat 0 5
def Shuttle.group (sh : Shuttle) : Nat := 2 ^ bits sh.vtype.toNat 6 2
def Shuttle.sl (sh : Shuttle) : Nat := bits sh.vtype.toNat 8 3
def Shuttle.rm (sh : Shuttle) : Nat := bits sh.vtype.toNat 11 2
def Shuttle.sc (sh : Shuttle) : Bool := bit sh.vtype.toNat 13
def Shuttle.sr (sh : Shuttle) : Bool := bit sh.vtype.toNat 14
def Shuttle.sat (sh : Shuttle) : Bool := bit sh.vtype.toNat 15
/-- The bits of ESTAT (Table 6-5). -/
def Shuttle.ppl (sh : Shuttle) : Bool := bit sh.estat.toNat 0
def Shuttle.aie (sh : Shuttle) : Bool := bit sh.estat.toNat 1
def Shuttle.paie (sh : Shuttle) : Bool := bit sh.estat.toNat 2
def Shuttle.eh (sh : Shuttle) : Bool := bit sh.estat.toNat 3
def Shuttle.peq (sh : Shuttle) : Bool := bit sh.estat.toNat 6
def Shuttle.prb (sh : Shuttle) : Bool := bit sh.estat.toNat 7
def Shuttle.setEstat (sh : Shuttle) (i : Nat) (b : Bool) : Shuttle :=
  { sh with estat := w64 (setBit sh.estat.toNat i b) }

/-- PER(t): elements per register (R150). -/
def perOf (vlen t : Nat) : Nat :=
  if isQ t then 256 * (vlen / (32 * ebits t)) else 8 * vlen / ebits t
/-- VLMAX of a VTYPE value (R150). -/
def vlmaxOf (vlen vt : Nat) : Nat := min (2 ^ bits vt 6 2 * perOf vlen (bits vt 0 5)) (8 * vlen)
def Shuttle.vlmax (sh : Shuttle) : Nat := vlmaxOf sh.vlen sh.vtype.toNat

/-! ## The shuttles of the machine -/

/-- The shuttles in slots, the one that issues first. -/
def State.resident (s : State) : List Shuttle := s.cur :: s.others
/-- `f` of every shuttle in a slot. -/
def State.mapResident (s : State) (f : Shuttle → Shuttle) : State :=
  { s with cur := f s.cur, others := s.others.map f }
/-- `f` of every shuttle, away from its slot or not. -/
def State.mapShuttles (s : State) (f : Shuttle → Shuttle) : State :=
  { s with cur := f s.cur, others := s.others.map f, away := s.away.map f }
/-- `f` of the shuttle `uid`. -/
def State.onUid (s : State) (uid : Nat) (f : Shuttle → Shuttle) : State :=
  s.mapShuttles fun sh => if sh.uid = uid then f sh else sh
def Shuttle.live (sh : Shuttle) : Bool := sh.status != .vacant
/-- The shuttle in a slot of a core. -/
def State.at (s : State) (core slot : Nat) : Option Shuttle :=
  s.resident.find? fun sh => sh.live && sh.place.core == core && sh.place.slot == slot
def State.byUid (s : State) (uid : Nat) : Option Shuttle :=
  (s.cur :: (s.others ++ s.away)).find? fun sh => sh.live && sh.uid == uid
/-- The shuttle of a slot made the one that issues. -/
def State.focus (s : State) (uid : Nat) : State :=
  if s.cur.uid = uid then s
  else match s.others.find? (fun sh => sh.uid == uid) with
    | some sh =>
      let rest := s.others.filter (fun x => x.uid != uid)
      { s with cur := sh, others := if s.cur.live then s.cur :: rest else rest }
    | none => s
/-- The slot that issues next after its shuttle has left it: the turn stays at its core. -/
def Shuttle.left (sh : Shuttle) : Shuttle := { place := { core := sh.place.core } }
/-- The turn goes back to `c` after another shuttle has been looked at. -/
def State.backTo (s : State) (c : Shuttle) : State :=
  if c.live then s.focus c.uid
  else { s with cur := c, others := if s.cur.live then s.cur :: s.others else s.others }
/-- A number that nothing else in the machine has. -/
def State.newKey (s : State) : Nat × State := (s.nextKey, { s with nextKey := s.nextKey + 1 })

/-! ## Units by number -/

def State.func (s : State) (n : Nat) : Func := tget {} s.funcs n
def State.setFunc (s : State) (n : Nat) (f : Func) : State := { s with funcs := tput s.funcs n f }
def State.part (s : State) (n : Nat) : Part := tget {} s.parts n
def State.setPart (s : State) (n : Nat) (p : Part) : State := { s with parts := tput s.parts n p }
def State.core (s : State) (n : Nat) : Core := tget {} s.cores n
def State.setCore (s : State) (n : Nat) (c : Core) : State := { s with cores := tput s.cores n c }
def State.loom (s : State) (n : Nat) : Loom := tget {} s.looms n
def State.setLoom (s : State) (n : Nat) (l : Loom) : State := { s with looms := tput s.looms n l }
def State.counter (s : State) (n : Nat) : Word := tget 0 s.counters n
def State.scrub (s : State) (r : Nat) : Scrub := tget {} s.scrubs r
def State.path (s : State) (chip : Nat) : Path := tget {} s.fabric.paths chip
def State.setPath (s : State) (chip : Nat) (p : Path) : State :=
  { s with fabric := { s.fabric with paths := tput s.fabric.paths chip p } }
def State.chip (s : State) : Nat := s.boot.chip
/-- Whether another chip is in the domain: paths to it have been opened since the last reset (R12, R388). -/
def State.inDomain (s : State) (chip : Nat) : Bool :=
  s.fabric.paths.any fun (e : Nat × Path) => e.1 == chip && !e.2.keys.isEmpty

/-- Whether the function of a partition accepted a feature (R382). The function of partition 16 is the physical one. -/
def State.feature (s : State) (part fbit : Nat) : Bool := bit (s.func part).featLo.toNat fbit
/-- Require a feature of the shuttle's function, with ILLEGAL REASON 7 (R67). -/
def feature (bits fbit : Nat) : M Unit := do
  let s ← get
  if s.feature s.cur.place.part fbit then pure () else noFeature bits fbit

/-- The looms that partition `n` holds; those of the system set are the looms no partition holds (R25). -/
def State.loomsOf (s : State) (n : Nat) : Nat :=
  if n = 16 then
    (2 ^ 40 - 1) - ((List.range 16).foldl (fun acc k => acc ||| (s.part k).looms) 0) % 2 ^ 40
  else (s.part n).looms
/-- The partition that holds loom `l`: 16 where none does. -/
def State.loomHolder (s : State) (l : Nat) : Nat :=
  ((List.range 16).find? fun k => bit (s.part k).looms l).getD 16
/-- The pseudo-channel group of an HBM address (R390). -/
def groupOf (a : Nat) : Nat := a / 12000000000
/-- The partition that holds pseudo-channel group `g`. -/
def State.groupHolder (s : State) (g : Nat) : Nat :=
  ((List.range 16).find? fun k => bit (s.part k).pcgs g).getD 16
/-- The partition whose counter slice holds counter `i`; 16 where none does (R25). -/
def State.counterHolder (s : State) (i : Nat) : Nat :=
  ((List.range 16).find? fun k => decide ((s.part k).cbase ≤ i ∧ i < (s.part k).cbase + (s.part k).ccount)).getD 16
def State.treadleHolder (s : State) (i : Nat) : Nat :=
  ((List.range 16).find? fun k => decide ((s.part k).tbase ≤ i ∧ i < (s.part k).tbase + (s.part k).tcount)).getD 16
/-- Whether an owner is one of a partition's; 63 is the system set's only owner (R20, R25). -/
def State.ownerOf (s : State) (n o : Nat) : Bool :=
  if n = 16 then o == 63 else bit (s.part n).owners o
/-- The domain tenant number (R279). -/
def State.tenantOf (s : State) (n : Nat) : Nat := if n = 16 then 0xFFF else (s.part n).tenant
/-- The remote owner (R279). -/
def State.remoteOwner (s : State) (n : Nat) : Nat := if n = 16 then 63 else (s.part n).remoteOwner

/-! ## Bytes of storage -/

/-- What an unlisted byte of storage reads as. Log entry 1, DESIGN CHOICE. -/
def emptyByte : Byte := 0

/-- A byte of the list; the keys rise strictly. -/
def memRead : List Host.Cell → Nat → Byte
  | [], _ => emptyByte
  | (a, b) :: t, k => if a = k then b else if k < a then emptyByte else memRead t k

/-- The list with byte `b` at `k`; writing what an unlisted byte reads as removes the entry. -/
def memWrite : List Host.Cell → Nat → Byte → List Host.Cell
  | [], k, b => if b = emptyByte then [] else [(k, b)]
  | (a, c) :: t, k, b =>
    if k < a then if b = emptyByte then (a, c) :: t else (k, b) :: (a, c) :: t
    else if a = k then if b = emptyByte then t else (k, b) :: t
    else (a, c) :: memWrite t k b

/-- The canonical form of memory: keys strictly rising, no entry equal to what an unlisted byte reads as. -/
def Memory.wf : List Host.Cell → Bool
  | [] => true
  | [(_, b)] => b != emptyByte
  | (a, b) :: (c, d) :: t => decide (a < c) && b != emptyByte && Memory.wf ((c, d) :: t)

/-- The key of a scratchpad byte (R81). -/
def spadKey (core off : Nat) : Nat := 2 ^ 52 + 2 ^ 22 * core + off
/-- The key of a byte of this device's own host aperture (Table 5-1). Log entry 23, DESIGN CHOICE. -/
def State.hostKey (s : State) (hpa : Nat) : Nat := s.chip * 2 ^ 44 + 2 ^ 43 + hpa % 2 ^ 43
/-- The key of a byte of this device's HBM. -/
def State.hbmKey (s : State) (a : Nat) : Nat := s.chip * 2 ^ 44 + a

/-- `n` bytes from key `k`, little-endian (R4). -/
def readLE (m : List Host.Cell) (k : Nat) : Nat → Nat
  | 0 => 0
  | n + 1 => (memRead m k).toNat + 256 * readLE m (k + 1) n
/-- The list with `n` bytes of `v` from key `k`, little-endian. -/
def writeLE (m : List Host.Cell) (k : Nat) (v : Nat) : Nat → List Host.Cell
  | 0 => m
  | n + 1 => writeLE (memWrite m k (BitVec.ofNat 8 v)) (k + 1) (v / 256) n

/-- Whether any of `n` bytes from key `k` is poisoned: one mark for each aligned 8-byte word (R358). -/
def markedAny (p : List Nat) (k n : Nat) : Bool :=
  (List.range ((k + n - 1) / 8 + 1 - k / 8)).any fun i => sHas p (k / 8 + i)

/-- The poison marks after a store of `n` bytes from key `k` (R358): a store of poisoned bytes marks each word it
touches, a clean store clears the mark of each word it covers whole. Log entry 53, DEDUCED. -/
def markStore (p : List Nat) (k n : Nat) (pois : Bool) : List Nat :=
  (List.range ((k + n - 1) / 8 + 1 - k / 8)).foldl (fun p i =>
    let w := k / 8 + i
    if pois then sAdd p w else if k ≤ 8 * w ∧ 8 * w + 8 ≤ k + n then sDel p w else p) p

/-- `n` bytes from key `k`, and whether one of them is poisoned. -/
def State.load (s : State) (k n : Nat) : Nat × Bool := (readLE s.mem k n, markedAny s.poisoned k n)
/-- The bytes of a store of `n` bytes of `v` at key `k`. -/
def State.poke (s : State) (k n v : Nat) (pois : Bool) : State :=
  { s with mem := writeLE s.mem k v n, poisoned := markStore s.poisoned k n pois }
/-- No load misses a store that touches one of `n` bytes from key `k` any more. -/
def State.settleBytes (s : State) (k n : Nat) : State :=
  { s with stores := s.stores.filter fun r => !decide (r.key < k + n ∧ k < r.key + r.old.length) }
/-- The state after a store of `n` bytes of `v` at key `k` that every agent sees at once: one of the device's own. Log entry 8, DESIGN CHOICE. -/
def State.store (s : State) (k n v : Nat) (pois : Bool) : State := (s.settleBytes k n).poke k n v pois
/-- A store of one field of a byte, under a bit mask (R88): the other bits stay. -/
def State.storeBits (s : State) (k lo n v : Nat) (pois : Bool) : State :=
  let old := (memRead s.mem k).toNat
  s.store k 1 (setBits old lo n v) (pois || markedAny s.poisoned k 1)

/-- The poison marks of `n` bytes from key `k`, one bit per byte. -/
def markMask (p : List Nat) (k n : Nat) : Nat :=
  (List.range n).foldl (fun acc i => if sHas p ((k + i) / 8) then acc + 2 ^ i else acc) 0

/-- The poison marks after `n` bytes with the marks of `pm` are stored from key `k`, word by word. -/
def markMasked (p : List Nat) (k n pm : Nat) : List Nat :=
  (List.range ((k + n - 1) / 8 + 1 - k / 8)).foldl (fun p i =>
    let w := k / 8 + i
    let lo := max (8 * w) k
    let hi := min (8 * w + 8) (k + n)
    if bits pm (lo - k) (hi - lo) != 0 then sAdd p w else if hi - lo = 8 then sDel p w else p) p

/-- A store of `n` bytes that carry poison byte by byte. -/
def State.storeMasked (s : State) (k n v pm : Nat) : State :=
  { s.settleBytes k n with mem := writeLE s.mem k v n, poisoned := markMasked s.poisoned k n pm }

/-! ## Free values -/

/-- A fresh number for a free value. Log entry 6, DESIGN CHOICE. -/
def draw : M Nat := do
  let s ← get
  set { s with fresh := s.fresh + 1 }
  return s.fresh

end Sys2Proof.Machine
end

