-- ==== Sys2Proof/Machine/Charge.lean ====
section
/-!
DEFINITION. Sys2Proof/Machine/Charge.lean: the harm rule (R309, R395), blame tags (R313, R314) and the charging of waiting clocks
(R311, R312, R317).
-/
namespace Sys2Proof.Machine

/-! ## Arbiters (Table 1-3) -/

/-- The number of an arbiter: its row of Table 1-3, from 0, and which one of its kind it is. -/
def arbKey (kind inst : Nat) : Nat := 8 * inst + kind
def State.arbOf (s : State) (key : Nat) : Arb := tget ({} : Arb) s.arbs key
def State.arb (s : State) (kind inst : Nat) : Arb := s.arbOf (arbKey kind inst)
def State.putArb (s : State) (key : Nat) (a : Arb) : State := { s with arbs := tput s.arbs key a }

/-- The clamp of a harm balance. -/
def clampH (i : Int) : Int := max (-65536) (min 65536 i)
def addInt (t : Tab Int) (k : Nat) (d : Int) : Tab Int := tput t k (tget 0 t k + d)
/-- H_A(o) (R317): the settled value with the arbiter's deltas that it does not hold yet. -/
def Arb.balance (a : Arb) (ac : Acct) (o : Nat) : Int :=
  clampH (tget 0 ac.hSeen o + tget 0 a.closed o + tget 0 a.delta o)

/-! ## The harm rule (R309) -/

/-- A contender at an arbiter: its input (R395), its owner, the clock from which its age counts, what it stands for. -/
structure Contender (α : Type) where
  input : Nat
  owner : Nat
  since : Nat
  what : α

/-- Insertion into a list in order. -/
def insertBy {α : Type} (lt : α → α → Bool) (x : α) : List α → List α
  | [] => [x]
  | y :: ys => if lt y x then y :: insertBy lt x ys else x :: y :: ys
def sortBy {α : Type} (lt : α → α → Bool) (xs : List α) : List α := xs.foldr (insertBy lt) []

/-- The age of a contender. -/
def Contender.age {α : Type} (c : Contender α) (clock : Nat) : Nat := min 65535 (clock - c.since)
/-- P. -/
def Contender.prio {α : Type} (s : State) (a : Arb) (c : Contender α) : Int :=
  (tget 0 s.acct.entSeen c.owner : Nat) + a.balance s.acct c.owner + (c.age s.clock : Nat)
/-- The distance of an input from the rotating pointer. -/
def Arb.distance (a : Arb) (input : Nat) : Nat := (input + 65536 - a.ptr) % 65536
/-- Whether two contenders tie. -/
def tied {α : Type} (s : State) (a : Arb) (x y : Contender α) : Bool :=
  let o := x.age s.clock == 65535
  let q := y.age s.clock == 65535
  o == q && (if o then x.since == y.since else decide (x.prio s a = y.prio s a))
/-- Whether the arbiter prefers x to y. -/
def prefers {α : Type} (s : State) (a : Arb) (x y : Contender α) : Bool :=
  let o := x.age s.clock == 65535
  let q := y.age s.clock == 65535
  if tied s a x y then decide (a.distance x.input ≤ a.distance y.input)
  else if o != q then o
  else if o then decide (x.since < y.since)
  else decide (y.prio s a < x.prio s a)
/-- The contenders in the order in which the arbiter would grant them. -/
def ranked {α : Type} (s : State) (a : Arb) (cs : List (Contender α)) : List (Contender α) :=
  sortBy (fun x y => prefers s a x y) cs
/-- The rotating pointer after a grant to the first of `cs` that is granted, `w`. -/
def Arb.after {α : Type} (s : State) (a : Arb) (w : Contender α) (cs : List (Contender α)) : Arb :=
  if (cs.filter fun c => tied s a w c).length ≤ 1 then a else { a with ptr := (w.input + 1) % 65536 }

/-! ## Charging -/

/-- One charge: victim owner v waited on the account of c (R312). -/
def Arb.charge (a : Arb) (v c : Nat) : Arb :=
  let k := 64 * v + c
  let a := { a with inc := tput a.inc k (tget 0 a.inc k + 1) }
  if c = v then a else { a with delta := addInt (addInt a.delta v 1) c (-1) }
/-- The charges of a clock: one for each victim owner, of which the first in the list decides. -/
def Arb.chargeAll (a : Arb) (ws : List (Nat × Nat)) : Arb :=
  (ws.foldl (fun (r : Arb × List Nat) x =>
    if r.2.contains x.1 then r else (r.1.charge x.1 x.2, x.1 :: r.2)) (a, [])).1
/-- Whether an arbiter has accounted for the clock that the machine is in. -/
def Arb.accounted (a : Arb) (clock : Nat) : Bool := decide (clock < a.clocks)
/-- An arbiter's charges of the clock, made once (R312). -/
def State.chargeClock (s : State) (key : Nat) (a : Arb) (ws : List (Nat × Nat)) : State :=
  if a.accounted s.clock then s.putArb key a else s.putArb key { a.chargeAll ws with clocks := s.clock + 1 }

/-! ## Energy (R320, R378) -/

/-- Bytes of a class, 0 L2, 1 HBM, 2 fabric, on an owner's account: each adds the coefficient of its class. -/
def State.spend (s : State) (owner cls bytes : Nat) : State :=
  let k := 4 * owner + cls
  { s with acct := { s.acct with spent := tput s.acct.spent k (tget 0 s.acct.spent k + bytes * bits s.power.coef (16 * cls) 16) } }

/-! ## Blame tags (R313) -/

/-- The tag of a request as it stood at the start of the clock. -/
def Flight.at_ (f : Flight) (clock : Nat) : Nat := if f.nextAt ≤ clock then f.next else f.tag
/-- The blame tag of a request: its own owner's where no arbiter has stalled it. -/
def State.tagOf (s : State) (id owner : Nat) : Nat :=
  match s.flights.find? fun e => e.1 == id with
  | some e => e.2.at_ s.clock
  | none => owner
/-- A tag from the next clock on. -/
def State.setTag (s : State) (id owner c : Nat) : State :=
  let f : Flight := { owner := owner, tag := s.tagOf id owner, next := c, nextAt := s.clock + 1 }
  { s with flights := tput s.flights id f }
/-- Whether a request waits at an arbiter, or holds one or a credit in this clock. -/
def State.waitsAnywhere (s : State) (id : Nat) : Bool := s.arbs.any fun e => e.2.waiting.any fun w => w.id == id
def State.held_ (s : State) (id : Nat) : Bool := s.arbs.any fun e =>
  (e.2.holder.any fun h => h.1 == id && decide (s.clock ≤ h.2)) || e.2.credits.any fun c => c.id == id && c.back.all (s.clock < ·)

end Sys2Proof.Machine
end

