-- ==== Sys2Proof/Machine/Order.lean ====
section
/-!
DEFINITION. Sys2Proof/Machine/Order.lean: the order of accesses to storage (R89 to R102, R120): which stores a load may return,
what a fence, an acquire or a release orders. A store is written to `State.mem` when it executes, and `State.stores` keeps what it
replaced until no load may miss it. A load is performed at some time from its agent's floor on; it may miss a store that has not
been performed by then with respect to it. Log entry 8, DESIGN CHOICE.
-/
namespace Sys2Proof.Machine

/-! ## Observers and scopes -/

def agScalar : Nat := 1
def agVector : Nat := 2
def agMatrix : Nat := 4
def agFetch : Nat := 8
/-- Counter accesses, which FENCE.ALL orders as well (R96), and all accesses. -/
def agCounter : Nat := 16
def agAll : Nat := 23

/-- Who performs an access: the shuttle or engine, its core where it has one, and the agent. -/
structure Obs where
  who : Nat
  core : Option Nat
  agent : Nat
  deriving DecidableEq, Repr
/-- The agents whose loads an observer's loads follow: fetch is a load of the scalar agent (R120). -/
def Obs.eyes (o : Obs) : Nat := if o.agent = agFetch then agFetch + agScalar else o.agent

/-- The names of the agents that are no shuttle: a copy command (R16), a treadle, the memory unit, the host. -/
def cmdSrc (key : Nat) : Nat := 4 * key + 2 ^ 64
def trdlSrc (order : Nat) : Nat := 4 * order + 2 ^ 64 + 1
def farSrc : Nat := 2 ^ 64 + 2
def hostSrc : Nat := 2 ^ 64 + 3

/-- The core number under which the copy engine of a loom observes: the engine is of its loom and of no core. -/
def engineCore (loom : Nat) : Nat := 640 + 4 * loom
/-- The loom of a core, or of an engine. -/
def loomOf (core : Nat) : Nat := core / 4 % 160
/-- Whether a scope holds the agents of a core, or of none (Table 5-3). -/
def Dom.holds (d : Dom) (core : Option Nat) : Bool :=
  match d, core with
  | .chip, _ => true
  | .core c, some k => c == k
  | .loom l, some k => l == loomOf k
  | _, none => false
/-- Whether a scope holds every agent of another. -/
def Dom.covers (d e : Dom) : Bool :=
  match d, e with
  | .chip, _ => true
  | .loom l, .loom m => l == m
  | .loom l, .core c => l == loomOf c
  | .core c, .core b => c == b
  | _, _ => false
/-- The scope of a code of Table 5-3 for a core; PART and SYS hold every agent of the device. -/
def scopeDom (scope core : Nat) : Dom :=
  if scope = 0 then .core core else if scope = 1 then .loom (loomOf core) else .chip

/-! ## Stores -/

/-- Whether a store wrote one of `n` bytes from key `k`, and what it replaced at `k`. -/
def Store.hits (r : Store) (k n : Nat) : Bool := decide (r.key < k + n ∧ k < r.key + r.old.length)
def Store.under (r : Store) (k : Nat) : Byte × Bool := r.old.getD (k - r.key) (emptyByte, false)
/-- When a store was performed with respect to the agents of a core. -/
def Store.performedFor (r : Store) (core : Option Nat) : Option Nat :=
  r.vis.foldl (fun m x => if x.1.holds core then some (match m with
    | none => x.2
    | some t => min t x.2) else m) none
/-- When a store was performed with respect to every agent of a scope. -/
def Store.performedIn (r : Store) (d : Dom) : Option Nat :=
  r.vis.foldl (fun m x => if x.1.covers d then some (match m with
    | none => x.2
    | some t => min t x.2) else m) none
/-- Whether an observer has returned the store or a later one. -/
def Store.seenBy (r : Store) (who agents : Nat) : Bool := r.seen.any fun x => x.1 == who && (x.2 &&& agents) != 0
/-- Whether a load that is performed at `floor` or later must see the store. -/
def Store.binds (r : Store) (o : Obs) (floor : Nat) : Bool :=
  r.seenBy o.who o.eyes || (match r.performedFor o.core with
    | some t => decide (t ≤ floor)
    | none => false)
/-- Fetch does not observe a store of its own shuttle before a FENCE.ALL (R120). -/
def Store.unfetched (r : Store) (o : Obs) : Bool := o.agent == agFetch && r.src == o.who && !r.fetchable
/-- Whether an observer stands outside the loom of a store, so that it sees the store when every agent there does (R91). -/
def Store.outside (r : Store) (o : Obs) : Bool :=
  match r.core, o.core with
  | some a, some b => loomOf a != loomOf b
  | _, _ => true

/-- The record of a store of `n` bytes at key `k` that the state is about to make. -/
def State.recordOf (s : State) (o : Obs) (k n : Nat) (atom : Bool) : Store :=
  { id := s.fresh, t := s.now + 1, src := o.who, agent := o.agent, core := o.core, key := k
    old := (List.range n).map fun i => (memRead s.mem (k + i), sHas s.poisoned ((k + i) / 8))
    vis := [], seen := [(o.who, o.agent)], atom := atom, fetchable := false }

/-! ## Performing with respect to a scope -/

/-- The stores that `pick` names, and the earlier ones under them, are performed now with respect to a scope. -/
def performList (pick : Store → Bool) (d : Dom) (t : Nat) : List Store → List (Nat × Nat) → List Store
  | [], _ => []
  | r :: rs, ks =>
    if (pick r || ks.any fun x => r.hits x.1 x.2) && !r.vis.any (fun x => x.1.covers d) then
      { r with vis := (d, t) :: r.vis } :: performList pick d t rs ((r.key, r.old.length) :: ks)
    else r :: performList pick d t rs ks
def State.performed (s : State) (pick : Store → Bool) (d : Dom) : State :=
  if s.stores.any fun r => pick r && !r.vis.any (fun x => x.1.covers d) then
    { s with now := s.now + 1, stores := performList pick d (s.now + 1) s.stores [] }
  else s

/-! ## Loads -/

/-- When a store was performed with respect to an observer, or, before that, was made. -/
def Store.when (r : Store) (o : Obs) : Nat := (r.performedFor o.core).getD r.t
/-- What a load has decided about the stores to its bytes, from the newest on: those it misses, the time from which and the
time before which it is performed, and the runs of bytes of the stores that it returns. -/
structure Sight where
  missed : List Nat := []
  lo : Nat
  hi : Option Nat := none
  shown : List (Nat × Nat) := []
  deriving DecidableEq, Repr
/-- The next older store to the bytes of a load: one that the observer has returned, that a store which the load returns
overlaps, or that was performed before the load is returned; one performed no earlier than a missed one is missed; otherwise
the load is free. So a load returns a store whole or not at all (R88, R91). -/
def Sight.next (o : Obs) (f : Nat) (c : Sight) (r : Store) : Sight :=
  let due := match r.performedFor o.core with
    | some t => decide (t ≤ c.lo)
    | none => false
  let bound := r.seenBy o.who o.eyes || due || c.shown.any fun x => r.hits x.1 x.2
  let late := c.hi.any fun h => decide (h ≤ r.when o)
  if r.unfetched o then { c with missed := r.id :: c.missed }
  else if !bound && (late || Config.readsOld f r.id) then
    { c with
      missed := r.id :: c.missed
      hi := match r.performedFor o.core, c.hi with
        | some t, some h => some (min t h)
        | some t, none => some t
        | none, h => h }
  else
    { c with
      lo := if r.src = o.who then c.lo else max c.lo (r.when o)
      shown := (r.key, r.old.length) :: c.shown }
/-- What a load of `n` bytes from key `k` decides. -/
def State.sight (s : State) (o : Obs) (floor f k n : Nat) : Sight :=
  (s.stores.filter fun r => r.hits k n).foldl (Sight.next o f) { lo := floor }
/-- A byte as a load sees it that misses some stores, from the newest store on: the byte with its mark, and the number of the store
that it returns. -/
def viewByte (miss : Store → Bool) (k : Nat) : List Store → Byte × Bool → (Byte × Bool) × Option Nat
  | [], b => (b, none)
  | r :: rs, b =>
    if r.hits k 1 then (if miss r then viewByte miss k rs (r.under k) else (b, some r.id))
    else viewByte miss k rs b

/-- What a load finds: the value, whether it is poisoned, and the earliest time at which it can have been performed. -/
structure Loaded where
  v : Nat
  pois : Bool
  time : Nat
  deriving DecidableEq, Repr

/-- The observer has returned the stores of `ids`; one that it sees from outside the store's loom has been performed with
respect to every agent (R91). -/
def State.observe (s : State) (o : Obs) (ids : List Nat) : State :=
  let s := s.performed (fun r => ids.contains r.id && r.outside o) .chip
  { s with stores := s.stores.map fun r => if ids.contains r.id then { r with seen := (o.who, o.agent) :: r.seen } else r }
/-- The earliest time at which a load that returns the stores of `ids` can have been performed. -/
def State.timeOf (s : State) (o : Obs) (ids : List Nat) : Nat :=
  s.stores.foldl (fun m r => if ids.contains r.id then max m ((r.performedFor o.core).getD r.t) else m) 0

/-- A load of `n` bytes from key `k` by an observer, performed at `floor` or later; `f` is a fresh number. -/
def State.viewLoad (s : State) (o : Obs) (floor f k n : Nat) : Loaded × State :=
  let missed := (s.sight o floor f k n).missed
  let bs := (List.range n).map fun i =>
    viewByte (fun r => missed.contains r.id) (k + i) s.stores (memRead s.mem (k + i), sHas s.poisoned ((k + i) / 8))
  let ids := (bs.filterMap (·.2)).eraseDups
  let s' := s.observe o ids
  ({ v := bs.foldr (fun b acc => b.1.1.toNat + 256 * acc) 0, pois := bs.any (·.1.2), time := s'.timeOf o ids }, s')
/-- Whether a store to one of the bytes may be missed. -/
def State.disputed (s : State) (k n : Nat) : Bool := s.stores.any fun r => r.hits k n

/-! ## The agents of a shuttle -/

def agentIndex (agent : Nat) : Fin 3 := if agent = agVector then 1 else if agent = agMatrix then 2 else 0
def Shuttle.view (sh : Shuttle) (agent : Nat) : View := sh.views[agentIndex agent]
/-- An agent of a shuttle as an observer; the matrix unit is of the loom and of no core (R16, Table 5-3). -/
def Shuttle.obs (sh : Shuttle) (agent : Nat) : Obs :=
  { who := sh.uid, core := some (if agent = agMatrix then engineCore (sh.place.core / 4) else sh.place.core), agent := agent }
/-- An access of an agent was performed at `t` at the earliest. -/
def Shuttle.reached (sh : Shuttle) (agent t : Nat) : Shuttle :=
  let w := sh.view agent
  { sh with views := sh.views.set (agentIndex agent) { w with high := max w.high t } }
/-- The later accesses of some agents are performed at `t` or later. -/
def Shuttle.after (sh : Shuttle) (agents t : Nat) : Shuttle :=
  { sh with views := Vector.ofFn fun i : Fin 3 =>
      let w := sh.views[i]
      if (agents &&& 2 ^ i.val) != 0 then { w with floor := max w.floor t } else w }
/-- The earliest time at which the last access of some agents, or to a counter, can have been performed. -/
def Shuttle.highOf (sh : Shuttle) (agents : Nat) : Nat :=
  (List.range 3).foldl (fun m i => if (agents &&& 2 ^ i) != 0 then max m (sh.view (2 ^ i)).high else m)
    (if (agents &&& agCounter) != 0 then sh.ctrHigh else 0)
/-- The shuttle has accessed a counter that was last updated at `t`. -/
def Shuttle.sawCounter (sh : Shuttle) (t : Nat) : Shuttle := { sh with ctrHigh := max sh.ctrHigh t }

/-- A load by an agent of the issuing shuttle, performed at `floor` or later: what it finds, with its time. -/
def loadFrom (floor agent k n : Nat) : M Loaded := do
  let s ← get
  if s.disputed k n then
    let f ← draw
    let s ← get
    let (x, s') := s.viewLoad (s.cur.obs agent) floor f k n
    set { s' with cur := s'.cur.reached agent x.time }
    return x
  else
    let (v, p) := s.load k n
    return { v := v, pois := p, time := 0 }
/-- The same of a load that only its agent's earlier orders bind. -/
def loadAt (agent k n : Nat) : M Loaded := do loadFrom ((← get).cur.view agent).floor agent k n
/-- A non-repeatable load: it is performed after every access that has been performed so far, and before every later one (R94). -/
def loadSerial (agent k n : Nat) : M Loaded := do
  let s ← get
  let x ← loadFrom (max s.now (s.cur.view agent).floor) agent k n
  onCur fun sh => sh.reached agent s.now
  return x
/-- The value of such a load, and whether it is poisoned. -/
def loadAs (agent k n : Nat) : M (Nat × Bool) := do
  let x ← loadAt agent k n
  return (x.v, x.pois)

/-- A store by an observer that comes last in the coherence order of its bytes. -/
def State.storeOver (s : State) (o : Obs) (k n v : Nat) (pois atom : Bool) : State :=
  let r := s.recordOf o k n atom
  { ({ s with fresh := s.fresh + 1, now := s.now + 1 }.poke k n v pois) with stores := r :: s.stores }
/-- The poison marks once a store that comes beneath another to exactly its bytes is poisoned: a word that the upper one covers in
part keeps the mark (R358). -/
def markBeneath (p : List Nat) (k n : Nat) : List Nat :=
  (List.range ((k + n - 1) / 8 + 1 - k / 8)).foldl (fun p i =>
    let w := k / 8 + i
    if k ≤ 8 * w ∧ 8 * w + 8 ≤ k + n then p else sAdd p w) p
/-- A store by an observer: `n` bytes of `v` at key `k`. Where no rule orders it after the newest store to exactly its
bytes, it may come before that one in their coherence order. -/
def State.storeBy (s : State) (o : Obs) (floor k n v : Nat) (pois atom : Bool) : State :=
  match s.stores.find? fun x => x.hits k n with
  | some x =>
    let free := x.key == k && x.old.length == n && !x.atom && !atom && !x.binds o floor && (x.src != o.who || x.agent != o.agent)
    if free && Config.storesBeneath s.fresh then
      let r := s.recordOf o k n atom
      let new := (List.range n).map fun i => (BitVec.ofNat 8 (v / 256 ^ i), pois)
      { s with
        fresh := s.fresh + 1, now := s.now + 1
        poisoned := if pois then markBeneath s.poisoned k n else s.poisoned
        stores := s.stores.flatMap fun y =>
          if y.id = x.id then [{ y with old := new }, { r with old := x.old, vis := x.vis }] else [y] }
    else s.storeOver o k n v pois atom
  | none => s.storeOver o k n v pois atom

/-- A store by an agent of the issuing shuttle. -/
def State.storeCur (s : State) (agent k n v : Nat) (pois atom : Bool) : State :=
  let s' := s.storeBy (s.cur.obs agent) (s.cur.view agent).floor k n v pois atom
  { s' with cur := s'.cur.reached agent s'.now }
def storeAs (agent k n v : Nat) (pois : Bool) : M Unit := modify fun s => s.storeCur agent k n v pois false
/-- The stores of an agent of the issuing shuttle to some bytes are performed with respect to every agent (R94). -/
def State.settleOwn (s : State) (agent k n : Nat) : State :=
  let s' := s.performed (fun x => x.src == s.cur.uid && x.agent == agent && x.hits k n) .chip
  { s' with cur := s'.cur.reached agent s'.now }
/-- A non-repeatable store by an agent of the issuing shuttle: it comes last of those made so far, and is performed at once (R94). -/
def State.storeSerial (s : State) (agent k n v : Nat) (pois : Bool) : State :=
  (s.storeOver (s.cur.obs agent) k n v pois false).settleOwn agent k n

/-- The newest value of `n` bytes, which the read of an atomic by the observer returns (R89). -/
def State.readNewest (s : State) (o : Obs) (k n : Nat) : State :=
  s.observe o ((s.stores.filter fun r => r.hits k n).map (·.id))

/-! ## Fences, releases and acquires (R96 to R99) -/

/-- The earlier set of a shuttle's agents: the stores that they have made or returned, and those that had been performed
with respect to them before (R97). -/
def Shuttle.earlier (sh : Shuttle) (agents : Nat) (r : Store) : Bool :=
  r.seenBy sh.uid agents || (match r.performedFor (some sh.place.core) with
    | some t => decide (t ≤ sh.highOf agents)
    | none => false)
/-- The KINDs of the posted requests of some agents, as a mask (Table 15-3). -/
def kindMask (agents : Nat) : Nat :=
  (if (agents &&& agScalar) != 0 then 2 ^ 1 + 2 ^ 3 else 0) + (if (agents &&& agVector) != 0 then 2 ^ 2 + 2 ^ 4 else 0)
    + (if (agents &&& agCounter) != 0 then 2 ^ 5 else 0)
def kindsOf (agents kind : Nat) : Bool := bit (kindMask agents) kind
/-- The posted requests of some agents come before what follows now in the order that is cumulative (R97). -/
def Shuttle.ordered (sh : Shuttle) (agents now : Nat) : Shuttle :=
  { sh with posted := sh.posted.map fun p =>
      if kindsOf agents p.kind then { p with fenced := some (p.fenced.getD now) } else p }
/-- Whether a shuttle's posted request that has no answer yet comes before what was ordered at `t`. -/
def State.unacked (s : State) (t : Nat) : Bool :=
  (s.cur :: (s.others ++ s.away)).any fun sh => sh.posted.any fun p => p.fenced.any fun f => decide (f ≤ t)
/-- Whether a shuttle waits for posted requests: one of its own of some KINDs, or another shuttle's that was ordered before a store
which some of its agents have returned (R97). -/
def State.awaiting (s : State) (sh : Shuttle) (kinds agents : Nat) : Bool :=
  sh.posted.any (fun p => bit kinds p.kind) || (agents != 0 && s.unacked (sh.highOf agents))
/-- Every access of some agents of the issuing shuttle is performed with respect to a scope before any later access of
others (R96). -/
def State.fence (s : State) (early late : Nat) (d : Dom) : State :=
  let s' := s.performed (s.cur.earlier early) d
  let t := s'.stores.foldl (fun m r => if s.cur.earlier early r then max m ((r.performedIn d).getD 0) else m) (s.cur.highOf early)
  { s' with cur := (s'.cur.after late t).ordered early s'.now }
/-- A release of the issuing shuttle: its earlier accesses are performed with respect to a scope (R99). -/
def State.release (s : State) (d : Dom) : State :=
  let s' := s.performed (s.cur.earlier agAll) d
  { s' with cur := s'.cur.ordered agAll s'.now }
/-- Fetch may observe the shuttle's stores from now on (R120). -/
def State.fenceFetch (s : State) : State :=
  { s with stores := s.stores.map fun r => if r.src = s.cur.uid then { r with fetchable := true } else r }

/-! ## Counters -/

/-- Counter `idx` is updated now. -/
def State.stamp (s : State) (idx : Nat) : State :=
  { s with now := s.now + 1, ctrAt := tput s.ctrAt idx (s.now + 1) }
/-- When counter `idx` was last updated. -/
def State.ctrTime (s : State) (idx : Nat) : Nat := tget 0 s.ctrAt idx

end Sys2Proof.Machine
end

