-- ==== Sys2Proof/Machine/Units.lean ====
section
/-!
DEFINITION. Sys2Proof/Machine/Units.lean: what the units of the device do for many instructions and events: interrupts and
error queues (R283, R284, R347 to R349), counters and their waiters (R295), launches (R24 to R32), treadle firing (R302).
-/
namespace Sys2Proof.Machine

/-! ## Interrupts and error queues -/

/-- Whether a vector of a function is masked: bit 0 of the vector control word of its MSI-X entry. -/
def Func.masked (f : Func) (vec : Nat) : Bool := bit (tget 0 f.msix (2 * vec + 1)).toNat 32
/-- The events that send a vector's message (Table 21-3). -/
def Func.coalCount (f : Func) (vec : Nat) : Nat := max 1 (bits (tget 0 f.coal vec).toNat 16 8)
/-- The events of a vector that were raised in the clock `clock`. -/
def Func.recent (f : Func) (vec clock : Nat) : Nat :=
  let x := tget ((0, 0) : Nat × Nat) f.msixRecent vec
  if x.1 = clock then x.2 else 0
/-- Send a vector's message: its pending count clears, and `later` events stay for the next message (R349). -/
def Func.send (f : Func) (vec clock later : Nat) : Func :=
  { f with
    msixPend := tput f.msixPend vec later, msixSent := f.msixSent + 1, msixRecent := tput f.msixRecent vec (clock, later)
    msixOldest := if later = 0 then f.msixOldest else tput f.msixOldest vec clock }
/-- Raise one event on a vector (R348, R349). Log entry 54, DESIGN CHOICE. -/
def raiseVec (s : State) (fn vec : Nat) : State :=
  let f := s.func fn
  let n := tget 0 f.msixPend vec + 1
  let f := { f with msixPend := tput f.msixPend vec n,
                    msixRecent := tput f.msixRecent vec (s.clock, f.recent vec s.clock + 1)
                    msixOldest := if n = 1 then tput f.msixOldest vec s.clock else f.msixOldest }
  s.setFunc fn (if !f.masked vec && decide (f.coalCount vec ≤ n) then f.send vec s.clock 0 else f)

/-- Place an entry in a function's error queue (R347): four words at FEQBASE + 32 × index, the PHASE bit alternating
from pass to pass; a full queue counts the entry as lost. -/
def feqPush (s : State) (fn cause shid lid : Nat) (w2 w3 : Word) : State :=
  let f := s.func fn
  if (f.feqWrite + 1) % 1024 = f.feqHead then
    s.setFunc fn { f with feqLost := min (2 ^ 32 - 1) (f.feqLost + 1) }
  else
    let k := s.hostKey (f.feqBase.toNat + 32 * f.feqWrite)
    let s := s.store k 8 (cause * 2 ^ 56 + f.feqPhase.toNat) false
    let s := s.store (k + 8) 8 (shid * 2 ^ 32 + lid) false
    let s := s.store (k + 16) 8 w2.toNat false
    let s := s.store (k + 24) 8 w3.toNat false
    let i := (f.feqWrite + 1) % 1024
    let s := s.setFunc fn { f with feqWrite := i, feqPhase := if i = 0 then !f.feqPhase else f.feqPhase }
    raiseVec s fn 0

/-- The header of a shuttle's error-queue entry (Table 15-3). -/
def eqHeader (kind fcause outcome peer owner tsub trdl : Nat) : Word :=
  w64 (kind * 2 ^ 56 + fcause % 16 * 2 ^ 52 + outcome % 4 * 2 ^ 50 + peer % 256 * 2 ^ 40 + owner % 64 * 2 ^ 32
    + tsub % 16 * 2 ^ 16 + trdl % 2 ^ 14)

/-- A failure recorded in a shuttle's queue of 64 entries, or counted in LOST (R283); `raise` says whether
EQ_THRESHOLD may become pending (R284, MODE.EQ). -/
def Shuttle.record (sh : Shuttle) (w0 w1 : Word) (raise : Bool) : Shuttle :=
  if 64 ≤ sh.eq.length then
    let sh' := { sh with lost := min 65535 (sh.lost + 1) }
    if sh.lost = 0 ∧ raise then sh'.setEstat 6 true else sh'
  else
    let sh' := { sh with eq := sh.eq ++ [(w0, w1)] }
    if sh.eq.length = 47 ∧ raise then sh'.setEstat 6 true else sh'

/-- Record a failure in the error queue of the shuttle `uid`; in host-assisted mode an entry that it gives is also written to the
function's error queue as cause 7 at once (Table 21-5), while a failure that finds the shuttle's queue full is only counted (R283). -/
def recordFailure (s : State) (uid : Nat) (w0 w1 : Word) : State :=
  match s.byUid uid with
  | none => s
  | some sh =>
    let assisted := bit (s.func sh.place.part).mode.toNat 2
    let s := s.onUid uid fun x => x.record w0 w1 (!assisted)
    if assisted && decide (sh.eq.length < 64) then feqPush s sh.place.part 7 sh.shid sh.place.launchId w0 w1 else s

/-! ## Launches -/

/-- The launch of a 512-bit record for a partition, or none where the record is invalid (Table 2-1, R25). -/
def parseLaunch (s : State) (part r : Nat) : Option Launch :=
  let l : Launch :=
    { key := 0, part := part, entry := bits r 0 56, args := bits r 64 56, vllo := bits r 128 3, vlhi := bits r 132 3,
      spad := bits r 136 16, weave := bit r 152, cls := bits r 153 2, owner := bits r 156 6, vregs := bits r 164 6,
      escl := bits r 170 4, nshut := bits r 192 16, total := bits r 208 48, disp := bits r 256 16,
      strlm1 := bits r 272 16, dep0 := bits r 320 16, dep0t := bits r 336 48, dep1 := bits r 384 16,
      dep1t := bits r 400 48, done := bits r 448 16, dadd := bits r 464 8, lmask := bits r 472 40, launchId := 0,
      met0 := false, met1 := false, since := 0, placed := 0 }
  let reserved := bits r 56 8 + bits r 120 8 + bits r 131 1 + bits r 135 1 + bits r 155 1 + bits r 162 2
    + bits r 174 18 + bits r 288 32
  let outside (i : Nat) : Bool := s.counterHolder i != part
  let bad :=
    reserved != 0 || l.entry % 2 == 1 || l.vllo == 7 || l.vlhi == 7 || decide (l.vlhi < l.vllo)
    || l.vregs == 0 || decide (32 < l.vregs) || decide (8 < l.escl) || decide (16384 < l.spad)
    || l.nshut == 0 || decide (1280 < l.nshut) || !s.ownerOf part l.owner
    || (l.dep0t != 0 && outside l.dep0) || (l.dep1t != 0 && outside l.dep1) || (l.dadd != 0 && outside l.done)
    || (l.lmask &&& s.loomsOf part) == 0
    || decide (2 ^ 20 < (l.vregs + l.escl) * 512 * 2 ^ l.vllo)
    || (l.weave && (l.total == 0 || outside l.disp))
    || (!l.weave && (l.total != 0 || l.disp != 0 || l.strlm1 != 0))
  if bad then none else some l

/-- The entries of a class queue that are taken (R28). -/
def Part.inClass (p : Part) (cls : Nat) : Nat := (p.queue.filter fun l => l.cls == cls).length

/-- A launch as it begins to wait for its dependences (R295). -/
def beginWait (s : State) (l : Launch) : Launch :=
  { l with met0 := decide (l.dep0t ≤ (s.counter l.dep0).toNat), met1 := decide (l.dep1t ≤ (s.counter l.dep1).toNat),
           since := s.clock }

/-- Count an accepted launch and give it its number and LAUNCHID (R26). -/
def acceptLaunch (s : State) (l : Launch) : Launch × State :=
  let (key, s) := s.newKey
  let p := s.part l.part
  let f := s.func l.part
  let l := beginWait s { l with key := key, launchId := (p.accepts + 1) % 2 ^ 32 }
  let t : Track := { key := key, part := l.part, done := l.done, dadd := l.dadd, placed := 0, ended := 0,
                     placing := true, lost := false }
  let s := s.setPart l.part { p with accepts := p.accepts + 1 }
  let s := s.setFunc l.part { f with launched := true }
  (l, { s with tracks := t :: s.tracks })

/-- Put an accepted launch into its class queue. -/
def enqueue (s : State) (l : Launch) : State :=
  let p := s.part l.part
  s.setPart l.part { p with queue := p.queue ++ [l] }

/-- Enqueue a launch, or answer QUOTA where its class queue is full (R26): the status code and the state. -/
def launchNow (s : State) (l : Launch) : Nat × State :=
  if 256 ≤ (s.part l.part).inClass l.cls then (1, s)
  else
    let (l, s) := acceptLaunch s l
    (0, enqueue s l)

/-- A freed entry of a class queue goes first to a lend child that the dispatcher holds, then to the captured launch
that fired first (R33, R302). -/
def refillQueue (s : State) (part cls : Nat) : State :=
  let p := s.part part
  if 256 ≤ p.inClass cls then s
  else match p.held.find? (fun l => l.cls == cls) with
    | some l =>
      let s := { s with rooms := s.rooms.filter fun (r : Room) => r.key != l.key }
      enqueue (s.setPart part { p with held := p.held.filter fun x => x.key != l.key }) l
    | none =>
      match p.fired.find? (fun f => f.2.cls == cls) with
      | some (i, l) =>
        let s := s.setPart part { p with fired := p.fired.filter fun f => f.1 != i }
        let (l, s) := acceptLaunch s l
        let s := enqueue s l
        { s with treadles := s.treadles.filter fun t => t.idx != i }
      | none => s

/-! ## Counters -/

/-- Whether a launch is eligible (R28). -/
def Launch.eligible (l : Launch) : Bool := l.met0 && l.met1
/-- A launch after an update of a counter to `v`; its age counts from the clock it becomes eligible (R29). -/
def Launch.seen (idx v clock : Nat) (l : Launch) : Launch :=
  let m0 := l.met0 || (l.dep0 == idx && decide (l.dep0t ≤ v))
  let m1 := l.met1 || (l.dep1 == idx && decide (l.dep1t ≤ v))
  { l with met0 := m0, met1 := m1, since := if m0 && m1 && !l.eligible then clock else l.since }

/-- A CTR.WAIT that the value meets stays met (R295). -/
def Shuttle.seen (idx v : Nat) (sh : Shuttle) : Shuttle :=
  match sh.status with
  | .waiting (.counter i thr met) =>
    if i = idx ∧ thr ≤ v then { sh with status := .waiting (.counter i thr true) }
    else { sh with status := .waiting (.counter i thr met) }
  | _ => sh

/-- Insertion of a treadle by ascending threshold, then by arming order (R302). -/
def insertTreadle (t : Treadle) : List Treadle → List Treadle
  | [] => [t]
  | x :: xs => if t.thr < x.thr ∨ (t.thr = x.thr ∧ t.order < x.order) then t :: x :: xs else x :: insertTreadle t xs
def sortTreadles (ts : List Treadle) : List Treadle := ts.foldr insertTreadle []

/-- Fire a treadle (R302): its entry is FIRING and its operation is handed on. A captured copy enters its virtual
queue, a captured launch takes a queue entry or waits for one; a captured ST, AMO or CTR.ADD is performed when its
TREADLE_COMPLETE comes. The firing is an acquire of the update that met it (R98). -/
def fireTreadle (s : State) (t : Treadle) : State :=
  let (n, s) := s.newKey
  let t := { t with st := .firing, fired := n, floor := s.now, due := false }
  let s := { s with treadles := s.treadles.map fun x => if x.idx = t.idx then t else x }
  match t.op with
  | .cpy c =>
    let (k, s) := s.newKey
    { s with cmds := s.cmds ++ [{ c with key := k, trdl := some t.idx, st := .queued, since := s.clock, floor := s.now }] }
  | .launch l =>
    let p := s.part l.part
    if 256 ≤ p.inClass l.cls || p.held.any (fun x => x.cls == l.cls) || p.fired.any (fun x => x.2.cls == l.cls) then
      s.setPart l.part { p with fired := p.fired ++ [(t.idx, l)] }
    else
      let (l, s) := acceptLaunch s l
      let s := enqueue s l
      { s with treadles := s.treadles.filter fun x => x.idx != t.idx }
  | _ => s

/-- The fields of a WATCH register (R348). -/
def watchIdx (w : Word) : Nat := bits w.toNat 0 16
def watchThr (w : Word) : Nat := bits w.toNat 16 32
def watchVec (w : Word) : Nat := bits w.toNat 48 6
def watchEn (w : Word) : Bool := bit w.toNat 63

/-- The watches of a function that an update meets raise one event each and clear EN (R348). -/
def seeWatches (s : State) (fn idx v : Nat) : State :=
  (List.range 32).foldl (fun s i =>
    let f := s.func fn
    let w := tget 0 f.watch i
    if watchEn w && watchIdx w == idx && decide (watchThr w ≤ v) then
      raiseVec (s.setFunc fn { f with watch := tput f.watch i (wordSet w 63 1 0) }) fn (watchVec w)
    else s) s

/-- Counter `idx` holds `v`. -/
def State.putCounter (s : State) (idx : Nat) (v : Word) : State :=
  { s with counters := if v = 0 then tdel s.counters idx else tput s.counters idx v }
/-- A parked child sees that counter `idx` holds `n`: it has been accepted. -/
def Shuttle.lendSees (idx n clock : Nat) (sh : Shuttle) : Shuttle :=
  { sh with lend := sh.lend.map (Launch.seen idx n clock) }
/-- The launches that have been accepted and wait, queued, parked or held, see that counter `idx` holds `n`. -/
def seeLaunches (s : State) (idx n : Nat) : State :=
  let see (l : Launch) : Launch := l.seen idx n s.clock
  { s.mapShuttles (Shuttle.lendSees idx n s.clock) with parts := s.parts.map fun (e : Nat × Part) =>
    if e.2.queue.isEmpty && e.2.held.isEmpty then e
    else (e.1, { e.2 with queue := e.2.queue.map see, held := e.2.held.map see }) }
/-- A treadle that its counter has met fires, or, while its partition's capture holds new firings, is due (R364). -/
def meetTreadle (s : State) (t : Treadle) : State :=
  if (s.part t.part).capturing then
    { s with treadles := s.treadles.map fun x => if x.idx = t.idx then { x with due := true } else x }
  else fireTreadle s t
/-- The treadles that the value `n` of counter `idx` meets fire. -/
def fireMet (s : State) (idx n : Nat) : State :=
  (sortTreadles (s.treadles.filter fun t => t.st == .armed && t.ctr == idx && decide (t.thr ≤ n))).foldl meetTreadle s
/-- The treadles of a partition whose firing a capture has held fire (R364). -/
def fireDue (s : State) (n : Nat) : State :=
  (sortTreadles (s.treadles.filter fun t => t.part == n && t.st == .armed && t.due)).foldl fireTreadle s
/-- The watches of the function that holds counter `idx` see that it holds `n`. -/
def seeAllWatches (s : State) (idx n : Nat) : State :=
  if s.funcs.all (fun f => f.2.watch.isEmpty) then s
  else (List.range 17).foldl (fun s fn => if s.counterHolder idx = fn then seeWatches s fn idx n else s) s

/-- One update of a counter, after which its launch dependences, CTR.WAITs, treadles and watches are evaluated in that
order (R295). -/
def counterSet (s : State) (idx : Nat) (v : Word) : State :=
  let n := v.toNat
  let s := (seeLaunches ((s.putCounter idx v).stamp idx) idx n).mapShuttles (Shuttle.seen idx n)
  seeAllWatches (fireMet s idx n) idx n

/-- Add to a counter, modulo 2^64. -/
def counterAdd (s : State) (idx : Nat) (v : Word) : State := counterSet s idx (s.counter idx + v)

/-! ## Launch completion -/

/-- A shuttle of a launch has ended: when every shuttle it placed has, DADD is added to DONE (R31), which is a counter of its
partition's (R21). -/
def trackStep (s : State) (key : Nat) (f : Track → Track) : State :=
  let s := { s with tracks := s.tracks.map fun (t : Track) => if t.key = key then f t else t }
  match s.tracks.find? (fun (t : Track) => t.key == key) with
  | none => s
  | some t =>
    if t.placing || decide (t.ended < t.placed) || t.lost then s
    else
      let s := { s with tracks := s.tracks.filter fun (x : Track) => x.key != key }
      if t.dadd = 0 ∨ s.counterHolder t.done ≠ t.part then s else counterAdd s t.done (w64 t.dadd)

end Sys2Proof.Machine
end

