-- ==== Sys2Proof/Machine/Translate.lean ====
section
/-!
DEFINITION. Sys2Proof/Machine/Translate.lean: Translate (R123): the two-stage walk with its faults, its A and D updates,
page requests (R228, R329 to R339, R344), and the checks of a physical address (R12, R84, R85, R382).
-/
namespace Sys2Proof.Machine

/-! ## Results -/

/-- What Translate finds: a place, a trap, a miss that waits on a page request, or a leaf under migration or COW. -/
inductive XRes where
  | ok (p : Phys)
  | fault (c : Nat) (ea ei : Word)
  | page (m : Miss)
  | leaf (l : HeldLeaf)
  deriving DecidableEq, Repr

/-- Why a walk stops: a stage-1 fault (level and reason, R331), a stage-2 miss (the gPA, the KIND of its walk, CAUSE,
level, TBL: R332, R335), a leaf that blocks, a finished trap, or an entry that an uncorrectable error has struck (R362). -/
inductive WStop where
  | s1 (level reason : Nat)
  | miss (gpa kind cause level : Nat) (tbl : Bool)
  | leaf (gpage : Nat) (cow : Bool)
  | trap (c : Nat) (ea ei : Word)
  | struck
  deriving DecidableEq, Repr

abbrev W := EStateM WStop State

/-! ## Entries (R329, R330) -/

/-- The index of an address in the table of a level, in bytes. -/
def walkIndex (a level : Nat) : Nat :=
  8 * (if level = 0 then bits a 16 5 else if level = 4 then bits a 48 8 else bits a (12 + 9 * level) 9)
/-- The bytes that a leaf of a level maps. -/
def leafSpan (level : Nat) : Nat := if level = 0 then 2 ^ 16 else if level = 1 then 2 ^ 21 else 2 ^ 30

/-- What an entry is. -/
inductive Entry where
  | invalid
  | pull (from_ : Nat)
  | malformed
  | pointer (table : Nat)
  | leaf
  deriving DecidableEq, Repr

/-- The leaf checks of R330 that both stages make: its level, the alignment of its PPN, W without R, reserved bits, MTYPE. Log entry 57, DEDUCED. -/
def leafBad (level e : Nat) : Bool :=
  decide (3 ≤ level ∨ bits e 16 36 * 2 ^ 16 % leafSpan level ≠ 0 ∨ bits e 8 8 ≠ 0 ∨ 5 ≤ bits e 53 3) || (bit e 2 && !bit e 1)
/-- The reading of an entry at a stage and level (R329, R330). At stage 2 an entry with V = 0 and PULL ≠ 0 is a leaf, which
is checked. -/
def readEntry (stage level e : Nat) : Entry :=
  let pullF := bits e 60 2
  if !bit e 0 then
    if stage = 2 ∧ pullF ≠ 0 then (if pullF = 3 ∨ leafBad level e then .malformed else .pull pullF) else .invalid
  else if bits e 1 3 = 0 then
    if level = 0 ∨ bits e 4 4 ≠ 0 ∨ bits e 52 4 ≠ 0 ∨ bits e 60 4 ≠ 0 then .malformed
    else .pointer (bits e 8 44 * 2 ^ 8)
  else if leafBad level e ∨ (stage = 1 ∧ bits e 60 4 ≠ 0) then .malformed
  else .leaf

/-- Whether a leaf permits a kind: 0 load, 1 store, 2 atomic, 3 fetch (R331). -/
def permits (e kind : Nat) : Bool :=
  if kind = 0 then bit e 1 else if kind = 1 then bit e 2 else if kind = 2 then bit e 1 && bit e 2 else bit e 3
/-- The A bit, and for a store or atomic the D bit, that an access sets (R333). -/
def adBits (kind : Nat) : Nat := if kind = 1 ∨ kind = 2 then 0xC0 else 0x40

/-! ## The physical address -/

/-- The bytes of HBM (Table 5-1). -/
def hbmBytes : Nat := 576000000000

/-- The checks of a physical address: presence (R12, R382), the chip-local map (R84), the pairing of type and target
(R85), in that order. -/
def checkPhys (s : State) (part va pa mtype : Nat) : Option (Word × Word) :=
  let chip := pa / 2 ^ 44
  let loc := pa % 2 ^ 44
  let own := chip == s.chip
  let present := own || (decide (chip < 144) && s.inDomain chip && s.feature part 2)
  let bad (r : Nat) : Option (Word × Word) := some (w64 va, w64 r)
  let hbm := decide (loc < hbmBytes)
  let host := decide (2 ^ 43 ≤ loc)
  if !present then bad 4
  else if !hbm && !host then bad 3
  else if own && host && !s.feature part 0 then bad 3
  else
    let pairs :=
      if mtype ≤ 1 then own && hbm
      else if mtype = 2 then own
      else if mtype = 3 then own && host
      else if mtype = 4 then !own && hbm
      else false
    if pairs then none else bad 5

/-- The type of an access when both stages are disabled: chosen by the target (R330). -/
def targetType (s : State) (pa : Nat) : Nat :=
  if pa / 2 ^ 44 = s.chip then if 2 ^ 43 ≤ pa % 2 ^ 44 then 3 else 0 else 4

/-- The check of a table that a walk reads (R12, R84, R85): it must be this device's storage. Log entry 67, DEDUCED. -/
def checkTable (s : State) (part va pa mtype : Nat) : Option (Word × Word) :=
  match checkPhys s part va pa mtype with
  | some f => some f
  | none => if pa / 2 ^ 44 = s.chip then none else some (w64 va, 5)
/-- A table read of a walk for an access at `va`; a struck entry rolls the partition back (R362). -/
def readTable (part va pa mtype : Nat) : W Nat := do
  let s ← get
  match checkTable s part va pa mtype with
  | some (ea, ei) => throw (.trap cACCESS ea ei)
  | none => if markedAny s.poisoned pa 8 then throw .struck else return readLE s.mem pa 8

/-! ## Entries that the device holds (R337) -/

/-- The 64 KiB pages that an entry of a level stands for. -/
def levelPages (level : Nat) : Nat := if level = 0 then 1 else 2 ^ (9 * level - 4)
/-- Whether a held entry serves an access of a kind: a pointer, or a leaf that permits it with its A and D bits set. -/
def Held.serves (h : Held) (kind : Nat) : Bool :=
  bits h.entry 1 3 == 0 || (permits h.entry kind && (h.entry &&& adBits kind) == adBits kind)
/-- Whether a held entry differs from the entry in memory in more than A and D bits that the device has set since. -/
def Held.differs (h : Held) (e : Nat) : Bool := (h.entry ||| 0xC0) != (e ||| 0xC0) || (h.entry &&& e) != h.entry
/-- The entry that a walk uses at a place whose memory holds `e`: that one, or one that the device still holds. -/
def pickEntry (part stage place kind e : Nat) : W Nat := do
  let s ← get
  match s.held.filter fun h => h.part == part && h.stage == stage && h.place == place && h.differs e && h.serves kind with
  | [] => return e
  | hs =>
    set { s with fresh := s.fresh + 1 }
    return (hs.map (·.entry)).getD (Config.heldEntry s.fresh % (hs.length + 1)) e
/-- The device holds an entry that a walk has used. -/
def holdEntry (part stage place level addr e : Nat) : W Unit :=
  modify fun s =>
    let h : Held := { part := part, stage := stage, place := place, level := level, addr := addr, entry := e }
    { s with held := h :: s.held.filter (fun x => !(x.part == part && x.stage == stage && x.place == place && !x.differs e)) }

/-! ## Stage 2 -/

/-- Whether stage 2 is enabled: always for a virtual function; the physical function has no S2ROOT, so it is
disabled there (R330, R351). -/
def stage2On (part : Nat) : Bool := part != 16

/-- The result of a walk: the address, and the leaf with its place and level. -/
structure Leaf where
  addr : Nat
  entry : Nat
  place : Nat
  level : Nat
  deriving DecidableEq, Repr

/-- Whether the migration unit takes requests of a partition in hardware mode (R340, R353, R382). -/
def State.hardwareMig (s : State) (part : Nat) : Bool := !bit (s.func part).mode.toNat 1 && s.feature part 4
/-- Whether a page is damped (R341). -/
def State.damped (s : State) (part gpage : Nat) : Bool :=
  s.mig.damped.any fun d => d.1 == part && d.2.1 == gpage && decide (s.clock < d.2.2)
/-- Whether the unit serves a miss on a leaf with V = 0 and PULL = n: it has a free page, or a damped page in host
memory needs none, and has not aborted this page-in (R340 to R343). Log entry 41, DEDUCED. -/
def State.servesPull (s : State) (part gpage n : Nat) : Bool :=
  s.hardwareMig part && !s.mig.failed.contains (part, gpage) && ((s.part part).fpProd != (s.part part).fpCons || (n == 1 && s.damped part gpage))
/-- Whether the checkpoint bank in use holds a granule (R365). -/
def State.logged (s : State) (part gpage : Nat) : Bool :=
  match (s.part part).image with
  | some i => i.log.any fun x => x.1 == gpage
  | none => false

/-- Where the stage-2 walk of a gPA ends, from the table of a level on: the place of the entry, its level, the entry. -/
def entryFrom (m : List Host.Cell) (gpa : Nat) : (level : Nat) → (table : Nat) → Nat × Nat × Nat
  | level, table =>
    let k := table + walkIndex gpa level
    let e := readLE m k 8
    match readEntry 2 level e with
    | .pointer t =>
      match level with
      | 0 => (k, 0, e)
      | l + 1 => entryFrom m gpa l t
    | _ => (k, level, e)
termination_by structural level => level
/-- The same of a guest page of a partition. -/
def State.entry2 (s : State) (part gpage : Nat) : Nat × Nat × Nat :=
  entryFrom s.mem (gpage * 2 ^ 16) 4 (bits (s.part part).s2root.toNat 11 41 * 2 ^ 11)
/-- Whether an access that waits on a leaf has to wait no more: the leaf has been written, or the unit does not serve it (R334, R340).
Where its partition is to roll back it waits for that. -/
def State.leafOver (s : State) (l : HeldLeaf) : Bool :=
  if 2 ^ 64 ≤ l.gpage then false
  else
    let (_, level, e) := s.entry2 l.part l.gpage
    match readEntry 2 level e with
    | .pull n => !(bit e 63 || (level == 0 && s.servesPull l.part l.gpage n))
    | .leaf => !(bit e 63 || (l.cow && bit e 62 && !s.logged l.part l.gpage))
    | _ => true

/-- The place of a guest address, where its leaf maps it. -/
def State.gpaPlace (s : State) (part a : Nat) : Option Nat :=
  if stage2On part then
    let (_, level, e) := s.entry2 part (a / 65536)
    if readEntry 2 level e = .leaf then some (bits e 16 36 * 2 ^ 16 + a % leafSpan level) else none
  else some a
/-- The entries of a table of `n` bytes that are not zero, each with its index. -/
def tableEntries (m : List Host.Cell) (t n : Nat) : List (Nat × Nat) :=
  (((m.filter fun c => decide (t ≤ c.1 ∧ c.1 < t + n)).map fun c => (c.1 - t) / 8).eraseDups).map fun i => (i, readLE m (t + 8 * i) 8)
/-- The bytes of a table of a level, and the guest pages that one of its entries stands for (R330). -/
def tableBytes (level : Nat) : Nat := if level = 0 then 256 else if level = 4 then 2048 else 4096
def indexPages (level : Nat) : Nat := if level = 0 then 1 else if level = 4 then 2 ^ 32 else 2 ^ (9 * level - 4)
/-- A stage-2 leaf: its place, level and entry, and the first guest page that it maps. -/
structure Leaf2 where
  place : Nat
  level : Nat
  entry : Nat
  gpage : Nat
  deriving DecidableEq, Repr
/-- The leaves under a table of a level whose first guest page is `g`. -/
def leavesFrom (m : List Host.Cell) : (level table g : Nat) → List Leaf2
  | level, table, g =>
    (tableEntries m table (tableBytes level)).flatMap fun x =>
      match readEntry 2 level x.2 with
      | .leaf => [⟨table + 8 * x.1, level, x.2, g + x.1 * indexPages level⟩]
      | .pointer t =>
        match level with
        | 0 => []
        | l + 1 => leavesFrom m l t (g + x.1 * indexPages (l + 1))
      | _ => []
termination_by structural level => level
/-- The stage-2 leaves with V = 1 of a partition. -/
def State.leaves2 (s : State) (part : Nat) : List Leaf2 :=
  if stage2On part then leavesFrom s.mem 4 (bits (s.part part).s2root.toNat 11 41 * 2 ^ 11) 0 else []
/-- Where a leaf's first byte leads, and whether it maps a byte of `n` bytes from key `k`. -/
def Leaf2.key (x : Leaf2) : Nat := bits x.entry 16 36 * 2 ^ 16
def Leaf2.maps (x : Leaf2) (k n : Nat) : Bool := decide (x.key < k + n ∧ k < x.key + leafSpan x.level)

/-- The stage-2 walk of a gPA from the table of `level` on, for an access at `va` (R330, R334). -/
def walk2From (part va gpa kind : Nat) (tbl : Bool) : (level : Nat) → (table : Nat) → W Leaf
  | level, table => do
    let k := table + walkIndex gpa level
    let s ← get
    let m ← readTable part va k (targetType s k)
    let e ← pickEntry part 2 k kind m
    match readEntry 2 level e with
    | .invalid => throw (.miss gpa kind 0 level tbl)
    | .malformed => throw (.miss gpa kind 2 level tbl)
    | .pull n =>
      if bit e 63 || (level == 0 && s.servesPull part (gpa / 2 ^ 16) n) then throw (.leaf (gpa / 2 ^ 16) false)
      else throw (.miss gpa kind (if s.hardwareMig part then 3 else n + 2) level tbl)
    | .pointer t =>
      match level with
      | 0 => throw (.miss gpa kind 2 level tbl)
      | l + 1 => do
        holdEntry part 2 k level gpa e
        walk2From part va gpa kind tbl l t
    | .leaf =>
      if bit e 63 then throw (.leaf (gpa / 2 ^ 16) false)
      else if !permits e kind then throw (.miss gpa kind 1 level tbl)
      else if bit e 62 && (kind == 1 || kind == 2) && !s.logged part (gpa / 2 ^ 16) then throw (.leaf (gpa / 2 ^ 16) true)
      else
        let e' := e ||| adBits kind
        if e' ≠ e then modify fun s => s.store k 8 e' false
        holdEntry part 2 k level gpa e'
        return { addr := bits e 16 36 * 2 ^ 16 + gpa % leafSpan level, entry := e', place := k, level := level }
termination_by structural level => level

/-- The physical address of a gPA (R330): itself where stage 2 is disabled. -/
def walk2 (part va gpa kind : Nat) (tbl : Bool) : W Leaf := do
  if stage2On part then
    let s ← get
    walk2From part va gpa kind tbl 4 (bits (s.part part).s2root.toNat 11 41 * 2 ^ 11)
  else return { addr := gpa, entry := 0, place := 0, level := 0 }

/-! ## Stage 1 -/

/-- The stage-1 walk from the table of `level` on: the leaf, whose `place` is the key of the entry and whose
`level` field is the leaf's; `addr` is the gPA (R331, R332). The gPA of the entry is returned beside it. -/
def walk1From (part va kind : Nat) (priv : Priv) : (level : Nat) → (table : Nat) → W (Leaf × Nat)
  | level, table => do
    let g := table + walkIndex va level
    let pa ← walk2 part va g 0 true
    let s ← get
    let m ← readTable part va pa.addr (if stage2On part then bits pa.entry 53 3 else targetType s pa.addr)
    let e ← pickEntry part 1 g kind m
    match readEntry 1 level e with
    | .invalid => throw (.s1 level 1)
    | .pull _ => throw (.s1 level 1)
    | .malformed => throw (.s1 level 4)
    | .pointer t =>
      match level with
      | 0 => throw (.s1 level 4)
      | l + 1 => do
        holdEntry part 1 g level va e
        walk1From part va kind priv l t
    | .leaf =>
      if !permits e kind then throw (.s1 level 2)
      else if priv = .u ∧ !bit e 4 then throw (.s1 level 3)
      else return ({ addr := bits e 16 36 * 2 ^ 16 + va % leafSpan level, entry := e, place := pa.addr, level := level }, g)
termination_by structural level => level

/-! ## Both stages -/

/-- The memory type with both stages enabled (R332); none where the pair takes ACCESS, reason 5. -/
def combineTypes (m1 m2 : Nat) : Option Nat :=
  if m1 = 0 ∨ m1 = m2 then some m2
  else if m1 = 1 ∧ m2 = 0 then some 1
  else if m1 = 2 ∧ (m2 = 0 ∨ m2 = 3) then some 2
  else none

/-- The walk of a generic address below 2^56: the physical address, type and PCAP (R330 to R334), and the size of the page,
that of the smaller leaf. -/
def walk (part : Nat) (priv : Priv) (va kind : Nat) : W Phys := do
  let s ← get
  let root := (s.func part).s1root.toNat
  let on1 := bit root 0
  let on2 := stage2On part
  let finish (gpa : Nat) (l1 l2 : Leaf) (pa m span : Nat) (pcap : Bool) : W Phys := do
    let s ← get
    match checkPhys s part va pa m with
    | some (ea, ei) => throw (.trap cACCESS ea ei)
    | none =>
      let chip := pa / 2 ^ 44
      return { key := pa, remote := if chip = s.chip then none else some chip, mtype := m,
               pcap := pcap && (m == 0 || m == 1 || m == 4), win := false, span := span, gpage := gpa / 65536, vpages := leafSpan l1.level / 65536,
               gpages := leafSpan l2.level / 65536, spared1 := bit l1.entry 5, spared2 := bit l2.entry 5 }
  if on1 then
    let (l1, g) ← walk1From part va kind priv 4 (bits root 11 41 * 2 ^ 11)
    let l2 ← walk2 part va l1.addr kind false
    let e' := l1.entry ||| adBits kind
    if e' ≠ l1.entry then
      let u ← walk2 part va g 2 true
      let s ← get
      match checkTable s part va u.addr (if on2 then bits u.entry 53 3 else targetType s u.addr) with
      | some (ea, ei) => throw (.trap cACCESS ea ei)
      | none => set (s.store u.addr 8 e' false)
    holdEntry part 1 g l1.level va e'
    let m1 := bits l1.entry 53 3
    let m2 := bits l2.entry 53 3
    let pcap := bit l1.entry 52 && (!on2 || bit l2.entry 52)
    if on2 then
      match combineTypes m1 m2 with
      | none => throw (.trap cACCESS (w64 va) 5)
      | some m => finish l1.addr l1 l2 l2.addr m (min (leafSpan l1.level) (leafSpan l2.level)) pcap
    else finish l1.addr l1 l2 l2.addr m1 (leafSpan l1.level) pcap
  else if 2 ^ 52 ≤ va then throw (.s1 4 4)
  else
    let l2 ← walk2 part va va kind false
    let flat : Leaf := { addr := va, entry := 0, place := 0, level := 0 }
    if on2 then finish va flat l2 l2.addr (bits l2.entry 53 3) (leafSpan l2.level) (bit l2.entry 52)
    else
      let s ← get
      finish va flat l2 va (targetType s va) 65536 true

/-! ## Page requests -/

/-- The hint of a request: STRIDE and NELEM (R339). -/
abbrev Hint := Nat × Nat

/-- The next REQID: the one after the last issued that is not outstanding (R335). -/
def nextId (outstanding : List Nat) : Nat → Nat → Nat
  | 0, n => n % 65536
  | k + 1, n => if outstanding.contains (n % 65536) then nextId outstanding k (n + 1) else n % 65536

/-- A queue entry of words at key `k`, its PHASE bit added to the first. -/
def writeWords (m : List Host.Cell) (k : Nat) (ws : List Word) (phase : Bool) : List Host.Cell :=
  (ws.zipIdx).foldl (fun m (x : Word × Nat) =>
    writeLE m (k + 8 * x.2) (if x.2 = 0 then x.1.toNat + phase.toNat else x.1.toNat) 8) m

/-- Write a request into its queue if the queue has room; otherwise it waits inside the device, as one does that has no
REQID yet (R335, R350). -/
def queueRequest (s : State) (fn : Nat) (r : PageReq) : PageReq × State :=
  if 65536 ≤ r.id then (r, s)
  else if r.queue = 1 then
    let f := s.func fn
    if (f.prqWrite + 1) % 1024 = f.prqHead then (r, s)
    else
      let k := s.hostKey (f.prqBase.toNat + 32 * f.prqWrite)
      let s := { s with mem := writeWords s.mem k r.words f.prqPhase }
      let i := (f.prqWrite + 1) % 1024
      let s := s.setFunc fn { f with prqWrite := i, prqPhase := if i = 0 then !f.prqPhase else f.prqPhase }
      ({ r with queued := true }, raiseVec s fn 1)
  else
    let p := s.part fn
    if (p.prqWrite + 1) % 1024 = p.prqHead then (r, s)
    else
      let k := s.hostKey (p.prqBase.toNat + 32 * p.prqWrite)
      let s := { s with mem := writeWords s.mem k r.words p.prqPhase }
      let i := (p.prqWrite + 1) % 1024
      let s := s.setPart fn { p with prqWrite := i, prqPhase := if i = 0 then !p.prqPhase else p.prqPhase }
      ({ r with queued := true }, raiseVec s 16 (2 + fn))

/-- Place a page request, or join the one outstanding on the same page (R228): its number and REQID, and the state. A forwarded
stage-1 fault joins none (R344). While all 65,536 values are outstanding a request has none, until one frees (R335). -/
def placeRequest (s : State) (fn queue page va kind cause level : Nat) (tbl : Bool) (hint : Hint) : (Nat × Nat) × State :=
  let f := s.func fn
  match f.reqs.find? (fun r => queue == 2 && r.queue == 2 && r.page == page) with
  | some r => ((r.key, r.id), s)
  | none =>
    let (key, s) := s.newKey
    let taken := (f.reqs.map (·.id)).filter (· < 65536)
    let id := if 65536 ≤ taken.length then 65536 else nextId taken 65536 f.nextReq
    let gppn := if queue = 1 then 0 else page
    let hint : Hint := if tbl then (0, 0) else hint
    let words : List Word :=
      [w64 (gppn * 2 ^ 16),
       w64 (tbl.toNat * 2 ^ 3 + level % 16 * 2 ^ 4 + cause % 16 * 2 ^ 8 + kind % 16 * 2 ^ 12
            + id % 65536 * 2 ^ 16 + min hint.2 (2 ^ 32 - 1) * 2 ^ 32),
       w64 hint.1, w64 va]
    let r : PageReq := { key := key, id := id, queue := queue, page := page, queued := false, words := words }
    let (r, s) := queueRequest s fn r
    let f := s.func fn
    ((key, id), s.setFunc fn { f with reqs := f.reqs ++ [r], nextReq := if id = 65536 then f.nextReq else (id + 1) % 65536 })

/-! ## Hinted pages (R339) -/

/-- The virtual pages that hold `a`, `a + stride`, … over `n` elements, in that order; the first argument bounds their number. -/
def hintPages : Nat → Nat → Word → Nat → List Nat
  | 0, _, _, _ => []
  | k + 1, a, stride, n =>
    if n = 0 then []
    else
      let d := stride.toInt
      -- the elements that stay in the page of `a`
      let stay := if d = 0 then n else if 0 < d then ceilDiv (65536 - a % 65536) d.toNat else a % 65536 / d.natAbs + 1
      a / 65536 :: hintPages k ((a + stay * stride.toNat) % 2 ^ 64) stride (n - stay)
/-- The guest page of a virtual page, where stage 1 permits a load of it. -/
def guestPage (ctx : Ctx) (vpage : Nat) (s : State) : Option Nat :=
  let root := (s.func ctx.part).s1root.toNat
  if vpage ≥ 2 ^ 40 then none
  else if bit root 0 then
    match walk1From ctx.part (vpage * 65536) 0 ctx.priv 4 (bits root 11 41 * 2 ^ 11) s with
    | .ok (l, _) _ => some (l.addr / 65536)
    | .error .. => none
  else if vpage < 2 ^ 36 then some vpage else none
/-- The guest pages that the hint of an access at `va` names, at most 64 with its own (R339). -/
def hintedPages (ctx : Ctx) (va : Nat) (hint : Hint) (s : State) : List Nat :=
  ((hintPages 64 va (w64 hint.1) hint.2).drop 1).filterMap fun p => guestPage ctx p s

/-! ## Translate -/

/-- The window hole and the local window (R80, R81). -/
def windowBase : Nat := 0x00FFFF0000000000
def spadBytes : Nat := 2 ^ 22
def inHole (va : Nat) : Bool := decide (windowBase ≤ va ∧ va < 2 ^ 56)
def inWindow (va : Nat) : Bool := decide (windowBase ≤ va ∧ va < windowBase + spadBytes)

/-- PAGE_FAULT_S1 (R331): EINFO holds the kind, the level and the reason. -/
def s1Fault (va kind level reason : Nat) : XRes :=
  .fault cPAGEFAULT (w64 va) (w64 (kind + level * 2 ^ 4 + reason * 2 ^ 8))

/-- What an access meets whose partition is to roll back: it stays parked (R362). -/
def struckLeaf (part va : Nat) : HeldLeaf := { part := part, gpage := 2 ^ 64, va := va, cow := true, ahead := [] }
/-- What a walk's stop means for the access, placing a request where R335 or R344 asks for one. `losses` are the lost pull
sources that the access has met (R343). At a struck entry it stays parked while its partition rolls back (R362). Log entry 25, DEDUCED. -/
def settle (ctx : Ctx) (va kind : Nat) (losses : List LostSource) (hint : Hint) (s : State) : WStop → XRes × State
  | .trap c ea ei => (.fault c ea ei, s)
  | .struck =>
    (.leaf (struckLeaf ctx.part va),
     { s with struck := sAdd s.struck ctx.part })
  | .leaf g cow =>
    match losses.find? (fun l => l.page == g) with
    | some l => (.fault cSOURCE (w64 va) (w64 (l.chip + l.cause * 2 ^ 8)), s)
    | none => (.leaf { part := ctx.part, gpage := g, va := va, cow := cow, ahead := hintedPages ctx va hint s }, s)
  | .s1 level reason =>
    if bit (s.func ctx.part).mode.toNat 0 then
      let page := va / 2 ^ 16
      let (id, s) := placeRequest s ctx.part 1 page va kind 5 level false hint
      (.page { fn := ctx.part, req := id.1, id := id.2, vpage := page, kind := kind, stage := 1, page := page, level := level, neg := false }, s)
    else (s1Fault va kind level reason, s)
  | .miss gpa k cause level tbl =>
    let g := gpa / 2 ^ 16
    match losses.find? (fun l => l.page == g) with
    | some l => (.fault cSOURCE (w64 va) (w64 (l.chip + l.cause * 2 ^ 8)), s)
    | none =>
      let (id, s) := placeRequest s ctx.part 2 g va k cause level tbl hint
      (.page { fn := ctx.part, req := id.1, id := id.2, vpage := va / 2 ^ 16, kind := kind, stage := 2, page := g, level := level, neg := false }, s)

/-- Whether the request of a miss has not been answered. -/
def Miss.outstanding (m : Miss) (s : State) : Bool := (s.func m.fn).reqs.any fun r => r.key == m.req
/-- The fault that a negative answer gives the access (R336). -/
def Miss.denied (m : Miss) (va : Nat) : XRes :=
  if m.stage = 1 then s1Fault va m.kind m.level 1 else .fault cACCESS (w64 va) 7

/-- What a walk finds for an access. -/
def xlateWalk (ctx : Ctx) (va kind : Nat) (losses : List LostSource) (hint : Hint) (s : State) : XRes × State :=
  match walk ctx.part ctx.priv va kind s with
  | .ok p s' => (.ok p, s')
  | .error e s' => settle ctx va kind losses hint s' e

/-- Translate (R123) of a virtual address for an access of a context, on a core. What its instruction, convoy or command has
found stays found, and what has missed is not walked again before its answer (R217, R218). -/
def xlate (ctx : Ctx) (core va kind : Nat) (found : List Found) (missed : List Miss) (losses : List LostSource)
    (hint : Hint) (s : State) : XRes × State :=
  if 2 ^ 56 ≤ va then (.fault cACCESS (w64 va) 1, s)
  else if inHole va then
    if inWindow va && kind != 3 then
      (.ok { key := spadKey core (va - windowBase), remote := none, mtype := 0, pcap := true, win := true, span := spadBytes }, s)
    else (.fault cACCESS (w64 va) 2, s)
  else
    match found.find? fun f => f.vpage == va / 2 ^ 16 && f.kind == kind with
    | some f =>
      let pa := f.phys.key + va % 2 ^ 16
      -- HBM ends in the middle of a page
      if hbmBytes ≤ pa % 2 ^ 44 ∧ pa % 2 ^ 44 < 2 ^ 43 then (.fault cACCESS (w64 va) 3, s)
      else (.ok { f.phys with key := pa }, s)
    | none =>
      match missed.find? fun m => m.vpage == va / 2 ^ 16 && m.kind == kind with
      | some m =>
        if m.neg then (m.denied va, s)
        else if m.outstanding s then (.page m, s)
        else xlateWalk ctx va kind losses hint s
      | none => xlateWalk ctx va kind losses hint s

/-- A translation found at a page, as it is kept. -/
def foundAt (va kind : Nat) (p : Phys) : Found :=
  { vpage := va / 2 ^ 16, kind := kind, phys := { p with key := p.key - va % 2 ^ 16 } }
/-- The translations found after one more. -/
def addFound (va kind : Nat) (p : Phys) (fs : List Found) : List Found :=
  if p.win || fs.any (fun f => f.vpage == va / 2 ^ 16 && f.kind == kind) then fs else foundAt va kind p :: fs
/-- The translations missed after one more. -/
def addMiss (m : Miss) (ms : List Miss) : List Miss := if ms.contains m then ms else m :: ms
/-- The shuttle after what it has found of an access: PGSTAT.LASTID holds the last request that it placed or joined (R338). -/
def Shuttle.noted (sh : Shuttle) (va kind : Nat) : XRes → Shuttle
  | .ok p => { sh with found := addFound va kind p sh.found }
  | .page m =>
    if sh.missed.contains m then sh
    else
      { sh with
        missed := m :: sh.missed
        pgstat := if m.id < 65536 then w64 (setBits sh.pgstat.toNat 32 16 m.id) else sh.pgstat }
  | .fault c _ ei => { sh with faulted := { va := va, kind := kind, cause := c, einfo := ei } :: sh.faulted }
  | _ => sh

/-- Translate of the shuttle that issues; a fault that its probe has found on a page stays. -/
def tryXlate (va kind : Nat) (hint : Hint) : M XRes := do
  let s ← get
  let sh := s.cur
  let found (s : State) : XRes × State :=
    xlate ⟨sh.place.part, sh.priv⟩ sh.place.core va kind sh.found sh.missed sh.lostSources hint s
  if windowBase ≤ va then return (found s).1
  else match sh.faulted.find? fun f => f.va == va && f.kind == kind with
  | some f => return .fault f.cause (w64 va) f.einfo
  | none =>
    let (r, s') := found s
    set { s' with cur := s'.cur.noted va kind r }
    return r

/-- Translate for one access: a fault traps, a miss parks the instruction (R130). -/
def translate (va kind : Nat) : M Phys := do
  match ← tryXlate va kind (0, 0) with
  | .ok p => return p
  | .fault c ea ei => trap c ea ei
  | .page m => park (.page [(m.fn, m.req)] [])
  | .leaf l => park (.page [] [l])

end Sys2Proof.Machine
end

