-- ==== Sys2Proof/Machine/Vec.lean ====
section
/-!
DEFINITION. Sys2Proof/Machine/Vec.lean: elements of vector registers with their poison and extents (R151, R225, R358),
predicates (R156), and the book-keeping of convoys (R60 to R63, R220 to R222, R43).
-/
namespace Sys2Proof.Machine

/-! ## Elements of a register -/

/-- Element `j` of a register that holds elements of type `t` (R151). -/
def regElem (vlen t x j : Nat) : Nat :=
  if isQ t then (List.range (ebits t)).foldl (fun acc k => acc + 2 ^ k * (bit x (k * perOf vlen t + j)).toNat) 0
  else bits x (j * ebits t) (ebits t)

/-- The register with element `j` replaced. -/
def regPut (vlen t x j v : Nat) : Nat :=
  if isQ t then (List.range (ebits t)).foldl (fun x k => setBit x (k * perOf vlen t + j) (bit v k)) x
  else setBits x (j * ebits t) (ebits t) v

/-- The bytes that hold bits of element `j`, one bit per byte. -/
def elemBytes (vlen t j : Nat) : Nat :=
  if isQ t then (List.range (ebits t)).foldl (fun m k => m ||| 2 ^ ((k * perOf vlen t + j) / 8)) 0
  else if ebits t = 4 then 2 ^ (j / 2)
  else (2 ^ (ebits t / 8) - 1) * 2 ^ (j * (ebits t / 8))

/-- The extent that covers the highest byte of a non-zero set of bytes, rounded up to 32 (R225). -/
def coverExtent (m : Nat) : Nat := if m = 0 then 0 else 32 * (Nat.log2 m / 32 + 1)

def VecReg.elem (vlen t j : Nat) (r : VecReg) : Nat := regElem vlen t r.bits j
/-- An element is poisoned when any of its bytes is marked (R358). -/
def VecReg.pois (vlen t j : Nat) (r : VecReg) : Bool := (r.poison &&& elemBytes vlen t j) != 0
/-- The register after element `j` is written, poisoned or clean. A poisoned element marks every byte it touches; a
clean one clears the marks of the bytes it covers whole. Log entry 53, DEDUCED. -/
def VecReg.put (vlen t j v : Nat) (p : Bool) (r : VecReg) : VecReg :=
  let m := elemBytes vlen t j
  { bits := regPut vlen t r.bits j v
    poison := if p then r.poison ||| m else if isQ t || ebits t = 4 then r.poison else r.poison - (r.poison &&& m)
    extent := max r.extent (coverExtent m) }

/-! ## Registers of a shuttle -/

def Shuttle.vreg (sh : Shuttle) (n : Nat) : VecReg := sh.v[n]?.getD {}
def Shuttle.ereg (sh : Shuttle) (k : Nat) : VecReg := sh.e[k]?.getD {}
/-- A write of a vector or scale register sets its HWEMAP bit (R45). -/
def Shuttle.setV (sh : Shuttle) (n : Nat) (r : VecReg) : Shuttle :=
  { sh with v := sh.v.setIfInBounds n r, hwemap := wordSet sh.hwemap n 1 1 }
def Shuttle.setE (sh : Shuttle) (k : Nat) (r : VecReg) : Shuttle :=
  { sh with e := sh.e.setIfInBounds k r, hwemap := wordSet sh.hwemap (32 + k) 1 1 }

/-- Element `i` of the group based at `n`, read as type `t` (R151). -/
def Shuttle.elem (sh : Shuttle) (n t i : Nat) : Nat :=
  (sh.vreg (n + i / perOf sh.vlen t)).elem sh.vlen t (i % perOf sh.vlen t)
def Shuttle.elemPois (sh : Shuttle) (n t i : Nat) : Bool :=
  (sh.vreg (n + i / perOf sh.vlen t)).pois sh.vlen t (i % perOf sh.vlen t)
def Shuttle.putElem (sh : Shuttle) (n t i v : Nat) (p : Bool) : Shuttle :=
  let r := n + i / perOf sh.vlen t
  sh.setV r ((sh.vreg r).put sh.vlen t (i % perOf sh.vlen t) v p)

/-- Byte `j` of the group based at scale register `k` (R157, R172). -/
def Shuttle.scaleByte (sh : Shuttle) (k j : Nat) : Nat := bits (sh.ereg (k + j / sh.vlen)).bits (8 * (j % sh.vlen)) 8
def Shuttle.scalePois (sh : Shuttle) (k j : Nat) : Bool := bit (sh.ereg (k + j / sh.vlen)).poison (j % sh.vlen)
def Shuttle.putScale (sh : Shuttle) (k j v : Nat) (p : Bool) : Shuttle :=
  let r := k + j / sh.vlen
  sh.setE r ((sh.ereg r).put sh.vlen 0x04 (j % sh.vlen) v p)

/-- Byte `j` of the group based at vector register `n` (R256). -/
def Shuttle.groupByte (sh : Shuttle) (n j : Nat) : Nat := bits (sh.vreg (n + j / sh.vlen)).bits (8 * (j % sh.vlen)) 8
def Shuttle.groupPois (sh : Shuttle) (n j : Nat) : Bool := bit (sh.vreg (n + j / sh.vlen)).poison (j % sh.vlen)
def Shuttle.putGroupByte (sh : Shuttle) (n j v : Nat) (p : Bool) : Shuttle :=
  let r := n + j / sh.vlen
  sh.setV r ((sh.vreg r).put sh.vlen 0x04 (j % sh.vlen) v p)

/-- Predicate bit; p0 reads as all ones and writes to it are discarded (R156). -/
def Shuttle.pbit (sh : Shuttle) (p e : Nat) : Bool := if p = 0 then true else bit (sh.p[p]?.getD 0) e
def Shuttle.setPbit (sh : Shuttle) (p e : Nat) (b : Bool) : Shuttle :=
  if p = 0 then sh else { sh with p := sh.p.setIfInBounds p (setBit (sh.p[p]?.getD 0) e b) }

/-- VFLAGS with flags set (R163). -/
def Shuttle.raiseV (sh : Shuttle) (fl : Nat) : Shuttle := { sh with vflags := sh.vflags ||| w64 fl }
def Shuttle.raiseF (sh : Shuttle) (fl : Nat) : Shuttle := { sh with fflags := sh.fflags ||| w64 fl }

/-- The elements of an instruction (R153): from VSTART to VL − 1. -/
def Shuttle.elems (sh : Shuttle) : List Nat :=
  (List.range (sh.vl.toNat - sh.vstart.toNat)).map (sh.vstart.toNat + ·)
def Shuttle.active (sh : Shuttle) (p : Nat) : List Nat := sh.elems.filter fun e => sh.pbit p e

/-! ## Groups (R152) -/

/-- Grp(t, m): the smallest power of two G with G × PER(t) ≥ m (R241). -/
def grpOf (vlen t m : Nat) : Nat := pow2Up (ceilDiv m (perOf vlen t))
/-- The mask of registers n to n + g − 1. -/
def regMask (n g : Nat) : Nat := (2 ^ g - 1) * 2 ^ n
/-- The checks of a group: its REASON, or none. Log entry 28, DEDUCED. -/
def groupBad (sh : Shuttle) (n g : Nat) : Option Nat :=
  if 8 < g ∨ n % g ≠ 0 then some 2 else if sh.place.vregs < n + g then some 5 else none

/-! ## Convoys -/

/-- What a member reads and writes: masks of registers, for the limits of Table 3-9 and the span rule (R61, R62). A guard
predicate breaks no limit, so `rP` has no bit for it. -/
structure Uses where
  c : Bool
  load : Bool := false
  store : Bool := false
  cross : Bool := false
  rV : Nat := 0
  rE : Nat := 0
  rP : Nat := 0
  wV : Nat := 0
  wE : Nat := 0
  wP : Nat := 0
  index : Nat := 0
  sR : Nat := 0
  sW : Nat := 0
  deriving DecidableEq, Repr

/-- The mask of a scalar register; s0 is no register of a span. -/
def sMask (r : SReg) : Nat := if r = 0 then 0 else 2 ^ r.val

/-- Whether the span rule is broken (R61). -/
def spanBroken (c : Convoy) (sR sW : Nat) : Bool :=
  (sR &&& c.spanWrite) != 0 || (sW &&& (c.spanRead ||| sR)) != 0

/-- The lowest reason of Table 3-9 that a member breaks. -/
def limitBroken (c : Convoy) (u : Uses) : Option Nat :=
  if 8 ≤ c.count then some 1
  else if u.load && decide (2 ≤ c.loads) then some 2
  else if u.store && decide (1 ≤ c.stores) then some 3
  else if u.cross && decide (1 ≤ c.cross) then some 4
  else if u.cross && ((u.rV &&& c.wroteV) != 0 || (u.rE &&& c.wroteE) != 0 || (u.rP &&& c.wroteP) != 0) then some 5
  else if (u.index &&& c.wroteV) != 0 then some 6
  else if spanBroken c u.sR u.sW then some 7
  else none

/-- The shuttle with its convoy closed: VSTART returns to 0 (R44), and what the convoy kept goes. -/
def Shuttle.closeConvoy (sh : Shuttle) : Shuttle :=
  if sh.convoy.isOpen then
    let kept := sh.kept.filter fun x => x.pc != sh.convoy.firstPc
    { sh with convoy := {}, vstart := 0, found := [], missed := [], faulted := [], kept := kept, again := none, span := [] }
  else sh

/-- The position that the next member takes in its encoded convoy. -/
def Shuttle.position (sh : Shuttle) : Nat := sh.convoy.count

/-- The convoy as it stands when its first member issues. -/
def openConvoy (sh : Shuttle) : Convoy :=
  { isOpen := true, firstPc := sh.pc, snapMap := sh.hwemap, committed := sh.vstart.toNat, snapV := sh.v.toList,
    snapE := sh.e.toList, snapP := sh.p.toList, snapVl := sh.vl, snapFlags := sh.vflags, snapXstop := sh.xstop }

/-- The registers of a mask with their contents. -/
def maskRegs (m n : Nat) (f : Nat → VecReg) : List (Nat × VecReg) :=
  ((List.range n).filter fun i => bit m i).map fun i => (i, f i)

/-- What a member's execution leaves for the convoy: its elements per group, how its destination is read, the indexes
written there, the flags that its elements raised, the reads that must hold when they commit, the stores it has executed,
whether they are ordered, whether an access was non-repeatable (R222). -/
structure Trace where
  k : Nat
  code : Nat := 0
  base : Nat := 0
  per : Nat := 1
  wrote : List Nat := []
  flags : List (Nat × Nat) := []
  reads : List LogRead := []
  buffer : List Buffered := []
  ordered : Bool := false
  serial : Bool := false
  deriving DecidableEq, Repr

/-- The convoy after a member has executed; `before` is the shuttle before the member's writes. Log entry 20, DESIGN CHOICE. -/
def logMember (before sh : Shuttle) (u : Uses) (tr : Trace) : Shuttle :=
  let c := if before.convoy.isOpen then sh.convoy else
    { openConvoy before with
      fault := sh.convoy.fault, wants := sh.convoy.wants, cut := sh.again.bind (·.cut), serial := sh.again.any (·.serial) }
  let m : Member :=
    { k := tr.k, code := tr.code, base := tr.base, per := tr.per, wrote := tr.wrote,
      vregs := maskRegs u.wV 32 sh.vreg, eregs := maskRegs u.wE 8 sh.ereg,
      preg := if u.wP = 0 then none else some (Nat.log2 u.wP, sh.p[Nat.log2 u.wP]?.getD 0), flags := tr.flags }
  { sh with convoy :=
    { c with count := c.count + 1, loads := c.loads + u.load.toNat, stores := c.stores + u.store.toNat,
             cross := c.cross + u.cross.toNat, wroteV := c.wroteV ||| u.wV, wroteE := c.wroteE ||| u.wE,
             wroteP := c.wroteP ||| u.wP, spanRead := c.spanRead ||| u.sR, spanWrite := c.spanWrite ||| u.sW,
             members := c.members ++ [m], reads := c.reads ++ tr.reads, buffer := c.buffer ++ tr.buffer,
             ordered := c.ordered || tr.ordered, serial := c.serial || tr.serial } }

/-- Whether the open convoy has yet to make a remote access of an element. -/
def Convoy.unsettled (c : Convoy) (e : Nat) : Bool := c.wants.any fun w => w.1 == e
/-- Record a fault during execution: the lowest element, ties to the earliest member (R221). What an element meets before all its
remote accesses have been made is not known yet. -/
def Shuttle.meet (sh : Shuttle) (f : Pending) : Shuttle :=
  if sh.convoy.unsettled f.elem then sh
  else match sh.convoy.fault with
  | some g => if f.elem < g.elem then { sh with convoy := { sh.convoy with fault := some f } } else sh
  | none => { sh with convoy := { sh.convoy with fault := some f } }

/-- The elements that a member still performs: those below a fault the convoy has met. -/
def Shuttle.below (sh : Shuttle) (es : List Nat) : List Nat :=
  match sh.convoy.fault with
  | some f => es.filter fun e => decide (e < f.elem)
  | none => es

/-! ## Cutting a convoy at element B (R43, R221) -/

/-- The group size K of a convoy: the largest k of its members. -/
def Convoy.group (c : Convoy) : Nat := c.members.foldl (fun m x => max m x.k) 1

/-- The registers of a member that hold one of its elements below B, as bits of HWEMAP. -/
def keptMap (vlen b : Nat) (m : Member) : Nat :=
  let keep := m.wrote.filter fun i => decide (i * m.per < b)
  if m.preg.isSome then 0
  else keep.foldl (fun acc i =>
    acc ||| 2 ^ ((if m.eregs.isEmpty then 0 else 32) + m.base + i / perOf vlen m.code)) 0

/-- The registers after a member, of which only the elements below B remain. -/
def replayMember (vlen b : Nat) (sv se : List VecReg) (sp : List Nat) (m : Member) :
    List VecReg × List VecReg × List Nat :=
  let keep := m.wrote.filter fun i => decide (i * m.per < b)
  let merge (code : Nat) (regs : List VecReg) (x : Nat × VecReg) : List VecReg :=
    let mine := keep.filter fun i => m.base + i / perOf vlen code == x.1
    regs.set x.1 (mine.foldl (fun r i =>
      let j := i % perOf vlen code
      r.put vlen code j (x.2.elem vlen code j) (x.2.pois vlen code j)) (regs.getD x.1 {}))
  let sp := match m.preg with
    | some (p, x) => sp.set p (keep.foldl (fun y i => setBit y i (bit x i)) (sp.getD p 0))
    | none => sp
  (m.vregs.foldl (merge m.code) sv, m.eregs.foldl (merge 0x04) se, sp)

/-- The flags that the elements below B of the members raised. -/
def Convoy.flagsBelow (c : Convoy) (b : Nat) : Nat :=
  c.members.foldl (fun acc m => m.flags.foldl (fun acc x => if x.1 < b then acc ||| x.2 else acc) acc) 0

/-- The boundary B of a fault at element k (R221, R222). -/
def Convoy.boundary (c : Convoy) (k : Nat) : Nat := if c.serial then k else c.group * (k / c.group)

/-- The elements up to which the convoy of a shuttle has made accesses that are not to be made twice (R44, R192, R222). -/
def Shuttle.madeTo (sh : Shuttle) : Nat :=
  sh.kept.foldl (fun m x => if x.once && x.pc == sh.convoy.firstPc then max m (x.elem + 1) else m) 0
/-- Whether remote accesses remain to be made before the elements below `b` can commit, or a fault at element `k` be taken: of those
that may be made again every one up to `k`, of the others those below `b`. -/
def Convoy.owes (c : Convoy) (b k : Nat) : Bool := c.wants.any fun w => decide (w.1 < if w.2 then b else k)
/-- How a convoy runs again to make them: first those that may be made again, then the others element group by element group (R220);
in an element-serial convoy element by element (R222). -/
def Convoy.next (c : Convoy) : Again :=
  let low := c.wants.foldl (fun m w => min m w.1) (2 ^ 64)
  { askTo := if c.serial then low + 1 else if c.wants.any (!·.2) then 0 else c.group * (low / c.group + 1)
    serial := c.serial, cut := c.cut }

/-- The boundary B of a pre-emption that finds `e` elements completed by the furthest member, capped at VL (R43). A
convoy with a cross-element member is pre-empted only at its end. -/
def Convoy.stop (c : Convoy) (e vl : Nat) : Nat :=
  if c.cross ≠ 0 then vl else min vl (if c.serial then e else c.group * ceilDiv e c.group)

end Sys2Proof.Machine
end

