-- ==== Sys2Proof/Machine/Access.lean ====
section
/-!
DEFINITION. Sys2Proof/Machine/Access.lean: scope caps (R103, R104), remote requests (R278 to R282), the acquires and releases
of scalar accesses (R98, R99), and the scalar loads, stores and atomics (R123, R129, R135).
-/
namespace Sys2Proof.Machine

/-! ## Scope caps (R103, R104) -/

/-- Whether the scope of the shuttle's function is capped at PART. -/
def State.capped (s : State) : Bool := (s.part s.cur.place.part).cap
/-- Set a bit of SCOPEDEM where the scope was SYS and the function is capped: 0 FENDEM, 1 RELDEM, 2 ACQDEM. -/
def demote (i : Nat) (sys : Bool) : M Unit := do
  let s ← get
  if sys && s.capped then onCur fun sh => { sh with scopedem := wordSet sh.scopedem i 1 1 }

/-! ## Remote requests -/

/-- The fabric cause of a path that is lost: 2 PEER_LOST, 1 PATH_LOST (R291). -/
def State.lostCause (s : State) (chip : Nat) : Nat := if (s.path chip).peerLost then 2 else 1

/-- What became of a returning request (R281): the bytes with one poison mark each, or the cause and outcome. -/
inductive Answer where
  | data (bytes : List Byte) (poison : Nat)
  | failed (cause outcome : Nat)
  deriving DecidableEq, Repr

/-- What an instruction asks of another chip. -/
structure Ask where
  peer : Nat
  agent : Nat := agScalar
  op : FarOp
  addrs : List (Nat × Nat)
  data : List Byte
  va : Word
  deriving DecidableEq, Repr

/-- What a remote request of the issuing shuttle carries (R279, R307). -/
def State.carried (s : State) (peer : Nat) : Carried :=
  { peer := peer, tenant := s.tenantOf s.cur.place.part, owner := s.cur.owner, tag := s.cur.owner, sent := false }
def Request.isFor (q : Request) (r : Ask) : Bool :=
  q.peer == r.peer && q.op == r.op && q.va == r.va && q.addrs == r.addrs

/-- The answers to the returning requests of an instruction: each is made once, and the instruction waits until every
one has its reply. A request on a lost path fails at once, not performed (Table 15-6). Log entry 23, DESIGN CHOICE. -/
def askAll (rs : List Ask) : M (List Answer) := do
  let s ← get
  let missing := rs.filter fun r => !(s.path r.peer).lost && !s.cur.requests.any (·.isFor r)
  let made := missing.zipIdx.map fun (x : Ask × Nat) =>
    ({ s.carried x.1.peer with key := s.nextKey + x.2, agent := x.1.agent, op := x.1.op, addrs := x.1.addrs, data := x.1.data, va := x.1.va,
                               reply := .waiting } : Request)
  if !made.isEmpty then
    set { s with nextKey := s.nextKey + made.length, cur := { s.cur with requests := s.cur.requests ++ made } }
    park .remote
  else if s.cur.requests.any (fun q => q.reply == .waiting) then park .remote
  else
    return rs.map fun r =>
      match s.cur.requests.find? (·.isFor r) with
      | some q => (match q.reply with
        | .waiting => .failed 3 1
        | .data b p => .data b p
        | .failed c o => .failed c o)
      | none => .failed (s.lostCause r.peer) 0

/-- One returning request of a scalar instruction: its value, or REMOTE_LOAD (R281), whose outcome is 0 for a load. A
poisoned reply of a scalar load or returning atomic is consumed (R123, R293). -/
def ask (r : Ask) : M Nat := do
  match ← askAll [r] with
  | .data b p :: _ =>
    if p ≠ 0 then trap cPOISON r.va 1
    else return b.foldr (fun x acc => x.toNat + 256 * acc) 0
  | .failed c o :: _ =>
    let load := r.op == .load || r.op == .ctrRd
    trap cREMOTE r.va (w64 (r.peer * 2 ^ 16 + (if load then 0 else o) * 2 ^ 4 + c))
  | [] => return 0

/-- Send a posted request (R282): its number, or none where the path is lost and its failure, not performed, is recorded at
once. -/
def sendPosted (s : State) (kind peer : Nat) (op : FarOp) (addr : Word) (elems : List PElem) : Option Nat × State :=
  if (s.path peer).lost then
    (none, recordFailure s s.cur.uid (eqHeader kind (s.lostCause peer) 0 peer s.cur.owner 0 0) addr)
  else
    let (k, s) := s.newKey
    let p : Posted := { s.carried peer with key := k, kind := kind, op := op, addr := addr, elems := elems }
    (some k, { s with cur := { s.cur with posted := s.cur.posted ++ [p] } })
def post (kind peer : Nat) (op : FarOp) (addr : Word) (elems : List PElem) : M (Option Nat) := do
  let s ← get
  let (k, s) := sendPosted s kind peer op addr elems
  set s
  return k

/-- Wait until posted requests are acknowledged or recorded: of some KINDs, and those of other shuttles in the earlier set of some
agents (R97, R299). -/
def waitKinds (kinds agents : Nat) : M Unit := do
  let s ← get
  if s.awaiting s.cur kinds agents then park (.posted kinds agents)
/-- Wait for the posted requests in the earlier set of some agents. -/
def waitPosted (agents : Nat) : M Unit := waitKinds (kindMask agents) agents
/-- The KINDs of vector stores. -/
def vectorKinds : Nat := 20

/-- The bytes of a value, the lowest first. -/
def toBytes (v : Nat) : Nat → List Byte
  | 0 => []
  | n + 1 => BitVec.ofNat 8 v :: toBytes (v / 256) n

/-! ## Scalar accesses (R123, R129, R131) -/

/-- The alignment check of Load and Store (R88, R123); `code` is 0 for a load, 1 a store, 2 an atomic. -/
def aligned (va : Word) (n code : Nat) : M Unit :=
  if va.toNat % n ≠ 0 then trap cMISALIGNED va (w64 code) else pure ()

/-- The place at which an acquire or release of a scalar access acts. -/
def Phys.sys (p : Phys) : Bool := p.mtype == 3 && !p.win

/-- Whether an access of a page is non-repeatable whatever its instruction (R94). -/
def Phys.serial (p : Phys) : Bool := p.mtype == 2 && !p.win
/-- A load of local storage by an agent of the issuing shuttle, and a store, which is performed at once where it is non-repeatable
(R94). -/
def loadPlace (agent : Nat) (p : Phys) (n : Nat) : M Loaded :=
  if p.serial then loadSerial agent p.key n else loadAt agent p.key n
def State.storePlace (s : State) (agent : Nat) (p : Phys) (n v : Nat) (pois : Bool) : State :=
  if p.serial then s.storeSerial agent p.key n v pois else s.storeCur agent p.key n v pois false

/-- Load(va, n, read) of the scalar agent (R123), with the time at which it is performed; poison is consumed. -/
def scalarLoad (va : Word) (n : Nat) : M (Nat × Nat × Phys) := do
  aligned va n 0
  let p ← translate va.toNat 0
  match p.remote with
  | some c =>
    let v ← ask { peer := c, op := .load, addrs := [(p.key, n)], data := [], va := va }
    let s ← get
    set { s with cur := s.cur.reached agScalar s.now }
    return (v, s.now, p)
  | none =>
    let x ← loadPlace agScalar p n
    if x.pois then trap cPOISON va 1
    return (x.v, x.time, p)

/-- Store(va, n, v, write) of the scalar agent, once it has been checked and translated. -/
def scalarPut (va : Word) (n v : Nat) (p : Phys) : M Unit := do
  match p.remote with
  | some c =>
    let _ ← post 1 c .store va [{ elem := 0, key := p.key, bytes := toBytes v n, mask := 256 ^ n - 1, pois := false }]
  | none => modify fun s => s.storePlace agScalar p n (v % 256 ^ n) false

/-- Store(va, n, v, write) of the scalar agent (R123). -/
def scalarStore (va : Word) (n v : Nat) : M Unit := do
  aligned va n 1
  let p ← translate va.toNat 1
  scalarPut va n v p

/-- A release at PART or SYS scope by the issuing shuttle: it waits for the posted requests (R97), and its earlier accesses are
performed with respect to every agent. -/
def releaseAll : M Unit := do
  waitPosted agAll
  modify (·.release .chip)
/-- An acquire of what was performed at `t`: the shuttle's later accesses come after it (R99). -/
def acquireAt (t : Nat) : M Unit := onCur (·.after 7 t)

/-! ## Atomics (R135, R136) -/

/-- The operations of AMO by number on `n` bytes: SWAP, ADD, AND, OR, XOR, MIN, MAX, MINN, MAXN. -/
def amoResult (op n old v : Nat) : Nat :=
  let w := 8 * n
  match op with
  | 0 => v
  | 1 => (old + v) % 2 ^ w
  | 2 => old &&& v
  | 3 => old ||| v
  | 4 => old ^^^ v
  | 5 => if sext old w ≤ sext v w then old else v
  | 6 => if sext old w ≤ sext v w then v else old
  | 7 => min old v
  | _ => max old v

/-- An atomic read-modify-write of local storage by an agent of the issuing shuttle (R89, R293): the old value, and whether the
target is poisoned, which stores nothing. `f` gives the new value, or none where nothing is stored. -/
def localAtomic (agent : Nat) (k n : Nat) (f : Nat → Option Nat) : M (Nat × Bool) := do
  modify fun s =>
    let s := s.readNewest (s.cur.obs agent) k n
    { s with cur := s.cur.reached agent s.now }
  let s ← get
  let (old, pois) := s.load k n
  if pois then return (old, true)
  match f old with
  | some v => set (s.storeCur agent k n (v % 256 ^ n) false true)
  | none => pure ()
  return (old, false)

/-- The marker of a posted AMO that its AQ form has sent. -/
def Request.marks (q : Request) (va : Word) : Bool := q.va == va && q.addrs.isEmpty

/-- The effect of a scalar atomic at its place: its old value, 0 without `ret` at a remote target, and whether it was
performed; one that is recorded as failed was not, and acquires nothing. -/
def atomicAt (va : Word) (n : Nat) (aq ret : Bool) (op : Nat) (data : List Byte) (f : Nat → Option Nat) (p : Phys) :
    M (Nat × Bool) := do
  match p.remote with
  | some c =>
    if ret then
      let v ← ask { peer := c, op := .amo op, addrs := [(p.key, n)], data := data, va := va }
      modify fun s => { s with cur := s.cur.reached agScalar s.now }
      return (v, true)
    else
      let s ← get
      match s.cur.requests.find? (·.marks va) with
      | some q =>
        -- the posted atomic of an AQ form has been sent; it completes once acknowledged or recorded
        waitKinds 8 0
        return (0, match q.reply with
          | .failed .. => false
          | _ => true)
      | none =>
        match ← post 3 c (.amo op) va [{ elem := 0, key := p.key, bytes := data, mask := 256 ^ n - 1, pois := false }] with
        | none => return (0, false)
        | some k =>
          if aq then
            let s ← get
            let q : Request := { s.carried c with key := k, op := .amo op, addrs := [], data := [], va := va, reply := .data [] 0 }
            set { s with cur := { s.cur with requests := s.cur.requests ++ [q] } }
            park (.posted 8 0)
          return (0, true)
  | none =>
    let (old, pois) ← localAtomic agScalar p.key n f
    if p.serial then modify fun s => s.settleOwn agScalar p.key n
    if pois then
      if ret || p.win || decide (2 ^ 43 ≤ p.key % 2 ^ 44) then trap cPOISON va 1
      else
        let s ← get
        set (recordFailure s s.cur.uid (eqHeader 3 5 0 s.chip s.cur.owner 0 0) va)
        return (0, false)
    else return (old, true)

/-- A scalar atomic (R135, R136): `ord` bit 0 is AQ and bit 1 is RL, `ret` says that it returns its old value, `op` and `data`
are what a remote request carries. The result is the old value; without `ret` a remote target gives 0. A capped function
demotes what completes (R103). -/
def scalarAtomic (va : Word) (n ord : Nat) (ret : Bool) (op : Nat) (data : List Byte) (f : Nat → Option Nat) : M Nat := do
  let aq := bit ord 0
  let rl := bit ord 1
  aligned va n 2
  let p ← translate va.toNat 2
  let sent := (← get).cur.requests.any (·.marks va)
  if rl && !sent then releaseAll
  let (old, done) ← atomicAt va n aq ret op data f p
  if rl then demote 1 p.sys
  if aq then demote 2 p.sys
  if aq && done then acquireAt (← get).now
  return old

end Sys2Proof.Machine
end

