-- ==== Sys2Proof/Machine/Convoy.lean ====
section
/-!
DEFINITION. Sys2Proof/Machine/Convoy.lean: the commitment of a convoy's stores (R220, R190), its end (R60), and cutting it at
an element (R43, R221).
-/
namespace Sys2Proof.Machine

/-! ## Stores that commit -/

/-- A store of the vector agent performed in this device's storage: the bits of its mask; `apart` says that it is performed before the
next begins (R93, R94). A store of part of a byte leaves the byte's mark (R358). Log entry 53, DEDUCED. -/
def storeVector (apart : Bool) (s : State) (b : Buffered) : State :=
  let whole := b.mask == 256 ^ b.n - 1
  let s := if whole then s else s.readNewest (s.cur.obs agVector) b.key b.n
  let old := readLE s.mem b.key b.n
  let v := old - (old &&& b.mask) + (b.v &&& b.mask)
  let p := b.pois || (!whole && markedAny s.poisoned b.key b.n)
  if apart && whole then s.storeSerial agVector b.key b.n v p else s.storeCur agVector b.key b.n v p (!whole)

/-- A VAMO element that returns nothing performed in this device's storage (R192): a poisoned target records KIND 4 (R293). -/
def amoVector (s : State) (op : Nat) (b : Buffered) : State :=
  let s := s.readNewest (s.cur.obs agVector) b.key b.n
  if markedAny s.poisoned b.key b.n then
    recordFailure s s.cur.uid (eqHeader 4 5 0 s.chip s.cur.owner 0 0) b.va
  else s.storeCur agVector b.key b.n (amoResult op b.n (readLE s.mem b.key b.n) b.v) false true

/-- The local stores of a list performed in order; one that yields gives way to an earlier one at its place (R93); `apart` says
that each is performed before the next begins (R93, R94). Log entry 7, DESIGN CHOICE. -/
def performLocal (apart : Bool) (s : State) (bs : List Buffered) : State :=
  (bs.foldl (fun (r : State × List Nat) b =>
    if b.remote.isSome || (b.yields && r.2.contains b.key) then r
    else
      let s := match b.amo with
        | some op => amoVector r.1 op b
        | none => storeVector apart r.1 b
      (if apart then s.settleOwn agVector b.key b.n else s, b.key :: r.2)) (s, [])).1

/-- What a packet of a store does at its target. -/
def Buffered.farOp (b : Buffered) : FarOp :=
  match b.amo with
  | some op => .amo op
  | none => .store

/-- The address of the lowest element of a packet (R190, R283). -/
def lowestVa : List Buffered → Word
  | [] => 0
  | b :: bs => (bs.foldl (fun (m : Buffered) x => if x.elem < m.elem then x else m) b).va
/-- The remote stores of a list, one packet for each chip and packet number (R188). -/
def performRemote (s : State) (bs : List Buffered) : State :=
  let far := bs.filter fun b => b.remote.isSome
  let names := (far.map fun b => (b.remote.getD 0, b.packet)).eraseDups
  names.foldl (fun s (x : Nat × Nat) =>
    match far.filter fun b => b.remote == some x.1 && b.packet == x.2 with
    | [] => s
    | b :: rest =>
      (sendPosted s b.kind x.1 b.farOp (lowestVa (b :: rest)) ((b :: rest).map fun y =>
        { elem := y.elem, key := y.key, bytes := toBytes y.v y.n, mask := y.mask, pois := y.pois })).2) s

/-! ## Commitment -/

/-- Whether a read of the open convoy still gives what it gave: the newest bytes, or, unless it is the read of an atomic, those
that a store which it may miss has replaced. -/
def State.stillReads (s : State) (x : LogRead) : Bool :=
  let o := s.cur.obs agVector
  -- in an element-serial convoy the read comes after every access that has been performed (R94)
  let floor := if s.cur.convoy.serial then s.now else (s.cur.view agVector).floor
  let bs := (List.range x.n).map fun i =>
    (viewByte (fun r => !r.binds o floor) (x.key + i) s.stores (memRead s.mem (x.key + i), sHas s.poisoned ((x.key + i) / 8))).1
  s.load x.key x.n == (x.v, x.pois)
    || (!x.atom && bs.foldr (fun b acc => b.1.toNat + 256 * acc) 0 == x.v && bs.any (·.2) == x.pois)

/-- The elements from `lo` on below `hi` of a list of what the convoy holds. -/
def inRange {α : Type} (f : α → Nat) (lo hi : Nat) (xs : List α) : List α := xs.filter fun x => decide (lo ≤ f x ∧ f x < hi)

/-- The reads of the open convoy that must hold when their elements commit. -/
def Convoy.binding (c : Convoy) : List LogRead := c.reads.filter fun r => c.serial || !r.plain
/-- The local stores of the elements from `lo` on below `hi`, in order, each element's after its reads have been found to hold
(R192, R222); none where a read does not. A late read is compared with storage after all stores of the convoy that come before it.
In a convoy whose elements commit in order the remote stores leave with them. -/
def tryRange (s : State) (lo hi : Nat) : Option State :=
  let c := s.cur.convoy
  let mine := inRange (·.elem) lo hi c.buffer
  let reads := inRange (·.elem) lo hi c.binding
  let early := reads.filter fun r => !r.late
  let apart := c.serial || c.ordered
  let perform (s : State) (bs : List Buffered) : State :=
    let s := performLocal apart s bs
    if apart then performRemote s bs else s
  let stored : Option State :=
    if early.isEmpty then some (perform s mine)
    else (early.map (·.elem) ++ mine.map (·.elem)).eraseDups.foldlM (fun s e =>
      let bs := mine.filter fun b => b.elem == e
      if (early.filter fun r => r.elem == e).all s.stillReads then some (perform s bs) else none) s
  match stored with
  | none => none
  | some s' =>
    let rest := if c.serial then [] else c.buffer.filter fun b => decide (hi ≤ b.elem)
    let seen := if reads.length = early.length then s' else performLocal false s' rest
    if (reads.filter (·.late)).all seen.stillReads then some s' else none

/-- What remains of the open convoy once the elements from `lo` on below `hi` have committed. -/
def Convoy.without (c : Convoy) (lo hi vl : Nat) : Convoy :=
  { c with
    buffer := c.buffer.filter fun x => !decide (lo ≤ x.elem ∧ x.elem < hi)
    reads := c.reads.filter fun x => !decide (lo ≤ x.elem ∧ x.elem < hi)
    committed := max c.committed (min hi vl) }

/-- The ranges of elements below `b` that commit one after another: single elements where an access is non-repeatable (R94),
runs of one target for a VST.XO (R190), element groups where a read must hold, otherwise all at once. -/
def Convoy.ranges (c : Convoy) (b : Nat) : List (Nat × Nat) :=
  let es := (c.buffer.map (·.elem) ++ c.binding.map (·.elem)).foldl sAdd [] |>.filter (· < b)
  if c.serial then es.map fun e => (e, e + 1)
  else if c.ordered then
    (c.buffer.filter fun x => decide (x.elem < b)).foldr (fun x (rs : List (Nat × Nat × Option Nat)) => match rs with
      | (lo, hi, t) :: rest => if t = x.remote then (min lo x.elem, hi, t) :: rest else (x.elem, x.elem + 1, x.remote) :: rs
      | [] => [(x.elem, x.elem + 1, x.remote)]) [] |>.map fun r => (r.1, r.2.1)
  else if c.binding.isEmpty then [(0, b)]
  else ((es.map (· / c.group)).foldl sAdd []).map fun g => (c.group * g, min b (c.group * (g + 1)))

/-- How far a commitment has come: to its end; to a store whose fate must be known before the next; to a read that no longer
holds, from whose element on the convoy runs again. -/
inductive Commit where
  | done
  | waits
  | redo (b : Nat)
  deriving DecidableEq, Repr

/-- Commit ranges of the open convoy in turn (R220). -/
def commitRanges (s : State) : List (Nat × Nat) → Commit × State
  | [] => (.done, s)
  | (lo, hi) :: rest =>
    let c := s.cur.convoy
    if (c.serial || c.ordered) && s.awaiting s.cur vectorKinds 0 then (.waits, s)
    else match tryRange s lo hi with
      | none => (.redo lo, s)
      | some s' =>
        let sh := s'.cur
        commitRanges { s' with cur := { sh with convoy := c.without lo hi sh.vl.toNat } } rest
/-- The stores of the open convoy's elements below `b` are performed (R220). Where its elements need not commit one by one the remote
ones leave together, each store's in one packet for each chip or page (R188), and a read that no longer holds undoes the whole. -/
def commitTo (s : State) (b : Nat) : Commit × State :=
  let c := s.cur.convoy
  match commitRanges s (c.ranges b) with
  | (.done, t) =>
    let t := if c.serial || c.ordered then t else performRemote t (c.buffer.filter fun x => decide (x.elem < b))
    let sh := t.cur
    (.done, { t with cur := { sh with convoy := { sh.convoy with committed := max sh.convoy.committed (min b sh.vl.toNat) } } })
  | (.redo lo, t) => if c.serial || c.ordered then (.redo lo, t) else (.redo c.committed, s)
  | r => r
/-- Beyond every element. -/
def Shuttle.wholeVl (sh : Shuttle) : Nat := sh.vl.toNat + 2 ^ 20

/-! ## Cutting -/

/-- The machine with the open convoy of the issuing shuttle cut at element B, below which all has committed: every member keeps
exactly its elements below B (R43, R221). VSTART is B and the pc is that of the first member. Flags that only elements at or
beyond B raised are not in VFLAGS. Log entries 68 and 83, DEDUCED. -/
def restoreAt (s : State) (b : Nat) : State :=
  let sh := s.cur
  let c := sh.convoy
  let (sv, se, sp) := c.members.foldl (fun (r : List VecReg × List VecReg × List Nat) m =>
    replayMember sh.vlen b r.1 r.2.1 r.2.2 m) (c.snapV, c.snapE, c.snapP)
  let sh := { sh with
    v := Vector.ofFn fun i : Fin 32 => sv.getD i.val {}
    e := Vector.ofFn fun i : Fin 8 => se.getD i.val {}
    p := Vector.ofFn fun i : Fin 8 => sp.getD i.val 0
    hwemap := c.snapMap ||| w64 (c.members.foldl (fun acc m => acc ||| keptMap sh.vlen b m) 0)
    vflags := c.snapFlags ||| w64 (c.flagsBelow b), xstop := c.snapXstop
    convoy := {}, vstart := w64 b, pc := c.firstPc }
  { s with cur := sh }
/-- The shuttle once its convoy has been cut for good: nothing of it stays pinned or kept but the replies to accesses that are not to
be made twice (R44, R222). -/
def Shuttle.cutOff (sh : Shuttle) : Shuttle :=
  { sh with found := [], missed := [], faulted := [], kept := sh.kept.filter (·.once), again := none, span := [] }

/-- The open convoy is to run again from its first member, over the elements that have not committed. What its probes have found
stays its own (R217). -/
def runAgain (s : State) (b : Nat) (a : Again) : State :=
  let c := s.cur.convoy
  let s := restoreAt s b
  { s with cur := { s.cur with status := .ready, vl := c.snapVl, again := some a } }
/-- The same after a read that no longer holds: its remote accesses have been made as far as before. -/
def Shuttle.sameAgain (sh : Shuttle) : Again :=
  { askTo := (sh.again.map (·.askTo)).getD 0, serial := sh.convoy.serial, cut := sh.convoy.cut }
/-- The first element group of the open convoy has not issued, since a member that joins it still waits for its probe (R216): it
runs again once the wait may be over, and nothing of it has been performed. What its probes have found stays found (R218). -/
def backToProbe (s : State) (w : Wait) : State :=
  let c := s.cur.convoy
  let s := restoreAt s c.committed
  { s with cur := { s.cur with vl := c.snapVl, status := .waiting w } }

/-- What comes before the elements below `b` of the open convoy can commit, and a fault at element `k` be taken. -/
inductive Before where
  | nothing (s : State)
  | waits (s : State)
  | again (s : State)
  deriving DecidableEq, Repr
/-- The elements below `b` commit. Where a remote access of theirs, or one that may strike before `k`, has still to be made, the
convoy runs again for it; in an element-serial convoy the elements before it commit first (R222). -/
def prepare (s : State) (b k : Nat) : Before :=
  let c := s.cur.convoy
  if c.owes b k then
    let a := c.next
    if c.serial then
      match commitTo s (a.askTo - 1) with
      | (.done, t) => .again (runAgain t t.cur.convoy.committed a)
      | (.waits, t) => .waits t
      | (.redo lo, t) => .again (runAgain t (max lo t.cur.convoy.committed) t.cur.sameAgain)
    else .again (runAgain s c.committed a)
  else
    match commitTo s b with
    | (.done, t) => .nothing t
    | (.waits, t) => .waits t
    | (.redo lo, t) => .again (runAgain t (max lo t.cur.convoy.committed) t.cur.sameAgain)

/-- The elements below `b` commit; `f` goes on from there, where nothing must come first. -/
def afterCommit (s : State) (b k : Nat) (f : State → State) : State :=
  match prepare s b k with
  | .nothing s => f s
  | .waits s => { s with cur := { s.cur with status := .waiting (.posted vectorKinds 0) } }
  | .again s => s
/-- The open convoy is cut at element B (R43, R221) because of what happened at element `k`. -/
def cutAt (s : State) (b k : Nat) (f : State → State) : State :=
  afterCommit s b k fun s =>
    let s := restoreAt s b
    f { s with cur := s.cur.cutOff }

/-! ## The end of a convoy -/

/-- A convoy-ending event: the fault that the convoy met, or a requested pre-emption, comes first. Log entry 20, DESIGN CHOICE. -/
def endConvoy : M Unit := do
  let s ← get
  let c := s.cur.convoy
  if c.fault.isSome then throw (.trap 0 0 0)
  else if c.isOpen && c.cut.isSome then throw .cut
  else if c.isOpen then
    match prepare s s.cur.wholeVl s.cur.wholeVl with
    | .nothing s => set { s with cur := s.cur.closeConvoy }
    | .waits s =>
      set s
      park (.posted vectorKinds 0)
    | .again s =>
      set s
      throw .again

/-- The issue checks of a member: where it opens a convoy the previous one ends (R60); then the limits (R62, R63). -/
def beginMember (bits : Nat) (u : Uses) : M Unit := do
  let s ← get
  if u.c || !s.cur.convoy.isOpen then endConvoy
  let s ← get
  match limitBroken s.cur.convoy u with
  | some r => trap cCONVOY (w64 bits) (w64 (r * 2 ^ 60 + s.cur.convoy.count))
  | none => pure ()

end Sys2Proof.Machine
end

