-- ==== Sys2Proof/Machine/Lanes.lean ====
section
/-!
DEFINITION. Sys2Proof/Machine/Lanes.lean: the lane clusters of a loom (R37 to R40), the vector queue of a core (R36), the
rows of a loom's matrix array and the tiles of a core (R230 to R236).
-/
namespace Sys2Proof.Machine

/-! ## Lane clusters -/

/-- The lanes of a cluster that are in service. -/
def Loom.lanesOf (l : Loom) (c : Nat) : Nat := 16 - (l.retired.filter fun x => x / 16 == c).length
/-- A cluster with two or more retired lanes is retired whole (R361). -/
def Loom.inService (l : Loom) (c : Nat) : Bool := decide (15 ≤ l.lanesOf c)
/-- The clusters that a core holds, as a mask. Log entry 27, DEDUCED. -/
def Loom.held (l : Loom) (core : Nat) : Nat := tget 0 l.clusters core
/-- The clusters in no core's hands. -/
def Loom.pool (l : Loom) : List Nat :=
  (List.range 16).filter fun c => l.inService c && !l.clusters.any fun e => bit e.2 c
def Loom.setHeld (l : Loom) (core m : Nat) : Loom := { l with clusters := tput l.clusters core m }

/-- The highest set bit of a mask cleared. -/
def dropTop (m : Nat) : Nat := if m = 0 then 0 else m - 2 ^ Nat.log2 m
def dropTops (m : Nat) : Nat → Nat
  | 0 => m
  | n + 1 => dropTops (dropTop m) n

/-- The clusters a request of `n` elements of `b` bits asks for (R37). -/
def clusterRequest (n b : Nat) : Nat := min 16 (ceilDiv (ceilDiv (n * b) 256) 16)

/-- The core that R39 marks: the one that holds the most clusters, the lowest number on a tie. -/
def Loom.richest (l : Loom) : Nat :=
  (List.range 4).foldl (fun best c => if popc (l.held best) 16 < popc (l.held c) 16 then c else best) 0

/-- A core's request for `r` clusters (R37), which the heddle answers within the clock; a request that is still waiting
keeps its age. -/
def heddle (s : State) (core r : Nat) : State :=
  let k := s.core core
  let since := match k.laneReq with
    | some q => q.since
    | none => s.clock
  s.setCore core { k with laneReq := some { n := r, owner := s.cur.owner, since := since, marked := none } }
/-- The request of a core is over. -/
def State.answered (s : State) (core : Nat) : State := s.setCore core { s.core core with laneReq := none }

/-- Whether a core has a hardware convoy in its vector queue, which closes 64 clocks after its last instruction (R36). -/
def State.executing (s : State) (core : Nat) : Bool :=
  let k := s.core core
  k.vqOwner.isSome && decide (s.clock < k.vqSince + 64)
/-- The marked core gives its highest cluster to the core that asked for one while the pool was empty (R39). -/
def passCluster (s : State) (n v c : Nat) : State :=
  let l := s.loom n
  let m := l.held v
  if m = 0 ∨ l.held c ≠ 0 then s
  else (s.setLoom n ((l.setHeld v (dropTop m)).setHeld c (2 ^ Nat.log2 m))).answered (4 * n + c)

/-- The heddle's answer to a core (R37, R39): excess returns, free clusters are granted, and a core
that holds none while the pool is empty has the core marked that holds the most, which gives up its highest cluster at once unless
it has a convoy in its vector queue. -/
def serveCore (s : State) (n c : Nat) : State :=
  match (s.core (4 * n + c)).laneReq with
  | none => s
  | some q =>
    let l := s.loom n
    let m := l.held c
    let have_ := popc m 16
    if q.n ≤ have_ then (s.setLoom n (l.setHeld c (dropTops m (have_ - q.n)))).answered (4 * n + c)
    else
      let got := (l.pool.take (q.n - have_)).foldl (fun acc k => acc + 2 ^ k) 0
      if m + got = 0 then
        let v := match q.marked with
          | some v => if l.held v = 0 then l.richest else v
          | none => l.richest
        let s := s.setCore (4 * n + c) { s.core (4 * n + c) with laneReq := some { q with marked := some v } }
        if s.executing (4 * n + v) then s else passCluster s n v c
      else (s.setLoom n (l.setHeld c (m + got))).answered (4 * n + c)

/-- The requests at a loom's heddle. -/
def State.laneReqs (s : State) (n : Nat) : List (Contender Nat) :=
  (List.range 4).filterMap fun c => (s.core (4 * n + c)).laneReq.map fun q =>
    { input := c, owner := q.owner, since := q.since, what := c }
/-- The heddle turns to its contenders in order; `f` answers one. The rotating pointer moves where one that ties is granted a cluster
(R309). -/
def serveAll (f : State → Nat → State) (n : Nat) (s : State) : List (Contender Nat) → State
  | [] => s
  | c :: cs =>
    let t := f s c.what
    let grew := decide (popc ((s.loom n).held c.what) 16 < popc ((t.loom n).held c.what) 16)
    serveAll f n (if grew then t.putArb (arbKey 6 n) ((t.arb 6 n).after s c (c :: cs)) else t) cs
/-- A clock of a loom's heddle (R37, R39): the requests are served in the order of the harm rule, and one that is left holds no
cluster and waits on the account of the shuttle that the marked core executes, or of owner 63 (Table 17-1). -/
def heddleClock (s : State) (n : Nat) : State :=
  match ranked s (s.arb 6 n) (s.laneReqs n) with
  | [] => s
  | w :: cs =>
    let s := serveAll (fun s c => serveCore s n c) n s (w :: cs)
    let culprit (c : Nat) : Nat :=
      match (s.core (4 * n + c)).laneReq.bind (·.marked) with
      | some v => if s.executing (4 * n + v) then (((s.core (4 * n + v)).vqOwner.bind s.byUid).map (·.owner)).getD 63 else 63
      | none => 63
    s.chargeClock (arbKey 6 n) (s.arb 6 n)
      ((s.laneReqs n).map fun c => (c.owner, culprit c.what))
/-- A core has come to an element-group boundary: it gives up a cluster for each request that has marked it (R39). -/
def giveClusters (s : State) (core : Nat) : State :=
  let n := core / 4
  serveAll (fun s c => passCluster s n (core % 4) c) n s
    ((ranked s (s.arb 6 n) (s.laneReqs n)).filter fun c =>
      ((s.core (4 * n + c.what)).laneReq.bind (·.marked)) == some (core % 4))

/-- CAPL (R371). -/
def Loom.capl (l : Loom) : Nat := min l.budgetCap (min l.sensorCap l.droopCap)
/-- VACT: the least of CAPL and the in-service lanes of the clusters held (R40, R371). -/
def Loom.vact (l : Loom) (c : Nat) : Nat :=
  min l.capl ((List.range 16).foldl (fun n k => if bit (l.held c) k then n + l.lanesOf k else n) 0)

/-- The lanes that a core's element groups go to, by ascending cluster and lane number, the first VACT of those in service (R40). -/
def Loom.laneList (l : Loom) (c : Nat) : List Nat :=
  ((List.range 256).filter fun x => bit (l.held c) (x / 16) && !l.retired.contains x).take (l.vact c)
/-- The lane to which element group `g` of an instruction goes (R40). -/
def Loom.laneOf (l : Loom) (c g : Nat) : Option Nat :=
  let ls := l.laneList c
  ls[g % ls.length]?

/-- A core gives all its clusters back, and asks for none (R38). -/
def returnLanes (s : State) (core : Nat) : State :=
  (s.setLoom (core / 4) ((s.loom (core / 4)).setHeld (core % 4) 0)).answered core
/-- A core gives its clusters back once its vector queue is empty (R38). -/
def wantReturn (s : State) (core : Nat) : State :=
  let k := s.core core
  if s.executing core then s.setCore core { k with laneReturn := true } else returnLanes s core

/-! ## The vector queue (R36) -/

/-- Whether another shuttle's convoy holds the vector queue of the issuing shuttle's core: it does until its hardware
convoy closes, at the latest 64 clocks after its last vector instruction. -/
def State.queueTaken (s : State) (sh : Shuttle) : Bool :=
  let k := s.core sh.place.core
  match k.vqOwner with
  | some u => u != sh.uid && decide (s.clock < k.vqSince + 64)
  | none => false

/-- The hardware convoy of a shuttle closes. -/
def closeQueue (s : State) (core uid : Nat) : State :=
  let k := s.core core
  if k.vqOwner = some uid then
    let s := giveClusters (s.setCore core { k with vqOwner := none, laneReturn := false }) core
    if k.laneReturn then returnLanes s core else s
  else s
def closeHardware : M Unit := modify fun s => closeQueue s s.cur.place.core s.cur.uid

/-- A vector instruction enters the queue of its core. -/
def passProbe : M Unit := do
  let s ← get
  if s.queueTaken s.cur then park .vectorQueue

/-- The queue after a member has entered it; a core without a cluster makes the request of R38. -/
def enterQueue (s : State) : State :=
  let core := s.cur.place.core
  let s := s.setCore core { s.core core with vqOwner := some s.cur.uid, vqSince := s.clock }
  if (s.loom (core / 4)).held (core % 4) = 0 then heddle s core (clusterRequest s.cur.vl.toNat (ebits s.cur.ety)) else s

/-- The signature of the last four convoys that a loom's cores started (R372). -/
def Loom.signature (l : Loom) : Nat := Config.droopHash ((l.convoys.take 4).map (·.2)) % 2 ^ 32
/-- The convoys of a loom after a member of core `c`'s newest convoy, or the first of a new one; a fifth stays for the case that the
newest has not started (R216). -/
def addConvoy (c : Nat) (first : Bool) (x : Nat × Nat) (cs : List (Nat × List (Nat × Nat))) : List (Nat × List (Nat × Nat)) :=
  if first then ((c, [x]) :: cs).take 5
  else match cs.find? fun e => e.1 == c with
    | some e => cs.takeWhile (fun e => e.1 != c) ++ (c, e.2 ++ [x]) :: (cs.dropWhile fun e => e.1 != c).drop 1
    | none => cs
/-- A member of a convoy of core `c` starts: where the table holds the signature that it makes, the droop cap comes into force
(R372). Log entry 18, DESIGN CHOICE. -/
def startConvoyOn (l : Loom) (c : Nat) (first : Bool) (major groups clock : Nat) : Loom :=
  let l := { l with convoys := addConvoy c first (major, groups) l.convoys }
  if l.droop.any fun e => e.1 == l.signature then
    { l with droopCap := max 16 (l.capl * 3 / 4 / 16 * 16), droopUntil := clock + 4096 }
  else l
/-- A member of the issuing shuttle has entered the queue; a convoy that runs again has started before. -/
def noteConvoy (ibits : Nat) (s : State) : State :=
  if s.cur.again.isSome then s
  else
    let n := s.cur.place.core / 4
    let k := (s.cur.convoy.members.getLast?.map (·.k)).getD 1
    s.setLoom n (startConvoyOn (s.loom n) (s.cur.place.core % 4) (s.cur.convoy.count == 1) (bits ibits 24 8)
      (ceilDiv s.cur.vl.toNat k) s.clock)
/-- The newest convoy of the issuing shuttle's core has not started after all (R216). -/
def unnoteConvoy (s : State) : State :=
  let n := s.cur.place.core / 4
  let c := s.cur.place.core % 4
  let cs := (s.loom n).convoys
  s.setLoom n { s.loom n with convoys := cs.takeWhile (fun e => e.1 != c) ++ (cs.dropWhile fun e => e.1 != c).drop 1 }

/-- Wait until the shuttle's tile operations have completed (R110, R226, R239). Log entry 52, DESIGN CHOICE. -/
def waitTiles : M Unit := do
  let s ← get
  if (s.core s.cur.place.core).matQueue.contains s.cur.uid then park .tiles

/-! ## The matrix array -/

/-- The fields of MSHAPE (Table 12-2). -/
def shapeRows (m : Nat) : Nat := 128 * 2 ^ bits m 0 2
def shapeAcc (m : Nat) : Nat := bits m 2 2
def shapeCols (m : Nat) : Nat := bits m 8 10
/-- The ETYPE code of the accumulator type: F32, F64 or I32. -/
def accType (m : Nat) : Nat := if shapeAcc m = 0 then cF32 else if shapeAcc m = 1 then cF64 else 0x02
def accBytes (m : Nat) : Nat := if shapeAcc m = 1 then 8 else 4
/-- nt (R234). -/
def shapeTiles (m : Nat) : Nat :=
  if shapeCols m = 0 then 0 else min 4 (2097152 / (shapeRows m * shapeCols m * accBytes m))

/-- The cores of a loom with an attached shuttle. -/
def State.attachedCores (s : State) (n : Nat) : List Nat :=
  (List.range 4).filter fun c => (s.core (4 * n + c)).attached.isSome
/-- The fair share F (R231). -/
def State.fairShare (s : State) (n : Nat) : Nat :=
  let k := (s.attachedCores n).length
  if k = 0 then 1024 else 128 * (8 / k)
def Loom.rows (l : Loom) (c : Nat) : Nat := 128 * popc (tget 0 l.blocks c) 8
def Loom.setBlocks (l : Loom) (c m : Nat) : Loom := { l with blocks := tput l.blocks c m }
def Loom.freeBlocks (l : Loom) : List Nat := (List.range 8).filter fun b => !l.blocks.any fun e => bit e.2 b
/-- Whether a core has tile operations to execute: it takes and gives up blocks at its sweep boundaries only (R248). -/
def State.sweeping (s : State) (core : Nat) : Bool := !(s.core core).matQueue.isEmpty

/-- The blocks that a loom has promised to a core for its next sweep boundary. -/
def Loom.promised (l : Loom) (c : Nat) : Nat := (l.pend.filter fun x => x.2 == c).length
/-- Q_c, and the rows that a core holds or will hold. -/
def Loom.coming (l : Loom) (c : Nat) : Nat := l.rows c + 128 * l.promised c
/-- The blocks that no core holds and none has been promised. -/
def Loom.offers (l : Loom) : List Nat := l.freeBlocks.filter fun b => !l.pend.any fun x => x.1 == b

/-- Attached cores of a loom as contenders of its matrix-attach arbiter (R231, R395). -/
def State.matContenders (s : State) (n : Nat) (cs : List Nat) : List (Contender Nat) :=
  cs.filterMap fun c => ((s.core (4 * n + c)).attached.bind s.byUid).map fun sh =>
    { input := c, owner := sh.owner, since := (s.core (4 * n + c)).matSince, what := c }
/-- The first of some attached cores by the harm rule, with the arbiter after its grant. -/
def State.first (s : State) (n : Nat) (cs : List Nat) : Option (Nat × Arb) :=
  let a := s.arb 5 n
  let cs := s.matContenders n cs
  match ranked s a cs with
  | [] => none
  | w :: _ => some (w.what, a.after s w cs)
/-- The cores in deficit (R231, rule 3). -/
def State.deficits (s : State) (n : Nat) : List Nat :=
  (s.attachedCores n).filter fun c =>
    decide ((s.loom n).coming c < min (s.core (4 * n + c)).matReq (s.fairShare n))

/-- A loom that has granted a core a block in a clock. -/
def Loom.grants (l : Loom) (clock c : Nat) : Loom :=
  { l with granted := (clock, if l.granted.1 = clock then l.granted.2 ++ [c] else [c]) }
/-- A block is free until it is taken: one that has been promised to a core beyond its share F is offered to a core in deficit that
finds no other (R231, rules 2 and 3). -/
def yieldPromise (s : State) (n : Nat) : State :=
  let l := s.loom n
  if !l.offers.isEmpty || (s.deficits n).isEmpty then s
  else match l.pend.reverse.find? fun x => decide (min (s.core (4 * n + x.2)).matReq (s.fairShare n) < l.coming x.2) with
    | some x => s.setLoom n { l with pend := l.pend.erase x }
    | none => s
/-- One offer of a free block (R231, rule 2): an idle core takes it, and a busy one is promised it for its next sweep
boundary. -/
def offerBlock (s : State) (n : Nat) : State :=
  let l := s.loom n
  match l.offers with
  | [] => s
  | b :: _ =>
    let want := (s.attachedCores n).filter fun c => decide (l.coming c < (s.core (4 * n + c)).matReq)
    match s.first n (if (s.deficits n).isEmpty then want else s.deficits n) with
    | some (c, a) =>
      let s := s.putArb (arbKey 5 n) a
      let l := l.grants s.clock c
      s.setLoom n (if s.sweeping (4 * n + c) then { l with pend := l.pend ++ [(b, c)] }
        else l.setBlocks c (tget 0 l.blocks c + 2 ^ b))
    | none => s

/-- A core at a sweep boundary takes the blocks that it has been promised. -/
def takePromised (s : State) (core : Nat) : State :=
  let n := core / 4
  let c := core % 4
  let l := s.loom n
  let mine := l.pend.filter fun x => x.2 == c
  if mine.isEmpty then s
  else s.setLoom n { l.setBlocks c (mine.foldl (fun m x => m ||| 2 ^ x.1) (tget 0 l.blocks c)) with
    pend := l.pend.filter fun x => x.2 != c }

/-- The holder with the most rows above F, the lowest number on a tie (R231, rule 3). -/
def State.markedHolder (s : State) (n : Nat) : Option Nat :=
  let l := s.loom n
  let h := (List.range 4).foldl (fun best k => if l.rows best < l.rows k then k else best) 0
  if l.rows h ≤ s.fairShare n then none else some h
/-- The core whose deficit the arbiter serves: it chooses by the harm rule, and again once that deficit is gone. -/
def serveDeficit (s : State) (n : Nat) : State :=
  let l := s.loom n
  let ds := s.deficits n
  if l.serving.any ds.contains then s
  else match s.first n ds with
    | some (c, a) => (s.putArb (arbKey 5 n) a).setLoom n { l with serving := some c }
    | none => if l.serving.isSome then s.setLoom n { l with serving := none } else s

/-- One reclamation (R231, rule 3): the marked holder, idle or, where `boundary` says so, at a sweep boundary (R248), gives up
min(G − F, deficit) rows, the highest-numbered blocks first, to the core whose deficit is served. -/
def reclaimBlock (boundary : Bool) (s : State) (n : Nat) : State :=
  let s := if (s.loom n).offers.isEmpty then serveDeficit s n else s
  let l := s.loom n
  match l.serving, s.markedHolder n with
  | some c, some h =>
    let l := if l.offers.isEmpty then { l with markedAt := some (s.clock, h) } else l
    if !l.offers.isEmpty || (s.sweeping (4 * n + h) && !boundary) then s.setLoom n l
    else
      let F := s.fairShare n
      let k := min (l.rows h - F) (min (s.core (4 * n + c)).matReq F - l.coming c) / 128
      let m := tget 0 l.blocks h
      let m' := dropTops m k
      s.setLoom n (((l.setBlocks h m').setBlocks c (tget 0 l.blocks c + (m - m'))).grants s.clock c)
  | _, _ => s

/-- R231 applied until nothing moves without a sweep boundary: shrinking, then free blocks, then reclamation. -/
def arrangeRows (s : State) (n : Nat) : State :=
  let shrink (s : State) (c : Nat) : State :=
    let k := s.core (4 * n + c)
    let q := if k.attached.isSome then k.matReq else 0
    let s := if k.attached.isSome then s
      else s.setLoom n { s.loom n with pend := (s.loom n).pend.filter (fun x => x.2 != c) }
    let l := s.loom n
    if q < l.rows c then s.setLoom n (l.setBlocks c (dropTops (tget 0 l.blocks c) ((l.rows c - q) / 128))) else s
  let s := (List.range 4).foldl shrink s
  let s := (List.range 8).foldl (fun s _ => offerBlock (yieldPromise s n) n) s
  (List.range 4).foldl (fun s _ => reclaimBlock false s n) s
/-- A core is at a sweep boundary (R237, R248): it takes what it was promised and, where it is the marked holder, gives up
what is reclaimed. -/
def sweepBoundary (s : State) (core : Nat) : State :=
  let s := takePromised s core
  if s.markedHolder (core / 4) = some (core % 4) then reclaimBlock true s (core / 4) else s

/-- A clock of a loom's matrix-attach arbiter (R231, Table 17-1): each core in deficit that has been granted no block in it waits on
the account of the attached shuttle of the holder that was marked in that clock, where none was, of the core that was granted a free
block in it, and else, awaiting its own sweep boundary, on its own. Log entry 48, DESIGN CHOICE. -/
def matrixClock (s : State) (n : Nat) : State :=
  let due (s : State) : List Nat := (s.attachedCores n).filter fun c =>
    decide ((s.loom n).rows c < min (s.core (4 * n + c)).matReq (s.fairShare n))
  if (due s).isEmpty then s
  else
    let s := arrangeRows s n
    let l := s.loom n
    let took := if l.granted.1 = s.clock then l.granted.2 else []
    let marked := (l.markedAt.filter fun x => x.1 == s.clock).map (·.2)
    let culprit := (marked <|> took.head?).bind fun c => ((s.core (4 * n + c)).attached.bind s.byUid).map (·.owner)
    s.chargeClock (arbKey 5 n) (s.arb 5 n)
      ((s.matContenders n ((due s).filter fun c => !took.contains c)).map fun c => (c.owner, culprit.getD c.owner))

/-- Every tile of a core zero and clean: +0, or 0 for I32. -/
def Core.zeroTiles (k : Core) : Core := { k with tiles := Vector.replicate 4 {} }

/-- MAT.DET's effect on a core (R236). -/
def detachCore (s : State) (core : Nat) : State :=
  let s := s.setCore core { (s.core core).zeroTiles with attached := none, matReq := 0 }
  arrangeRows s (core / 4)

/-- Element (r, j) of a tile under a shape: the index of its encoding. -/
def tileIndex (m r j : Nat) : Nat := r * shapeCols m + j
def Tile.get (t : Tile) (m r j : Nat) : Nat := Machine.bits t.bits (tileIndex m r j * 8 * accBytes m) (8 * accBytes m)
def Tile.pois (t : Tile) (m r j : Nat) : Bool := Machine.bits t.poison (tileIndex m r j * accBytes m) (accBytes m) != 0
def Tile.put (t : Tile) (m r j v : Nat) (p : Bool) : Tile :=
  { bits := setBits t.bits (tileIndex m r j * 8 * accBytes m) (8 * accBytes m) v
    poison := setBits t.poison (tileIndex m r j * accBytes m) (accBytes m) (if p then 255 else 0) }

end Sys2Proof.Machine
end

