-- ==== Sys2Proof/Machine/Context.lean ====
section
/-!
DEFINITION. Sys2Proof/Machine/Context.lean: the context area of a shuttle (R44, R109, R224 to R226, R240, R392) and the
parts of a shuttle's end that a double trap and EXIT share (R118, R141).
-/
namespace Sys2Proof.Machine

/-! ## Runs of bytes -/

/-- The pieces of a run of `n` bytes from `a`, cut at 64 KiB pages and at their middles, where HBM may end (R84); the first
argument bounds their number. -/
def pieces : Nat → Nat → Nat → List (Nat × Nat)
  | 0, _, _ => []
  | f + 1, a, n =>
    if n = 0 then []
    else
      let m := min n (32768 - a % 32768)
      (a, m) :: pieces f (a + m) (n - m)
def piecesOf (a n : Nat) : List (Nat × Nat) := pieces (n / 32768 + 2) a n

/-- Words of a run, by an agent of the shuttle, or by the core itself (0): the value and one poison mark per byte. -/
def getWords (agent k : Nat) : Nat → M (Nat × Nat)
  | 0 => return (0, 0)
  | n + 1 => do
    let (v, p) ← (if agent = 0 then do return (← get).load k 8 else loadAs agent k 8)
    let (r, rp) ← getWords agent (k + 8) n
    return (v + 2 ^ 64 * r, (if p then 255 else 0) + 256 * rp)
def putWords (agent k v pm : Nat) : Nat → M Unit
  | 0 => return ()
  | n + 1 => do
    if agent = 0 then modify fun s => s.store k 8 (v % 2 ^ 64) (pm % 256 != 0)
    else storeAs agent k 8 (v % 2 ^ 64) (pm % 256 != 0)
    putWords agent (k + 8) (v / 2 ^ 64) (pm / 256) n

/-- How the bytes of a section are reached: through the shuttle's own translation, or by stage 2 alone (R109). -/
inductive Route where
  | va
  | gpa
  deriving DecidableEq, Repr

/-- The stage-2 translation of an address of the context area (R109). What a section's accesses find and miss is kept as that of
an instruction's own, under the kinds from 4 on. -/
def areaXlate (part a kind : Nat) (sh : Shuttle) (s : State) : XRes × State :=
  match sh.found.find? fun f => f.vpage == a / 2 ^ 16 && f.kind == kind + 4 with
  | some f => (.ok { f.phys with key := f.phys.key + a % 2 ^ 16 }, s)
  | none =>
    let again (s : State) : XRes × State :=
      match walk2 part a a kind false s with
      | .ok l s' =>
        let m := bits l.entry 53 3
        match checkPhys s' part a l.addr m with
        | some (ea, ei) => (.fault cACCESS ea ei, s')
        | none =>
          if 1 < m then (.fault cACCESS (w64 a) 5, s')
          else (.ok { key := l.addr, remote := none, mtype := m, pcap := bit l.entry 52, win := false, span := leafSpan l.level,
                      gpage := a / 65536, gpages := leafSpan l.level / 65536, spared2 := bit l.entry 5 }, s')
      | .error e s' =>
        match settle ⟨part, .s⟩ a kind sh.lostSources (0, 0) s' e with
        | (.page m, s'') => (.page { m with kind := kind + 4 }, s'')
        | r => r
    match sh.missed.find? fun m => m.vpage == a / 2 ^ 16 && m.kind == kind + 4 with
    | some m => if m.neg then (.fault cACCESS (w64 a) 7, s) else if m.outstanding s then (.page m, s) else again s
    | none => again s

/-- The storage key of a section's byte: memory of type 0 or 1, or the window (R226, R246). -/
def Route.key (r : Route) (a kind : Nat) : M Nat := do
  match r with
  | .va =>
    let p ← translate a kind
    if p.remote.isSome || (!p.win && decide (1 < p.mtype)) then trap cACCESS (w64 a) 5
    return p.key
  | .gpa =>
    let s ← get
    let part := s.cur.place.part
    if stage2On part then
      let (x, s') := areaXlate part a kind s.cur s
      set { s' with cur := s'.cur.noted a (kind + 4) x }
      match x with
      | .ok p => return p.key
      | .fault c ea ei => trap c ea ei
      | .page m => park (.page [(m.fn, m.req)] [])
      | .leaf l => park (.page [] [l])
    else
      match checkPhys s part a a (targetType s a) with
      | some (ea, ei) => trap cACCESS ea ei
      | none => if a / 2 ^ 44 ≠ s.chip ∨ 2 ^ 43 ≤ a % 2 ^ 44 then trap cACCESS (w64 a) 5 else return a

/-- Store a run of whole words of a section; without `go` its addresses are translated and nothing is written. -/
def Route.put (r : Route) (go : Bool) (agent a n v pm : Nat) : M Unit :=
  (piecesOf a n).forM fun (x : Nat × Nat) => do
    let k ← r.key x.1 1
    if go then putWords agent k (v / 2 ^ (8 * (x.1 - a))) (pm / 2 ^ (x.1 - a)) (x.2 / 8)
/-- Load a run of whole words of a section. -/
def Route.get (r : Route) (agent a n : Nat) : M (Nat × Nat) :=
  (piecesOf a n).foldlM (fun (acc : Nat × Nat) (x : Nat × Nat) => do
    let k ← r.key x.1 0
    let (v, p) ← getWords agent k (x.2 / 8)
    return (acc.1 + 2 ^ (8 * (x.1 - a)) * v, acc.2 + 2 ^ (x.1 - a) * p)) (0, 0)

/-- Words laid out one after another, 8 bytes each. -/
def packWords (ws : List Word) : Nat := ws.foldr (fun w acc => w.toNat + 2 ^ 64 * acc) 0
def wordAt (v i : Nat) : Word := w64 (bits v (64 * i) 64)

/-! ## VTYPE values (R155) -/

/-- Why a VTYPE value is illegal: REASON and FBIT. -/
def vtypeBad (s : State) (part v : Nat) : Option (Nat × Nat) :=
  let et := bits v 0 5
  if et = 0x0F ∨ (bits v 8 3 ≠ 0 ∧ et ≠ cF64) then some (2, 0)
  else if bit v 5 || bits v 16 48 != 0 then some (3, 0)
  else if bits v 8 3 ≠ 0 && !s.feature part 9 then some (7, 9)
  else if isQ et && !s.feature part 10 then some (7, 10)
  else if bit v 13 && !s.feature part 11 then some (7, 11)
  else if bit v 14 && !s.feature part 17 then some (7, 17)
  else none

/-! ## The vector section (R224 to R226) -/

/-- The registers of the slice: 0 to 31 for v0 to v31, 32 to 39 for e0 to e7 (R22). -/
def Shuttle.slice (sh : Shuttle) : List Nat :=
  (List.range 32).filter (fun i => decide (i < sh.place.vregs))
    ++ ((List.range 8).filter fun i => decide (i < sh.place.escl)).map (32 + ·)
def Shuttle.sreg (sh : Shuttle) (i : Nat) : VecReg := if i < 32 then sh.vreg i else sh.ereg (i - 32)

/-- VCTX.SV's stores: control words, extents, the reserved words, which are zero, p1 to p7, and the registers, which into the
home section are only those whose HWEMAP bit is set. -/
def saveVector (r : Route) (go : Bool) (agent V : Nat) (home : Bool) : M Unit := do
  let s ← get
  let sh := s.cur
  let vlen := sh.vlen
  r.put go agent V 64 (packWords [sh.vl, sh.vtype, sh.vstart, sh.hwemap, sh.vflags, sh.xstop, sh.vseed, 0]) 0
  r.put go agent (V + 64) 192
    ((List.range 40).foldr (fun i acc => (sh.sreg i).extent + 2 ^ 32 * acc) 0) 0
  (List.range 7).forM fun i =>
    r.put go agent (V + 256 + i * vlen) vlen (sh.p[i + 1]?.getD 0) 0
  sh.slice.forM fun i =>
    if !home || bit sh.hwemap.toNat i then
      let x := (sh.sreg i).extent
      r.put go agent (V + 256 + (7 + i) * vlen) x (bits (sh.sreg i).bits 0 (8 * x)) (bits (sh.sreg i).poison 0 x)
    else pure ()

/-- The lowest REASON, with its FBIT, for which a vector section may not be restored (R226). -/
def sectionBad (s : State) (ctl ext : Nat) : Option (Nat × Nat) :=
  let sh := s.cur
  let vt := bits ctl 64 64
  let vl := bits ctl 0 64
  let words := (List.range 40).map fun i => (i, bits ext (32 * i) 32)
  let two := words.any (fun (x : Nat × Nat) => decide (sh.vlen < x.2) || x.2 % 32 != 0
      || (x.2 != 0 && !sh.slice.contains x.1))
    || decide (vlmaxOf sh.vlen vt < vl) || decide (vl < bits ctl 128 64)
  match vtypeBad s sh.place.part vt with
  | some (r, f) => if two then some (2, 0) else some (r, f)
  | none => if two then some (2, 0) else none

/-- Words that are to go into state that carries no poison: where one is poisoned the shuttle's partition rolls back (R358, R362). Log
entry 85, DESIGN CHOICE. -/
def cleanOnly (poison : Nat) : M Unit := do
  if poison ≠ 0 then
    let s ← get
    let part := s.cur.place.part
    set { s with struck := sAdd s.struck part }
    park (.page [] [struckLeaf part 0])
/-- VCTX.RS: the vector state from a section, after its checks; `bad` takes the trap they give. -/
def restoreVector (r : Route) (agent V : Nat) (bad : Nat × Nat → M Unit) : M Unit := do
  let s ← get
  let vlen := s.cur.vlen
  let (ctl, cp) ← r.get agent V 64
  let (ext, xp) ← r.get agent (V + 64) 160
  cleanOnly (cp + xp)
  match sectionBad s ctl ext with
  | some x => bad x
  | none => pure ()
  let ps ← (List.range 7).mapM fun i => r.get agent (V + 256 + i * vlen) vlen
  cleanOnly ((ps.map (·.2)).sum)
  let regs ← s.cur.slice.mapM fun i => do
    let x := bits ext (32 * i) 32
    let (v, p) ← r.get agent (V + 256 + (7 + i) * vlen) x
    return (i, ({ bits := v, poison := p, extent := x } : VecReg))
  let reg (i : Nat) : VecReg := (regs.lookup i).getD {}
  onCur fun sh => { sh with
    vl := wordAt ctl 0, vtype := wordAt ctl 1, vstart := wordAt ctl 2, vflags := wordAt ctl 4 &&& 0x3F,
    xstop := wordAt ctl 5 &&& 0x7FFFF, vseed := wordAt ctl 6, hwemap := 0
    p := Vector.ofFn fun i : Fin 8 => if i.val = 0 then 0 else (ps.getD (i.val - 1) (0, 0)).1
    v := Vector.ofFn fun i : Fin 32 => reg i.val
    e := Vector.ofFn fun i : Fin 8 => reg (32 + i.val) }

/-! ## The whole context (R44, R224) -/

/-- The bits of CPCTL and TVEC that are not reserved (R253, R116). -/
def cpctlMask : Word := 0x0000FFFF0F031F87
def tvecMask : Word := 0x00FFFFFFFFFFFF00
/-- The value of MSHAPE that a shape gives: nt is derived (R237). -/
def shapeWord (v : Nat) : Word := w64 (setBits (setBits (bits v 0 18) 4 4 0) 18 3 (shapeTiles v))

/-- The scalar section's words 32 to 48 (Table 10-2). -/
def Shuttle.scalarWords (sh : Shuttle) : List Word :=
  [sh.pc, sh.estat, sh.epc, sh.ecause, sh.eaddr, sh.einfo, sh.sscratch, sh.scopedem, sh.strip, sh.srem, sh.fctl,
   sh.fflags, sh.cpctl, sh.mshape, (if sh.priv = .s then 1 else 0), sh.tvec, w64 sh.owner]

/-- The bytes of the tiles t0 to t(nt − 1), and of the tile section's base, of a shuttle whose vector section is at V. -/
def Shuttle.tileBytes (sh : Shuttle) : Nat :=
  shapeRows sh.mshape.toNat * shapeCols sh.mshape.toNat * accBytes sh.mshape.toNat
def Shuttle.tileBase (sh : Shuttle) (V : Nat) : Nat := V + 256 + 47 * sh.vlen
/-- The offset of the scratchpad section. -/
def spadSection : Nat := 3638528

/-- The accesses of a save of the issuing shuttle to its context area. The 632 bytes that only the device reads get a value that
nothing constrains; what they stand for stays in the shuttle. Log entry 69, DESIGN CHOICE. -/
def saveAll (go region : Bool) (own : Nat) : M Unit := do
  let s ← get
  let sh := s.cur
  let base := sh.ctxptr.toNat
  Route.gpa.put go 0 base 256
    ((List.range 32).foldr (fun i acc => (sh.reg (Fin.ofNat 32 i)).toNat + 2 ^ 64 * acc) 0) 0
  Route.gpa.put go 0 (base + 256) 136 (packWords sh.scalarWords) 0
  Route.gpa.put go 0 (base + 392) 632 (own % 2 ^ 5056) 0
  let V := base + 1024
  saveVector .gpa go 0 V (sh.homeIsCtx && sh.homeBase.toNat == V)
  if sh.attached then
    let k := s.core sh.place.core
    (List.range (shapeTiles sh.mshape.toNat)).forM fun i =>
      Route.gpa.put go 0 (sh.tileBase V + i * sh.tileBytes) sh.tileBytes (k.tiles[i]?.getD {}).bits
        (k.tiles[i]?.getD {}).poison
  if region && sh.place.spad != 0 then
    let n := 256 * sh.place.spad
    let k := spadKey sh.place.core sh.place.spadOff
    Route.gpa.put go 0 (base + spadSection) n (readLE s.mem k n) (markMask s.poisoned k n)
/-- The state of the issuing shuttle written to its context area, as pre-emption writes it: the scalar and vector
sections, the tiles where it is attached, and its scratchpad region unless it stays in place. Where one of its accesses faults
nothing is written (R109). -/
def saveContext (region : Bool) : M Unit := do
  let f ← draw
  saveAll false region 0
  saveAll true region (Config.deviceContext f)

/-- The state of the issuing shuttle restored from its context area (R44, R46, R109). -/
def restoreContext (bad : Nat × Nat → M Unit) : M Unit := do
  let s ← get
  let base := s.cur.ctxptr.toNat
  let (rs, rp) ← Route.gpa.get 0 base 256
  let (ws, wp) ← Route.gpa.get 0 (base + 256) 136
  cleanOnly (rp + wp)
  onCur fun sh => { sh with
    regs := Vector.ofFn fun i : Fin 32 => if i.val = 0 then 0 else wordAt rs i.val
    pc := wordAt ws 0, estat := wordAt ws 1 &&& 0xCF, epc := wordAt ws 2,
    ecause := wordAt ws 3 &&& 0x80000000000000FF, eaddr := wordAt ws 4, einfo := wordAt ws 5,
    sscratch := wordAt ws 6, scopedem := wordAt ws 7 &&& 7, strip := wordAt ws 8, srem := wordAt ws 9,
    fctl := wordAt ws 10 &&& 3, fflags := wordAt ws 11 &&& 0x1F, cpctl := wordAt ws 12 &&& cpctlMask,
    mshape := shapeWord (wordAt ws 13).toNat,
    priv := if wordAt ws 14 = 0 then .u else .s, tvec := wordAt ws 15 &&& tvecMask, owner := (wordAt ws 16).toNat % 64 }
  restoreVector .gpa 0 (base + 1024) bad
  onCur fun sh => { sh with homeIsCtx := true, homeBase := w64 (base + 1024) }
/-- The scratchpad region of the issuing shuttle restored from its context area (R392). -/
def restoreRegion : M Unit := do
  let s ← get
  if s.cur.place.spad ≠ 0 then
    let n := 256 * s.cur.place.spad
    let (v, p) ← Route.gpa.get 0 (s.cur.ctxptr.toNat + spadSection) n
    modify fun s => s.storeMasked (spadKey s.cur.place.core s.cur.place.spadOff) n v p

/-- The tiles in the tile section of the issuing shuttle, where it is attached (R240). -/
def savedTiles : M (List (Nat × Nat)) := do
  let s ← get
  let sh := s.cur
  if sh.attached then
    let V := sh.ctxptr.toNat + 1024
    (List.range (shapeTiles sh.mshape.toNat)).mapM fun i =>
      Route.gpa.get 0 (sh.tileBase V + i * sh.tileBytes) sh.tileBytes
  else return []
/-- The tiles of a core from those of a tile section. -/
def Core.loadTiles (k : Core) (ts : List (Nat × Nat)) : Core :=
  { k with tiles := Vector.ofFn fun i : Fin 4 => { bits := (ts.getD i.val (0, 0)).1, poison := (ts.getD i.val (0, 0)).2 } }

/-! ## The end of a shuttle -/

/-- The remaining error-queue entries and the LOST count move to the function's error queue (R283). -/
def moveErrors (s : State) (sh : Shuttle) : State :=
  let fn := sh.place.part
  let s := sh.eq.foldl (fun s (x : Word × Word) => feqPush s fn 7 sh.shid sh.place.launchId x.1 x.2) s
  let f := s.func fn
  if sh.lost = 0 then s else s.setFunc fn { f with feqLost := min (2 ^ 32 - 1) (f.feqLost + sh.lost) }

/-- The zones that a shuttle opened begin to close (R276). -/
def closeZones (s : State) (uid : Nat) : State :=
  { s with zones := s.zones.map fun (z : Zone) => if z.uid = uid then { z with closing := true } else z }

/-- A parked lend child is held by the dispatcher after its parent's end, and its core keeps what it reserved (R32, R33). -/
def handChild (s : State) (sh : Shuttle) : State :=
  match sh.lend with
  | none => s
  | some l =>
    let p := s.part sh.place.part
    let r : Room := { key := l.key, core := sh.place.core, bytes := sh.lendBytes, off := sh.lendOff, n := 256 * l.spad }
    let s := { s with rooms := r :: s.rooms }
    refillQueue (s.setPart sh.place.part { p with held := p.held ++ [l] }) sh.place.part l.cls

/-- Whether the dispatcher may hold one more lend child for a partition (R33). -/
def State.mayHold (s : State) (part : Nat) : Bool := decide ((s.part part).held.length < 1024)
/-- What EXIT and a double trap do with all that the shuttle holds: its zones close, its matrix attachment
ends once its tile operations have completed (R236), a parked child is held, or stays in its slot until it may be. -/
def dropHoldings (s : State) : State :=
  let sh := s.cur
  let s := closeZones s sh.uid
  let busy := (s.core sh.place.core).matQueue.contains sh.uid
  let s := if sh.attached && !busy then detachCore s sh.place.core else s
  let ok := s.mayHold sh.place.part
  let s := if ok then handChild s sh else s
  { s with cur := { s.cur with
    attached := sh.attached && busy, matReq := if busy then sh.matReq else 0, lend := if ok then none else sh.lend
    lendBytes := if ok then 0 else sh.lendBytes, lendOff := if ok then 0 else sh.lendOff, convoy := {} } }

/-- The shuttle that has met a double trap, or a fault of its context area, is stopped (R118, R109): its errors and the
entry DOUBLE_TRAP go to the function's error queue, its launch never completes, and its slot frees at its end. -/
def killShuttle (s : State) (cause : Nat) : State :=
  let sh := s.cur
  let s := dropHoldings s
  let s := moveErrors s sh
  let s := feqPush s sh.place.part 4 sh.shid sh.place.launchId (w64 cause) 0
  let s := { s with tracks := s.tracks.map fun (t : Track) =>
    if t.key = sh.place.launch then { t with lost := true } else t }
  let s := closeQueue s sh.place.core sh.uid
  -- the claim that it had to the array while it was away (R240)
  let k := s.core sh.place.core
  let s := if k.claim = some sh.uid then s.setCore sh.place.core { k with claim := none } else s
  { s with cur := { s.cur.cutOff with eq := [], lost := 0, status := .ending, requests := [], stopping := none, killed := none } }

end Sys2Proof.Machine
end

