-- ==== Sys2Proof/Machine/Ops.lean ====
section
/-!
DEFINITION. Sys2Proof/Machine/Ops.lean: taking a trap and returning from one (R115 to R119, R139), waiting (R34, R38),
pre-emption (R43, R44), and how an instruction's body becomes a step.
-/
namespace Sys2Proof.Machine

abbrev Out := Host.Outcome State Fault Refusal

/-! ## Trap entry -/

/-- TVEC.BASE × 256 (R116, R117). -/
def Shuttle.handler (sh : Shuttle) : Word := w64 (bits sh.tvec.toNat 8 48 * 256)

/-- The shuttle when its instruction is over, for whatever reason: nothing asked, nothing answered. What an open convoy has
translated stays pinned for it (R217). -/
def Shuttle.settled (sh : Shuttle) : Shuttle :=
  let pinned := sh.convoy.isOpen || sh.again.isSome
  { sh with
    status := .ready, requests := [], lostSources := []
    found := if pinned then sh.found else [], missed := if pinned then sh.missed else []
    faulted := if pinned then sh.faulted else []
    pgstat := w64 (setBits (setBits sh.pgstat.toNat 16 8 0) 6 2 0) }

/-- EINFO[63:32] of a vector fault (Table 10-1). -/
def vecInfo (member : Nat) (probe : Bool) (elem : Nat) : Nat :=
  2 ^ 63 + member % 8 * 2 ^ 60 + probe.toNat * 2 ^ 59 + elem % 2 ^ 18 * 2 ^ 32

/-- Trap entry (R117) with ESTAT.EH at 0: what is saved, where the shuttle goes. -/
def Shuttle.enterTrap (sh : Shuttle) (async : Bool) (cause : Nat) (ea ei epc : Word) : Shuttle :=
  let st := sh.estat.toNat
  let st := setBit st 0 (sh.priv == .s)
  let st := setBit st 2 (bit st 1)
  let st := setBit (setBit st 1 false) 3 true
  { sh.settled with
    estat := w64 st, epc := epc, ecause := w64 (cause + async.toNat * 2 ^ 63), eaddr := ea, einfo := ei,
    priv := .s, pc := sh.handler }

/-- Whether VSTART is 0 at the entry of a trap: where a convoy was open, and at ILLEGAL_CONVOY and probe faults, whose
convoy is done (R63, R219). -/
def endsConvoy (sh : Shuttle) (cause : Nat) (ei : Word) : Bool :=
  sh.convoy.isOpen || cause == cCONVOY || bits ei.toNat 59 1 == 1 && bits ei.toNat 63 1 == 1 && cause != cILLEGAL

/-! ## Waiting -/

/-- A blocking wait (R36, R38): the hardware convoy closes and the core gives its lanes back. Log entry 26, DEDUCED. -/
def blockingWait : M Unit := do
  closeHardware
  modify fun s => wantReturn s s.cur.place.core

/-- The shuttle as it begins or goes on waiting. A CTR.WAIT keeps what it has seen (R295); PGSTAT shows a parked access
and the requests it waits on (R338). -/
def Shuttle.startWait (sh : Shuttle) (w : Wait) : Shuttle :=
  let keep : Wait := match w, sh.status with
    | .counter i t m, .waiting (.counter _ _ m') => .counter i t (m || m')
    | w, _ => w
  let pg := sh.pgstat.toNat
  let pg := match w with
    | .page ids leaves => setBit (setBit (setBits pg 16 8 (min 255 ids.length)) 7 true) 6 (!leaves.isEmpty)
    | _ => pg
  { sh with status := .waiting keep, pgstat := w64 pg }

/-! ## Causes -/

/-- A double trap of the issuing shuttle (R118): its state is written and it is stopped. A miss of its context area parks the save,
and nothing else of the shuttle goes on. A fault of the save leaves the second cause as it was. Log entry 84, DESIGN CHOICE. -/
def doubleTrap (s : State) (cause : Nat) : State :=
  match saveContext false s with
  | .error (.wait w) s' =>
    { s' with cur := { ({ s.cur with missed := s'.cur.missed, found := s'.cur.found, pgstat := s'.cur.pgstat }.startWait w) with
        killed := some cause } }
  | .ok _ s' => killShuttle s' cause
  | .error _ s' => killShuttle s' cause

/-- The machine when the issuing shuttle has met a synchronous cause at its pc, or at `epc`: trap entry, or a double
trap (R118). -/
def takeCause (s : State) (cause : Nat) (ea ei epc : Word) : State :=
  let sh := s.cur
  let s := closeQueue s sh.place.core sh.uid
  if sh.eh then doubleTrap { s with cur := { sh.settled with pc := epc, convoy := {} } } cause
  else { s with cur := { sh with convoy := {} }.enterTrap false cause ea ei epc }

/-- The asynchronous cause that a shuttle would take (R119): ROLLBACK_NOTICE before EQ_THRESHOLD, with its EINFO. -/
def asyncCause (sh : Shuttle) : Option (Nat × Nat × Nat) :=
  if sh.prb then some (cROLLBACK, 7, sh.prbSeq.toNat)
  else if sh.peq then some (cEQ, 6, sh.eq.length)
  else none

/-- Whether a shuttle stands between instructions: none of its accesses is under way, and no convoy. -/
def Shuttle.between (sh : Shuttle) : Bool :=
  !sh.convoy.isOpen && sh.again.isNone && sh.requests.isEmpty && sh.missed.isEmpty && sh.found.isEmpty
/-- Whether a shuttle stands at a boundary at which an asynchronous cause may be taken: no open convoy, and either
ready or in one of the waits that R306 abandons. -/
def Shuttle.atBoundary (sh : Shuttle) : Bool :=
  sh.between && sh.stopping.isNone && sh.killed.isNone && (match sh.status with
    | .ready => true
    | .waiting (.counter ..) => true
    | .waiting (.bobbin _) => true
    | .waiting (.slot ..) => true
    | .waiting .quiet => true
    | _ => false)

/-- The asynchronous trap entry of the issuing shuttle, where R119 allows one (R119, R306), whatever ESTAT.EH is. Log entry 84, DESIGN
CHOICE. -/
def takeAsync (s : State) : State :=
  let sh := s.cur
  if sh.aie && sh.atBoundary then
    match asyncCause sh with
    | some (c, i, info) =>
      let s := closeQueue s sh.place.core sh.uid
      { s with cur := (sh.setEstat i false).enterTrap true c 0 (w64 info) sh.pc }
    | none => s
  else s

/-- The return from a trap (R139). A convoy to which it does not return is over. -/
def Shuttle.rett (sh : Shuttle) : Shuttle :=
  let st := sh.estat.toNat
  let kept := sh.kept.filter fun x => x.pc == sh.epc
  { sh.settled with
    kept := kept
    priv := if bit st 0 then .s else .u, estat := w64 (setBit (setBit st 1 (bit st 2)) 3 false), pc := sh.epc }

/-! ## Pre-emption -/

/-- The fields of a zone name (R271). -/
def nameChip (n : Word) : Nat := bits n.toNat 56 8
def nameCore (n : Word) : Nat := bits n.toNat 48 8

/-- Whether a copy in progress holds up the pre-emption of a shuttle (R265): its source or destination is the shuttle's
registers or its core's window, whoever issued it. -/
def copyHolds (s : State) (sh : Shuttle) : Bool :=
  let core := sh.place.core
  s.cmds.any fun c =>
    let own := c.uid == sh.uid && c.trdl.isNone && decide (2 ≤ c.form ∧ c.form ≤ 4)
    let aims := c.form == 4 && bits c.a.toNat 8 2 == core % 4 && c.core / 4 == core / 4 && bits c.a.toNat 5 3 == sh.place.slot
    let reads := c.form != 3 && c.form != 4 && c.core == core && inWindow c.b.toNat
    let writes := c.form != 2 && c.form != 4 && c.form != 7 && c.core == core && inWindow c.a.toNat
    let lands := c.form == 7 && nameChip c.a == s.chip && nameCore c.a == core
    own || aims || reads || writes || lands

/-- A shuttle with an open zone stays allocated on its core and slot while pre-empted (R276). -/
def staysInPlace (s : State) (sh : Shuttle) : Bool := s.zones.any fun (z : Zone) => z.uid == sh.uid

/-- A core that its last resident shuttle has left gives its clusters back (R38). -/
def leaveCore (s : State) (core : Nat) : State :=
  if s.resident.any fun sh => sh.live && sh.place.core == core then s else wantReturn s core

/-- Whether something holds up the pre-emption of a shuttle between its instructions: a copy (R265), a tile operation. -/
def State.heldUp (s : State) (sh : Shuttle) : Bool := copyHolds s sh || (s.core sh.place.core).matQueue.contains sh.uid
/-- Pre-emption of the issuing shuttle, which has no open convoy (R43, R44, R392): its state is written to its context
area and it leaves its slot, unless an open zone keeps it there. A miss of the context area parks the pre-emption, which stays
requested; any other fault ends the shuttle as a double trap does (R109). -/
def preempt (s : State) : State :=
  let sh := s.cur
  if s.heldUp sh then { s with cur := { sh with stopping := some .tiles } }
  else
  let stay := staysInPlace s sh
  let s := closeQueue s sh.place.core sh.uid
  match saveContext (!stay) s with
  | .error (.wait w) s' =>
    { s' with cur := { sh with missed := s'.cur.missed, found := s'.cur.found, pgstat := s'.cur.pgstat, stopping := some w } }
  | .error (.trap c _ _) s' => killShuttle { s' with cur := sh } c
  | .error _ _ => s
  | .ok _ s' =>
    let k := s'.core sh.place.core
    let s' := if sh.attached then
        if stay then s'.setCore sh.place.core { k with attached := none, claim := some sh.uid }
        else detachCore s' sh.place.core
      else s'
    let s' := if sh.attached && stay then arrangeRows s' (sh.place.core / 4) else s'
    let wait : Status := match sh.status with
      | .waiting (.counter i t m) => .waiting (.counter i t m)
      | _ => .ready
    let gone := { sh.settled with status := wait, since := s'.clock, inPlace := stay, stopping := none }
    leaveCore { s' with cur := sh.left, away := gone :: s'.away } sh.place.core

/-- The open convoy of the issuing shuttle has run over its whole VL: its stores are performed, and `k` goes on. -/
def finishConvoy (s : State) (k : State → State) : State :=
  afterCommit s s.cur.wholeVl s.cur.wholeVl fun s => k { s with cur := s.cur.closeConvoy }

/-- A pre-emption takes effect at the end of the open convoy of the issuing shuttle: the convoy is cut at B, or, where
B is VL, has finished (R43). -/
def preemptCut (s : State) : State :=
  let sh := s.cur
  let c := sh.convoy
  let b := c.stop (max (max c.committed (c.cut.getD 0)) sh.madeTo) sh.vl.toNat
  if sh.vl.toNat ≤ b then finishConvoy s preempt else cutAt s b b preempt

/-- The cause of a convoy that stops at an element without a trap, since a lane has failed there (R360). -/
def cLANE : Nat := 0
/-- The open convoy of the issuing shuttle is cut at the fault that it has met (R221): the trap is taken, unless a lane has failed
(R360); a pre-emption requested before that follows. -/
def strikeCut (s : State) (f : Pending) : State :=
  let c := s.cur.convoy
  cutAt s (c.boundary f.elem) f.elem fun s =>
    let s := if f.cause = cLANE then { s with cur := s.cur.settled }
      else takeCause s f.cause f.eaddr (w64 (vecInfo f.member false f.elem + f.einfo)) s.cur.pc
    if c.cut.isSome && s.cur.status == .ready then preempt s else s
/-- The machine when the instruction at the issuing shuttle's pc traps: a fault that its open convoy has met during
execution comes first, and cuts the convoy (R221), then a pre-emption requested while it was open; otherwise the members
before the instruction complete. -/
def takeTrap (s : State) (cause : Nat) (ea ei : Word) : State :=
  let sh := s.cur
  let c := sh.convoy
  match c.fault with
  | some f => strikeCut s f
  | none =>
    if c.isOpen && c.cut.isSome then preemptCut s
    else
      afterCommit s sh.wholeVl sh.wholeVl fun s =>
        let sh := s.cur
        let sh' := if endsConvoy sh cause ei then { sh with vstart := 0 } else sh
        takeCause { s with cur := sh'.closeConvoy } cause ea ei sh.pc

/-! ## Running an instruction -/

/-- The step that the body of an instruction makes. -/
def run (m : M Unit) (s : State) : Out :=
  match m s with
  | .ok _ s' => .next s'
  | .error (.trap c ea ei) s' => .next (takeTrap s' c ea ei)
  | .error (.wait w) s' => .next { s' with cur := s'.cur.startWait w }
  | .error .cut s' => .next (preemptCut s')
  | .error .again s' => .next s'

/-- The instruction is over; the next one stands at `pc`. -/
def goTo (pc : Word) : M Unit := onCur fun sh => { sh.settled with pc := pc }
/-- The shuttle once an instruction of `len` bytes is over: the next one follows it. -/
def Shuttle.advance (sh : Shuttle) (len : Nat) : Shuttle := { sh.settled with pc := sh.pc + w64 len }
def State.advance (s : State) (len : Nat) : State := { s with cur := s.cur.advance len }
/-- The instruction of `len` bytes is over. -/
def retire (len : Nat) : M Unit := modify (·.advance len)

/-- The open convoy's record of the scalar registers that its span reads and writes (R61). -/
def Shuttle.spanned (sh : Shuttle) (reads writes : Nat) : Shuttle :=
  if sh.convoy.isOpen then
    { sh with convoy := { sh.convoy with
      spanRead := sh.convoy.spanRead ||| reads, spanWrite := sh.convoy.spanWrite ||| writes } }
  else sh
def State.spanned (s : State) (reads writes : Nat) : State := { s with cur := s.cur.spanned reads writes }
/-- Whether a scalar instruction may not stand in the span of the open convoy (R61, R62). -/
def State.breaksSpan (s : State) (reads writes : Nat) : Bool :=
  s.cur.convoy.isOpen && spanBroken s.cur.convoy reads writes
/-- A scalar instruction in the span of an open convoy (R61, R62). -/
def inSpan (bits reads writes : Nat) : M Unit := do
  let s ← get
  if s.breaksSpan reads writes then trap cCONVOY (w64 bits) (w64 (7 * 2 ^ 60 + s.cur.convoy.count))
  else modify (·.spanned reads writes)

/-- A span-permitted scalar instruction: registers read, the destination, and its result from the shuttle. -/
def scalarOp (len bits reads : Nat) (d : SReg) (f : Shuttle → Word) : M Unit := do
  inSpan bits reads (sMask d)
  let s ← get
  writeReg d (f s.cur)
  retire len

/-- Privilege S is needed (R106): PRIVILEGE with the given EINFO at U. -/
def needS (bits info : Nat) : M Unit := do
  let s ← get
  if s.cur.priv = .u then trap cPRIVILEGE (w64 bits) (w64 info)

end Sys2Proof.Machine
end

