-- ==== Sys2Proof/Machine/Flags.lean ====
section
/-!
DEFINITION. Sys2Proof/Machine/Flags.lean: results with the flags they raise: floating-point operations (R122, R147, R199),
integer narrowing and saturation (R121, R164, R213), conversions (R171), compares (R206). Every result is an encoding and
the flags of Tables 6-4 and 7-4.
-/
namespace Sys2Proof.Machine

/-! ## Floating point -/

/-- x / y, with DZ. -/
def divOf (t rm : Nat) (x y : Num) : Nat × Nat :=
  let q := ndiv x y
  let r := fround t rm q.1
  (r.1, r.2 ||| q.2)
/-- minimumNumber and maximumNumber: an operand is returned unrounded; two NaNs give CanonNaN. -/
def minOf (t rm : Nat) (x y : Num) : Nat × Nat :=
  let q := nmin x y
  ((fround t rm q.1).1, q.2)
def maxOf (t rm : Nat) (x y : Num) : Nat × Nat :=
  let q := nmax x y
  ((fround t rm q.1).1, q.2)
/-- ±(x · y) ± c with one rounding; ∞ × 0 is invalid whatever c is (R148). -/
def fmaOf (t rm : Nat) (negP negA : Bool) (x y c : Num) : Nat × Nat :=
  let p := nmul x y
  let p := if negP then p.neg else p
  let c := if negA then c.neg else c
  fround t rm (nadd rm p c)

/-- A compare by number: 0 EQ, 1 NE, 2 LT, 3 LE, 4 GT, 5 GE. A NaN makes all but NE false; EQ and NE raise NV only for a
signalling one (R147, R206). -/
def cmpOf (cc : Nat) (x y : Num) : Nat × Nat :=
  if x.isNaN || y.isNaN then
    ((cc == 1).toNat, if cc ≤ 1 then (if x.isSig || y.isSig then fNV else 0) else fNV)
  else
    let r := match cc with
      | 0 => neq x y
      | 1 => !neq x y
      | 2 => nlt x y
      | 3 => nlt x y || neq x y
      | 4 => nlt y x
      | _ => nlt y x || neq x y
    (r.toNat, 0)

/-- FCVT.I64 and FCVT.N64 (R147): a NaN gives 0, a value out of range the nearest bound, each with NV. -/
def toInt64 (rm : Nat) (sgn : Bool) (x : Num) : Nat × Nat :=
  let lo : Int := if sgn then -(2 : Int) ^ 63 else 0
  let hi : Int := if sgn then 2 ^ 63 - 1 else 2 ^ 64 - 1
  match x with
  | .nan _ => (0, fNV)
  | .inf s => (wrapTo (if s then lo else hi) 64, fNV)
  | .num s n d =>
    let (i, nx) := roundInt rm s n d
    if i < lo then (wrapTo lo 64, fNV) else if hi < i then (wrapTo hi 64, fNV)
    else (wrapTo i 64, if nx then fNX else 0)

/-! ## Integers -/

/-- SatS and SatN (R121): the encoding and SAT. -/
def satS (x : Int) (n : Nat) : Nat × Nat :=
  let lo : Int := -(2 : Int) ^ (n - 1)
  let hi : Int := 2 ^ (n - 1) - 1
  if x < lo then (wrapTo lo n, fSAT) else if hi < x then (wrapTo hi n, fSAT) else (wrapTo x n, 0)
def satN (x : Int) (n : Nat) : Nat × Nat :=
  if x < 0 then (0, fSAT) else if (2 : Int) ^ n - 1 < x then (2 ^ n - 1, fSAT) else (wrapTo x n, 0)
/-- The saturation of a type's signedness. -/
def satT (t : Nat) (x : Int) : Nat × Nat := if isSignedInt t || isQ t then satS x (ebits t) else satN x (ebits t)
/-- R164: an exact integer result wraps, or saturates when VTYPE.SAT is 1. -/
def narrow (t : Nat) (sat : Bool) (x : Int) : Nat × Nat := if sat then satT t x else (wrapTo x (ebits t), 0)
/-- QFit (R213). -/
def qfit (t : Nat) (sat : Bool) (r : Int) : Nat × Nat :=
  if t = 0x10 then (if 0 ≤ r then 1 else 0, if r = 1 ∨ r = -1 then 0 else fSAT)
  else narrow t sat r

/-! ## Conversion (R171, Table 7-6) -/

/-- What rounds: a stochastic value, or the mode. -/
structure Rounding where
  rm : Nat
  sr : Option Nat
  sat : Bool
  deriving DecidableEq, Repr

/-- Convert(x, src, d, …): x has been read from type `src`, its scale applied; `d` is the destination type. -/
def convert (src d : Nat) (r : Rounding) (x : Num) : Nat × Nat :=
  if isFloat d then
    let (y, fl) := match r.sr with
      | some u => sround d r.rm u x
      | none => fround d r.rm x
    -- F8E4 and F4 give ±M at every overflow
    if r.sat && hasInf d && fl &&& fOF != 0 then (encodeMax d x.sign, fl ||| fSAT) else (y, fl)
  else if d = 0x10 then
    match x with
    | .nan _ => (1, fNV)
    | .inf s => (if s then 0 else 1, if isFloat src then fNX else fSAT)
    | .num s n e =>
      let one := decide (n = e)
      (if s && n != 0 then 0 else 1, if one then 0 else if isFloat src then fNX else fSAT)
  else
    let w := ebits d
    let sgn := isSignedInt d || isQ d
    let lo : Int := if sgn then -(2 : Int) ^ (w - 1) else 0
    let hi : Int := if sgn then 2 ^ (w - 1) - 1 else 2 ^ w - 1
    match x with
    | .nan _ => (0, fNV)
    | .inf s => (wrapTo (if s then lo else hi) w, fNV)
    | .num s n e =>
      if isFloat src || n % e != 0 then
        let (i, nx) := match r.sr with
          | some u => sroundInt u s n e
          | none => roundInt r.rm s n e
        if i < lo then (wrapTo lo w, fNV) else if hi < i then (wrapTo hi w, fNV)
        else (wrapTo i w, if nx then fNX else 0)
      else
        let i := signed s (n / e)
        if lo ≤ i ∧ i ≤ hi then (wrapTo i w, 0) else if r.sat then satT d i else (wrapTo i w, 0)

end Sys2Proof.Machine
end

