-- ==== Sys2Proof/Machine/Operands.lean ====
section
/-!
DEFINITION. Sys2Proof/Machine/Operands.lean: the operand forms of vector members: groups and their checks (R152, R194), the
field a of VV, VX and VI (R193), Val and Put with block scales (R157, R158), and the frame of a member: issue checks,
interlocks, its place in the convoy (R60 to R63, R264).
-/
namespace Sys2Proof.Machine

/-! ## Types -/

/-- The scale-eligible types (R157). -/
def scalable (t : Nat) : Bool := t == 0x08 || t == 0x09 || t == 0x0A || t == 0x00 || isQ t
/-- The elements of one element group (R43). -/
def perGroup (t : Nat) : Nat := if isQ t then 256 else 256 / ebits t
/-- The types of the majors (Table 9-1). -/
def vintType (t : Nat) : Bool := isInt t
def moveType (t : Nat) : Bool := isInt t || (isFloat t && t != 0x0A)
def vfpType (t : Nat) : Bool := decide (0x0B ≤ t ∧ t ≤ 0x0E)
/-- An integer encoding read in a type's signedness. -/
def intVal (t x : Nat) : Int := if isSignedInt t then sext x (ebits t) else (x : Int)

/-- REASON 2 where a condition fails. -/
def unless2 (c : Bool) : Option Nat := if c then none else some 2
/-- REASON 2 for a type that a major does not accept, or a scale-eligible one while VTYPE.SC is 1 (R194). -/
def typeBad (sh : Shuttle) (ok : Nat → Bool) : Option Nat :=
  unless2 (ok sh.ety && !(sh.sc && scalable sh.ety))

/-- ILLEGAL with the lowest REASON of those that hold, a feature that was not accepted being REASON 7 (R65). -/
def legal (ibits : Nat) (rs : List (Option Nat)) (feats : List Nat) : M Unit := do
  let s ← get
  match rs.foldl (fun (m : Option Nat) r => match m, r with
      | none, r => r
      | some x, none => some x
      | some x, some y => some (min x y)) none with
  | some r => illegal ibits r
  | none =>
    match feats.find? fun f => !s.feature s.cur.place.part f with
    | some f => noFeature ibits f
    | none => pure ()

/-! ## Field a (R193) -/

/-- The operand that field a names: a vector group, a scalar register, or an immediate, signed or not. -/
inductive Opnd where
  | v (n : VReg)
  | x (r : SReg)
  | i (k : BitVec 5) (signed : Bool)
  deriving DecidableEq, Repr

/-- Its encoding at element e as type t, and whether it is poisoned. -/
def Opnd.get (sh : Shuttle) (t e : Nat) : Opnd → Nat × Bool
  | .v n => (sh.elem n.val t e, sh.elemPois n.val t e)
  | .x r => (bits (sh.reg r).toNat 0 (ebits t), false)
  | .i k sg => (if sg then wrapTo (sext k.toNat 5) (ebits t) else k.toNat, false)
def Opnd.bad (sh : Shuttle) : Opnd → Option Nat
  | .v n => groupBad sh n.val sh.group
  | _ => none
def Opnd.vmask (g : Nat) : Opnd → Nat
  | .v n => regMask n.val g
  | _ => 0
def Opnd.smask : Opnd → Nat
  | .x r => sMask r
  | _ => 0

/-! ## Val and Put (R158) -/

/-- The factor of a scale byte applied to a value: NaN for 0xFF, else × 2^(±(s − 127)). -/
def scaleBy (s : Nat) (up : Bool) (x : Num) : Num :=
  if s = 0xFF then .nan false
  else match x with
    | .num g n d =>
      let k : Int := if up then (s : Int) - 127 else 127 - (s : Int)
      if 0 ≤ k then .num g (n * 2 ^ k.toNat) d else .num g n (d * 2 ^ (-k).toNat)
    | x => x

/-- Whether the group based at `n` of type `t` is scaled, and the scale register it pairs with; ⌊i / (32 × VLEN)⌋ is 0
for every element, since VL ≤ 8 × VLEN (R150, R157). -/
def Shuttle.scaled (sh : Shuttle) (t : Nat) : Bool := sh.sc && scalable t
def scaleBad (sh : Shuttle) (n t : Nat) : Option Nat :=
  if sh.scaled t ∧ sh.place.escl ≤ n / 4 then some 5 else none

/-- Val(n, i, t): the exact value and whether it depends on poison. -/
def Shuttle.val (sh : Shuttle) (n i t : Nat) : Num × Bool :=
  let x := vdecode t (sh.elem n t i)
  if sh.scaled t then
    (scaleBy (sh.scaleByte (n / 4) (i / 32)) true x, sh.elemPois n t i || sh.scalePois (n / 4) (i / 32))
  else (x, sh.elemPois n t i)
/-- The value that Put encodes: x divided by the destination's scale. -/
def Shuttle.unscale (sh : Shuttle) (n i t : Nat) (x : Num) : Num × Bool :=
  if sh.scaled t then (scaleBy (sh.scaleByte (n / 4) (i / 32)) false x, sh.scalePois (n / 4) (i / 32)) else (x, false)

/-! ## The frame of a member -/

/-- Whether a copy in progress interlocks with registers that an instruction reads or writes (R264): a reader or writer
of a group that CPY.MR or CPY.RR writes, a writer of a group that CPY.RM or CPY.RR still reads. -/
def State.interlocked (s : State) (sh : Shuttle) (rV wV : Nat) : Bool :=
  let span (c : Cmd) (n vlen : Nat) : Nat := regMask n (ceilDiv c.len vlen)
  s.cmds.any fun c =>
    let mine := c.uid == sh.uid && c.trdl.isNone
    let aims := c.form == 4 && bits c.a.toNat 8 2 == sh.place.core % 4 && c.core / 4 == sh.place.core / 4
      && bits c.a.toNat 5 3 == sh.place.slot
    (mine && c.form == 2 && ((rV ||| wV) &&& span c c.regA sh.vlen) != 0)
    || (aims && ((rV ||| wV) &&& span c (bits c.a.toNat 0 5) sh.vlen) != 0)
    || (mine && (c.form == 3 || c.form == 4) && (wV &&& span c c.regB sh.vlen) != 0)
def interlock (rV wV : Nat) : M Unit := do
  let s ← get
  if s.interlocked s.cur rV wV then park (.registers rV wV)

/-- What a vector member meets before it executes: its ILLEGAL checks, its place in the convoy, its queue, the copies that
interlock with it. -/
def startMember (ibits : Nat) (u : Uses) (checks : List (Option Nat)) (feats : List Nat) : M Unit := do
  legal ibits checks feats
  beginMember ibits u
  passProbe
  interlock u.rV u.wV
/-- What a vector member leaves beside its effect: its entry in the convoy and in the queue of its core; the next
instruction follows it. `before` is the shuttle before its effect. -/
def endMember (ibits : Nat) (u : Uses) (before : Shuttle) (tr : Trace) (s : State) : State :=
  (noteConvoy ibits (enterQueue { s with cur := logMember before s.cur u tr })).advance 4
/-- A vector member (R60): `body` is its effect, which answers what it leaves for the convoy. -/
def member (ibits : Nat) (u : Uses) (checks : List (Option Nat)) (feats : List Nat) (body : M Trace) : M Unit := do
  startMember ibits u checks feats
  let s ← get
  let tr ← body
  modify (endMember ibits u s.cur tr)

/-- POISON_CONSUMED of a consumer kind at an element of the member under way (R221, R359). -/
def poisonAt (sh : Shuttle) (e kind : Nat) (ea : Word) : Pending :=
  { elem := e, member := sh.position, cause := cPOISON, eaddr := ea, einfo := kind }

/-- The body of a member that writes one element of `d`, of type `t`, for each of the elements `es`, from the shuttle as
the elements before have left it: the encoding, the flags, and whether it is poisoned. -/
def writeElems (d t k : Nat) (es : Shuttle → List Nat) (f : Shuttle → Nat → Nat × Nat × Bool) : M Trace := do
  let s ← get
  let list := s.cur.below (es s.cur)
  let (sh, fls) := list.foldl (fun (r : Shuttle × List (Nat × Nat)) e =>
    let (v, fl, p) := f r.1 e
    let sh := r.1.putElem d t e v p
    if p then (sh, r.2) else (sh.raiseV fl, (e, fl) :: r.2)) (s.cur, [])
  onCur fun _ => sh
  return { k := k, code := t, base := d, wrote := list, flags := fls }

/-- The same of one predicate bit; `f` may find poison, which is consumed at that element (R195), and the bits below it stay written.
Log entry 83, DEDUCED. -/
def writePreds (q k : Nat) (es : List Nat) (f : Shuttle → Nat → Option (Bool × Nat)) : M Trace := do
  let s ← get
  let list := s.cur.below es
  let good := list.takeWhile fun e => (f s.cur e).isSome
  onCur fun sh =>
    let sh := good.foldl (fun x e =>
      match f s.cur e with
      | some (b, fl) => (x.setPbit q e b).raiseV fl
      | none => x) sh
    match list.drop good.length with
    | e :: _ => sh.meet (poisonAt s.cur e 4 0)
    | [] => sh
  return { k := k, wrote := good, flags := good.filterMap fun e => (f s.cur e).map fun x => (e, x.2) }

/-- The flags of a cross-element member, which are those of its last element. -/
def lastFlags (sh : Shuttle) (fl : Nat) : List (Nat × Nat) := [(sh.vl.toNat - 1, fl)]

end Sys2Proof.Machine
end

