-- ==== Sys2Proof/Machine/AcctI.lean ====
section
/-!
DEFINITION. Sys2Proof/Machine/AcctI.lean: the accounting instructions (R321 to R325).
-/
namespace Sys2Proof.Machine

/-- OWN_SET (R323). -/
def execOwnSet (d a : SReg) (s : State) : Out :=
  run (do
    needS (Bits.ownSet d a) 0
    endConvoy
    let s ← get
    let n := (s.reg a).toNat
    if 62 < n ∨ !s.ownerOf s.cur.place.part n then writeReg d (w64 (2 ^ 64 - 1))
    else
      onCur fun sh => { sh with owner := n }
      writeReg d (w64 s.cur.owner)
    retire 4) s
/-- A read of the accounting unit (R322, R325): `value` is none where the partition may not read it or the operand has a
bit outside its fields. With WAIT the read waits for the broadcast of the period of its issue clock. -/
def acctRead (ibits : Nat) (d : SReg) (b : Word) (refusal : Word) (value : State → Option Word) (s : State) : Out :=
  run (do
    legal ibits [] [16]
    endConvoy
    let s ← get
    match value s with
    | none => writeReg d refusal
    | some v =>
      if bit b.toNat 0 then
        let k := match s.cur.status with
          | .waiting (.settle k) => k
          | _ => s.clock / 4096
        if s.acct.broadcasts ≤ k then park (.settle k)
      writeReg d v
    retire 4) s

/-- Whether an owner is one of the issuing shuttle's partition. -/
def State.mine (s : State) (o : Nat) : Bool := s.ownerOf s.cur.place.part o
/-- A cell of the delay matrix as the latest broadcast gave it. -/
def State.cell (s : State) (v c : Nat) : Nat := tget 0 s.acct.dmSeen (64 * v + c)

/-- HARM_RD (R325). -/
def execHarmRd (d a b : SReg) (s : State) : Out :=
  let v := (s.reg a).toNat
  acctRead (Bits.harmRd d a b) d (s.reg b) (w64 (2 ^ 63)) (fun s =>
    if bits v 6 58 ≠ 0 ∨ !s.mine v then none else some (BitVec.ofInt 64 (tget 0 s.acct.hSeen v))) s
/-- DMX_RD (R325). -/
def execDmxRd (d a b : SReg) (s : State) : Out :=
  let x := (s.reg a).toNat
  let v := bits x 0 6
  let c := bits x 8 6
  acctRead (Bits.dmxRd d a b) d (s.reg b) (w64 (2 ^ 64 - 1)) (fun s =>
    if bits x 6 2 ≠ 0 ∨ bits x 14 50 ≠ 0 ∨ !s.mine v ∨ !(s.mine c || c == 63) then none
    else some (w64 (s.cell v c))) s
/-- DMX_AGG (R325). -/
def execDmxAgg (d a b : SReg) (s : State) : Out :=
  let x := (s.reg a).toNat
  let v := bits x 0 6
  acctRead (Bits.dmxAgg d a b) d (s.reg b) (w64 (2 ^ 64 - 1)) (fun s =>
    if bits x 6 10 ≠ 0 ∨ bits x 17 47 ≠ 0 ∨ !s.mine v then none
    else
      let foreign := (List.range 63).filter fun o => !s.mine o
      some (w64 ((foreign.map fun o => if bit x 16 then s.cell o v else s.cell v o).sum))) s
/-- ENE_RD (R325). Log entry 13, DESIGN CHOICE. -/
def execEneRd (d a b : SReg) (s : State) : Out :=
  let v := (s.reg a).toNat
  let k := bits (s.reg b).toNat 1 2
  acctRead (Bits.eneRd d a b) d (s.reg b) (w64 (2 ^ 64 - 1)) (fun s =>
    if bits v 6 58 ≠ 0 ∨ k = 3 ∨ !s.mine v then none
    else some (w64 (tget 0 s.acct.energySeen (4 * v + k) / 2 ^ 28))) s
end Sys2Proof.Machine
end

