-- ==== Sys2Proof/Machine/Room.lean ====
section
/-!
DEFINITION. Sys2Proof/Machine/Room.lean: the vector register file, scratchpad and slots of a core (R22, R30, R32), parked
lend children, and the checkpoint registers (R363, R366).
-/
namespace Sys2Proof.Machine

/-- The bytes of a core's vector register file. -/
def vrfBytes : Nat := 2 ^ 20
/-- A shuttle's slice (R22). -/
def Shuttle.sliceBytes (sh : Shuttle) : Nat := (sh.place.vregs + sh.place.escl) * sh.vlen

/-- The shuttles that hold room on a core: those in its slots, and the pre-empted ones that stay in place (R276) or
whose slot a lend child runs in (R33). -/
def State.holders (s : State) (core : Nat) : List Shuttle :=
  (s.resident.filter fun sh => sh.live && sh.place.core == core)
    ++ (s.away.filter fun sh => sh.inPlace && sh.place.core == core)
/-- What a core keeps for a parked child whose parent is not on it: the child of a pre-empted parent, or of one that has ended
(R32): bytes of vector register file, and a region. -/
def State.reserved (s : State) (core : Nat) : List (Nat × Nat × Nat) :=
  ((s.rooms.filter fun (r : Room) => r.core == core).map fun (r : Room) => (r.bytes, r.off, r.n))
    ++ (s.away.filter fun sh => !sh.inPlace && sh.place.core == core).filterMap fun sh =>
      sh.lend.map fun l => (sh.lendBytes, sh.lendOff, 256 * l.spad)
/-- Free bytes of vector register file: a lend child's slice is built from its parent's. -/
def State.vrfFree (s : State) (core : Nat) : Nat :=
  let hs := s.holders core
  let own (sh : Shuttle) : Nat :=
    match sh.lentFrom with
    | some p => match s.byUid p with
      | some par => sh.sliceBytes - (par.sliceBytes + par.lendBytes) + sh.lendBytes
      | none => sh.sliceBytes + sh.lendBytes
    | none => sh.sliceBytes + sh.lendBytes
  vrfBytes - (hs.map own).sum - ((s.reserved core).map (·.1)).sum

/-- The regions of a core's scratchpad that are taken, those reserved for lend children among them. -/
def State.regions (s : State) (core : Nat) : List (Nat × Nat) :=
  let own := (s.holders core).flatMap fun sh =>
    (sh.place.spadOff, 256 * sh.place.spad) :: (sh.lend.map fun l => (sh.lendOff, 256 * l.spad)).toList
  (own ++ (s.reserved core).map (·.2)).filter fun r => r.2 != 0
def fitsAt (rs : List (Nat × Nat)) (off n : Nat) : Bool :=
  decide (off + n ≤ spadBytes) && rs.all fun r => decide (off + n ≤ r.1 ∨ r.1 + r.2 ≤ off)
/-- The lowest free offset of a region of `n` bytes beside some that are taken (R30). -/
def lowestAt (rs : List (Nat × Nat)) (n : Nat) : Option Nat :=
  ((0 :: rs.map fun r => r.1 + r.2).filter fun off => fitsAt rs off n).foldl (fun b o => match b with
    | none => some o
    | some x => some (min x o)) none
def State.spadAt (s : State) (core n : Nat) : Option Nat := lowestAt (s.regions core) n

/-- LAUNCH.LEND of a valid record whose class queue is full (R32): the child is parked, or QUOTA. Log entry 36, DEDUCED. -/
def lendChild (s : State) (l : Launch) : Nat × State :=
  let sh := s.cur
  let core := sh.place.core
  let need := (l.vregs + l.escl) * 512 * 2 ^ l.vllo
  match s.spadAt core (256 * l.spad) with
  | some off =>
    if sh.lend.isNone && l.nshut == 1 && !l.weave && decide (need ≤ sh.sliceBytes + s.vrfFree core) then
      let (l, s) := acceptLaunch s l
      (2, { s with cur := { s.cur with lend := some l, lendBytes := need - sh.sliceBytes, lendOff := off } })
    else (1, s)
  | none => (1, s)

/-- IMG: the image's size in granules (R363). -/
def State.imgSize (s : State) (n : Nat) : Nat :=
  let p := s.part n
  let looms := popc p.looms 40
  1 + ceilDiv (p.ctxCount * 7832832) 65536 + 256 * looms + ceilDiv (8 * p.ccount) 65536 + ceilDiv (128 * p.tcount) 65536
    + looms + 2
/-- Whether `n` bytes may be a bank of partition `q`: HBM of this chip that no other partition holds and no stage-2 leaf of its own
maps (R363). Nothing is written to banks that may not: the obligation broken stays the partition's own (R2). Log entry 73, DEDUCED. -/
def State.bankRange (s : State) (q a n : Nat) : Bool :=
  let g (b : Nat) : Nat := groupOf (b % 2 ^ 44)
  decide (0 < n ∧ a / 2 ^ 44 = s.chip ∧ a % 2 ^ 44 + n ≤ hbmBytes)
    && ((List.range 48).all fun i => decide (i < g a ∨ g (a + n - 1) < i) || s.groupHolder i == q || s.groupHolder i == 16)
    && !(s.leaves2 q).any fun x => x.maps a n
/-- Whether both banks of a partition may be its banks. -/
def State.bankOk (s : State) (q : Nat) : Bool := s.bankRange q (s.part q).ckBase.toNat (2 * (s.part q).ckSize * 65536)
/-- Whether checkpoints are enabled (R363, R382). -/
def State.ckEnabled (s : State) (n : Nat) : Bool :=
  s.feature n 3 && decide (2 * s.imgSize n ≤ (s.part n).ckSize) && decide (n < 16) && s.bankOk n
/-- CKSTAT (Table 22-5). -/
def State.ckstat (s : State) (n : Nat) : Word :=
  let p := s.part n
  let log := match p.image with
    | some i => i.log.length
    | none => 0
  w64 ((s.ckEnabled n).toNat * 2 ^ 63 + p.ckBank % 2 * 2 ^ 62 + log % 2 ^ 12 * 2 ^ 32 + p.ckSeq % 2 ^ 32)

end Sys2Proof.Machine
end

