-- ==== Sys2Proof/Machine/Scalar.lean ====
section
/-!
DEFINITION. Sys2Proof/Machine/Scalar.lean: the integer instructions (R124 to R128) and the compressed forms that write a
register (R149).
-/
namespace Sys2Proof.Machine

/-- `op sd, sa, sb` (R124): the operation on the two operands. -/
def salu (bits : Nat) (d a b : SReg) (f : Word → Word → Word) (s : State) : Out :=
  run (scalarOp 4 bits (sMask a ||| sMask b) d fun sh => f (sh.reg a) (sh.reg b)) s
/-- `op sd, sa` with an immediate, or unary (R124 to R128). -/
def salui (bits : Nat) (d a : SReg) (f : Word → Word) (s : State) : Out :=
  run (scalarOp 4 bits (sMask a) d fun sh => f (sh.reg a)) s
/-- `op rg, sz` of two bytes (R149). -/
def csalu (bits : Nat) (d a b : SReg) (f : Word → Word → Word) (s : State) : Out :=
  run (scalarOp 2 bits (sMask a ||| sMask b) d fun sh => f (sh.reg a) (sh.reg b)) s
def csalui (bits : Nat) (d a : SReg) (f : Word → Word) (s : State) : Out :=
  run (scalarOp 2 bits (sMask a) d fun sh => f (sh.reg a)) s

/-! ## The operations (Table 6-9) -/

/-- The low six bits of a shift or rotate amount. -/
def amount (b : Word) : Nat := b.toNat % 64
def opShl (a b : Word) : Word := a <<< amount b
def opShr (a b : Word) : Word := a >>> amount b
def opSar (a b : Word) : Word := a.sshiftRight (amount b)
def opRol (a b : Word) : Word := a.rotateLeft (amount b)
def opRor (a b : Word) : Word := a.rotateRight (amount b)
def opSlt (a b : Word) : Word := if a.slt b then 1 else 0
def opSltn (a b : Word) : Word := if a.ult b then 1 else 0
def opMin (a b : Word) : Word := if b.slt a then b else a
def opMax (a b : Word) : Word := if a.slt b then b else a
def opMinn (a b : Word) : Word := if b.ult a then b else a
def opMaxn (a b : Word) : Word := if a.ult b then b else a
def opMulh (a b : Word) : Word := BitVec.ofInt 64 (a.toInt * b.toInt / 2 ^ 64)
def opMulhn (a b : Word) : Word := w64 (a.toNat * b.toNat / 2 ^ 64)
/-- The signed quotient rounded toward zero; b = 0 gives −1, and −2^63 / −1 wraps. -/
def opDiv (a b : Word) : Word := if b = 0 then BitVec.allOnes 64 else BitVec.ofInt 64 (a.toInt.tdiv b.toInt)
def opDivn (a b : Word) : Word := if b = 0 then BitVec.allOnes 64 else w64 (a.toNat / b.toNat)
def opRem (a b : Word) : Word := if b = 0 then a else BitVec.ofInt 64 (a.toInt.tmod b.toInt)
def opRemn (a b : Word) : Word := if b = 0 then a else w64 (a.toNat % b.toNat)
def opClz (a : Word) : Word := w64 (if a = 0 then 64 else 63 - Nat.log2 a.toNat)
def opCtz (a : Word) : Word := w64 (((List.range 64).find? fun i => bit a.toNat i).getD 64)
def opPopc (a : Word) : Word := w64 (popc a.toNat 64)
def opSext (a b : Word) : Word := sextW a.toNat (amount b + 1)
/-- SignExt(imm14, 14) as a register value (R125). -/
def imm14 (i : BitVec 14) : Word := i.signExtend 64
/-- imm19 << 14 (R127). -/
def imm19 (i : BitVec 19) : Word := i.signExtend 64 <<< 14
def opBext (p l : BitVec 6) (a : Word) : Word := w64 (bits a.toNat p.toNat (l.toNat + 1))
def opBextS (p l : BitVec 6) (a : Word) : Word := sextW (bits a.toNat p.toNat (l.toNat + 1)) (l.toNat + 1)
def opBins (p l : BitVec 6) (d a : Word) : Word := wordSet d p.toNat (l.toNat + 1) a.toNat
def imm6 (i : BitVec 6) : Word := i.signExtend 64

/-! ## SALU -/

/-- ADD (R124). -/
def execAdd (d a b : SReg) (s : State) : Out := salu (Bits.add d a b) d a b (· + ·) s

/-- SUB (R124). -/
def execSub (d a b : SReg) (s : State) : Out := salu (Bits.sub d a b) d a b (· - ·) s

/-- AND (R124). -/
def execAnd (d a b : SReg) (s : State) : Out := salu (Bits.and d a b) d a b (· &&& ·) s

/-- OR (R124). -/
def execOr (d a b : SReg) (s : State) : Out := salu (Bits.or d a b) d a b (· ||| ·) s

/-- XOR (R124). -/
def execXor (d a b : SReg) (s : State) : Out := salu (Bits.xor d a b) d a b (· ^^^ ·) s

/-- ANDN (R124). -/
def execAndn (d a b : SReg) (s : State) : Out := salu (Bits.andn d a b) d a b (fun x y => x &&& ~~~y) s

/-- ORN (R124). -/
def execOrn (d a b : SReg) (s : State) : Out := salu (Bits.orn d a b) d a b (fun x y => x ||| ~~~y) s

/-- SHL (R124). -/
def execShl (d a b : SReg) (s : State) : Out := salu (Bits.shl d a b) d a b opShl s

/-- SHR (R124). -/
def execShr (d a b : SReg) (s : State) : Out := salu (Bits.shr d a b) d a b opShr s

/-- SAR (R124). -/
def execSar (d a b : SReg) (s : State) : Out := salu (Bits.sar d a b) d a b opSar s

/-- ROL (R124). -/
def execRol (d a b : SReg) (s : State) : Out := salu (Bits.rol d a b) d a b opRol s

/-- ROR (R124). -/
def execRor (d a b : SReg) (s : State) : Out := salu (Bits.ror d a b) d a b opRor s

/-- SLT (R124). -/
def execSlt (d a b : SReg) (s : State) : Out := salu (Bits.slt d a b) d a b opSlt s

/-- SLTN (R124). -/
def execSltn (d a b : SReg) (s : State) : Out := salu (Bits.sltn d a b) d a b opSltn s

/-- MIN (R124). -/
def execMin (d a b : SReg) (s : State) : Out := salu (Bits.min d a b) d a b opMin s

/-- MAX (R124). -/
def execMax (d a b : SReg) (s : State) : Out := salu (Bits.max d a b) d a b opMax s

/-- MINN (R124). -/
def execMinn (d a b : SReg) (s : State) : Out := salu (Bits.minn d a b) d a b opMinn s

/-- MAXN (R124). -/
def execMaxn (d a b : SReg) (s : State) : Out := salu (Bits.maxn d a b) d a b opMaxn s

/-- MUL (R124). -/
def execMul (d a b : SReg) (s : State) : Out := salu (Bits.mul d a b) d a b (· * ·) s

/-- MULH (R124). -/
def execMulh (d a b : SReg) (s : State) : Out := salu (Bits.mulh d a b) d a b opMulh s

/-- MULHN (R124). -/
def execMulhn (d a b : SReg) (s : State) : Out := salu (Bits.mulhn d a b) d a b opMulhn s

/-- DIV (R124). -/
def execDiv (d a b : SReg) (s : State) : Out := salu (Bits.div d a b) d a b opDiv s

/-- DIVN (R124). -/
def execDivn (d a b : SReg) (s : State) : Out := salu (Bits.divn d a b) d a b opDivn s

/-- REM (R124). -/
def execRem (d a b : SReg) (s : State) : Out := salu (Bits.rem d a b) d a b opRem s

/-- REMN (R124). -/
def execRemn (d a b : SReg) (s : State) : Out := salu (Bits.remn d a b) d a b opRemn s

/-- SEXT (R124). -/
def execSext (d a b : SReg) (s : State) : Out := salu (Bits.sext d a b) d a b opSext s

/-- CLZ (R124). -/
def execClz (d a : SReg) (s : State) : Out := salui (Bits.clz d a) d a opClz s

/-- CTZ (R124). -/
def execCtz (d a : SReg) (s : State) : Out := salui (Bits.ctz d a) d a opCtz s

/-- POPC (R124). -/
def execPopc (d a : SReg) (s : State) : Out := salui (Bits.popc d a) d a opPopc s

/-! ## Immediates, bit fields (R125 to R128) -/

/-- ADDI (R125). -/
def execAddi (d a : SReg) (i : BitVec 14) (s : State) : Out := salui (Bits.addi d a i) d a (· + imm14 i) s

/-- ANDI (R125). -/
def execAndi (d a : SReg) (i : BitVec 14) (s : State) : Out := salui (Bits.andi d a i) d a (· &&& imm14 i) s

/-- ORI (R125). -/
def execOri (d a : SReg) (i : BitVec 14) (s : State) : Out := salui (Bits.ori d a i) d a (· ||| imm14 i) s

/-- XORI (R125). -/
def execXori (d a : SReg) (i : BitVec 14) (s : State) : Out := salui (Bits.xori d a i) d a (· ^^^ imm14 i) s

/-- SLTI (R125). -/
def execSlti (d a : SReg) (i : BitVec 14) (s : State) : Out := salui (Bits.slti d a i) d a (opSlt · (imm14 i)) s

/-- SLTNI (R125). -/
def execSltni (d a : SReg) (i : BitVec 14) (s : State) : Out := salui (Bits.sltni d a i) d a (opSltn · (imm14 i)) s

/-- SHLI (R126). -/
def execShli (d a : SReg) (n : BitVec 6) (s : State) : Out := salui (Bits.shli d a n) d a (opShl · (n.setWidth 64)) s

/-- SHRI (R126). -/
def execShri (d a : SReg) (n : BitVec 6) (s : State) : Out := salui (Bits.shri d a n) d a (opShr · (n.setWidth 64)) s

/-- SARI (R126). -/
def execSari (d a : SReg) (n : BitVec 6) (s : State) : Out := salui (Bits.sari d a n) d a (opSar · (n.setWidth 64)) s

/-- BEXT (R128). -/
def execBext (d a : SReg) (p l : BitVec 6) (s : State) : Out := salui (Bits.bext d a p l) d a (opBext p l) s

/-- BEXT_S (R128). -/
def execBextS (d a : SReg) (p l : BitVec 6) (s : State) : Out := salui (Bits.bextS d a p l) d a (opBextS p l) s

/-- LUI (R127). -/
def execLui (d : SReg) (i : BitVec 19) (s : State) : Out := run (scalarOp 4 (Bits.lui d i) 0 d fun _ => imm19 i) s

/-- ADPC (R127). -/
def execAdpc (d : SReg) (i : BitVec 19) (s : State) : Out :=
  run (scalarOp 4 (Bits.adpc d i) 0 d fun sh => sh.pc + imm19 i) s

/-- BINS (R128). It reads sd before it writes it. -/
def execBins (d a : SReg) (p l : BitVec 6) (s : State) : Out := salu (Bits.bins d a p l) d d a (opBins p l) s

/-! ## Compressed (R59, R149) -/

/-- C_ADDI (R149). -/
def execCAddi (r : SReg) (i : BitVec 6) (s : State) : Out := csalui (Bits.cAddi r i) r r (· + imm6 i) s

/-- C_SHLI (R149). -/
def execCShli (r : SReg) (n : BitVec 6) (s : State) : Out := csalui (Bits.cShli r n) r r (opShl · (n.setWidth 64)) s

/-- C_SHRI (R149). -/
def execCShri (r : SReg) (n : BitVec 6) (s : State) : Out := csalui (Bits.cShri r n) r r (opShr · (n.setWidth 64)) s

/-- C_LI (R149). -/
def execCLi (r : SReg) (i : BitVec 6) (s : State) : Out := csalui (Bits.cLi r i) r 0 (· + imm6 i) s

/-- C_MOV (R149). -/
def execCMov (r s_ : SReg) (s : State) : Out := csalui (Bits.cMov r s_) r s_ (· + 0) s

/-- C_ADD (R149). -/
def execCAdd (r s_ : SReg) (s : State) : Out := csalu (Bits.cAdd r s_) r r s_ (· + ·) s

/-- C_SUB (R149). -/
def execCSub (r s_ : SReg) (s : State) : Out := csalu (Bits.cSub r s_) r r s_ (· - ·) s

/-- C_AND (R149). -/
def execCAnd (r s_ : SReg) (s : State) : Out := csalu (Bits.cAnd r s_) r r s_ (· &&& ·) s

/-- C_NOP (R149). -/
def execCNop (s : State) : Out := run (retire 2) s

end Sys2Proof.Machine
end

