-- ==== Sys2Proof/Machine/Control.lean ====
section
/-!
DEFINITION. Sys2Proof/Machine/Control.lean: branches and jumps (R132 to R134), fences (R137), the system instructions (R138
to R144), launches (R145).
-/
namespace Sys2Proof.Machine

/-! ## Branches and jumps -/

/-- The target `o` parcels away (R51). -/
def State.target {n : Nat} (s : State) (o : BitVec n) : Word := s.cur.pc + (o.signExtend 64 <<< 1)

/-- A conditional branch of `len` bytes (R132): it ends the open convoy and closes the hardware convoy. -/
def branch {n : Nat} (len : Nat) (a b : SReg) (o : BitVec n) (c : Word → Word → Bool) (s : State) : Out :=
  run (do
    endConvoy
    closeHardware
    let s ← get
    if c (s.reg a) (s.reg b) then goTo (s.target o) else retire len) s

/-- A jump to `o` parcels away, which writes the address after it to `d` (R133). -/
def jump {n : Nat} (d : SReg) (o : BitVec n) (s : State) : Out :=
  run (do
    endConvoy
    let s ← get
    writeReg d (s.cur.pc + 4)
    goTo (s.target o)) s

/-- A jump to the address in a register (R134): read before any write; an odd one traps. -/
def jumpReg (len : Nat) (d a : SReg) (s : State) : Out :=
  run (do
    endConvoy
    let s ← get
    let t := s.reg a
    if t.toNat % 2 = 1 then trap cMISALIGNED t 3
    closeHardware
    writeReg d (s.cur.pc + w64 len)
    goTo t) s

/-- BEQ (R132). -/
def execBeq (a b : SReg) (o : BitVec 14) (s : State) : Out := branch 4 a b o (· == ·) s

/-- BNE (R132). -/
def execBne (a b : SReg) (o : BitVec 14) (s : State) : Out := branch 4 a b o (· != ·) s

/-- BLT (R132). -/
def execBlt (a b : SReg) (o : BitVec 14) (s : State) : Out := branch 4 a b o BitVec.slt s

/-- BGE (R132). -/
def execBge (a b : SReg) (o : BitVec 14) (s : State) : Out := branch 4 a b o (fun x y => !x.slt y) s

/-- BLTN (R132). -/
def execBltn (a b : SReg) (o : BitVec 14) (s : State) : Out := branch 4 a b o BitVec.ult s

/-- BGEN (R132). -/
def execBgen (a b : SReg) (o : BitVec 14) (s : State) : Out := branch 4 a b o (fun x y => !x.ult y) s

/-- JMP (R133). -/
def execJmp (o : BitVec 24) (s : State) : Out := jump 0 o s

/-- CALL (R133). -/
def execCall (o : BitVec 24) (s : State) : Out := jump 1 o s

/-- JR (R134). -/
def execJr (a : SReg) (s : State) : Out := jumpReg 4 0 a s

/-- CALLR (R134). -/
def execCallr (d a : SReg) (s : State) : Out := jumpReg 4 d a s

/-- C_BEQZ (R149). -/
def execCBeqz (r : SReg) (o : BitVec 6) (s : State) : Out := branch 2 r 0 o (· == ·) s

/-- C_BNEZ (R149). -/
def execCBnez (r : SReg) (o : BitVec 6) (s : State) : Out := branch 2 r 0 o (· != ·) s

/-- C_J (R149). -/
def execCJ (o : BitVec 11) (s : State) : Out := jump 0 o s

/-- C_JR (R149). -/
def execCJr (r : SReg) (s : State) : Out := jumpReg 2 0 r s

/-! ## Fences -/

/-- The agents of a fence's sets (Table 5-4): the scalar unit, the vector unit with the matrix unit, whose accesses count as vector
accesses, or all with the counters (R96). -/
def fenceAgents (vec sca : Bool) : Nat :=
  if vec && sca then agAll else if vec then agVector + agMatrix else agScalar

/-- FENCE (R137): at PART and SYS scope it waits for the posted requests of its earlier set (R97); then its earlier set
is ordered before its later set; FENCE.ALL of any scope orders stores before fetch (R120). A capped function demotes SYS
scope (R103). -/
def fenceOp (scope kind : Nat) (s : State) : Out :=
  run (do
    endConvoy
    let early := fenceAgents (kind != 0) (kind == 0 || kind == 3)
    if 3 ≤ scope then waitPosted early
    demote 0 (scope == 4)
    modify fun s => s.fence early (fenceAgents (kind != 1) (kind == 1 || kind == 3)) (scopeDom scope s.cur.place.core)
    if kind = 3 then modify (·.fenceFetch)
    retire 4) s

/-- FENCE (R137). -/
def execFence (s_ : Fin 8) (k : Fin 4) (s : State) : Out := fenceOp s_.val k.val s

/-! ## System -/

/-- TRAP (R138). -/
def execTrap (a : SReg) (s : State) : Out :=
  run (do
    endConvoy
    let s ← get
    Machine.trap cTRAP 0 (s.reg a)) s

/-- RETT (R139). -/
def execRett (s : State) : Out :=
  run (do
    needS Bits.rett 0
    endConvoy
    let s ← get
    if s.cur.epc.toNat % 2 = 1 then Machine.trap cMISALIGNED s.cur.epc 3
    closeHardware
    onCur Shuttle.rett) s

/-- The number of the capture that a CKPT has waited for, once that is the last or an earlier one (R369). -/
def Shuttle.captureOver (sh : Shuttle) (last : Nat) : Option Nat :=
  match sh.status with
  | .waiting (.capture k) => if k ≤ last then some k else none
  | _ => none
/-- CKPT (R140). -/
def execCkpt (d : SReg) (s : State) : Out :=
  run (do
    endConvoy
    let s ← get
    let n := s.cur.place.part
    match s.cur.captureOver (s.part n).ckSeq with
    | some k =>
      writeReg d (w64 k)
      retire 4
    | none =>
      if !s.ckEnabled n then
        writeReg d 0
        retire 4
      else
        set (s.setPart n { s.part n with capturing := true })
        park (.capture ((s.part n).ckSeq + 1))) s

/-- EXIT (R141). What follows happens when its end takes effect: SHUTTLE_END. -/
def execExit (s : State) : Out :=
  run (do
    endConvoy
    closeHardware
    onCur fun sh => { sh.settled with status := .ending }) s

/-- The other shuttles of the issuing shuttle's core that may issue. -/
def State.readyPeers (s : State) : List Nat :=
  (s.others.filter fun sh => sh.place.core == s.cur.place.core && sh.status == .ready).map (·.shid)

/-- YIELD (R142). -/
def execYield (s : State) : Out :=
  run (do
    endConvoy
    let s ← get
    match s.cur.status with
    | .waiting (.others _) => retire 4
    | _ =>
      blockingWait
      if s.readyPeers.isEmpty then retire 4 else park (.others s.readyPeers)) s

/-- SLOOP (R143). -/
def execSloop (a : SReg) (s : State) : Out :=
  run (do
    endConvoy
    let s ← get
    if !s.cur.place.weave then onCur fun sh => { sh with srem := s.reg a, strip := 0 }
    retire 4) s

/-- The SNEXT step (R41, R144): SREM falls by the elements done; a weave draws the next strip when none is left. -/
def snextOp (o : BitVec 24) : M Unit := do
  endConvoy
  closeHardware
  let s ← get
  let sh := s.cur
  let rem := sh.srem.toNat - min sh.vl.toNat sh.srem.toNat
  if !sh.place.weave then
    onCur fun sh => { sh with srem := w64 rem, strip := sh.strip + 1 }
    if rem ≠ 0 then goTo (s.target o) else retire 4
  else if rem ≠ 0 then
    onCur fun sh => { sh with srem := w64 rem }
    goTo (s.target o)
  else
    let c := sh.place.disp
    if s.counterHolder c ≠ sh.place.part then trap cACCESS (w64 c) 6
    let old := (s.counter c).toNat
    modify fun s =>
      let s := counterAdd s c 1
      { s with cur := s.cur.sawCounter s.now }
    let len := sh.place.strlm1 + 1
    if old < ceilDiv sh.place.total len then
      onCur fun sh => { sh with strip := w64 old, srem := w64 (min len (sh.place.total - old * len)) }
      goTo (s.target o)
    else
      onCur fun sh => { sh with srem := 0 }
      retire 4

/-- SNEXT (R144). -/
def execSnext (o : BitVec 24) (s : State) : Out := run (snextOp o) s

/-! ## Launch -/

/-- The 64-byte record at an address (R145), read as one access of the scalar agent. -/
def loadRecord (a : Word) : M Nat := do
  if a.toNat % 64 ≠ 0 then trap cMISALIGNED a 0
  let p ← translate a.toNat 0
  match p.remote with
  | some c => ask { peer := c, op := .load, addrs := [(p.key, 64)], data := [], va := a }
  | none =>
    let x ← loadPlace agScalar p 64
    if x.pois then trap cPOISON a 1
    return x.v

/-- What LAUNCH and LAUNCH.LEND do with a valid record: the status of Table 2-2 and the state. -/
def State.enqueued (s : State) (lend : Bool) (l : Launch) : Nat × State :=
  let (st, s') := launchNow s l
  if lend && st == 1 then lendChild s l else (st, s')
/-- LAUNCH and LAUNCH.LEND (R145): the status of Table 2-2. An acceptance is a release at PART scope (R27). -/
def launchOp (lend : Bool) (d a : SReg) (s : State) : Out :=
  run (do
    endConvoy
    let s ← get
    let r ← loadRecord (s.reg a)
    let s ← get
    match parseLaunch s s.cur.place.part r with
    | none => writeReg d 3
    | some l =>
      if (s.enqueued lend l).1 != 1 then releaseAll
      let (st, s) := (← get).enqueued lend l
      set s
      writeReg d (w64 st)
    retire 4) s

/-- LAUNCH (R145). -/
def execLaunch (d a : SReg) (s : State) : Out := launchOp false d a s

/-- LAUNCH_LEND (R32). -/
def execLaunchLend (d a : SReg) (s : State) : Out := launchOp true d a s

/-- ILLEGAL_ENCODING (R64). An encoding of `len` bytes that is no listed instruction: ILLEGAL with the REASON that the
tables give. -/
def execIllegalEncoding (_len bits reason : Nat) (s : State) : Out := run (illegal bits reason) s

end Sys2Proof.Machine
end

