-- ==== Sys2Proof/Machine/Bobbins.lean ====
section
/-!
DEFINITION. Sys2Proof/Machine/Bobbins.lean: the three views of a bobbin (R263), its status word (Table 14-4), and what
chains behind it (R264).
-/
namespace Sys2Proof.Machine

/-- The number of ones at the bottom of `x`. -/
def trailingOnes (x : Nat) : Nat := Nat.log2 ((x + 1) - (x &&& (x + 1)))

/-- PREFIX. -/
def Bobbin.prefixLen (b : Bobbin) : Nat := min b.len (trailingOnes b.written)
/-- CS. Log entry 30, DEDUCED. -/
def Bobbin.chunk (b : Bobbin) : Nat := max 32 (pow2Up (ceilDiv b.len 64))
/-- Bit j of MASK. -/
def Bobbin.chunkDone (b : Bobbin) (j : Nat) : Bool :=
  let lo := j * b.chunk
  let n := min (lo + b.chunk) b.len - lo
  decide (lo < b.len) && bits b.written lo n == 2 ^ n - 1
/-- MASK. -/
def Bobbin.mask (b : Bobbin) : Nat :=
  (List.range 64).foldl (fun m j => if b.chunkDone j then m + 2 ^ j else m) 0
/-- ARR_n: the lowest window offset of bank n within the destination that has not been written, or the end of the bank's
part; 0 where the bank holds no part of it. -/
def Bobbin.arr (b : Bobbin) (n : Nat) : Nat :=
  match b.win with
  | none => 0
  | some w =>
    let lo := max w (n * 65536)
    let hi := min (w + b.dst) ((n + 1) * 65536)
    if hi ≤ lo then 0
    else if b.dst < b.len then (if b.written = 0 then lo else hi)
    else lo + min (hi - lo) (trailingOnes (bits b.written (lo - w) (hi - lo)))

/-- The state code of Table 14-4. -/
def bobCode : BobSt → Nat
  | .idle => 0
  | .busy => 1
  | .done => 2
  | .failed => 3
/-- The status word (Table 14-4). -/
def Bobbin.status (b : Bobbin) : Nat :=
  bobCode b.st * 2 ^ 62 + b.form % 8 * 2 ^ 59 + b.fcause % 256 * 2 ^ 48 + b.fflg % 32 * 2 ^ 40 + b.prefixLen % 2 ^ 25

/-- Whether a vector load of `n` bytes from a window offset waits behind the arrival pointers of a copy (R264). -/
def Bobbin.holds (b : Bobbin) (off n : Nat) : Bool :=
  match b.win with
  | none => false
  | some w =>
    b.st == .busy && (List.range n).any fun i =>
      decide (w ≤ off + i ∧ off + i < w + b.dst ∧ b.arr ((off + i) / 65536) ≤ off + i)
/-- Whether `n` bytes from a window offset are among those that the copy writes. -/
def Bobbin.lands (b : Bobbin) (off n : Nat) : Bool :=
  match b.win with
  | none => false
  | some w => decide (w < off + n ∧ off < w + b.dst)
/-- Whether one of the shuttle's own copies holds a vector load. -/
def Shuttle.chained (sh : Shuttle) (off n : Nat) : Bool := sh.bobbins.toList.any fun b => b.holds off n

/-! ## Acquires (R98, R263) -/

/-- An acquire of the updates that report some runs of a copy's destination, by the issuing shuttle: what was ordered before the
command's issue, and the stores of exactly those runs (R101, R267). Log entry 80, DESIGN CHOICE. -/
def State.acquireRuns (s : State) (b : Bobbin) (runs : List Landing) : State :=
  if runs.isEmpty then s
  else
    let mine (r : Store) : Bool := r.src == cmdSrc b.cmd && runs.any fun l => decide (l.from_ < r.t ∧ r.t ≤ l.upTo)
    { s with
      cur := s.cur.after 7 b.issued
      stores := s.stores.map fun r => if mine r then { r with seen := (s.cur.uid, 7) :: r.seen } else r }
/-- The runs of a copy's destination that hold one of `n` bytes from byte `lo` on. -/
def Bobbin.runsIn (b : Bobbin) (lo n : Nat) : List Landing :=
  b.landings.filter fun l => decide (l.lo < lo + n ∧ lo < l.lo + l.n)
/-- The runs that hold one of `n` bytes from a window offset on. -/
def Bobbin.runsAt (b : Bobbin) (off n : Nat) : List Landing :=
  match b.win with
  | none => []
  | some w => b.landings.filter fun l => decide (w + l.lo < off + n ∧ off < w + l.lo + l.n)

end Sys2Proof.Machine
end

