-- ==== Sys2Proof/Machine/VSet.lean ====
section
/-!
DEFINITION. Sys2Proof/Machine/VSet.lean: VSETL, VSETT and VSETB (R169, R170, R270), VCTX.SV and VCTX.RS (R226).
-/
namespace Sys2Proof.Machine

/-- What VSETL and VSETT do with a VTYPE value that has passed R155: VL is trimmed to the new VLMAX, VSTART is 0, and the
core makes the request of R37. -/
def setLength (v : Word) (d : SReg) (req : Nat) : M Unit := do
  endConvoy
  onCur fun sh =>
    let sh := { sh with vtype := v, vstart := 0 }
    let vl := w64 (min req sh.vlmax)
    { sh with vl := vl }.wr d vl
  modify fun s => heddle s s.cur.place.core (clusterRequest s.cur.vl.toNat (ebits s.cur.ety))
  retire 4
/-- ILLEGAL of a VTYPE value (R155). -/
def legalVtype (ibits v : Nat) : M Unit := do
  let s ← get
  match vtypeBad s s.cur.place.part v with
  | some (7, f) => noFeature ibits f
  | some (r, _) => illegal ibits r
  | none => pure ()

/-- VSETL (R169). -/
def execVsetl (d a : SReg) (i : BitVec 14) (s : State) : Out :=
  run (do
    let s ← get
    let v := wordSet s.cur.vtype 0 14 i.toNat
    legalVtype (Bits.vsetl d a i) v.toNat
    setLength v d (if a = 0 then s.cur.srem else s.reg a).toNat) s

/-- VSETT (R170). -/
def execVsett (d a b : SReg) (s : State) : Out :=
  run (do
    let s ← get
    let v := s.reg b
    legalVtype (Bits.vsett d a b) v.toNat
    setLength v d (if a = 0 then s.cur.srem else s.reg a).toNat) s

/-- BOBBIN with a reason (R253). -/
def bobTrap {α : Type} (n : Nat) (fcause reason : Nat) : M α := trap cBOBBIN 0 (w64 (fcause * 2 ^ 16 + n * 2 ^ 8 + reason))
/-- The bobbin of a number. -/
def Shuttle.bob (sh : Shuttle) (n : Bob) : Bobbin := sh.bobbins[n]

/-- VSETB (R270). -/
def execVsetb (d : SReg) (n : Bob) (b : SReg) (s : State) : Out :=
  run (do
    endConvoy
    let s ← get
    let sh := s.cur
    let x := sh.bob n
    let k := 8 * (x.prefixLen - (s.reg b).toNat) / ebits sh.ety
    if x.st == .idle then bobTrap n.val 0 4
    if k = 0 ∧ x.st = .busy then park (.arrival n.val x.prefixLen)
    if x.st = .failed ∧ k = 0 then bobTrap n.val x.fcause 3
    let vl := w64 (min sh.vl.toNat k)
    set (s.acquireRuns x (x.runsIn 0 x.prefixLen))
    onCur fun sh => { sh with vl := vl }.wr d vl
    retire 4) s

/-- Where a VCTX section stands: through CTXPTR, or at a virtual address; whether it is the home section. -/
def sectionOf (s : State) (a : SReg) : Route × Word × Bool :=
  let sh := s.cur
  if a = 0 then
    let v := sh.ctxptr + 1024
    (.gpa, v, sh.homeIsCtx && sh.homeBase == v)
  else
    let v := s.reg a
    (.va, v, !sh.homeIsCtx && sh.homeBase == v)
/-- VCTX waits until the shuttle's matrix instructions have completed and no copy reads or writes its registers. -/
def quiet : M Unit := do
  waitTiles
  interlock (2 ^ 32 - 1) (2 ^ 32 - 1)

/-- VCTX_SV (R226). -/
def execVctxSv (a : SReg) (s : State) : Out :=
  run (do
    endConvoy
    quiet
    let s ← get
    let (r, v, home) := sectionOf s a
    if v.toNat % 256 ≠ 0 then trap cMISALIGNED v 1
    saveVector r true agVector v.toNat home
    retire 4) s

/-- VCTX_RS (R226). -/
def execVctxRs (a : SReg) (s : State) : Out :=
  run (do
    endConvoy
    quiet
    let s ← get
    let (r, v, _) := sectionOf s a
    if v.toNat % 256 ≠ 0 then trap cMISALIGNED v 0
    restoreVector r agVector v.toNat fun x => if x.1 = 7 then noFeature (Bits.vctxRs a) x.2 else illegal (Bits.vctxRs a) x.1
    onCur fun sh => { sh with homeIsCtx := a == 0, homeBase := v }
    retire 4) s

end Sys2Proof.Machine
end

