-- ==== Sys2Proof/Machine/Copy.lean ====
section
/-!
DEFINITION. Sys2Proof/Machine/Copy.lean: the issue of copy commands (R250 to R260) and the bobbin instructions (R266 to
R269).
-/
namespace Sys2Proof.Machine

/-! ## CPCTL (Table 14-1) -/

def cpFold (c : Word) : Nat := bits c.toNat 0 3
def cpCen (c : Word) : Bool := bit c.toNat 7
def cpFtype (c : Word) : Nat := bits c.toNat 8 5
def cpFrm (c : Word) : Nat := bits c.toNat 16 2
def cpRowlg (c : Word) : Nat := bits c.toNat 24 4
def cpCtr (c : Word) : Nat := bits c.toNat 32 16
/-- The fold types. -/
def foldType (t : Nat) : Bool := isInt t || vfpType t

/-! ## The operands of a copy (Table 14-2) -/

/-- What a CPY captures beside CPCTL: its form, the values a, b and c, the register fields sa, sb and sc. -/
structure CopyIn where
  form : Nat
  a : Word
  b : Word
  c : Word
  fa : Nat
  fb : Nat
  fc : Nat
  deriving DecidableEq, Repr

/-- The length of the command. -/
def CopyIn.len (x : CopyIn) (sh : Shuttle) : Nat :=
  if x.form = 6 then sh.vl.toNat * 2 ^ cpRowlg sh.cpctl else x.c.toNat
/-- The size of the destination: one element for FOLD 4 and 5. -/
def destLen (fold ftype len : Nat) : Nat := if 4 ≤ fold then ebits ftype / 8 else len
/-- Whether two ranges share a byte. -/
def rangesMeet (a n b m : Nat) : Bool := decide (0 < n ∧ 0 < m ∧ a < b + m ∧ b < a + n)
/-- The address of a row of CPY.GS. -/
def rowAddr (b : Word) (lg i : Nat) : Nat := (b.toNat + i * 2 ^ lg) % 2 ^ 64

/-- The REASON of a register group of a copy of `len` bytes (R152, R255): of its ⌈len ÷ VLEN⌉ registers, at least one. -/
def copyGroup (sh : Shuttle) (base len : Nat) : Option Nat :=
  let n := max 1 (ceilDiv len sh.vlen)
  if base % pow2Up n ≠ 0 then some 2 else if sh.place.vregs < base + n then some 5 else none
/-- The ILLEGAL checks of the form. -/
def CopyIn.groupBad (x : CopyIn) (sh : Shuttle) : Option Nat :=
  match x.form with
  | 2 => copyGroup sh x.fa x.c.toNat
  | 3 => copyGroup sh x.fb x.c.toNat
  | 4 => copyGroup sh x.fb x.c.toNat
  | 6 => Machine.groupBad sh x.fc (grpOf sh.vlen 0x06 sh.vl.toNat)
  | _ => none

/-- Whether the length breaks Table 14-2. -/
def CopyIn.lenBad (x : CopyIn) (sh : Shuttle) : Bool :=
  let len := x.len sh
  match x.form with
  | 6 => decide (cpRowlg sh.cpctl < 3 ∨ 2 ^ 24 < len)
  | 7 => decide (len = 0 ∨ 2 ^ 24 < len)
  | 2 | 3 | 4 => len % 32 != 0 || decide (8 * sh.vlen < len)
  | _ => decide (2 ^ 24 < len)
/-- Whether CPCTL names a fold that the form does not allow, a fold code or fold type that is not listed, or the operands of a
fold are not multiples of n. -/
def CopyIn.foldBad (x : CopyIn) (sh : Shuttle) : Bool :=
  let f := cpFold sh.cpctl
  let t := cpFtype sh.cpctl
  let n := ebits t / 8
  !foldType t || f != 0 && (decide (5 < f) || x.form == 2 || x.form == 3 || x.form == 4 || x.form == 6
    || x.a.toNat % n != 0 || x.b.toNat % n != 0 || x.c.toNat % n != 0)
/-- The ranges that the form reads or writes by address, the destination first. -/
def CopyIn.ranges (x : CopyIn) (sh : Shuttle) (rows : List Nat) : List (Nat × Nat) :=
  let a := x.a.toNat
  let b := x.b.toNat
  let len := x.len sh
  let dst := (a, destLen (cpFold sh.cpctl) (cpFtype sh.cpctl) len)
  match x.form with
  | 2 | 7 => [(b, len)]
  | 3 => [dst]
  | 4 => []
  | 6 => dst :: rows.map fun i => (rowAddr x.b (cpRowlg sh.cpctl) i, 2 ^ cpRowlg sh.cpctl)
  | _ => [dst, (b, len)]

/-- Whether an operand breaks the form: a window operand outside the window hole, a memory operand within it
or reaching into it, a descriptor with a bit that must be zero, or a source and destination that overlap. Log entry 56, DEDUCED. -/
def CopyIn.operandBad (x : CopyIn) (sh : Shuttle) (rows : List Nat) : Bool :=
  let a := x.a.toNat
  let b := x.b.toNat
  let len := x.len sh
  let dlen := destLen (cpFold sh.cpctl) (cpFtype sh.cpctl) len
  let enters (r : Nat × Nat) : Bool := !inHole r.1 && rangesMeet r.1 r.2 windowBase (2 ^ 56 - windowBase)
  (x.ranges sh rows).any enters || match x.form with
  | 0 => !inHole a || rangesMeet a dlen b len
  | 1 => !inHole b || rangesMeet a dlen b len
  | 5 => inHole a || inHole b || rangesMeet a dlen b len
  | 4 =>
    let n := ceilDiv len sh.vlen
    bits a 10 54 != 0
      || (bits a 8 2 == sh.place.core % 4 && bits a 5 3 == sh.place.slot && rangesMeet (bits a 0 5) n x.fb n)
  | 6 =>
    let lg := cpRowlg sh.cpctl
    !inHole a || rows.any fun i => rangesMeet a len (rowAddr x.b lg i) (2 ^ lg)
  | _ => false
/-- The row numbers of CPY.GS: element k of the index group; that of a poisoned element is a free value. -/
def copyRows (x : CopyIn) : M (List Nat) := do
  if x.form ≠ 6 then return []
  let s ← get
  let sh := s.cur
  let f ← draw
  return (List.range sh.vl.toNat).map fun k =>
    if sh.elemPois x.fc 0x06 k then Config.poisonedRow f k % 2 ^ 32 else sh.elem x.fc 0x06 k

/-- BOBBIN with a reason (R253). -/
def bobbinTrap {α : Type} (n : Nat) (reason : Nat) : M α := bobTrap n 0 reason

/-- The registers that the issue of a copy reads and writes, as masks. -/
def CopyIn.regs (x : CopyIn) (sh : Shuttle) : Nat × Nat :=
  let g := regMask x.fa (ceilDiv x.c.toNat sh.vlen)
  let h := regMask x.fb (ceilDiv x.c.toNat sh.vlen)
  match x.form with
  | 2 => (0, g)
  | 3 => (h, 0)
  | 4 =>
    let own := bits x.a.toNat 8 2 == sh.place.core % 4 && bits x.a.toNat 5 3 == sh.place.slot
    (h, if own then regMask (bits x.a.toNat 0 5) (ceilDiv x.c.toNat sh.vlen) else 0)
  | 6 => (regMask x.fc (grpOf sh.vlen 0x06 sh.vl.toNat), 0)
  | _ => (0, 0)

/-- The command of a CPY after its checks (R253). `name` is what its BOBBIN traps name, `bob` the bobbin it uses: none
for a captured copy. -/
def buildCmd (x : CopyIn) (name : Nat) (bob : Option Nat) : M Cmd := do
  let s ← get
  let sh := s.cur
  let cp := sh.cpctl
  match bob with
  | some n =>
    let st := (sh.bobbins[n]?.getD {}).st
    if st == .busy || st == .failed then bobbinTrap name 1
  | none => pure ()
  if x.lenBad sh || x.foldBad sh then bobbinTrap name 2
  -- the index group is read once no copy writes it
  if x.form = 6 then interlock (x.regs sh).1 0
  let rows ← copyRows x
  if x.operandBad sh rows then bobbinTrap name 2
  match (x.ranges sh rows).find? fun r => inHole r.1 && decide (windowBase + spadBytes < r.1 + r.2) with
  | some r => trap cACCESS (w64 r.1) 2
  | none => pure ()
  if cpCen cp && s.counterHolder (cpCtr cp) != sh.place.part then trap cACCESS (w64 (cpCtr cp)) 6
  return { key := 0, core := sh.place.core, owner := sh.owner, form := x.form, uid := sh.uid, bob := bob, trdl := none,
           a := x.a, b := x.b, len := x.len sh, rows := rows, rowlg := cpRowlg cp, regA := x.fa, regB := x.fb,
           fold := cpFold cp, ftype := cpFtype cp, frm := cpFrm cp, cen := cpCen cp, ctr := cpCtr cp,
           ctx := ⟨sh.place.part, sh.priv⟩, st := .queued, since := s.clock, aim := 0, pins := [],
           missed := [], moved := 0, accepted := false,
           acc := 0, accPoison := false, floor := s.now, sent := false
           blame := { owner := sh.owner, tag := sh.owner, next := sh.owner, nextAt := 0 } }

/-- The commands that stand in a core's copy-command queue (R250). Log entry 29, DEDUCED. -/
def State.copyQueued (s : State) (core : Nat) : Nat :=
  (s.cmds.filter fun c => c.core == core && c.trdl.isNone && c.st != .running).length

/-- A bobbin of the issuing shuttle replaced. -/
def Shuttle.setBob (sh : Shuttle) (n : Nat) (b : Bobbin) : Shuttle := { sh with bobbins := sh.bobbins.setIfInBounds n b }
/-- The window offset of the destination of a copy into the issuing core's window. -/
def Cmd.winDest (c : Cmd) : Option Nat :=
  if (c.form == 0 || c.form == 1 || c.form == 3 || c.form == 6) && inWindow c.a.toNat then some (c.a.toNat - windowBase)
  else none
/-- CPY (R250, R253, R255): its checks, its wait for room and for the registers it uses, its command. A command of
length 0 is DONE at once. Log entry 30, DEDUCED. -/
def cpy (ibits : Nat) (form : Nat) (n : Bob) (a b c : SReg) (feats : List Nat) (s : State) : Out :=
  run (do
    let s ← get
    let x : CopyIn :=
      { form := form, a := s.reg a, b := s.reg b, c := s.reg c, fa := a.val, fb := b.val, fc := c.val }
    legal ibits [x.groupBad s.cur] feats
    endConvoy
    let cmd ← buildCmd x n.val (some n.val)
    let s ← get
    let use := x.regs s.cur
    interlock use.1 use.2
    if 64 ≤ s.copyQueued s.cur.place.core then park .copyQueue
    modify (·.release (.loom (s.cur.place.core / 4)))
    let s ← get
    let (k, s) := s.newKey
    set s
    let cmd := { cmd with key := k, floor := s.now }
    let bob : Bobbin :=
      { st := if cmd.len = 0 then .done else .busy, form := form, len := cmd.len, win := cmd.winDest,
        dst := destLen cmd.fold cmd.ftype cmd.len, at_ := s.now, cmd := k, issued := s.now }
    onCur (·.setBob n.val bob)
    if cmd.len = 0 then
      if cmd.cen then modify fun s => counterAdd (s.release .chip) cmd.ctr 1
    else modify fun s => { s with cmds := s.cmds ++ [cmd] }
    retire 4) s

/-- CPY_MS (R256). -/
def execCpyMs (n : Bob) (a b c : SReg) (s : State) : Out := cpy (Bits.cpyMs n a b c) 0 n a b c [12] s
/-- CPY_SM (R256). -/
def execCpySm (n : Bob) (a b c : SReg) (s : State) : Out := cpy (Bits.cpySm n a b c) 1 n a b c [12] s
/-- CPY_MR (R256). -/
def execCpyMr (n : Bob) (a b c : SReg) (s : State) : Out := cpy (Bits.cpyMr n a b c) 2 n a b c [12] s
/-- CPY_RM (R256). -/
def execCpyRm (n : Bob) (a b c : SReg) (s : State) : Out := cpy (Bits.cpyRm n a b c) 3 n a b c [12] s
/-- CPY_RR (R258). -/
def execCpyRr (n : Bob) (a b c : SReg) (s : State) : Out := cpy (Bits.cpyRr n a b c) 4 n a b c [12] s
/-- CPY_MM (R256). -/
def execCpyMm (n : Bob) (a b c : SReg) (s : State) : Out := cpy (Bits.cpyMm n a b c) 5 n a b c [12] s
/-- CPY_GS (R260). -/
def execCpyGs (n : Bob) (a b c : SReg) (s : State) : Out := cpy (Bits.cpyGs n a b c) 6 n a b c [12] s
/-- CPY_LZ (R275). -/
def execCpyLz (n : Bob) (a b c : SReg) (s : State) : Out := cpy (Bits.cpyLz n a b c) 7 n a b c [12, 13] s
/-! ## Bobbins -/

/-- BWAIT (R266). Log entry 26, DEDUCED. -/
def execBwait (n : Bob) (s : State) : Out :=
  run (do
    legal (Bits.bwait n) [] [12]
    endConvoy
    let s ← get
    let x := s.cur.bob n
    blockingWait
    if x.st = .busy then park (.bobbin n.val)
    if x.st = .failed then bobTrap n.val x.fcause 3
    if x.st = .done then onCur (·.after 7 x.at_)
    retire 4) s
/-- BCHK's bit of element e: every chunk that holds a byte of it has arrived, and it ends within the copy (R267). -/
def Bobbin.arrived (x : Bobbin) (off w e : Nat) : Bool :=
  let lo := 8 * off + e * w
  let hi := lo + w - 1
  let u := 8 * x.chunk
  decide (hi < 8 * x.len) && (List.range (hi / u + 1 - lo / u)).all fun j => x.chunkDone (lo / u + j)

/-- BCHK (R267). -/
def execBchk (d : PReg) (n : Bob) (b : SReg) (s : State) : Out :=
  run (do
    legal (Bits.bchk d n b) [] [12]
    endConvoy
    let s ← get
    let sh := s.cur
    let x := sh.bob n
    if x.st = .idle then bobTrap n.val 0 4
    let off := (s.reg b).toNat
    let here (e : Nat) : Bool := x.arrived off (ebits sh.ety) e
    let es := List.range sh.vl.toNat
    onCur fun sh => es.foldl (fun (y : Shuttle) e => y.setPbit d.val e (here e)) sh
    let w := ebits sh.ety
    modify fun s => (es.filter here).foldl (fun s e =>
      let lo := (8 * off + e * w) / 8 / x.chunk * x.chunk
      let hi := ((8 * off + e * w + w - 1) / 8 / x.chunk + 1) * x.chunk
      s.acquireRuns x (x.runsIn lo (hi - lo))) s
    retire 4) s
/-- BREL (R268). -/
def execBrel (n : Bob) (s : State) : Out :=
  run (do
    legal (Bits.brel n) [] [12]
    endConvoy
    let s ← get
    if (s.cur.bob n).st = .busy then park (.arrival n.val (2 ^ 64))
    onCur (·.setBob n.val {})
    retire 4) s
/-- The word of a selector (Table 14-3). -/
def Bobbin.word (x : Bobbin) (b : Nat) : Word :=
  match b with
  | 0 => w64 x.status
  | 1 => w64 x.fva
  | 2 => w64 x.mask
  | 3 => w64 x.len
  | 4 => w64 x.chunk
  | _ => if 0x40 ≤ b ∧ b ≤ 0x7F then w64 (x.arr (b - 0x40)) else 0

/-- BSTAT (R269). -/
def execBstat (d : SReg) (n : Bob) (b : SReg) (s : State) : Out :=
  run (do
    legal (Bits.bstat d n b) [] [12]
    endConvoy
    let s ← get
    writeReg d ((s.cur.bob n).word (s.reg b).toNat)
    retire 4) s
end Sys2Proof.Machine
end

