-- ==== Sys2Proof/Machine/Creg.lean ====
section
/-!
DEFINITION. Sys2Proof/Machine/Creg.lean: the control registers (R107 to R116, R146) and the instructions that read and write
them.
-/
namespace Sys2Proof.Machine

/-- MGRANT (Table 12-1). -/
def State.mgrant (s : State) (core : Nat) : Nat :=
  let l := s.loom (core / 4)
  let k := s.core core
  (s.attachedCores (core / 4)).length * 2 ^ 40 + tget 0 l.blocks (core % 4) % 256 * 2 ^ 32
    + (if k.attached.isSome then k.matReq else 0) % 2 ^ 11 * 2 ^ 16 + l.rows (core % 4) % 2 ^ 11

/-- The value of a control register of the issuing shuttle (Tables 6-1 and 6-2). Log entry 27, DEDUCED. -/
def State.creg (s : State) (r : Nat) : Word :=
  let sh := s.cur
  let core := sh.place.core
  match r with
  | 0x000 => sh.vl
  | 0x001 => sh.vtype
  | 0x002 => sh.vstart
  | 0x003 => w64 sh.vlmax
  | 0x004 => w64 sh.vlen
  | 0x005 => w64 ((s.loom (core / 4)).held (core % 4))
  | 0x006 => w64 ((s.loom (core / 4)).vact (core % 4))
  | 0x007 => sh.xstop
  | 0x008 => sh.vflags
  | 0x009 => sh.fflags
  | 0x00A => sh.fctl
  | 0x00B => sh.vseed
  | 0x00C => sh.strip
  | 0x00D => sh.srem
  | 0x00E => w64 (s.mgrant core)
  | 0x00F => sh.mshape
  | 0x010 => sh.cpctl
  | 0x011 => w64 sh.shid
  | 0x012 => w64 core
  | 0x013 => w64 (core / 4)
  | 0x014 => w64 s.chip
  | 0x015 => w64 sh.place.part
  | 0x016 => w64 sh.owner
  | 0x017 => w64 s.clock
  | 0x018 => w64 sh.eq.length
  | 0x019 => w64 sh.place.launchId
  | 0x100 => sh.estat
  | 0x101 => sh.epc
  | 0x102 => sh.ecause
  | 0x103 => sh.eaddr
  | 0x104 => sh.einfo
  | 0x105 => sh.tvec
  | 0x106 => sh.sscratch
  | 0x107 => sh.ctxptr
  | 0x108 => sh.hwemap
  | 0x109 => sh.pgstat
  | 0x10A => sh.scopedem
  | 0x10B => s.ckstat sh.place.part
  | _ => 0

/-- A number of the control-register map (R107). -/
def cregListed (r : Nat) : Bool :=
  decide (r ≤ 0x019) || decide (0x100 ≤ r ∧ r ≤ 0x10B) || decide (0x200 ≤ r ∧ r ≤ 0x3FF)
/-- Whether a level may read, and write, a register (Tables 6-1 and 6-2). -/
def cregReads (p : Priv) (r : Nat) : Bool := decide (r ≤ 0x019) || (p == .s && decide (0x100 ≤ r ∧ r ≤ 0x10B))
def cregWrites (p : Priv) (r : Nat) : Bool :=
  match p with
  | .u => [0x007, 0x008, 0x009, 0x00A, 0x00B, 0x010].contains r
  | .s => [0x000, 0x001, 0x002, 0x007, 0x008, 0x009, 0x00A, 0x00B, 0x00C, 0x00D, 0x00F, 0x010].contains r
      || (decide (0x100 ≤ r ∧ r ≤ 0x10A) && r != 0x109)

/-- The checks of MAT.SHP (R237): bits [20:18] are ignored. -/
def shapeBad (v : Nat) : Bool :=
  bits v 21 43 != 0 || bits v 4 4 != 0 || shapeAcc v == 3 || shapeCols v == 0 || decide (512 < shapeCols v)
    || shapeTiles v == 0
/-- MAT.SHP and a CREG write of MSHAPE (R237). -/
def setShape (ibits : Nat) (v : Word) : M Unit := do
  need ibits 2 (!shapeBad v.toNat)
  onCur fun sh => { sh with mshape := shapeWord v.toNat }
  let s ← get
  if s.cur.attached then set (s.setCore s.cur.place.core (s.core s.cur.place.core).zeroTiles)

/-- Set VTYPE after the checks of R155. -/
def setVtype (ibits : Nat) (v : Word) : M Unit := do
  let s ← get
  match vtypeBad s s.cur.place.part v.toNat with
  | some (7, f) => noFeature ibits f
  | some (r, _) => illegal ibits r
  | none => onCur fun sh => { sh with vtype := v }

/-- A write of a control register (R110, R146): reserved and read-only fields are ignored. -/
def writeCreg (ibits r : Nat) (v : Word) : M Unit := do
  match r with
  | 0x000 => onCur fun sh => { sh with vl := w64 (min v.toNat sh.vlmax) }
  | 0x001 =>
    setVtype ibits v
    onCur fun sh => { sh with vl := w64 (min sh.vl.toNat sh.vlmax) }
  | 0x002 => onCur fun sh => { sh with vstart := w64 (min v.toNat sh.vl.toNat) }
  | 0x007 => onCur fun sh => { sh with xstop := v &&& 0x7FFFF }
  | 0x008 => onCur fun sh => { sh with vflags := v &&& 0x3F }
  | 0x009 => onCur fun sh => { sh with fflags := v &&& 0x1F }
  | 0x00A => onCur fun sh => { sh with fctl := v &&& 3 }
  | 0x00B => onCur fun sh => { sh with vseed := v }
  | 0x00C => onCur fun sh => { sh with strip := v }
  | 0x00D => onCur fun sh => { sh with srem := v }
  | 0x00F => setShape ibits v
  | 0x010 => onCur fun sh => { sh with cpctl := v &&& cpctlMask }
  | 0x100 => onCur fun sh => { sh with estat := (v &&& 0xF) ||| (sh.estat &&& 0xC0) }
  | 0x101 => onCur fun sh => { sh with epc := v }
  | 0x102 => onCur fun sh => { sh with ecause := v &&& 0x80000000000000FF }
  | 0x103 => onCur fun sh => { sh with eaddr := v }
  | 0x104 => onCur fun sh => { sh with einfo := v }
  | 0x105 => onCur fun sh => { sh with tvec := v &&& tvecMask }
  | 0x106 => onCur fun sh => { sh with sscratch := v }
  | 0x107 => onCur fun sh => { sh with ctxptr := v }
  | 0x108 => onCur fun sh => { sh with hwemap := v &&& 0xFFFFFFFFFF }
  | 0x10A => onCur fun sh => { sh with scopedem := sh.scopedem &&& ~~~v }
  | _ => pure ()

/-- CRR, CRW, CRS and CRC (R146): `f` gives the value written from the old one and s[a], or none where nothing is. -/
def cregOp (ibits : Nat) (d : SReg) (r : Nat) (w : Bool) (f : Word → Option Word) (s : State) : Out :=
  run (do
    need ibits 2 (cregListed r)
    let s ← get
    if !cregReads s.cur.priv r || (w && !cregWrites s.cur.priv r) then trap cPRIVILEGE (w64 ibits) (w64 r)
    endConvoy
    waitTiles
    let s ← get
    let old := s.creg r
    match f old with
    | some v => writeCreg ibits r v
    | none => pure ()
    writeReg d old
    retire 4) s

/-- CRR (R146). -/
def execCrr (d : SReg) (r : BitVec 12) (s : State) : Out := cregOp (Bits.crr d r) d r.toNat false (fun _ => none) s

/-- CRW (R146). -/
def execCrw (d a : SReg) (r : BitVec 12) (s : State) : Out :=
  cregOp (Bits.crw d a r) d r.toNat true (fun _ => some (s.reg a)) s

/-- CRS (R146). -/
def execCrs (d a : SReg) (r : BitVec 12) (s : State) : Out :=
  cregOp (Bits.crs d a r) d r.toNat (a != 0) (fun old => if a = 0 then none else some (old ||| s.reg a)) s

/-- CRC (R146). It writes nothing to a W1C register. -/
def execCrc (d a : SReg) (r : BitVec 12) (s : State) : Out :=
  cregOp (Bits.crc d a r) d r.toNat (a != 0)
    (fun old => if a = 0 ∨ r = 0x10A then none else some (old &&& ~~~s.reg a)) s

end Sys2Proof.Machine
end

