-- ==== Sys2Proof/Machine/Fetch.lean ====
section
/-!
DEFINITION. Sys2Proof/Machine/Fetch.lean: fetching the parcels of an instruction (R48, R49, R120).
-/
namespace Sys2Proof.Machine

/-- The 16-bit parcel at an address: a load of the scalar agent of kind fetch. Poison is consumed (Table 22-2). -/
def fetchParcel (va : Word) : M Nat := do
  let p ← translate va.toNat 3
  match p.remote with
  | some c =>
    match ← askAll [{ peer := c, agent := agFetch, op := .load, addrs := [(p.key, 2)], data := [], va := va }] with
    | .data b m :: _ =>
      if m ≠ 0 then trap cPOISON va 7
      return b.foldr (fun x acc => x.toNat + 256 * acc) 0
    | .failed q _ :: _ => trap cREMOTE va (w64 (c * 2 ^ 16 + q))
    | [] => return 0
  | none =>
    let (v, pois) ← loadAs agFetch p.key 2
    if pois then trap cPOISON va 7
    return v

/-- `n` parcels from an address, joined to the bits of the instruction after those already fetched. -/
def fetchRest (va : Word) (acc : Nat) : Nat → M Nat
  | 0 => return acc
  | n + 1 => do
    let p ← fetchParcel va
    fetchRest (va + 2) (acc * 65536 + p) n

/-- The length and the bits of the instruction at an address. -/
def fetchFrom (pc : Word) : M (Nat × Nat) := do
  let p ← fetchParcel pc
  let len := parcelLen p
  let b ← fetchRest (pc + 2) p (len / 2 - 1)
  return (len, b)

end Sys2Proof.Machine
end

