-- ==== Sys2Proof/Machine/Lz.lean ====
section
/-!
DEFINITION. Sys2Proof/Machine/Lz.lean: landing zones, their names and slots, and the LZ instructions (R271 to R276).
-/
namespace Sys2Proof.Machine

/-- Whether another chip is present and the fabric may be used (R12, R382). -/
def State.reaches (s : State) (chip : Nat) : Bool :=
  decide (chip < 144) && s.inDomain chip && s.feature s.cur.place.part 2

/-! ## Names and tokens (Table 14-5) -/

def nameAny (n : Word) : Bool := bit n.toNat 47
def nameSlot (n : Word) : Nat := bits n.toNat 40 6
def nameGen (n : Word) : Nat := bits n.toNat 36 4
def nameZone (n : Word) : Nat := bits n.toNat 32 4
def nameOffset (n : Word) : Nat := bits n.toNat 0 32
/-- The name of a zone, with a slot number. -/
def zoneName (chip core slot gen num : Nat) : Word :=
  w64 (chip * 2 ^ 56 + core * 2 ^ 48 + slot * 2 ^ 40 + gen * 2 ^ 36 + num * 2 ^ 32)

/-- The open zone of a name, whatever its slot. -/
def State.zone (s : State) (n : Word) : Option Zone :=
  s.zones.find? fun (z : Zone) => z.core == nameCore n && z.num == nameZone n && z.gen == nameGen n
/-- A zone replaced. -/
def State.setZone (s : State) (z : Zone) : State :=
  { s with zones := s.zones.map fun (x : Zone) => if x.core = z.core ∧ x.num = z.num then z else x }
def Zone.slot (z : Zone) (i : Nat) : ZSlot := z.slots[i]?.getD {}
def Zone.setSlot (z : Zone) (i : Nat) (t : ZSlot) : Zone := { z with slots := z.slots.set i t }

/-- The state code and the status word of a slot (Table 14-7). -/
def slotCode : SlotSt → Nat
  | .free => 0
  | .reserved => 1
  | .complete => 2
  | .torn => 3
def ZSlot.status (t : ZSlot) : Word :=
  w64 (slotCode t.st * 2 ^ 62 + t.len % 2 ^ 24 * 2 ^ 32 + t.holder % 2 ^ 8 * 2 ^ 24 + t.arr % 2 ^ 24)

/-- LANDING_ZONE with EADDR, slot and reason (R272). -/
def zoneTrap {α : Type} (ea : Word) (slot reason : Nat) : M α := trap cZONE ea (w64 (slot * 2 ^ 8 + reason))

/-- The zone that a local operation names, after the checks of R272. Log entry 58, DEDUCED. -/
def localZone (n : Word) : M Zone := do
  let s ← get
  match s.zone n with
  | none => zoneTrap 0 (nameSlot n) 2
  | some z =>
    if nameChip n ≠ s.chip ∨ nameCore n ≠ s.cur.place.core ∨ z.slots.length ≤ nameSlot n ∨ z.uid = 0 then
      zoneTrap 0 (nameSlot n) 2
    else if z.uid ≠ s.cur.uid then zoneTrap (w64 z.base) (nameSlot n) 3
    else return z

/-! ## Opening and closing (R273, R276) -/

/-- Whether LZ.OPEN's operands are bad (R273). -/
def State.openBad (s : State) (a b : Word) : Bool :=
  let d := b.toNat
  let n := bits d 0 6 + 1
  let lg := bits d 8 5
  let off := a.toNat - windowBase
  bits d 6 2 != 0 || bits d 13 3 != 0 || bits d 17 15 != 0 || bits d 48 16 != 0
    || !inWindow a.toNat || off % 256 != 0 || decide (lg < 8) || decide (22 < lg) || decide (spadBytes < off + n * 2 ^ lg)
    || s.zones.any fun (z : Zone) =>
      z.core == s.cur.place.core && rangesMeet a.toNat (n * 2 ^ lg) z.base (z.slots.length * 2 ^ z.szlg)

/-- LZ_OPEN (R273). -/
def execLzOpen (d a b : SReg) (s : State) : Out :=
  run (do
    legal (Bits.lzOpen d a b) [] [13]
    endConvoy
    let s ← get
    let sh := s.cur
    let core := sh.place.core
    let base := s.reg a
    let x := (s.reg b).toNat
    let cen := bit x 16
    let ctr := bits x 32 16
    if s.openBad base (s.reg b) then zoneTrap base 0 1
    if cen && s.counterHolder ctr != sh.place.part then trap cACCESS (w64 ctr) 6
    match (List.range 16).find? fun i => !s.zones.any fun (z : Zone) => z.core == core && z.num == i with
    | none => writeReg d 0
    | some i =>
      let k := s.core core
      let gen := tget 0 k.zoneGens i % 15 + 1
      let z : Zone :=
        { core := core, num := i, gen := gen, base := base.toNat, szlg := bits x 8 5, cen := cen, ctr := ctr,
          uid := sh.uid, part := sh.place.part, closing := false, slots := List.replicate (bits x 0 6 + 1) {} }
      let s := s.setCore core { k with zoneGens := tput k.zoneGens i gen }
      set { s with zones := z :: s.zones }
      writeReg d (zoneName s.chip core 0 gen i)
    retire 4) s
/-- Whether an accepted command is still landing in a zone. -/
def State.landing (s : State) (z : Zone) : Bool :=
  s.cmds.any fun c => c.form == 7 && c.accepted && nameChip c.a == s.chip && nameCore c.a == z.core
    && nameZone c.a == z.num && nameGen c.a == z.gen
/-- The zone is freed. -/
def State.dropZone (s : State) (z : Zone) : State :=
  { s with zones := s.zones.filter fun (x : Zone) => !(x.core == z.core && x.num == z.num) }

/-- LZ_CLOSE (R276). While accepted commands are landing it waits; LZ_CLOSE_COMPLETE ends the wait. -/
def execLzClose (a : SReg) (s : State) : Out :=
  run (do
    legal (Bits.lzClose a) [] [13]
    endConvoy
    let s ← get
    let z ← localZone (s.reg a)
    if s.landing z then
      modify (·.setZone { z with closing := true })
      park (.zone z.num)
    else
      set (s.dropZone z)
      retire 4) s
/-! ## Reservations (R274) -/

/-- A reservation of `len` bytes for chip `src` at the zone's own chip, after the checks of R279: the token or the
result code of Table 14-6. -/
def reserveSlot (s : State) (n : Word) (len src : Nat) : Word × State :=
  match s.zone n with
  | none => (3, s)
  | some z =>
    if z.closing || (!nameAny n && decide (z.slots.length ≤ nameSlot n)) then (3, s)
    else if len = 0 ∨ 2 ^ z.szlg < len then (4, s)
    else
      let i? := if nameAny n then (List.range z.slots.length).find? fun i => (z.slot i).st == .free
        else if (z.slot (nameSlot n)).st = .free then some (nameSlot n) else none
      match i? with
      | none => (if nameAny n then 2 else 1, s)
      | some i =>
        let t : ZSlot := { st := .reserved, len := len, holder := src, arr := 0, claimed := 0 }
        (zoneName s.chip z.core i z.gen z.num, s.setZone (z.setSlot i t))

/-- LZ_RESV (R274). -/
def execLzResv (d a b : SReg) (s : State) : Out :=
  run (do
    legal (Bits.lzResv d a b) [] [13]
    endConvoy
    let s ← get
    let n := s.reg a
    let len := (s.reg b).toNat
    let part := s.cur.place.part
    if nameChip n = s.chip then
      if s.loomHolder (nameCore n / 4) ≠ part then writeReg d 6
      else
        let (r, s) := reserveSlot s n len s.chip
        set s
        writeReg d r
    else if !s.reaches (nameChip n) || (s.path (nameChip n)).lost then writeReg d 5
    else
      match ← askAll [{ peer := nameChip n, op := .resv, addrs := [(n.toNat, 8)], data := toBytes len 8, va := n }] with
      | .data r _ :: _ => writeReg d (w64 (r.foldr (fun x acc => x.toNat + 256 * acc) 0))
      | _ => writeReg d 5
    retire 4) s
/-! ## Slots (R272) -/

/-- LZ_WAIT (R272). Log entry 26, DEDUCED. -/
def execLzWait (d a : SReg) (s : State) : Out :=
  run (do
    legal (Bits.lzWait d a) [] [13]
    endConvoy
    let s ← get
    let n := s.reg a
    let z ← localZone n
    let t := z.slot (nameSlot n)
    blockingWait
    if t.st = .free ∨ t.st = .reserved then park (.slot z.num (nameSlot n))
    onCur (·.after 7 t.at_)
    writeReg d t.status
    retire 4) s
/-- LZ_FREE (R272). -/
def execLzFree (a : SReg) (s : State) : Out :=
  run (do
    legal (Bits.lzFree a) [] [13]
    endConvoy
    let s ← get
    let n := s.reg a
    let z ← localZone n
    if (z.slot (nameSlot n)).st = .reserved then zoneTrap (w64 z.base) (nameSlot n) 4
    modify (·.setZone (z.setSlot (nameSlot n) {}))
    retire 4) s
/-- LZ_STAT (R272). -/
def execLzStat (d a : SReg) (s : State) : Out :=
  run (do
    legal (Bits.lzStat d a) [] [13]
    endConvoy
    let s ← get
    let n := s.reg a
    let z ← localZone n
    writeReg d (z.slot (nameSlot n)).status
    retire 4) s
end Sys2Proof.Machine
end

