-- ==== Sys2Proof/Machine/MemI.lean ====
section
/-!
DEFINITION. Sys2Proof/Machine/MemI.lean: scalar loads, stores and atomics (R129 to R131, R135, R136, R149).
-/
namespace Sys2Proof.Machine

/-- The bytes of a width code and whether it extends the sign: 0 S8, 1 S16, 2 S32, 3 64, 4 N8, 5 N16, 6 N32 (R52). -/
def widthBytes (w : Fin 8) : Nat :=
  match w.val with
  | 0 => 1
  | 1 => 2
  | 2 => 4
  | 3 => 8
  | 4 => 1
  | 5 => 2
  | 6 => 4
  | _ => 8
def widthExt (w : Fin 8) (v : Nat) : Word := if w.val ≤ 2 then sextW v (8 * widthBytes w) else w64 v

/-- The address of an SM-format access: base plus SignExt(off11, 11). -/
def State.ea (s : State) (a : SReg) (o : BitVec 11) : Word := s.reg a + o.signExtend 64

/-- LD and LDA (R129, R131): the value goes to `d` after every other effect. -/
def loadOp (len : Nat) (acq : Bool) (d : SReg) (w : Fin 8) (ea : State → Word) (s : State) : Out :=
  run (do
    endConvoy
    let s ← get
    let (v, t, p) ← scalarLoad (ea s) (widthBytes w)
    if acq then
      demote 2 p.sys
      acquireAt t
    writeReg d (widthExt w v)
    retire len) s

/-- ST and STL (R129, R131). -/
def storeOp (len : Nat) (rel : Bool) (r : SReg) (n : Nat) (ea : State → Word) (s : State) : Out :=
  run (do
    endConvoy
    let s ← get
    let va := ea s
    aligned va n 1
    let p ← translate va.toNat 1
    if rel then releaseAll
    scalarPut va n (s.reg r).toNat p
    if rel then demote 1 p.sys
    retire len) s

/-- AMO.op (R135). -/
def amoOp (op : Nat) (d a b : SReg) (ord : Fin 4) (dbl : Bool) (s : State) : Out :=
  run (do
    endConvoy
    let s ← get
    let n := if dbl then 8 else 4
    let v := bits (s.reg b).toNat 0 (8 * n)
    let old ← scalarAtomic (s.reg a) n ord.val (d != 0) op (toBytes v n) fun old => some (amoResult op n old v)
    writeReg d (sextW old (8 * n))
    retire 4) s

/-- LD (R129). -/
def execLd (d a : SReg) (w : Fin 8) (o : BitVec 11) (s : State) : Out := loadOp 4 false d w (fun s => s.ea a o) s

/-- ST (R129). -/
def execSt (s_ a : SReg) (w : Fin 8) (o : BitVec 11) (s : State) : Out :=
  storeOp 4 false s_ (2 ^ w.val) (fun s => s.ea a o) s

/-- LDA (R131). -/
def execLda (d a : SReg) (w : Fin 8) (o : BitVec 11) (s : State) : Out := loadOp 4 true d w (fun s => s.ea a o) s

/-- STL (R131). -/
def execStl (s_ a : SReg) (w : Fin 8) (o : BitVec 11) (s : State) : Out :=
  storeOp 4 true s_ (2 ^ w.val) (fun s => s.ea a o) s

/-- C_LDSP (R149). -/
def execCLdsp (r : SReg) (o : BitVec 6) (s : State) : Out :=
  loadOp 2 false r 3 (fun s => s.reg 2 + w64 (8 * o.toNat)) s

/-- C_STSP (R149). -/
def execCStsp (r : SReg) (o : BitVec 6) (s : State) : Out :=
  storeOp 2 false r 8 (fun s => s.reg 2 + w64 (8 * o.toNat)) s

/-- AMO_SWAP (R135). -/
def execAmoSwap (d a b : SReg) (o : Fin 4) (z : Bool) (s : State) : Out := amoOp 0 d a b o z s

/-- AMO_ADD (R135). -/
def execAmoAdd (d a b : SReg) (o : Fin 4) (z : Bool) (s : State) : Out := amoOp 1 d a b o z s

/-- AMO_AND (R135). -/
def execAmoAnd (d a b : SReg) (o : Fin 4) (z : Bool) (s : State) : Out := amoOp 2 d a b o z s

/-- AMO_OR (R135). -/
def execAmoOr (d a b : SReg) (o : Fin 4) (z : Bool) (s : State) : Out := amoOp 3 d a b o z s

/-- AMO_XOR (R135). -/
def execAmoXor (d a b : SReg) (o : Fin 4) (z : Bool) (s : State) : Out := amoOp 4 d a b o z s

/-- AMO_MIN (R135). -/
def execAmoMin (d a b : SReg) (o : Fin 4) (z : Bool) (s : State) : Out := amoOp 5 d a b o z s

/-- AMO_MAX (R135). -/
def execAmoMax (d a b : SReg) (o : Fin 4) (z : Bool) (s : State) : Out := amoOp 6 d a b o z s

/-- AMO_MINN (R135). -/
def execAmoMinn (d a b : SReg) (o : Fin 4) (z : Bool) (s : State) : Out := amoOp 7 d a b o z s

/-- AMO_MAXN (R135). -/
def execAmoMaxn (d a b : SReg) (o : Fin 4) (z : Bool) (s : State) : Out := amoOp 8 d a b o z s

/-- CAS (R136). A comparison that fails stores nothing. -/
def execCas (d a b c : SReg) (o : Fin 4) (z : Bool) (s : State) : Out :=
  run (do
    endConvoy
    let s ← get
    let n := if z then 8 else 4
    let v := bits (s.reg b).toNat 0 (8 * n)
    let new := bits (s.reg c).toNat 0 (8 * n)
    let old ← scalarAtomic (s.reg a) n o.val true 9 (toBytes v n ++ toBytes new n) fun old =>
      if old = v then some new else none
    writeReg d (sextW old (8 * n))
    retire 4) s

end Sys2Proof.Machine
end

