-- ==== Sys2Proof/Machine/Evt.lean ====
section
/-!
DEFINITION. Sys2Proof/Machine/Evt.lean: event counters (R294 to R297), the error queue (R298, R299), treadles (R300 to
R305).
-/
namespace Sys2Proof.Machine

/-! ## Counters -/

/-- The counter that a reference names (R294): its index, and the chip of a remote one. -/
def counterRef (ref : Word) : M (Nat × Option Nat) := do
  let s ← get
  let r := ref.toNat
  let idx := bits r 0 16
  let chip := bits r 32 8
  if bits r 41 23 ≠ 0 ∨ bits r 16 16 ≠ 0 ∨ (!bit r 40 ∧ chip ≠ 0) then trap cACCESS ref 6
  else if bit r 40 && chip != s.chip then
    if s.reaches chip then return (idx, some chip) else trap cACCESS ref 4
  else if s.counterHolder idx ≠ s.cur.place.part then trap cACCESS ref 6
  else return (idx, none)
/-- A reference that must be local (R297, R300). -/
def localRef (ref : Word) : M Nat := do
  match ← counterRef ref with
  | (i, none) => return i
  | _ => trap cACCESS ref 6

/-- CTR.ADD and CTR.SET (R296), releases at PART scope; `f` gives the new value. -/
def counterOp (op : FarOp) (d : SReg) (ref v : Word) (f : Word → Word) (s : State) : Out :=
  run (do
    endConvoy
    let (i, chip) ← counterRef ref
    releaseAll
    match chip with
    | none =>
      let s ← get
      let old := s.counter i
      let s := counterSet s i (f old)
      set { s with cur := s.cur.sawCounter s.now }
      writeReg d old
    | some c =>
      if d = 0 then
        let _ ← post 5 c op ref [{ elem := 0, key := i, bytes := toBytes v.toNat 8, mask := 2 ^ 64 - 1, pois := false }]
      else
        let old ← ask { peer := c, agent := agCounter, op := op, addrs := [(i, 8)], data := toBytes v.toNat 8, va := ref }
        modify fun s => { s with cur := s.cur.sawCounter s.now }
        writeReg d (w64 old)
    retire 4) s

/-- CTR_ADD (R296). -/
def execCtrAdd (d a b : SReg) (s : State) : Out := counterOp .ctrAdd d (s.reg a) (s.reg b) (· + s.reg b) s
/-- CTR_RD (R296). -/
def execCtrRd (d a : SReg) (s : State) : Out :=
  run (do
    endConvoy
    let s ← get
    let (i, chip) ← counterRef (s.reg a)
    match chip with
    | none =>
      onCur (·.sawCounter (s.ctrTime i))
      writeReg d (s.counter i)
    | some c =>
      let v ← ask { peer := c, agent := agCounter, op := .ctrRd, addrs := [(i, 8)], data := [], va := s.reg a }
      modify fun s => { s with cur := s.cur.sawCounter s.now }
      writeReg d (w64 v)
    retire 4) s
/-- CTR_SET (R296). -/
def execCtrSet (d a b : SReg) (s : State) : Out := counterOp .ctrSet d (s.reg a) (s.reg b) (fun _ => s.reg b) s
/-- Whether the CTR.WAIT under way has been met (R295). -/
def Shuttle.met (sh : Shuttle) (i thr : Nat) : Bool :=
  match sh.status with
  | .waiting (.counter j t m) => j == i && t == thr && m
  | _ => false

/-- CTR_WAIT (R297). Log entry 26, DEDUCED. -/
def execCtrWait (a b : SReg) (s : State) : Out :=
  run (do
    endConvoy
    let s ← get
    let i ← localRef (s.reg a)
    let thr := (s.reg b).toNat
    blockingWait
    if !s.cur.met i thr && decide ((s.counter i).toNat < thr) then park (.counter i thr false)
    modify fun s => { s with cur := (s.cur.after 7 (s.ctrTime i)).sawCounter (s.ctrTime i) }
    retire 4) s
/-! ## Treadles -/

/-- The lowest number from `i` on, among the next few, that a test accepts. -/
def firstFrom (f : Nat → Bool) : Nat → Nat → Option Nat
  | 0, _ => none
  | n + 1, i => if f i then some i else firstFrom f n (i + 1)
/-- The lowest free entry of a partition's treadle slice. -/
def State.freeTreadle (s : State) (part : Nat) : Option Nat :=
  let p := s.part part
  let ok (i : Nat) : Bool := s.treadleHolder i == part && !s.treadles.any fun (t : Treadle) => t.idx == i
  if part = 16 then firstFrom ok 16384 0 else firstFrom ok p.tcount p.tbase

/-- What an instruction would capture as (Table 15-9). -/
inductive Captured where
  | cpy (x : CopyIn) (bob : Nat) (feats : List Nat)
  | ctrAdd (a b : SReg)
  | amo (op : Nat) (dbl : Bool) (a b : SReg)
  | st (n : Nat) (va v : Word)
  | launch (a : SReg)
  | no
  deriving DecidableEq, Repr

/-- The operands of a captured copy. -/
def copyIn (s : State) (form : Nat) (n : Bob) (a b c : SReg) (feats : List Nat) : Captured :=
  .cpy { form := form, a := s.reg a, b := s.reg b, c := s.reg c, fa := a.val, fb := b.val, fc := c.val } n.val feats

/-- What TRDL.ARM captures of the instruction after it, of `len` bytes and with bits `w`; `no` where the pair is illegal
whatever the operands (R56, Table 15-9). The fields are those of the ST, AMO, LAUNCH, CPY and EVT encodings and of
C.STSP, another spelling of ST (R59). Log entry 33, DEDUCED. -/
def capture (s : State) (len w : Nat) : Captured :=
  match len, fld w 24 6 with
  | 2, _ => if fld w 11 4 = 9 then .st 8 (s.reg 2 + w64 (8 * fld w 0 6)) (s.reg (r5 w 6)) else .no
  | 4, 13 =>
    if storeWidth (fld w 11 3) then .st (2 ^ fld w 11 3) (s.ea (r5 w 14) (im 11 w 0)) (s.reg (r5 w 19)) else .no
  | 4, 25 =>
    if fld w 0 4 ≤ 8 ∧ fld w 7 2 = 0 ∧ fld w 19 5 = 0 ∧ fld w 5 2 = 0 then
      .amo (fld w 0 4) (bitAt w 4) (r5 w 14) (r5 w 9)
    else .no
  | 4, 31 => if fld w 0 14 = 0 ∧ fld w 19 5 = 0 then .launch (r5 w 14) else .no
  | 4, 58 =>
    if fld w 0 4 < 8 then
      copyIn s (fld w 0 4) (r5 w 19) (r5 w 14) (r5 w 9) (r5 w 4) (if fld w 0 4 = 7 then [12, 13] else [12])
    else .no
  | 4, 61 => if fld w 0 9 = 0 ∧ fld w 19 5 = 0 then .ctrAdd (r5 w 14) (r5 w 9) else .no
  | _, _ => .no

/-- Whether the captured instruction would trap with ILLEGAL, or breaks a limit marked ILLEGAL (R56, R301). -/
def Captured.illegal (s : State) : Captured → Bool
  | .no => true
  | .cpy x bob feats =>
    feats.any (fun f => !s.feature s.cur.place.part f) || (x.groupBad s.cur).isSome
      || ((x.form == 0 || x.form == 1 || x.form == 5 || x.form == 7) && bob != 0)
  | _ => false

/-- The alignment and window checks made at arming (R301). -/
def armed (va : Word) (n code : Nat) : M Unit := do
  aligned va n code
  if inHole va.toNat && !inWindow va.toNat then trap cACCESS va 2

/-- The operation that the pair captures, after its own issue checks; none where a LAUNCH record is invalid (R300,
R301). -/
def Captured.op : Captured → M (Option TOp)
  | .no => return none
  | .cpy x bob _ => do
    if x.form == 2 || x.form == 3 || x.form == 4 || x.form == 6 then bobbinTrap bob 2
    let c ← buildCmd x bob none
    return some (.cpy c)
  | .ctrAdd a b => do
    let s ← get
    let _ ← counterRef (s.reg a)
    return some (.ctrAdd (s.reg a) (s.reg b))
  | .amo op dbl a b => do
    let s ← get
    armed (s.reg a) (if dbl then 8 else 4) 2
    return some (.amo op dbl (s.reg a) (s.reg b))
  | .st n va v => do
    armed va n 1
    return some (.st n va v)
  | .launch a => do
    let s ← get
    let r ← loadRecord (s.reg a)
    let s ← get
    return (parseLaunch s s.cur.place.part r).map fun l => .launch l

/-- A treadle posted in entry `i`; it fires at once where its threshold is met (R300, R302). -/
def postTreadle (s : State) (i ctr thr : Nat) (op : TOp) : State :=
  let (k, s) := s.newKey
  let sh := s.cur
  let t : Treadle :=
    { idx := i, part := sh.place.part, shid := sh.shid, launchId := sh.place.launchId, st := .armed, ctr := ctr, thr := thr, order := k, fired := 0, uid := sh.uid,
      owner := sh.owner, core := sh.place.core, ctx := ⟨sh.place.part, sh.priv⟩, op := op, cause := 0, outcome := 0,
      parked := [], sent := false }
  let s := { s with treadles := s.treadles ++ [t] }
  if thr ≤ (s.counter ctr).toNat then meetTreadle s t else s

/-- TRDL_ARM (R300). Log entry 43, DEDUCED. -/
def execTrdlArm (d a b : SReg) (s : State) : Out :=
  run (do
    let s ← get
    let (len, w) ← fetchFrom (s.cur.pc + 4)
    let cap := capture s len w
    legal (Bits.trdlArm d a b) [if cap.illegal s then some 6 else none] [14]
    endConvoy
    let ctr ← localRef (s.reg a)
    let op ← cap.op
    let s ← get
    match s.freeTreadle s.cur.place.part, op with
    | none, _ => writeReg d (w64 (2 ^ 64 - 1))
    | _, none => writeReg d (w64 (2 ^ 64 - 2))
    | some i, some op =>
      releaseAll
      modify fun s => postTreadle s i ctr (s.reg b).toNat op
      writeReg d (w64 i)
    retire (4 + len)) s
/-- The treadle entry that a value names (R304): none where it is free. Log entry 32, DEDUCED. -/
def treadleAt (a : Word) : M (Option Treadle) := do
  let s ← get
  if 16384 ≤ a.toNat ∨ s.treadleHolder a.toNat ≠ s.cur.place.part then trap cACCESS 0 6
  return s.treadles.find? fun (t : Treadle) => t.idx == a.toNat
/-- An entry becomes FREE. -/
def State.dropTreadle (s : State) (i : Nat) : State :=
  { s with treadles := s.treadles.filter fun (t : Treadle) => t.idx != i }

/-- TRDL_X (R305). -/
def execTrdlX (d a : SReg) (s : State) : Out :=
  run (do
    legal (Bits.trdlX d a) [] [14]
    endConvoy
    let s ← get
    match ← treadleAt (s.reg a) with
    | none => writeReg d 3
    | some t =>
      match t.st with
      | .firing => writeReg d 1
      | .failed =>
        modify (·.dropTreadle t.idx)
        writeReg d 2
      | _ =>
        modify (·.dropTreadle t.idx)
        writeReg d 0
    retire 4) s
/-- The status word of an entry (Table 15-10). -/
def Treadle.status (t : Treadle) : Word :=
  let st := match t.st with
    | .free => 0
    | .armed => 1
    | .firing => 2
    | .failed => 3
  let op := match t.op with
    | .cpy _ => 0
    | .ctrAdd .. => 1
    | .amo .. => 2
    | .st .. => 3
    | .launch _ => 4
  let fail := if t.st = .failed then t.outcome % 8 * 2 ^ 56 + t.cause % 16 * 2 ^ 52 else 0
  w64 (st * 2 ^ 62 + op * 2 ^ 59 + fail + t.ctr % 2 ^ 16 * 2 ^ 32 + t.thr % 2 ^ 32)

/-- TRDL_STAT (R305). -/
def execTrdlStat (d a : SReg) (s : State) : Out :=
  run (do
    legal (Bits.trdlStat d a) [] [14]
    endConvoy
    let s ← get
    match ← treadleAt (s.reg a) with
    | none => writeReg d 0
    | some t => writeReg d t.status
    retire 4) s
/-! ## The error queue -/

/-- EQ_POP (R298). -/
def execEqPop (d b : SReg) (s : State) : Out :=
  run (do
    legal (Bits.eqPop d b) [] [15]
    endConvoy
    let s ← get
    let v := (s.reg b).toNat
    match s.cur.eq with
    | [] => writeReg d 0
    | e :: rest =>
      if bit v 1 then onCur fun sh => { sh with eq := rest }
      writeReg d (if bit v 0 then e.2 else e.1)
    retire 4) s
/-- EQ_CNT (R298). -/
def execEqCnt (d b : SReg) (s : State) : Out :=
  run (do
    legal (Bits.eqCnt d b) [] [15]
    endConvoy
    let s ← get
    if bit (s.reg b).toNat 0 then onCur fun sh => { sh with lost := 0 }
    writeReg d (w64 (s.cur.lost * 2 ^ 16 + s.cur.eq.length))
    retire 4) s
/-- FAB_QUIET (R299). -/
def execFabQuiet (d : SReg) (s : State) : Out :=
  run (do
    legal (Bits.fabQuiet d) [] [15]
    endConvoy
    let s ← get
    if !s.cur.posted.isEmpty then park .quiet
    writeReg d (w64 s.cur.eq.length)
    retire 4) s
end Sys2Proof.Machine
end

