-- ==== Sys2Proof/Machine/Sched.lean ====
section
/-!
DEFINITION. Sys2Proof/Machine/Sched.lean: placing and resuming shuttles (R28 to R33, R42, R46, R240,
R392), the requests that pre-empt one (R43), its end (R141), and when a waiting shuttle may issue again (R34).
-/
namespace Sys2Proof.Machine

/-! ## Placement (R30) -/

/-- Whether a slot of a core holds nothing. -/
def State.slotFree (s : State) (core slot : Nat) : Bool :=
  !(s.holders core).any fun sh => sh.place.slot == slot
def State.lowestSlot (s : State) (core : Nat) : Option Nat := (List.range 8).find? fun i => s.slotFree core i
/-- Whether the dispatcher places shuttles of a partition on a loom. -/
def State.usable (s : State) (part l : Nat) : Bool :=
  s.loomHolder l == part && (s.loom l).passed && !(s.loom l).releasing

/-- The core, slot, VLEN exponent and scratchpad offset of a launch, or none where it fits nowhere. -/
def State.fit (s : State) (l : Launch) : Option (Nat × Nat × Nat × Nat) :=
  ((List.range 40).filter fun k => bit l.lmask k && s.usable l.part k).findSome? fun k =>
    (List.range 4).findSome? fun c =>
      let core := 4 * k + c
      (List.range (l.vlhi - l.vllo + 1)).findSome? fun d =>
        let v := l.vlhi - d
        match s.lowestSlot core, s.spadAt core (256 * l.spad) with
        | some i, some off =>
          if (l.vregs + l.escl) * 512 * 2 ^ v ≤ s.vrfFree core then some (core, i, v, off) else none
        | _, _ => none

/-- The lowest free context area of a partition's pool (R109, R351). -/
def State.freeArea (s : State) (part : Nat) : Option Nat :=
  let used := ((s.resident ++ s.away).filter fun sh => sh.live && sh.place.part == part).filterMap (·.place.ctxArea)
  ((List.range (used.length + 1)).find? fun i => !used.contains i).filter fun i => decide (i < (s.part part).ctxCount)

/-- A shuttle of a launch as it starts (R30, R109, R224). Log entry 4, DESIGN CHOICE. -/
def startShuttle (s : State) (l : Launch) (core slot v off area strip srem : Nat) : Shuttle :=
  let p := s.part l.part
  let ctx := p.ctxBase + w64 (7832832 * area)
  let regs : Vector Word 32 := (Vector.replicate 32 0).set 4 (w64 l.args)
  { uid := s.nextKey, status := .ready, pc := w64 l.entry, owner := l.owner, strip := w64 strip, srem := w64 srem
    regs := regs.set 2 (Config.spAtStart s.fresh)
    tvec := w64 (bits p.hbase.toNat 0 48 * 256), ctxptr := ctx, homeBase := ctx + 1024, since := s.clock
    place :=
      { core := core, slot := slot, part := l.part, launch := l.key, launchId := l.launchId, cls := l.cls,
        lmask := l.lmask, vlenLog := v, vregs := l.vregs, escl := l.escl, spad := l.spad, spadOff := off,
        weave := l.weave, disp := l.disp, total := l.total, strlm1 := l.strlm1, placedAt := s.clock,
        ctxArea := some area } }

/-- A shuttle enters its slot. Its first instruction is an acquire of its launch (R27). -/
def enterSlot (s : State) (sh : Shuttle) : State :=
  { s with nextKey := s.nextKey + 1, fresh := s.fresh + 1, others := sh.after 7 s.now :: s.others }

/-- A launch leaves its queue: placement is over. -/
def leaveQueue (s : State) (l : Launch) : State :=
  let p := s.part l.part
  let s := s.setPart l.part { p with queue := p.queue.filter fun x => x.key != l.key }
  trackStep (refillQueue s l.part l.cls) l.key fun t => { t with placing := false }

/-- One placement of a launch, if it fits (R29, R30, R42). A draw at or beyond NS places no shuttle and is that clock's placement
all the same. Log entry 70, DESIGN CHOICE. -/
def placeLaunch (s : State) (l : Launch) : Option State :=
  match s.fit l, s.freeArea l.part with
  | some (core, slot, v, off), some area =>
    let len := l.strlm1 + 1
    let old := (s.counter l.disp).toNat
    let s := if l.weave then counterAdd s l.disp 1 else s
    if l.weave && decide (ceilDiv l.total len ≤ old) then some (leaveQueue s l)
    else
      let sh := startShuttle s l core slot v off area (if l.weave then old else 0)
        (if l.weave then min len (l.total - old * len) else 0)
      let s := enterSlot s sh
      let p := s.part l.part
      let s := s.setPart l.part { p with queue := p.queue.map fun x =>
        if x.key = l.key then { x with placed := x.placed + 1, since := s.clock } else x }
      let s := trackStep s l.key fun t => { t with placed := t.placed + 1 }
      some (if l.nshut ≤ l.placed + 1 then leaveQueue s l else s)
  | _, _ => none

/-! ## Resumption (R46, R240, R392) -/

/-- The offset on a core of the region of a shuttle's parked child, whose reservation goes where its parent goes (R32); none where the
core has no room for it beside its parent. Log entry 36, DEDUCED. -/
def State.lendRoom (s : State) (sh : Shuttle) (core : Nat) : Option Nat :=
  match sh.lend with
  | none => some sh.lendOff
  | some l =>
    if core = sh.place.core then some sh.lendOff
    else if s.vrfFree core < sh.sliceBytes + sh.lendBytes then none
    else if l.spad = 0 then some sh.lendOff
    else lowestAt ((sh.place.spadOff, 256 * sh.place.spad) :: s.regions core) (256 * l.spad)
/-- The core and slot on which a pre-empted shuttle may resume, with the offset of its child's region. -/
def State.refit (s : State) (sh : Shuttle) : Option (Nat × Nat × Nat) :=
  let free (core : Nat) : Bool :=
    !sh.attached || ((s.core core).attached.isNone && ((s.core core).claim.isNone || (s.core core).claim == some sh.uid))
  if sh.inPlace then (if free sh.place.core && s.loomHolder (sh.place.core / 4) == sh.place.part then some (sh.place.core, sh.place.slot, sh.lendOff) else none)
  else
    ((List.range 40).filter fun k => bit sh.place.lmask k && s.usable sh.place.part k).findSome? fun k =>
      (List.range 4).findSome? fun c =>
        let core := 4 * k + c
        match s.lowestSlot core, s.lendRoom sh core with
        | some i, some off =>
          let room := sh.place.spad == 0 || fitsAt (s.regions core) sh.place.spadOff (256 * sh.place.spad)
          if room && free core && decide (sh.sliceBytes ≤ s.vrfFree core) then some (core, i, off) else none
        | _, _ => none

/-- The matrix attachment of the issuing shuttle made again, with its tiles (R240). -/
def reattach (s : State) (ts : List (Nat × Nat)) : State :=
  let sh := s.cur
  if sh.attached then
    let core := sh.place.core
    let k := (s.core core).loadTiles ts
    arrangeRows (s.setCore core { k with attached := some sh.uid, claim := none, matReq := sh.matReq, matSince := s.clock }) (core / 4)
  else s
/-- What a shuttle that resumes reads of its context area: nothing but the shuttle changes before all of it has been found. `region`
says that the scratchpad region is restored too. -/
def readBack (region : Bool) : M Unit := do
  restoreContext fun _ => trap cILLEGAL 0 0
  let ts ← savedTiles
  if region then restoreRegion
  modify fun s => reattach s ts

/-- A pre-empted shuttle resumes on a core and slot: its state is restored from its context area, and it issues when its
slot's turn comes (R34). What became pending while it was away is pending still (R284, R367). A miss of the area leaves it where
it was; any other fault ends it (R109). Log entry 44, DEDUCED. -/
def resume (s : State) (sh : Shuttle) (core slot off : Nat) : State :=
  let back := { sh with inPlace := false, restored := false, lendOff := off, place := { sh.place with core := core, slot := slot, placedAt := s.clock } }
  let s1 := { s with
    cur := back, others := if s.cur.live then s.cur :: s.others else s.others
    away := s.away.filter fun x => x.uid != sh.uid }
  match readBack (!sh.inPlace) s1 with
  | .ok _ s2 =>
    let due := sh.estat.toNat &&& 0xC0
    { s2 with cur := { s2.cur with
      status := if sh.attached then .waiting .matrixGrant else sh.status, estat := s2.cur.estat ||| w64 due
      found := [], missed := [], faulted := [] } }.backTo s.cur
  | .error (.trap c _ _) s2 => (killShuttle { s2 with cur := back } c).backTo s.cur
  | .error _ s2 =>
    let kept := { sh with missed := s2.cur.missed, found := s2.cur.found, pgstat := s2.cur.pgstat }
    { s2 with cur := s.cur, others := s.others, away := s.away.map fun x => if x.uid = sh.uid then kept else x }

/-! ## The dispatcher (R29) -/

/-- What the dispatcher places: a queued launch or a pre-empted shuttle. -/
inductive Candidate where
  | launch (l : Launch)
  | shuttle (sh : Shuttle)
  deriving DecidableEq, Repr

/-- Whether a shuttle is the parent of a lend child that has not ended (R33). -/
def State.isParent (s : State) (sh : Shuttle) : Bool :=
  (s.resident ++ s.away).any fun c => c.live && c.lentFrom == some sh.uid

/-- The candidates of a partition: of its most urgent class, for each owner its longest pre-empted shuttle, or else its
oldest eligible launch; the shuttles that a rollback has restored come before all of them (R367). A capture stops placement (R364). -/
def State.candidates (s : State) (n : Nat) : List (Contender Candidate) :=
  let gone := (s.away.filter fun sh => sh.place.part == n && !s.isParent sh).reverse
  let ls := (s.part n).queue.filter (·.eligible)
  let back := gone.filter (·.restored)
  if (s.part n).capturing then []
  else if !back.isEmpty then
    (back.map (·.owner)).eraseDups.filterMap fun o =>
      (back.find? fun sh => sh.owner == o).map fun sh => { input := 64 * n + o, owner := o, since := sh.since, what := .shuttle sh }
  else match (List.range 4).find? fun c => gone.any (fun sh => sh.place.cls == c) || ls.any (fun l => l.cls == c) with
  | none => []
  | some c =>
    let gone := gone.filter fun sh => sh.place.cls == c
    let ls := ls.filter fun l => l.cls == c
    let owners := (gone.map (·.owner) ++ ls.map (·.owner)).eraseDups
    owners.filterMap fun o =>
      match gone.find? (fun sh => sh.owner == o), ls.find? (fun l => l.owner == o) with
      | some sh, _ => some { input := 64 * n + o, owner := o, since := sh.since, what := .shuttle sh }
      | none, some l => some { input := 64 * n + o, owner := o, since := l.since, what := .launch l }
      | none, none => none

/-- The state after a candidate is placed, if it fits. -/
def Candidate.place (s : State) : Candidate → Option State
  | .launch l => placeLaunch s l
  | .shuttle sh => (s.refit sh).map fun (x : Nat × Nat × Nat) => resume s sh x.1 x.2.1 x.2.2

/-- What waits at the dispatcher. -/
def State.placeable (s : State) : List (Contender Candidate) := (List.range 17).flatMap s.candidates
/-- One clock of the dispatcher, which places one shuttle in it: the first candidate by the harm rule that fits is placed, and the
others wait on its account, or, where none is placed, on that of owner 63 (R311, R319). -/
def dispatch (s : State) : State :=
  let a := s.arb 7 0
  let cs := s.placeable
  if a.accounted s.clock || cs.isEmpty then s
  else
    match (ranked s a cs).findSome? fun c => (c.what.place s).map fun s' => (c, s') with
    | none => s.chargeClock (arbKey 7 0) a (cs.map fun c => (c.owner, 63))
    | some (c, s') =>
      s'.chargeClock (arbKey 7 0) (a.after s c cs) ((cs.filter fun x => x.input != c.input).map fun x => (x.owner, c.owner))

/-! ## Lending (R33) -/

/-- The lend of a parent is over: its child has ended, or is an ordinary shuttle from now on. The parent is restored to
its slot. -/
def endLend (s : State) (parent : Nat) : State :=
  let s := s.mapShuttles fun sh =>
    if sh.uid = parent then { sh with lend := none, lendBytes := 0, lendOff := 0 }
    else if sh.lentFrom = some parent then { sh with lentFrom := none } else sh
  match s.away.find? fun sh => sh.uid == parent with
  | some sh => match s.refit sh with
    | some (core, slot, off) => resume s sh core slot off
    | none => s
  | none => s
/-- The lends whose child has been pre-empted are over; not that of a child whose own child runs in the slot. Log entry 36, DEDUCED. -/
def settleLends (s : State) : State :=
  match (s.away.filter fun sh => !s.isParent sh).findSome? (·.lentFrom) with
  | some p => endLend s p
  | none => s

/-- The handover of the issuing shuttle's slot to its parked child, which its CTR.WAIT triggers (R33). -/
def handover (s : State) : State :=
  let sh := s.cur
  match sh.status, sh.lend with
  | .waiting (.counter i thr false), some l =>
    let core := sh.place.core
    let room := sh.sliceBytes + sh.lendBytes + s.vrfFree core
    let v := (List.range (l.vlhi - l.vllo + 1)).find? fun d =>
      decide ((l.vregs + l.escl) * 512 * 2 ^ (l.vlhi - d) ≤ room)
    match s.freeArea l.part, v with
    | some area, some d =>
      if l.dadd = 0 ∨ l.done ≠ i ∨ (s.counter i + w64 l.dadd).toNat < thr ∨ copyHolds s sh
          ∨ (s.core core).matQueue.contains sh.uid then s
      else
        let s := closeQueue s core sh.uid
        match saveContext false s with
        | .error (.wait _) s' => { s' with cur := { sh with missed := s'.cur.missed } }
        | .error (.trap c _ _) s' => killShuttle { s' with cur := sh } c
        | .error _ _ => s
        | .ok _ s' =>
          -- the core keeps the parent's claim to the array. Log entry 36, DEDUCED
          let s' := if sh.attached then
              let s' := detachCore s' core
              s'.setCore core { s'.core core with claim := some sh.uid }
            else s'
          let gone := { sh.settled with since := s'.clock, inPlace := true }
          let child := { startShuttle s' l core sh.place.slot (l.vlhi - d) sh.lendOff area 0 0 with
            lentFrom := some sh.uid }
          let s' := enterSlot { s' with cur := sh.left, away := gone :: s'.away } child
          trackStep s' l.key fun t => { t with placed := t.placed + 1, placing := false }
    | _, _ => s
  | _, _ => s

/-! ## Requests for pre-emption (R43) -/

/-- Whether an access of the shuttle waits for a page (R218). -/
def Shuttle.pageWait (sh : Shuttle) : Bool :=
  match sh.status with
  | .waiting (.page ..) => true
  | _ => false
/-- A requested pre-emption of the issuing shuttle. An open convoy is cut at a boundary at or beyond `b`; one parked at its probe stops
with B = VSTART (R218), unless it has made accesses beyond that are not to be made twice. Otherwise the shuttle stops between
instructions: an instruction whose remote request has been sent comes to its end first, and a copy of the shuttle's registers or window
(R265) and its tile operations do. -/
def requestPreempt (s : State) (b : Nat) : State :=
  let sh := s.cur
  let c := sh.convoy
  if !sh.live || sh.status == .ending || sh.killed.isSome || (sh.lentFrom.isSome && staysInPlace s sh) then s
  else if c.isOpen then
    let at_ := max c.committed sh.vstart.toNat
    if sh.pageWait && decide (sh.madeTo ≤ at_) then cutAt s at_ at_ preempt
    else { s with cur := { sh with convoy := { c with cut := some b } } }
  else match sh.again with
    | some a => { s with cur := { sh with again := some { a with cut := some b } } }
    | none =>
      if s.heldUp sh || !sh.requests.isEmpty then { s with cur := { sh with stopping := some .tiles } }
      else preempt s

/-- `f` with a shuttle in a slot as the one that issues. -/
def onSlot (s : State) (core slot : Nat) (f : State → State) : State :=
  match s.at core slot with
  | none => s
  | some sh => (f (s.focus sh.uid)).backTo s.cur

/-- The shuttle that the dispatcher pre-empts for a launch that does not fit: of the partition's shuttles of a less
urgent class whose room would let it fit, the least urgent, and of those the most recently placed. -/
def State.victim (s : State) (l : Launch) : Option Shuttle :=
  let without (sh : Shuttle) : State := { s.focus sh.uid with cur := {} }
  let vs := s.resident.filter fun sh =>
    sh.live && sh.status != .ending && sh.place.part == l.part && decide (l.cls < sh.place.cls) && ((without sh).fit l).isSome
  vs.foldl (fun best sh => match best with
    | none => some sh
    | some x =>
      if x.place.cls < sh.place.cls ∨ (x.place.cls = sh.place.cls ∧ x.place.placedAt < sh.place.placedAt) then some sh
      else some x) none

/-! ## The end of a shuttle (R141) -/

/-- The closing zones that nothing lands in any more are freed (R276). -/
def freeZones (s : State) : State :=
  { s with zones := s.zones.filter fun (z : Zone) => !(z.closing && !s.landing z && (s.byUid z.uid).isNone) }

/-- Whether the end of a shuttle may take effect. -/
def mayEnd (s : State) (sh : Shuttle) : Bool :=
  sh.status == .ending && sh.bobbins.toList.all (fun b => b.st != .busy) && sh.posted.isEmpty && sh.requests.isEmpty
    && !(s.core sh.place.core).matQueue.contains sh.uid
    && !s.cmds.any (fun c => c.uid == sh.uid && c.trdl.isNone)
    && (sh.lend.isNone || decide ((s.part sh.place.part).held.length < 1024))

/-- The end of the issuing shuttle: what it holds is dropped, its errors move, its slot frees, its launch may complete,
and a lend parent returns. -/
def endShuttle (s : State) : State :=
  let s := dropHoldings s
  let sh := s.cur
  let s := moveErrors s sh
  let s := closeQueue s sh.place.core sh.uid
  -- an acquire of its launch's completion sees its stores (R31)
  let s := freeZones { s.release .chip with cur := sh.left }
  let s := leaveCore s sh.place.core
  let s := trackStep s sh.place.launch fun t => { t with ended := t.ended + 1 }
  match sh.lentFrom with
  | some p => endLend s p
  | none => s

/-! ## Waits (R34) -/

/-- Whether a wait of a shuttle may be over, so that its instruction may issue again. -/
def waitOver (s : State) (sh : Shuttle) : Wait → Bool
  | .page ids leaves =>
    (ids.any fun x => !(s.func x.1).reqs.any fun r => r.key == x.2)
      || leaves.any s.leafOver
  | .remote => sh.requests.all fun q => q.reply != .waiting
  | .counter _ _ met => met
  | .bobbin b => (sh.bobbins[b]?.getD {}).st != .busy
  | .arrival b seen =>
    let x := sh.bobbins[b]?.getD {}
    x.st != .busy || decide (seen < x.prefixLen)
  | .chained at_ => !at_.any fun x => sh.chained x.1 x.2
  | .registers r w => !s.interlocked sh r w
  | .slot z i =>
    match s.zones.find? fun (x : Zone) => x.core == sh.place.core && x.num == z with
    | some x => (x.slot i).st == .complete || (x.slot i).st == .torn
    | none => true
  | .zone z => s.zones.all fun (x : Zone) => !(x.core == sh.place.core && x.num == z && s.landing x)
  | .copyQueue => decide (s.copyQueued sh.place.core < 64)
  | .matrixQueue => decide ((s.core sh.place.core).matQueue.length < 16)
  | .matrixGrant =>
    decide (min sh.matReq (s.fairShare (sh.place.core / 4)) ≤ (s.loom (sh.place.core / 4)).rows (sh.place.core % 4))
  | .tiles => !(s.core sh.place.core).matQueue.contains sh.uid
  | .vectorQueue => !s.queueTaken sh
  | .posted kinds agents => !s.awaiting sh kinds agents
  | .quiet => sh.posted.isEmpty
  | .others ids => s.resident.all fun x => !(ids.contains x.shid && x.status == .ready)
  | .capture k => decide (k ≤ (s.part sh.place.part).ckSeq) || !(s.part sh.place.part).capturing
  | .settle k => decide (k < s.acct.broadcasts)

/-- Whether the save of a stopping shuttle may go on: its accesses to the context area have been answered. -/
def saveOver (s : State) (sh : Shuttle) : Bool :=
  match sh.stopping with
  | some (.page ids leaves) => waitOver s sh (.page ids leaves)
  | _ => true
/-- Whether a shuttle is in the middle of an instruction that has asked for remote data, or of a convoy: a requested pre-emption waits for
its end. -/
def Shuttle.midway (sh : Shuttle) : Bool := sh.convoy.isOpen || sh.again.isSome || !sh.requests.isEmpty
/-- Whether a shuttle whose pre-emption has been requested stops at its next issue: between instructions (R43). -/
def Shuttle.stops (sh : Shuttle) : Bool := sh.stopping.isSome && !sh.midway
/-- Whether a shuttle may issue: one that stops, once nothing holds it up (R265) and the wait of its save is over. -/
def mayIssue (s : State) (sh : Shuttle) : Bool :=
  if sh.killed.isNone && sh.stops then sh.live && sh.status != .ending && !s.heldUp sh && saveOver s sh
  else match sh.status with
    | .ready => true
    | .waiting w => waitOver s sh w
    | _ => false

end Sys2Proof.Machine
end

