-- ==== Sys2Proof/Machine/VCmp.lean ====
section
/-!
DEFINITION. Sys2Proof/Machine/VCmp.lean: vector compares and exit-on-compare (R206 to R208), predicate logic (R209, R210).
-/
namespace Sys2Proof.Machine

/-- The elements of a cross-element member: 0 to VL − 1 with guard bit 1 (R196). -/
def Shuttle.present (sh : Shuttle) (p : Nat) : List Nat := (List.range sh.vl.toNat).filter fun e => sh.pbit p e
/-- The mask of a predicate that is written; p0 is not (R156). -/
def pMask (q : PReg) : Nat := if q = 0 then 0 else 2 ^ q.val

/-! ## Compares -/

/-- The types of VCMP (Table 9-1). -/
def cmpType (n : Bool) (t : Nat) : Bool := isInt t || (!n && vfpType t)
/-- x cc y of two encodings: signed or unsigned integers by N, or floating point. -/
def cmpEnc (cc t : Nat) (n : Bool) (x y : Nat) : Nat × Nat :=
  if isFloat t then cmpOf cc (fdecode t x) (fdecode t y)
  else if n then cmpOf cc (ofInt x) (ofInt y)
  else cmpOf cc (ofInt (sext x (ebits t))) (ofInt (sext y (ebits t)))
/-- The compare of element e: its outcome and flags, or none where an operand is poisoned. -/
def cmpAt (cc : Nat) (n : Bool) (a : Opnd) (b : VReg) (sh : Shuttle) (e : Nat) : Option (Bool × Nat) :=
  let t := sh.ety
  let x := a.get sh t e
  if x.2 || sh.elemPois b.val t e then none
  else
    let r := cmpEnc cc t n x.1 (sh.elem b.val t e)
    some (r.1 == 1, r.2)
/-- Field a of a compare: a scalar register or a vector group. -/
def cmpOpnd (sc : Bool) (a : Fin 32) : Opnd := if sc then .x a else .v a

/-- VCMP (R206). -/
def vcmp (ibits cc : Nat) (c : Bool) (p : PReg) (sc : Bool) (q : PReg) (a : Fin 32) (b : VReg) (n : Bool) (s : State) :
    Out :=
  let sh := s.cur
  let g := sh.group
  let x := cmpOpnd sc a
  let u : Uses := { c := c, rV := x.vmask g ||| regMask b.val g, wP := pMask q, sR := x.smask }
  run (member ibits u [typeBad sh (cmpType n), x.bad sh, groupBad sh b.val g] [] (do
    let s ← get
    writePreds q.val (perGroup s.cur.ety) (s.cur.active p.val) (cmpAt cc n x b))) s

/-- The exit of a VCMPX: the first element whose compare is true, or the first that is poisoned, or neither; and the
flags raised up to there. -/
def exitAt (f : Nat → Option (Bool × Nat)) : List Nat → Nat → Option (Nat × Bool) × Nat
  | [], fl => (none, fl)
  | e :: es, fl =>
    match f e with
    | none => (some (e, false), fl)
    | some (true, g) => (some (e, true), fl ||| g)
    | some (false, g) => exitAt f es (fl ||| g)

/-- VCMPX (R207): it stops at the first true compare; a poisoned element met before is consumed and nothing is
written. -/
def vcmpx (ibits cc : Nat) (c : Bool) (p : PReg) (sc : Bool) (q : PReg) (a : Fin 32) (b : VReg) (n : Bool) (s : State) :
    Out :=
  let sh := s.cur
  let g := sh.group
  let x := cmpOpnd sc a
  let u : Uses := { c := c, cross := true, rV := x.vmask g ||| regMask b.val g, wP := pMask q,
                    sR := x.smask }
  run (member ibits u [typeBad sh (cmpType n), x.bad sh, groupBad sh b.val g] [] (do
    let s ← get
    let sh := s.cur
    let es := sh.present p.val
    let k := perGroup sh.ety
    match exitAt (cmpAt cc n x b sh) es 0 with
    | (some (e, false), _) =>
      onCur (·.meet (poisonAt sh e 4 0))
      return { k := k }
    | (r, fl) =>
      let stop := (r.map (·.1)).getD sh.vl.toNat
      onCur fun y => { (es.foldl (fun y e => y.setPbit q.val e (decide (e < stop))) y).raiseV fl with
        xstop := w64 stop }
      return { k := k, wrote := es, flags := lastFlags sh fl })) s

/-! ## Predicate logic -/

/-- The functions that act element by element (R209): `f` gives bit e of pd. -/
def predOp (ibits : Nat) (c : Bool) (p q : PReg) (reads : Nat) (f : Shuttle → Nat → Bool) (s : State) : Out :=
  let u : Uses := { c := c, rP := reads, wP := pMask q }
  run (member ibits u [] [] (do
    let s ← get
    writePreds q.val (perGroup s.cur.ety) (s.cur.active p.val) fun sh e => some (f sh e, 0))) s

/-- f of R210: the lowest element below VL with guard and source bit 1, else VL. -/
def Shuttle.firstSet (sh : Shuttle) (p b : PReg) : Nat :=
  ((sh.present p.val).find? fun e => sh.pbit b.val e).getD sh.vl.toNat

/-- PSBF, PSIF and PSOF (R210). -/
def predFirst (ibits : Nat) (c : Bool) (p q b : PReg) (f : Nat → Nat → Bool) (s : State) : Out :=
  let u : Uses := { c := c, cross := true, rP := 2 ^ b.val, wP := pMask q }
  run (member ibits u [] [] (do
    let s ← get
    let sh := s.cur
    let es := sh.present p.val
    let first := sh.firstSet p b
    onCur fun y => es.foldl (fun y e => y.setPbit q.val e (f e first)) y
    return { k := perGroup sh.ety, wrote := es })) s

/-- PPOPC and PFIRST (R210): the result goes to a scalar register. -/
def predScalar (ibits : Nat) (c : Bool) (p : PReg) (d : SReg) (b : PReg) (f : Shuttle → Nat) (s : State) : Out :=
  let u : Uses := { c := c, cross := true, rP := 2 ^ b.val, sW := sMask d }
  run (member ibits u [] [] (do
    let s ← get
    writeReg d (w64 (f s.cur))
    return { k := perGroup s.cur.ety })) s

/-! ## The instructions -/

/-- VCMP_EQ (R206). -/
def execVcmpEq (c : Bool) (p : PReg) (s_ : Bool) (q : PReg) (a : Fin 32) (b : VReg) (n : Bool) (s : State) : Out :=
  vcmp (Bits.vcmpEq c p s_ q a b n) 0 c p s_ q a b n s

/-- VCMP_NE (R206). -/
def execVcmpNe (c : Bool) (p : PReg) (s_ : Bool) (q : PReg) (a : Fin 32) (b : VReg) (n : Bool) (s : State) : Out :=
  vcmp (Bits.vcmpNe c p s_ q a b n) 1 c p s_ q a b n s

/-- VCMP_LT (R206). -/
def execVcmpLt (c : Bool) (p : PReg) (s_ : Bool) (q : PReg) (a : Fin 32) (b : VReg) (n : Bool) (s : State) : Out :=
  vcmp (Bits.vcmpLt c p s_ q a b n) 2 c p s_ q a b n s

/-- VCMP_LE (R206). -/
def execVcmpLe (c : Bool) (p : PReg) (s_ : Bool) (q : PReg) (a : Fin 32) (b : VReg) (n : Bool) (s : State) : Out :=
  vcmp (Bits.vcmpLe c p s_ q a b n) 3 c p s_ q a b n s

/-- VCMP_GT (R206). -/
def execVcmpGt (c : Bool) (p : PReg) (s_ : Bool) (q : PReg) (a : Fin 32) (b : VReg) (n : Bool) (s : State) : Out :=
  vcmp (Bits.vcmpGt c p s_ q a b n) 4 c p s_ q a b n s

/-- VCMP_GE (R206). -/
def execVcmpGe (c : Bool) (p : PReg) (s_ : Bool) (q : PReg) (a : Fin 32) (b : VReg) (n : Bool) (s : State) : Out :=
  vcmp (Bits.vcmpGe c p s_ q a b n) 5 c p s_ q a b n s

/-- VCMPX_EQ (R207). -/
def execVcmpxEq (c : Bool) (p : PReg) (s_ : Bool) (q : PReg) (a : Fin 32) (b : VReg) (n : Bool) (s : State) : Out :=
  vcmpx (Bits.vcmpxEq c p s_ q a b n) 0 c p s_ q a b n s

/-- VCMPX_NE (R207). -/
def execVcmpxNe (c : Bool) (p : PReg) (s_ : Bool) (q : PReg) (a : Fin 32) (b : VReg) (n : Bool) (s : State) : Out :=
  vcmpx (Bits.vcmpxNe c p s_ q a b n) 1 c p s_ q a b n s

/-- VCMPX_LT (R207). -/
def execVcmpxLt (c : Bool) (p : PReg) (s_ : Bool) (q : PReg) (a : Fin 32) (b : VReg) (n : Bool) (s : State) : Out :=
  vcmpx (Bits.vcmpxLt c p s_ q a b n) 2 c p s_ q a b n s

/-- VCMPX_LE (R207). -/
def execVcmpxLe (c : Bool) (p : PReg) (s_ : Bool) (q : PReg) (a : Fin 32) (b : VReg) (n : Bool) (s : State) : Out :=
  vcmpx (Bits.vcmpxLe c p s_ q a b n) 3 c p s_ q a b n s

/-- VCMPX_GT (R207). -/
def execVcmpxGt (c : Bool) (p : PReg) (s_ : Bool) (q : PReg) (a : Fin 32) (b : VReg) (n : Bool) (s : State) : Out :=
  vcmpx (Bits.vcmpxGt c p s_ q a b n) 4 c p s_ q a b n s

/-- VCMPX_GE (R207). -/
def execVcmpxGe (c : Bool) (p : PReg) (s_ : Bool) (q : PReg) (a : Fin 32) (b : VReg) (n : Bool) (s : State) : Out :=
  vcmpx (Bits.vcmpxGe c p s_ q a b n) 5 c p s_ q a b n s

/-- PAND (R209). -/
def execPand (c : Bool) (p d a b : PReg) (s : State) : Out :=
  predOp (Bits.pand c p d a b) c p d (2 ^ a.val ||| 2 ^ b.val) (fun sh e => sh.pbit a.val e && sh.pbit b.val e) s

/-- POR (R209). -/
def execPor (c : Bool) (p d a b : PReg) (s : State) : Out :=
  predOp (Bits.por c p d a b) c p d (2 ^ a.val ||| 2 ^ b.val) (fun sh e => sh.pbit a.val e || sh.pbit b.val e) s

/-- PXOR (R209). -/
def execPxor (c : Bool) (p d a b : PReg) (s : State) : Out :=
  predOp (Bits.pxor c p d a b) c p d (2 ^ a.val ||| 2 ^ b.val) (fun sh e => sh.pbit a.val e != sh.pbit b.val e) s

/-- PANDN (R209). -/
def execPandn (c : Bool) (p d a b : PReg) (s : State) : Out :=
  predOp (Bits.pandn c p d a b) c p d (2 ^ a.val ||| 2 ^ b.val) (fun sh e => sh.pbit a.val e && !sh.pbit b.val e) s

/-- PNOT (R209). -/
def execPnot (c : Bool) (p d b : PReg) (s : State) : Out :=
  predOp (Bits.pnot c p d b) c p d (2 ^ b.val) (fun sh e => !sh.pbit b.val e) s

/-- PMOV (R209). -/
def execPmov (c : Bool) (p d b : PReg) (s : State) : Out :=
  predOp (Bits.pmov c p d b) c p d (2 ^ b.val) (fun sh e => sh.pbit b.val e) s

/-- PSET (R209). -/
def execPset (c : Bool) (p d : PReg) (s : State) : Out := predOp (Bits.pset c p d) c p d 0 (fun _ _ => true) s

/-- PSBF (R210). -/
def execPsbf (c : Bool) (p d b : PReg) (s : State) : Out :=
  predFirst (Bits.psbf c p d b) c p d b (fun e f => decide (e < f)) s

/-- PSIF (R210). -/
def execPsif (c : Bool) (p d b : PReg) (s : State) : Out :=
  predFirst (Bits.psif c p d b) c p d b (fun e f => decide (e ≤ f)) s

/-- PSOF (R210). -/
def execPsof (c : Bool) (p d b : PReg) (s : State) : Out :=
  predFirst (Bits.psof c p d b) c p d b (fun e f => e == f) s

/-- PPOPC (R210). -/
def execPpopc (c : Bool) (p : PReg) (d : SReg) (b : PReg) (s : State) : Out :=
  predScalar (Bits.ppopc c p d b) c p d b (fun sh => ((sh.present p.val).filter fun e => sh.pbit b.val e).length) s

/-- PFIRST (R210). -/
def execPfirst (c : Bool) (p : PReg) (d : SReg) (b : PReg) (s : State) : Out :=
  predScalar (Bits.pfirst c p d b) c p d b
    (fun sh => if sh.firstSet p b < sh.vl.toNat then sh.firstSet p b else 2 ^ 64 - 1) s

end Sys2Proof.Machine
end

