-- ==== Sys2Proof/Machine/VRed.lean ====
section
/-!
DEFINITION. Sys2Proof/Machine/VRed.lean: reductions (R166, R211), permutes and scans (R212).
-/
namespace Sys2Proof.Machine

/-! ## Reductions -/

/-- An operation on two encodings, with its flags. -/
abbrev Op2 := Nat → Nat → Nat × Nat

/-- One level of the tree of R166: neighbours are combined where both are present. -/
def pairUp (op : Op2) : List (Option Nat) → List (Option Nat) × Nat
  | some a :: some b :: t =>
    let r := op a b
    let q := pairUp op t
    (some r.1 :: q.1, r.2 ||| q.2)
  | a :: b :: t =>
    let q := pairUp op t
    ((if a.isSome then a else b) :: q.1, q.2)
  | [a] => ([a], 0)
  | [] => ([], 0)
/-- The root of the tree over the elements, some of them absent; the first argument bounds its height. -/
def treeRoot (op : Op2) : Nat → List (Option Nat) → Option Nat × Nat
  | 0, l => (l.head?.join, 0)
  | n + 1, l =>
    match l with
    | [] => (none, 0)
    | [a] => (a, 0)
    | l =>
      let q := pairUp op l
      let r := treeRoot op n q.1
      (r.1, q.2 ||| r.2)
/-- TreeSum(init) and SeqSum(init) (R166). -/
def treeSum (op : Op2) (init : Nat) (xs : List (Option Nat)) : Nat × Nat :=
  match treeRoot op xs.length xs with
  | (none, fl) => (init, fl)
  | (some r, fl) =>
    let q := op r init
    (q.1, fl ||| q.2)
def seqSum (op : Op2) (init : Nat) (xs : List (Option Nat)) : Nat × Nat :=
  xs.foldl (fun (acc : Nat × Nat) x => match x with
    | some v =>
      let r := op acc.1 v
      (r.1, acc.2 ||| r.2)
    | none => acc) (init, 0)

/-- The ⊕ of R211 and R212. -/
def opAdd (t rm : Nat) (sat : Bool) : Op2 := fun x y =>
  if isFloat t then fround t rm (nadd rm (fdecode t x) (fdecode t y)) else narrow t sat (intVal t x + intVal t y)
def redMax (t rm : Nat) : Op2 := fun x y =>
  if isFloat t then maxOf t rm (fdecode t x) (fdecode t y)
  else (if sext x (ebits t) ≤ sext y (ebits t) then y else x, 0)
def redMin (t rm : Nat) : Op2 := fun x y =>
  if isFloat t then minOf t rm (fdecode t x) (fdecode t y)
  else (if sext x (ebits t) ≤ sext y (ebits t) then x else y, 0)
def opPure (f : Nat → Nat → Nat) : Op2 := fun x y => (f x y, 0)

/-- Ext of R211: an encoding as a word. -/
def extOf (t x : Nat) : Word := if isSignedInt t then sextW x (ebits t) else w64 x
/-- The types of VRSUM, VRSUM.O, VRMAX and VRMIN. -/
def sumType (t : Nat) : Bool := isInt t || vfpType t

/-- A reduction (R211). -/
def vred (ibits : Nat) (seq : Bool) (ok : Nat → Bool) (op : Shuttle → Op2) (c : Bool) (p : PReg) (d a : SReg) (b : VReg)
    (s : State) : Out :=
  let sh := s.cur
  let g := sh.group
  let u : Uses := { c := c, cross := true, rV := regMask b.val g, sR := sMask a, sW := sMask d }
  run (member ibits u [typeBad sh ok, groupBad sh b.val g] [] (do
    let s ← get
    let sh := s.cur
    let t := sh.ety
    match (sh.present p.val).find? fun e => sh.elemPois b.val t e with
    | some e =>
      onCur (·.meet (poisonAt sh e 4 0))
      return { k := perGroup t }
    | none =>
      let xs := (List.range sh.vl.toNat).map fun e => if sh.pbit p.val e then some (sh.elem b.val t e) else none
      let init := bits (sh.reg a).toNat 0 (ebits t)
      let r := if seq then seqSum (op sh) init xs else treeSum (op sh) init xs
      onCur fun y => (y.wr d (extOf t r.1)).raiseV r.2
      return { k := perGroup t, flags := lastFlags sh r.2 })) s


/-- VRSUM (R211). -/
def execVrsum (c : Bool) (p : PReg) (d a : SReg) (b : VReg) (s : State) : Out :=
  vred (Bits.vrsum c p d a b) false sumType (fun sh => opAdd sh.ety sh.rm sh.sat) c p d a b s

/-- VRSUM_O (R211). -/
def execVrsumO (c : Bool) (p : PReg) (d a : SReg) (b : VReg) (s : State) : Out :=
  vred (Bits.vrsumO c p d a b) true sumType (fun sh => opAdd sh.ety sh.rm sh.sat) c p d a b s

/-- VRMAX (R211). -/
def execVrmax (c : Bool) (p : PReg) (d a : SReg) (b : VReg) (s : State) : Out :=
  vred (Bits.vrmax c p d a b) false sumType (fun sh => redMax sh.ety sh.rm) c p d a b s

/-- VRMIN (R211). -/
def execVrmin (c : Bool) (p : PReg) (d a : SReg) (b : VReg) (s : State) : Out :=
  vred (Bits.vrmin c p d a b) false sumType (fun sh => redMin sh.ety sh.rm) c p d a b s

/-- VRMAXN (R211). -/
def execVrmaxn (c : Bool) (p : PReg) (d a : SReg) (b : VReg) (s : State) : Out :=
  vred (Bits.vrmaxn c p d a b) false isInt (fun _ => opPure max) c p d a b s

/-- VRMINN (R211). -/
def execVrminn (c : Bool) (p : PReg) (d a : SReg) (b : VReg) (s : State) : Out :=
  vred (Bits.vrminn c p d a b) false isInt (fun _ => opPure min) c p d a b s

/-- VRAND (R211). -/
def execVrand (c : Bool) (p : PReg) (d a : SReg) (b : VReg) (s : State) : Out :=
  vred (Bits.vrand c p d a b) false isInt (fun _ => opPure (· &&& ·)) c p d a b s

/-- VROR (R211). -/
def execVror (c : Bool) (p : PReg) (d a : SReg) (b : VReg) (s : State) : Out :=
  vred (Bits.vror c p d a b) false isInt (fun _ => opPure (· ||| ·)) c p d a b s

/-- VRXOR (R211). -/
def execVrxor (c : Bool) (p : PReg) (d a : SReg) (b : VReg) (s : State) : Out :=
  vred (Bits.vrxor c p d a b) false isInt (fun _ => opPure (· ^^^ ·)) c p d a b s

/-! ## Permutes and scans -/

/-- The types of VPERMX (Table 9-1). -/
def permType (t : Nat) : Bool := moveType t
/-- An element with its poison. -/
def Shuttle.elemP (sh : Shuttle) (n t e : Nat) : Nat × Bool := (sh.elem n t e, sh.elemPois n t e)

/-- A permute or scan (R212): `f` gives the elements of vd that it writes, in order, with their flags and poison, or the
element at which it consumes a poisoned VPERM index. The vd group may not overlap a vector source group (R196). -/
def vpermx (ibits : Nat) (ok : Nat → Bool) (c : Bool) (p : PReg) (d : VReg) (srcs : List VReg) (sR : Nat)
    (f : Shuttle → List (Nat × Nat × Bool) × Nat × Option Nat) (s : State) : Out :=
  let sh := s.cur
  let g := sh.group
  let rV := srcs.foldl (fun m r => m ||| regMask r.val g) 0
  let u : Uses := { c := c, cross := true, rV := rV, wV := regMask d.val g, sR := sR }
  run (member ibits u ([typeBad sh ok, groupBad sh d.val g, unless2 ((rV &&& regMask d.val g) == 0)]
      ++ srcs.map fun r => groupBad sh r.val g) [] (do
    let s ← get
    let sh := s.cur
    let t := sh.ety
    match f sh with
    | (_, _, some e) =>
      onCur (·.meet (poisonAt sh e 5 0))
      return { k := perGroup t }
    | (ws, fl, none) =>
      onCur fun y => (ws.foldl (fun y (w : Nat × Nat × Bool) => y.putElem d.val t w.1 w.2.1 w.2.2) y).raiseV fl
      return { k := perGroup t, code := t, base := d.val, wrote := ws.map (·.1), flags := lastFlags sh fl })) s

/-- The same without flags and without an index. -/
def moved (f : Shuttle → List (Nat × Nat × Bool)) (sh : Shuttle) : List (Nat × Nat × Bool) × Nat × Option Nat :=
  (f sh, 0, none)

/-- VSCAN's running values: the elements with their poison, and the flags; a value that depends on poison raises none
(R195). -/
def scanFrom (op : Op2) : Nat → Bool → List (Nat × Nat × Bool) → List (Nat × Nat × Bool) × Nat
  | _, _, [] => ([], 0)
  | acc, pz, (e, x, q) :: rest =>
    let r := op acc x
    let pz := pz || q
    let t := scanFrom op r.1 pz rest
    ((e, r.1, pz) :: t.1, (if pz then 0 else r.2) ||| t.2)

/-- VSLUP (R212). -/
def execVslup (c : Bool) (p : PReg) (d : VReg) (a : SReg) (b : VReg) (s : State) : Out :=
  vpermx (Bits.vslup c p d a b) permType c p d [b] (sMask a) (moved fun sh =>
    let k := (sh.reg a).toNat
    ((sh.present p.val).filter fun e => decide (k ≤ e)).map fun e => (e, sh.elemP b.val sh.ety (e - k))) s

/-- VSLDN (R212). -/
def execVsldn (c : Bool) (p : PReg) (d : VReg) (a : SReg) (b : VReg) (s : State) : Out :=
  vpermx (Bits.vsldn c p d a b) permType c p d [b] (sMask a) (moved fun sh =>
    let k := (sh.reg a).toNat
    (sh.present p.val).map fun e =>
      (e, if e + k < sh.vl.toNat then sh.elemP b.val sh.ety (e + k) else (0, false))) s

/-- VPERM (R212). -/
def execVperm (c : Bool) (p : PReg) (d a b : VReg) (s : State) : Out :=
  vpermx (Bits.vperm c p d a b) permType c p d [a, b] 0 (fun sh =>
    let t := sh.ety
    let es := sh.present p.val
    (es.map fun e =>
      let i := sh.elem a.val t e
      (e, if i < sh.vl.toNat then sh.elemP b.val t i else (0, false)), 0,
      es.find? fun e => sh.elemPois a.val t e)) s

/-- VCOMP (R212). -/
def execVcomp (c : Bool) (p : PReg) (d b : VReg) (s : State) : Out :=
  vpermx (Bits.vcomp c p d b) permType c p d [b] 0 (moved fun sh =>
    (sh.present p.val).zipIdx.map fun (x : Nat × Nat) => (x.2, sh.elemP b.val sh.ety x.1)) s

/-- VXPND (R212). -/
def execVxpnd (c : Bool) (p : PReg) (d b : VReg) (s : State) : Out :=
  vpermx (Bits.vxpnd c p d b) permType c p d [b] 0 (moved fun sh =>
    (sh.present p.val).zipIdx.map fun (x : Nat × Nat) => (x.1, sh.elemP b.val sh.ety x.2)) s

/-- VIOTA (R212). -/
def execViota (c : Bool) (p : PReg) (d : VReg) (s : State) : Out :=
  vpermx (Bits.viota c p d) isInt c p d [] 0 (moved fun sh =>
    (sh.present p.val).zipIdx.map fun (x : Nat × Nat) => (x.1, x.2 % 2 ^ ebits sh.ety, false)) s

/-- VSCAN (R212). -/
def execVscan (c : Bool) (p : PReg) (d : VReg) (a : SReg) (b : VReg) (s : State) : Out :=
  vpermx (Bits.vscan c p d a b) sumType c p d [b] (sMask a) (fun sh =>
    let t := sh.ety
    let r := scanFrom (opAdd t sh.rm sh.sat) (bits (sh.reg a).toNat 0 (ebits t)) false
      ((sh.present p.val).map fun e => (e, sh.elemP b.val t e))
    (r.1, r.2, none)) s

/-- VMVS (R212). An element beyond VL reads as 0. -/
def execVmvs (c : Bool) (d a : SReg) (b : VReg) (s : State) : Out :=
  let sh := s.cur
  let g := sh.group
  let u : Uses := { c := c, cross := true, rV := regMask b.val g, sR := sMask a, sW := sMask d }
  run (member (Bits.vmvs c d a b) u [typeBad sh permType, groupBad sh b.val g] [] (do
    let s ← get
    let sh := s.cur
    let k := (sh.reg a).toNat
    if sh.vl.toNat ≤ k then writeReg d 0
    else if sh.elemPois b.val sh.ety k then onCur (·.meet (poisonAt sh k 4 0))
    else writeReg d (extOf sh.ety (sh.elem b.val sh.ety k))
    return { k := perGroup sh.ety })) s

/-- VMVV (R212). -/
def execVmvv (c : Bool) (d : VReg) (a b : SReg) (s : State) : Out :=
  let sh := s.cur
  let g := sh.group
  let u : Uses := { c := c, cross := true, wV := regMask d.val g, sR := sMask a ||| sMask b }
  run (member (Bits.vmvv c d a b) u [typeBad sh permType, groupBad sh d.val g] [] (do
    let s ← get
    let sh := s.cur
    let i := (sh.reg b).toNat
    let ws := if i < sh.vl.toNat then [i] else []
    onCur fun y => ws.foldl (fun y i => y.putElem d.val sh.ety i (bits (sh.reg a).toNat 0 (ebits sh.ety)) false) y
    return { k := perGroup sh.ety, code := sh.ety, base := d.val, wrote := ws })) s

end Sys2Proof.Machine
end

