-- ==== Sys2Proof/Machine/Engine.lean ====
section
/-!
DEFINITION. Sys2Proof/Machine/Engine.lean: the copy engines (R251, R252, R255 to R263), arrivals into landing zones (R275), and
the completion of treadles (R302 to R304).
-/
namespace Sys2Proof.Machine

/-! ## Virtual queues (R250, R251, R354) -/

/-- The loom whose engine performs a command: its core's, or, once that has left the partition, the partition's
lowest-numbered loom. -/
def State.engineLoom (s : State) (c : Cmd) : Nat :=
  let l := c.core / 4
  if s.loomHolder l = c.ctx.part then l else ((List.range 40).find? fun k => s.loomHolder k == c.ctx.part).getD l
/-- The head commands of a loom's virtual queues, one for each pair of core and owner. -/
def State.heads (s : State) (loom : Nat) : List Cmd :=
  (s.cmds.filter fun c => c.st != .running && s.engineLoom c == loom).foldl (fun acc c =>
    if acc.any fun x => x.core == c.core && x.owner == c.owner then acc else acc ++ [c]) []
/-- A command replaced, and a command gone. -/
def State.setCmd (s : State) (c : Cmd) : State :=
  { s with cmds := s.cmds.map fun (x : Cmd) => if x.key = c.key then c else x }
def State.dropCmd (s : State) (c : Cmd) : State :=
  { s with cmds := s.cmds.filter fun (x : Cmd) => x.key != c.key }
/-- The commands of a virtual queue that have not begun, the head first. -/
def State.queueOf (s : State) (c : Cmd) : List Cmd :=
  s.cmds.filter fun x => x.st != .running && x.core == c.core && x.owner == c.owner
/-- The command that becomes the head of a virtual queue once its head `c` has left it: its age counts from now. -/
def State.nextHead (s : State) (c : Cmd) : State :=
  match s.queueOf c with
  | x :: y :: _ => if x.key = c.key then s.setCmd { y with since := s.clock } else s
  | _ => s

/-- A change of the bobbin of a command. -/
def onBob (s : State) (c : Cmd) (f : Bobbin → Bobbin) : State :=
  match c.bob with
  | none => s
  | some n => s.onUid c.uid fun sh => sh.setBob n (f (sh.bobbins[n]?.getD {}))

/-! ## The engine as an agent (R16, R101) -/

/-- The memory unit, when it serves remote requests, treadle execution, and the host. -/
def farObs : Obs := { who := farSrc, core := none, agent := agVector }
def trdlObs (order : Nat) : Obs := { who := trdlSrc order, core := none, agent := agScalar }
/-- A command as an observer: no order holds between two commands of an engine. The bytes of a CPY.LZ of another chip, number 0,
are the memory unit's. -/
def Cmd.obs (c : Cmd) (s : State) : Obs :=
  if c.key = 0 then farObs
  else { who := cmdSrc c.key, core := some (engineCore (s.engineLoom c)), agent := agVector }
/-- What a release of the engine for a command covers (R101): its own writes, and what was ordered before its issue. -/
def Cmd.covers (c : Cmd) (s : State) (r : Store) : Bool :=
  let o := c.obs s
  r.src == o.who || (match r.performedFor o.core with
    | some t => decide (t ≤ c.floor)
    | none => false)

/-! ## Failure (R262, R304) -/

/-- A treadle whose operation fails: FAILED, with one entry of KIND 9 in the arming shuttle's error queue, or in the
function's once that shuttle has ended. -/
def failTreadle (s : State) (i cause outcome peer : Nat) (addr : Word) : State :=
  match s.treadles.find? fun (t : Treadle) => t.idx == i with
  | none => s
  | some t =>
    let s := { s with treadles := s.treadles.map fun (x : Treadle) =>
      if x.idx = i then { x with st := .failed, cause := cause, outcome := outcome, parked := [], leaf := none } else x }
    let w0 := eqHeader 9 cause outcome peer t.owner 0 i
    match s.byUid t.uid with
    | some _ => recordFailure s t.uid w0 addr
    | none => feqPush s t.part 8 t.shid t.launchId w0 addr

/-- The other chips that a command reaches: those of its sources, then of its destination (R262, R291). -/
def Cmd.peers (c : Cmd) (chip : Nat) : List Nat :=
  ((c.pins.filterMap (·.phys.remote)) ++ if c.form = 7 ∧ nameChip c.a ≠ chip then [nameChip c.a] else []).eraseDups

/-- What an error-queue entry says of a failed command: the fabric cause, the outcome, the chip, TSUB. -/
structure FailEntry where
  cause : Nat
  outcome : Nat
  peer : Nat
  tsub : Nat
  deriving DecidableEq, Repr
/-- The end of a command as FAILED: FCAUSE, the address kept for BSTAT, and its error-queue entry, where it makes one. Log entry 31, DEDUCED. -/
def failCmd (s : State) (c : Cmd) (fcause : Nat) (fva : Nat) (entry : Option FailEntry) : State :=
  let s := (s.nextHead c).dropCmd c
  let s := onBob s c fun b => { b with st := .failed, fcause := fcause, fva := fva }
  match c.trdl, entry with
  | some i, some e => failTreadle s i e.cause e.outcome e.peer c.a
  | some i, none => failTreadle s i 6 (if c.moved = 0 then 0 else 2) s.chip c.a
  | none, some e =>
    recordFailure s c.uid (eqHeader (if c.form = 7 then 7 else 6) e.cause e.outcome e.peer c.owner e.tsub 0) c.a
  | none, none => s
/-- FAILED with TARGET (R258, R275). -/
def failTarget (s : State) (c : Cmd) (sub : Nat) : State :=
  failCmd s c (5 + sub * 16) 0 (if sub = 9 then none else some ⟨if sub = 6 then 4 else 3, 0, nameChip c.a, sub⟩)
/-- FAILED with REMOTE. -/
def failRemote (s : State) (c : Cmd) (cause outcome peer : Nat) : State :=
  failCmd s c 4 0 (some ⟨cause, outcome, peer, 0⟩)

/-! ## The probe (R252) -/

/-- One address in each page of a range, and one in its second half, since HBM may end in the middle of a page (R84). -/
def pagesOf (a n : Nat) : List Nat :=
  if n = 0 then []
  else (List.range ((a + n - 1) / 32768 + 1 - a / 32768)).map fun i => max a ((a / 32768 + i) * 32768) % 2 ^ 64
/-- The pages of a command's sources and then its destinations, each with its kind. Log entry 29, DEDUCED. -/
def Cmd.probeList (c : Cmd) : List (Nat × Nat) :=
  let src := match c.form with
    | 3 | 4 => []
    | 6 => c.rows.flatMap fun i => pagesOf (rowAddr c.b c.rowlg i) (2 ^ c.rowlg)
    | _ => pagesOf c.b.toNat c.len
  let dst := match c.form with
    | 2 | 4 | 7 => []
    | _ => pagesOf c.a.toNat (destLen c.fold c.ftype c.len)
  src.map (fun a => (a, 0)) ++ dst.map fun a => (a, if c.fold = 0 then 1 else 2)

/-- What a probe has found so far: translations, misses, whether it waits for one, the first leaf that holds it up, the fault
that stops it. -/
structure Probe where
  found : List Found
  missed : List Miss
  waits : Bool := false
  leaf : Option HeldLeaf := none
  fault : Option (Nat × Word × Word) := none
  deriving DecidableEq, Repr

/-- The probe of a command over the pages of a list; a fault stops it. A window is that of a core of the command's partition:
log entry 71, DEDUCED. -/
def probeFrom (ctx : Ctx) (core : Nat) : List (Nat × Nat) → Probe → State → Probe × State
  | [], r, s => (r, s)
  | (va, k) :: t, r, s =>
    match xlate ctx core va k r.found r.missed [] (0, 0) s with
    | (.ok p, s) =>
      if p.win && s.loomHolder (core / 4) != ctx.part then ({ r with fault := some (cACCESS, w64 va, 2) }, s)
      else if p.mtype = 2 then ({ r with fault := some (cACCESS, w64 va, 5) }, s)
      else probeFrom ctx core t { r with found := addFound va k p r.found } s
    | (.fault q ea ei, s) => ({ r with fault := some (q, ea, ei) }, s)
    | (.page m, s) => probeFrom ctx core t { r with missed := addMiss m r.missed, waits := true } s
    | (.leaf l, s) => probeFrom ctx core t { r with leaf := r.leaf <|> some l } s

/-- The FCAUSE of a probe fault. -/
def probeCause (cause : Nat) (ei : Word) : Nat :=
  if cause = cPAGEFAULT then 1 else if cause = cACCESS then 2 + bits ei.toNat 0 4 * 16 else 4

/-- The shuttle that a CPY.RR writes. -/
def State.aimOf (s : State) (c : Cmd) : Option Shuttle :=
  s.at (4 * (c.core / 4) + bits c.a.toNat 8 2) (bits c.a.toNat 5 3)
/-- Whether the target of CPY.RR is unavailable (R258). -/
def State.rrBad (s : State) (c : Cmd) : Bool :=
  match s.aimOf c with
  | none => true
  | some sh =>
    sh.place.part != c.ctx.part || sh.convoy.cut.isSome || (sh.again.bind (·.cut)).isSome || sh.stopping.isSome
      || decide (sh.place.vregs < bits c.a.toNat 0 5 + ceilDiv c.len sh.vlen)

/-- A command whose probe has succeeded begins, unless a path that it needs is lost. -/
def beginCmd (s : State) (c : Cmd) (found : List Found) : State :=
  let c' := { c with st := .running, pins := found, missed := [], aim := ((s.aimOf c).map (·.uid)).getD 0 }
  match (c'.peers s.chip).find? fun p => (s.path p).lost with
  | some p => failRemote s c (s.lostCause p) 0 p
  | none => (s.nextHead c).setCmd c'
/-- A chosen command is probed, and begins if the probe succeeds; what the probe has found stays pinned (R252). -/
def startCmd (s : State) (c : Cmd) : State :=
  if c.form = 4 ∧ s.rrBad c then failTarget s c 9
  else
    let (r, s) := probeFrom c.ctx c.core c.probeList { found := c.pins, missed := c.missed } s
    let kept := { c with pins := r.found, missed := r.missed }
    match r.waits, r.leaf, r.fault with
    | true, _, _ => s.setCmd { kept with st := .parked }
    | false, some l, _ => s.setCmd { kept with st := .held l }
    | false, none, some (q, ea, ei) =>
      if q = cSOURCE then failRemote s c (bits ei.toNat 8 4) 0 (bits ei.toNat 0 8)
      else failCmd s c (probeCause q ei) ea.toNat none
    | false, none, none => beginCmd s c r.found

/-- The contenders of a loom's copy-engine arbiter (R251, R395); a capture holds those of its partition (R364). -/
def State.copyContenders (s : State) (loom : Nat) : List (Contender Cmd) :=
  ((s.heads loom).filter fun c => c.st == .queued && !(s.part c.ctx.part).capturing).map fun c =>
    { input := 64 * (c.core % 4) + c.owner, owner := c.owner, since := c.since, what := c }
/-- The engine of a loom chooses a head command by the harm rule, one in a clock (R251, R309); the others wait in that clock on the
account of its blame tag (R312, R319). -/
def chooseCmd (s : State) (loom : Nat) : State :=
  let a := s.arb 4 loom
  let cs := s.copyContenders loom
  if a.accounted s.clock then s
  else match ranked s a cs with
  | [] => s
  | w :: rest =>
    let s := startCmd s w.what
    let a := a.after s w cs
    s.chargeClock (arbKey 4 loom) { a with holder := some (w.what.key, s.clock) }
      (rest.map fun c => (c.owner, w.what.blame.at_ s.clock))
/-- The command whose requests a loom's engine is issuing. -/
def State.issuing (s : State) (loom : Nat) : Option Cmd :=
  (s.arb 4 loom).holder.bind fun h => s.cmds.find? fun c => c.key == h.1 && c.st == .running
/-- The charges of a loom's copy-engine arbiter in a clock in which it has chosen nothing: the heads wait for the command whose
requests are issuing, on the account of its blame tag, or, where there is none, of owner 63 (R311, R312, R319). -/
def chargeCopy (s : State) (loom : Nat) : State :=
  let a := s.arb 4 loom
  let cs := s.copyContenders loom
  if cs.isEmpty then s
  else
    let culprit := ((s.issuing loom).map (·.blame.at_ s.clock)).getD 63
    s.chargeClock (arbKey 4 loom) a (cs.map fun c => (c.owner, culprit))

/-! ## Landing zones (R275) -/

/-- The bytes of a slot (R273). -/
def Zone.slotKey (z : Zone) (i off : Nat) : Nat := spadKey z.core (z.base - windowBase + i * 2 ^ z.szlg + off)

/-- The check of an arrival at the zone's chip, after that of R279: the code of the refusal, or the zone with its claim
made. -/
def acceptArrival (s : State) (token : Word) (len src : Nat) : Nat ⊕ Zone :=
  let i := nameSlot token
  match s.zone token with
  | none => .inl 3
  | some z =>
    let t := z.slot i
    if z.closing ∨ z.slots.length ≤ i then .inl 3
    else if t.st ≠ .reserved ∨ t.holder ≠ src then .inl 7
    else if t.len < nameOffset token + len ∨ t.len < t.claimed + len then .inl 8
    else .inr (z.setSlot i { t with claimed := t.claimed + len })

/-- `n` bytes have landed in a slot: it may complete, with its counter bump, which is a release that covers every byte in the
slot and what `covers` names (R98, R101). -/
def landed (s : State) (token : Word) (n : Nat) (covers : Store → Bool) : State :=
  match s.zone token with
  | none => s
  | some z =>
    let i := nameSlot token
    let t := z.slot i
    let arr := t.arr + n
    if t.st ≠ .reserved then s
    else if arr = t.len then
      let inSlot (r : Store) : Bool := r.hits (z.slotKey i 0) (2 ^ z.szlg)
      let s := s.performed (fun r => inSlot r || covers r) .chip
      let s := s.setZone (z.setSlot i { t with arr := arr, st := .complete, at_ := s.now })
      if z.cen then counterAdd s z.ctr 1 else s
    else s.setZone (z.setSlot i { t with arr := arr })

/-! ## Moving bytes (R255 to R260) -/

/-- A place of storage: its key, whether it is another chip's, whether it may be written with poison. -/
structure Spot where
  key : Nat
  remote : Bool
  poisonOk : Bool
  deriving DecidableEq, Repr

/-- The storage behind an address of a command for a kind of access, which its probe has found. -/
def Cmd.spot (c : Cmd) (va kind : Nat) : Option Spot :=
  if inWindow va then some { key := spadKey c.core (va - windowBase), remote := false, poisonOk := true }
  else (c.pins.find? fun p => p.vpage == va / 65536 && p.kind == kind).map fun p =>
    { key := p.phys.key + va % 65536, remote := p.phys.remote.isSome, poisonOk := p.phys.pcap && p.phys.mtype != 3 }
/-- The kind of the accesses to a command's destination. -/
def Cmd.dstKind (c : Cmd) : Nat := if c.fold = 0 then 1 else 2
/-- The address of source byte k. -/
def Cmd.srcAddr (c : Cmd) (k : Nat) : Nat :=
  if c.form = 6 then (rowAddr c.b c.rowlg (c.rows.getD (k / 2 ^ c.rowlg) 0) + k % 2 ^ c.rowlg) % 2 ^ 64
  else (c.b.toNat + k) % 2 ^ 64
/-- The place of destination byte k, of a destination in storage. -/
def Cmd.dstSpot (c : Cmd) (s : State) (k : Nat) : Option Spot :=
  if c.form = 7 then
    if nameChip c.a = s.chip then
      (s.zone c.a).map fun z => { key := z.slotKey (nameSlot c.a) (nameOffset c.a + k), remote := false, poisonOk := true }
    else some { key := 0, remote := true, poisonOk := true }
  else c.spot ((c.a.toNat + k) % 2 ^ 64) c.dstKind

/-- The offset of source byte 0 and of destination byte 0 in their 8-byte words; register bytes are numbered from 0. -/
def Cmd.srcPhase (c : Cmd) : Nat := if c.form = 3 ∨ c.form = 4 then 0 else c.b.toNat % 8
def Cmd.dstPhase (c : Cmd) : Nat := if c.form = 2 ∨ c.form = 4 then 0 else (if c.form = 7 then nameOffset c.a else c.a.toNat) % 8
/-- Whether byte `k` lies in an 8-byte word of the source, all of which moves, whose destination is such a word too (R256); the words
of a CPY.GS lie in one row. -/
def Cmd.inWord (c : Cmd) (k : Nat) : Bool :=
  let o := (c.srcPhase + k) % 8
  c.srcPhase == c.dstPhase && decide (o ≤ k ∧ k - o + 8 ≤ c.len)
    && (c.form != 6 || (k - o) / 2 ^ c.rowlg == (k - o + 7) / 2 ^ c.rowlg)
/-- Whether an access begins at byte `k`: one for each such word, and one for every other byte (R256). -/
def Cmd.startsAt (c : Cmd) (k : Nat) : Bool := !c.inWord k || (c.srcPhase + k) % 8 == 0
/-- `n` bytes from `k` cut into runs that begin where `p` holds. -/
def runsOf (p : Nat → Bool) : (n k : Nat) → List (Nat × Nat)
  | 0, _ => []
  | n + 1, k =>
    match runsOf p n (k + 1) with
    | [] => [(k, 1)]
    | (j, m) :: t => if p j then (k, 1) :: (j, m) :: t else (k, m + 1) :: t

/-- One access of a source in storage: `n` bytes from byte `k`, with their marks; the fabric brings those of a remote source. -/
def Cmd.readOnce (c : Cmd) (lo k n : Nat) (rdata : List Byte) (rpois : Nat) (s : State) : (Nat × Nat) × State :=
  match c.spot (c.srcAddr k) 0 with
  | none => ((0, 0), s)
  | some p =>
    if p.remote then
      (((List.range n).foldr (fun j acc => (rdata.getD (k - lo + j) 0).toNat + 256 * acc) 0, bits rpois (k - lo) n), s)
    else
      let (x, s) :=
        if s.disputed p.key n then { s with fresh := s.fresh + 1 }.viewLoad (c.obs s) c.floor s.fresh p.key n
        else ({ v := (s.load p.key n).1, pois := (s.load p.key n).2, time := 0 }, s)
      ((x.v, if x.pois then 2 ^ n - 1 else 0), s)
/-- Source bytes lo to lo + n − 1 as one number with their marks. -/
def Cmd.readBytes (c : Cmd) (lo n : Nat) (rdata : List Byte) (rpois : Nat) (s : State) : (Nat × Nat) × State :=
  if c.form = 3 ∨ c.form = 4 then
    match s.byUid c.uid with
    | some sh => ((List.range n).foldr (fun j acc =>
        (sh.groupByte c.regB (lo + j) + 256 * acc.1, (sh.groupPois c.regB (lo + j)).toNat + 2 * acc.2)) (0, 0), s)
    | none => ((0, 0), s)
  else
    (runsOf c.startsAt n lo).foldl (fun (r : (Nat × Nat) × State) x =>
      let (w, s) := c.readOnce lo x.1 x.2 rdata rpois r.2
      ((r.1.1 + w.1 * 256 ^ (x.1 - lo), r.1.2 + w.2 * 2 ^ (x.1 - lo)), s)) ((0, 0), s)

/-- The bytes of register `r` that a copy brings: those of byte `lo` on of the group based at `base`. -/
def landReg (vlen base lo n v pm r : Nat) (x : VecReg) : VecReg :=
  (List.range n).foldl (fun (x : VecReg) j =>
    if base + (lo + j) / vlen = r then x.put vlen 0x04 ((lo + j) % vlen) (bits v (8 * j) 8) (bit pm j) else x) x
/-- The bytes of a register group of a shuttle from byte `lo` on. An open convoy that is cut keeps what the copy has brought, and its
HWEMAP bits (R45). -/
def Shuttle.putGroupBytes (sh : Shuttle) (base lo n v pm : Nat) : Shuttle :=
  let land := landReg sh.vlen base lo n v pm
  let sh' := (List.range n).foldl (fun (sh : Shuttle) j => sh.putGroupByte base (lo + j) (bits v (8 * j) 8) (bit pm j)) sh
  if sh.convoy.isOpen && n != 0 then
    let c := sh.convoy
    let touched := regMask (base + lo / sh.vlen) ((lo + n - 1) / sh.vlen + 1 - lo / sh.vlen)
    { sh' with convoy := { c with
      snapV := c.snapV.zipIdx.map fun x => land x.2 x.1
      snapMap := c.snapMap ||| w64 touched
      members := c.members.map fun m => { m with vregs := m.vregs.map fun x => (x.1, land x.1 x.2) } } }
  else sh'
/-- Bytes lo to lo + n − 1 of the destination, as one number with its marks, with the times of each store. What a CPY.RR brings is
written while the shuttle that it aims at is in its slot: log entry 71, DEDUCED. -/
def Cmd.putBytes (c : Cmd) (lo n v pm : Nat) (s : State) : State × List Landing :=
  match c.form with
  | 2 => (s.onUid c.uid fun sh => sh.putGroupBytes c.regA lo n v pm, [])
  | 4 =>
    match s.aimOf c with
    | none => (s, [])
    | some t => (if t.uid = c.aim then s.onUid t.uid fun sh => sh.putGroupBytes (bits c.a.toNat 0 5) lo n v pm else s, [])
  | _ =>
    (runsOf c.startsAt n lo).foldl (fun (r : State × List Landing) x =>
      let s := r.1
      match c.dstSpot s x.1 with
      | some p =>
        if p.remote then r
        else
          let t := s.storeBy (c.obs s) c.floor p.key x.2 (bits v (8 * (x.1 - lo)) (8 * x.2)) (bits pm (x.1 - lo) x.2 != 0) false
          (t, r.2 ++ [{ lo := x.1, n := x.2, from_ := s.now, upTo := t.now }])
      | none => r) (s, [])

/-- The maximum and the minimum of a fold, an integer type in its own signedness (R257). -/
def foldMax (t frm : Nat) : Op2 := fun x y =>
  if isFloat t then redMax t frm x y else (if intVal t x ≤ intVal t y then y else x, 0)
def foldMin (t frm : Nat) : Op2 := fun x y =>
  if isFloat t then redMin t frm x y else (if intVal t x ≤ intVal t y then x else y, 0)
/-- ⊕ of a fold (R257): FOLD 2 is the maximum, FOLD 3 the minimum, the others add. -/
def foldOp (fold t frm : Nat) : Op2 :=
  if fold = 2 then foldMax t frm else if fold = 3 then foldMin t frm else opAdd t frm false

/-- What a fold has done: the flags, the first element that may not be written with its poison, the times of its stores. -/
structure Folded where
  flags : Nat := 0
  bad : Option Nat := none
  runs : List Landing := []
  deriving DecidableEq, Repr
/-- Elements folded into a destination one by one (FOLD 1 to 3). -/
def Cmd.foldBytes (c : Cmd) (lo n v pm : Nat) (s : State) : State × Folded :=
  let w := ebits c.ftype / 8
  (List.range (n / w)).foldl (fun (r : State × Folded) j =>
    let k := lo + j * w
    match r.2.bad, c.dstSpot r.1 k with
    | none, some p =>
      if p.remote then r
      else
        let s := r.1.readNewest (c.obs r.1) p.key w
        let (old, op) := s.load p.key w
        let x := foldOp c.fold c.ftype c.frm old (bits v (8 * w * j) (8 * w))
        let bad := op || bits pm (w * j) w != 0
        if bad && !p.poisonOk then (s, { r.2 with bad := some k })
        else
          let t := s.storeBy (c.obs s) c.floor p.key w x.1 bad true
          (t, { flags := if bad then r.2.flags else r.2.flags ||| x.2
                runs := r.2.runs ++ [{ lo := k, n := w, from_ := s.now, upTo := t.now }] })
    | _, _ => r) (s, {})
/-- The flags of a fold at a destination on another chip. Log entry 34, DESIGN CHOICE. -/
def Cmd.farFlags (c : Cmd) (s : State) : Nat × State :=
  match c.fold != 0 && isFloat c.ftype, c.dstSpot s 0 with
  | true, some p => if p.remote then (Config.farFlags s.fresh % 32, { s with fresh := s.fresh + 1 }) else (0, s)
  | _, _ => (0, s)

/-- Whether an arrival cuts no 8-byte word that moves as one access, and no element of a fold (R256, R257). -/
def Cmd.whole (c : Cmd) (lo n : Nat) : Bool :=
  let ends (k : Nat) : Bool :=
    k == 0 || k == c.len || if c.fold = 0 then c.startsAt k else k % (ebits c.ftype / 8) == 0
  ends lo && ends (lo + n)
/-- Whether the destination may not hold poison somewhere, so that the engine keeps to ascending order (R259). -/
def Cmd.strict (c : Cmd) : Bool := c.fold == 4 || c.pins.any fun p => p.kind == c.dstKind && (!p.phys.pcap || p.phys.mtype == 3)

/-- A bit set of bytes lo to lo + n − 1. -/
def span (lo n : Nat) : Nat := (2 ^ n - 1) * 2 ^ lo

/-- Bytes lo to lo + n − 1 of a command have been written: the views of its bobbin are updated as a release of LOOM scope
(R263), which covers the stores of `runs`. -/
def Cmd.arrived (c : Cmd) (s : State) (lo n fl : Nat) (runs : List Landing) : State :=
  let s := s.setCmd { c with moved := c.moved ||| span lo n, accepted := true }
  let s := s.performed (c.covers s) (.loom (s.engineLoom c))
  let s := onBob s c fun b =>
    { b with written := b.written ||| span lo n, fflg := b.fflg ||| fl, at_ := s.now, landings := b.landings ++ runs }
  if c.form = 7 ∧ nameChip c.a = s.chip then landed s c.a n (c.covers s) else s

/-- Bytes lo to lo + n − 1 of a running command's source arrive and are written or folded. Log entry 21, DESIGN CHOICE. -/
def moveBytes (s : State) (c : Cmd) (lo n : Nat) (rdata : List Byte) (rpois : Nat) : State :=
  let ((v, pm), s) := c.readBytes lo n rdata rpois s
  if 4 ≤ c.fold then
    s.setCmd { c with moved := c.moved ||| span lo n, accepted := true, acc := c.acc ||| v * 2 ^ (8 * lo),
                      accPoison := c.accPoison || pm != 0 }
  else if c.fold ≠ 0 then
    let (s, f) := c.foldBytes lo n v pm s
    let (far, s) := c.farFlags s
    let fl := f.flags ||| far
    match f.bad with
    | none => c.arrived s lo n fl f.runs
    | some k =>
      failCmd (c.arrived s lo (k - lo) fl f.runs) { c with moved := c.moved ||| span lo (k - lo) } 3 ((c.a.toNat + k) % 2 ^ 64) none
  else
    let regs := c.form == 2 || c.form == 4
    let bad := if regs then none else (List.range n).find? fun j =>
      bit pm j && (match c.dstSpot s (lo + j) with
        | some p => !p.poisonOk
        | none => false)
    let m := bad.getD n
    let (s, runs) := c.putBytes lo m v pm s
    let s := c.arrived s lo m 0 runs
    match bad with
    | none => s
    | some j => failCmd s { c with moved := c.moved ||| span lo j } 3 ((c.a.toNat + lo + j) % 2 ^ 64) none

/-- The acceptance of a CPY.LZ to a zone of this chip at its first arrival. -/
def acceptLocal (s : State) (c : Cmd) : Nat ⊕ State :=
  if c.form ≠ 7 ∨ nameChip c.a ≠ s.chip ∨ c.accepted then .inr s
  else if s.loomHolder (nameCore c.a / 4) ≠ c.ctx.part then .inl 6
  else match acceptArrival s c.a c.len s.chip with
    | .inl q => .inl q
    | .inr z => .inr (s.setZone z)

/-- COPY_DATA_ARRIVAL: the next bytes of a running command, if the engine may deliver them; those for a slot of this chip wait until
the remote stores that were ordered before the command are acknowledged, since the slot's completion covers them (R97, R101). -/
def arrive (s : State) (loom key lo n : Nat) (rdata : List Byte) (rpois : Nat) : State :=
  match s.cmds.find? fun c => c.key == key && c.st == .running && s.engineLoom c == loom with
  | none => s
  | some c =>
    if n = 0 ∨ c.len < lo + n ∨ bits c.moved lo n ≠ 0 ∨ !c.whole lo n ∨ (c.strict ∧ lo ≠ trailingOnes c.moved)
        ∨ (c.form = 7 ∧ nameChip c.a = s.chip ∧ s.unacked c.floor) then s
    else match acceptLocal s c with
      | .inl q => failTarget s c q
      | .inr s => moveBytes s c lo n rdata rpois

/-! ## Completion (R254, R257, R261) -/

/-- The scalar of FOLD 4 or 5: the element at the destination after the command, its flags and its poison. -/
def Cmd.scalar (c : Cmd) (old : Nat) : Nat × Nat :=
  let w := ebits c.ftype
  let xs := (List.range (8 * c.len / w)).map fun i => some (bits c.acc (w * i) w)
  let op := foldOp c.fold c.ftype c.frm
  if c.fold = 4 then seqSum op old xs else treeSum op old xs

/-- The command's end as DONE. Its counter bump is a release of PART scope that covers what R101 names; what a treadle's copy wrote
is covered by the captured CTR.ADD that waits for it (R303). -/
def finishCmd (s : State) (c : Cmd) (fl : Nat) (runs : List Landing) : State :=
  let s := (s.performed (c.covers s) (if c.cen || c.trdl.isSome then .chip else .loom (s.engineLoom c))).dropCmd c
  let s := onBob s c fun b => { b with st := .done, written := 2 ^ c.len - 1, fflg := b.fflg ||| fl, at_ := s.now, landings := b.landings ++ runs }
  let s := match c.trdl with
    | some i => s.dropTreadle i
    | none => s
  if c.cen then counterAdd s c.ctr 1 else s

/-- COPY_DONE: every byte has moved; the scalar of FOLD 4 and 5 is written, those of one virtual queue and destination
in issue order. A PART release waits until the remote stores that were ordered before the command are acknowledged (R97, R101). -/
def completeCmd (s : State) (loom key : Nat) : State :=
  match s.cmds.find? fun c => c.key == key && c.st == .running && s.engineLoom c == loom with
  | none => s
  | some c =>
    let earlier := (s.cmds.takeWhile fun x => x.key != key).any fun x =>
      x.fold == 4 && x.core == c.core && x.owner == c.owner && x.a == c.a
    if c.moved ≠ 2 ^ c.len - 1 ∨ (c.fold = 4 ∧ earlier) ∨ ((c.cen ∨ c.form = 7) ∧ s.unacked c.floor) then s
    else if c.fold < 4 then finishCmd s c 0 []
    else match c.dstSpot s 0 with
      | none => finishCmd s c 0 []
      | some p =>
        if p.remote then
          let (fl, s) := c.farFlags s
          finishCmd s c fl []
        else
          let w := ebits c.ftype / 8
          let s := s.readNewest (c.obs s) p.key w
          let (old, op) := s.load p.key w
          let x := c.scalar old
          let bad := op || c.accPoison
          if bad && !p.poisonOk then failCmd s c 3 c.a.toNat none
          else
            let t := s.storeBy (c.obs s) c.floor p.key w x.1 bad true
            let runs : List Landing := [{ lo := 0, n := c.len, from_ := s.now, upTo := t.now }]
            let t := if c.form = 7 then landed t c.a c.len (c.covers t) else t
            finishCmd t c (if bad then 0 else x.2) runs

/-! ## Arrivals from another chip -/

/-- Whether the resource of a partition may be reached by a tenant (R279). -/
def State.admits (s : State) (part tenant : Nat) : Bool := s.tenantOf part == tenant
/-- The memory unit's answer. Log entry 55, DESIGN CHOICE. -/
def answer (s : State) (code : Nat) (bytes : List Byte) (pois : Nat) : State :=
  { s with fabric := { s.fabric with reply := some (code, bytes, pois) } }

/-- One request of another chip is taken: its flits have all been accepted, and it is performed once (R292). -/
def takeArrival (s : State) (src : Nat) : State :=
  let p := s.path src
  s.setPath src { p with arrived := p.arrived - 1, owed := if p.lost then p.owed else p.owed + 1 }
/-- The fabric energy of a request at its target, on the account of the remote owner of the partition that accepts it (R279,
R320). -/
def chargeRemote (s : State) (part : Nat) : State :=
  { s with fresh := s.fresh + 1 }.spend (s.remoteOwner part) 2 (Config.flitBytes s.fresh)


/-- The copy under a sender's CPCTL that the bytes of an arrival stand for; its owner is the zone's partition's remote owner
(R279); what has been performed by `now` comes before its stores (R99). -/
def arrivalCmd (core owner : Nat) (tok cp : Word) (len now : Nat) : Cmd :=
  { key := 0, core := core, owner := owner, form := 7, uid := 0, bob := none, trdl := none, a := tok, b := 0, len := len,
    rows := [], rowlg := 0, regA := 0, regB := 0, fold := cpFold cp, ftype := cpFtype cp, frm := cpFrm cp, cen := false,
    ctr := 0, ctx := ⟨16, .s⟩, st := .running, since := 0, aim := 0, pins := [], missed := [], moved := 0, accepted := true,
    acc := 0, accPoison := false, floor := now, sent := false
    blame := { owner := owner, tag := owner, next := owner, nextAt := 0 } }

/-- A CPY.LZ of another chip (R275): its acceptance or refusal, and its bytes under the sender's CPCTL. Log entry 34, DESIGN CHOICE, 35, DESIGN CHOICE. -/
def zoneArrival (s : State) (src tenant token len cpctl : Nat) (rdata : List Byte) (rpois : Nat) : State :=
  let tok := w64 token
  let cp := w64 cpctl
  let fold := cpFold cp
  let w := ebits (cpFtype cp) / 8
  let part := s.loomHolder (nameCore tok / 4)
  if (s.path src).arrived = 0 ∨ nameChip tok ≠ s.chip ∨ rdata.length > len then s
  else if !s.admits part tenant then answer (takeArrival s src) 6 [] 0
  else match acceptArrival s tok len src with
    | .inl q => answer (takeArrival s src) q [] 0
    | .inr z =>
      let s := chargeRemote ((takeArrival s src).setZone z) part
      let c := arrivalCmd z.core (s.remoteOwner part) tok cp len s.now
      let n := rdata.length
      let v := rdata.foldr (fun x acc => x.toNat + 256 * acc) 0
      let s :=
        if n = 0 then s
        else if fold = 0 then landed (c.putBytes 0 n v rpois s).1 tok n (c.covers s)
        else if fold ≤ 3 then landed (c.foldBytes 0 (n / w * w) v rpois s).1 tok (n / w * w) (c.covers s)
        else if n < len then s
        else
          let k := z.slotKey (nameSlot tok) (nameOffset tok)
          let s := s.readNewest (c.obs s) k w
          let (old, op) := s.load k w
          let x := { c with acc := v }.scalar old
          landed (s.storeBy (c.obs s) c.floor k w x.1 (op || bits rpois 0 n != 0) true) tok len (c.covers s)
      answer s 0 [] 0

/-- A reservation request of another chip (R274). -/
def zoneRequest (s : State) (src tenant name len : Nat) : State :=
  let n := w64 name
  let part := s.loomHolder (nameCore n / 4)
  if (s.path src).arrived = 0 ∨ nameChip n ≠ s.chip then s
  else if !s.admits part tenant then answer (takeArrival s src) 0 (toBytes 6 8) 0
  else
    let (r, s) := reserveSlot (chargeRemote (takeArrival s src) part) n len src
    answer s 0 (toBytes r.toNat 8) 0

/-- A closing zone in which nothing lands any more is freed; the LZ.CLOSE that waits for it is over. Where its shuttle has been
pre-empted in that wait, the zone stays until it executes its LZ.CLOSE again (R276). Log entry 58, DEDUCED. -/
def closeComplete (s : State) (core num : Nat) : State :=
  match s.zones.find? fun (z : Zone) => z.core == core && z.num == num && z.closing with
  | none => s
  | some z =>
    if s.landing z then s
    else match (s.byUid z.uid).map (·.status) with
      | none => s.dropZone z
      | some Status.ending => s.dropZone z
      | some st =>
        if st = .waiting (.zone num) then (s.dropZone z).onUid z.uid fun sh => { sh.settled with pc := sh.pc + 4 } else s

/-! ## Treadles (R302 to R304) -/

/-- The operation of a treadle is over: the entry is FREE. -/
def freeTreadle (s : State) (t : Treadle) : State := s.dropTreadle t.idx
/-- Whether a target reports a failure: it is TARGET_ERROR, REFUSED as a whole, or POISONED; the loss of a path or peer is no report
(R279, R280, R291, R292). -/
def reported (cause outcome : Nat) : Bool := cause == 3 || cause == 5 || (cause == 4 && outcome == 0)
/-- The fate of a treadle's remote operation: on a lost path it fails unsent, otherwise the target answers what has been sent. -/
def farEnd (s : State) (t : Treadle) (chip : Nat) (ok : Bool) (cause outcome : Nat) (addr : Word) : State :=
  if (s.path chip).lost then failTreadle s t.idx (s.lostCause chip) 0 chip addr
  else if !t.sent then s
  else if ok then freeTreadle s t
  else if reported cause outcome then failTreadle s t.idx cause outcome chip addr
  else s
/-- What a firing store or atomic finds where its address leads. -/
def treadleAccess (s : State) (t : Treadle) (va : Word) (kind : Nat) (ok : Bool) (cause outcome : Nat)
    (perform : Phys → State → State) : State :=
  let (r, s) := xlate t.ctx t.core va.toNat kind [] t.parked [] (0, 0) s
  match r with
  | .ok p =>
    if p.win && s.loomHolder (t.core / 4) != t.part then failTreadle s t.idx 6 0 s.chip va
    else match p.remote with
      | none => perform p s
      | some c => farEnd s t c ok cause outcome va
  | .fault .. => failTreadle s t.idx 6 0 s.chip va
  | .page m => { s with treadles := s.treadles.map fun (x : Treadle) =>
      if x.idx = t.idx then { x with parked := [m], leaf := none } else x }
  | .leaf l => { s with treadles := s.treadles.map fun (x : Treadle) => if x.idx = t.idx then { x with leaf := some l } else x }
/-- What a captured CTR.ADD covers (R303): the writes of treadle execution. -/
def byTreadle (r : Store) : Bool := decide (2 ^ 64 ≤ r.src) && r.src % 4 == 1

/-- Whether every operation that fired earlier from the counter of a treadle has been performed (R303). -/
def State.turnOf (s : State) (t : Treadle) : Bool :=
  !s.treadles.any fun (x : Treadle) => x.st == .firing && x.ctr == t.ctr && decide (x.fired < t.fired)
/-- TREADLE_COMPLETE: the captured CTR.ADD, AMO or ST of a FIRING treadle is performed; a remote one ends as the fabric
reports. A CTR.ADD waits for every operation that fired earlier from its counter (R303). -/
def completeTreadle (s : State) (i : Nat) (ok : Bool) (cause outcome : Nat) : State :=
  match s.treadles.find? fun (t : Treadle) => t.idx == i && t.st == .firing with
  | none => s
  | some t =>
    match t.op with
    | .ctrAdd ref v =>
      if !s.turnOf t then s
      else
        let r := ref.toNat
        if bit r 40 && bits r 32 8 != s.chip then
          farEnd (s.performed byTreadle .chip) t (bits r 32 8) ok cause outcome ref
        else
          counterAdd (freeTreadle (s.performed byTreadle .chip) t) (bits r 0 16) v
    | .amo op dbl a v =>
      let n := if dbl then 8 else 4
      treadleAccess s t a 2 ok cause outcome fun p s =>
        let s := s.readNewest (trdlObs t.order) p.key n
        let (old, pois) := s.load p.key n
        if pois then failTreadle s i (if p.win || decide (2 ^ 43 ≤ p.key % 2 ^ 44) then 6 else 5) 0 s.chip a
        else freeTreadle
          (s.storeBy (trdlObs t.order) t.floor p.key n (amoResult op n old (bits v.toNat 0 (8 * n)) % 256 ^ n) false true) t
    | .st n a v =>
      treadleAccess s t a 1 ok cause outcome fun p s =>
        freeTreadle (s.storeBy (trdlObs t.order) t.floor p.key n (v.toNat % 256 ^ n) false false) t
    | _ => s

end Sys2Proof.Machine
end

