-- ==== Sys2Proof/Machine/Pages.lean ====
section
/-!
DEFINITION. Sys2Proof/Machine/Pages.lean: page responses (R336), invalidations (R337), migrations (R340 to R343) and the
copying of granules into a checkpoint bank (R365).
-/
namespace Sys2Proof.Machine

/-! ## Runs of storage -/

/-- `n` bytes from `src` copied to `dst`. -/
def copyRange (m : List Host.Cell) (src dst n : Nat) : List Host.Cell :=
  m.filter (fun c => decide (c.1 < dst))
    ++ (m.filter fun c => decide (src ≤ c.1 ∧ c.1 < src + n)).map (fun c => (c.1 - src + dst, c.2))
    ++ m.filter (fun c => decide (dst + n ≤ c.1))
/-- The marks of `n` words from word `src` copied to word `dst`. -/
def copyMarks (p : List Nat) (src dst n : Nat) : List Nat :=
  p.filter (fun w => decide (w < dst))
    ++ (p.filter fun w => decide (src ≤ w ∧ w < src + n)).map (fun w => w - src + dst)
    ++ p.filter (fun w => decide (dst + n ≤ w))
/-- `n` bytes of zeros from `k`. -/
def zeroRange (m : List Host.Cell) (k n : Nat) : List Host.Cell := m.filter fun c => decide (c.1 < k ∨ k + n ≤ c.1)
def zeroMarks (p : List Nat) (k n : Nat) : List Nat := p.filter fun w => decide (w < k ∨ k + n ≤ w)
/-- The stores to a page whose order before the loads of others is still open, as they stand at its copy (R99). -/
def State.copyStores (s : State) (src dst : Nat) : List Store :=
  (s.stores.filter fun r => decide (src ≤ r.key ∧ r.key + r.old.length ≤ src + 65536)).map fun r =>
    { r with key := r.key - src + dst }
/-- A 64 KiB page copied with its poison marks and with what loads may still miss. Log entry 8, DESIGN CHOICE. -/
def State.copyPage (s : State) (src dst : Nat) : State :=
  { s.settleBytes dst 65536 with
    stores := s.copyStores src dst ++ (s.settleBytes dst 65536).stores
    mem := copyRange s.mem src dst 65536, poisoned := copyMarks s.poisoned (src / 8) (dst / 8) 8192 }
/-- Bytes that no rule gives, `n` from `dst`, as cells. -/
def freeCells (byte : Nat → Byte) (dst n : Nat) : List Host.Cell :=
  (List.range n).filterMap fun i => if byte i = emptyByte then none else some (dst + i, byte i)
/-- `n` bytes from `src` copied to `dst` with their poison marks: whole words. -/
def State.copyBytes (s : State) (src dst n : Nat) : State :=
  { s.settleBytes dst n with mem := copyRange s.mem src dst n, poisoned := copyMarks s.poisoned (src / 8) (dst / 8) (n / 8) }
/-- A 64 KiB page of another chip pulled to `dst`: what it holds is that chip's, a free value here (R343). -/
def State.pullPage (s : State) (dst : Nat) : State :=
  let cells := freeCells (Config.pulledByte s.fresh) dst 65536
  let marks := (List.range 8192).filterMap fun i => if Config.pulledPoison s.fresh i then some (dst / 8 + i) else none
  { s.settleBytes dst 65536 with
    fresh := s.fresh + 1
    mem := s.mem.filter (fun c => decide (c.1 < dst)) ++ cells ++ s.mem.filter fun c => decide (dst + 65536 ≤ c.1)
    poisoned := s.poisoned.filter (fun w => decide (w < dst / 8)) ++ marks ++ s.poisoned.filter fun w => decide (dst / 8 + 8192 ≤ w) }
/-- `n` bytes zeroed, their marks cleared. -/
def State.zero (s : State) (k n : Nat) : State :=
  { s.settleBytes k n with mem := zeroRange s.mem k n, poisoned := zeroMarks s.poisoned (k / 8) (n / 8) }

/-- The units of 256 bytes of a region's scrub (R355). -/
def scrubUnits (r : Nat) : Nat := if r < 40 then 131072 else 46875000

/-! ## Stage-2 leaves (R329, R330) -/

/-- An entry rewritten. -/
def State.putEntry (s : State) (k e : Nat) : State := s.store k 8 e false
/-- Fields of a leaf (Table 20-1). -/
def leafPpn (e : Nat) : Nat := bits e 16 36
def withPpn (e ppn : Nat) : Nat := setBits e 16 36 ppn
def withMig (e : Nat) (b : Bool) : Nat := setBit e 63 b
def withPull (e n : Nat) : Nat := setBits e 60 2 n

/-! ## Waking what was parked (R218, R229, R252) -/

/-- Whether a leaf is that of a guest page of a partition. -/
def HeldLeaf.isOf (l : HeldLeaf) (part gpage : Nat) : Bool := l.part == part && l.gpage == gpage
/-- The accesses parked on a leaf walk again. -/
def wakeLeaf (s : State) (part gpage : Nat) : State :=
  let s := s.mapShuttles fun sh => match sh.status with
    | .waiting (.page _ leaves) => if leaves.any (·.isOf part gpage) then { sh with status := .ready } else sh
    | _ => sh
  { s with cmds := s.cmds.map fun (c : Cmd) => match c.st with
    | .held l => if l.isOf part gpage then { c with st := .queued } else c
    | _ => c }

/-! ## Page responses (R335, R336) -/

/-- Requests that waited inside the device enter their queue as it has room. -/
def drainQueue (s : State) (fn queue : Nat) : State :=
  (s.func fn).reqs.foldl (fun s (r : PageReq) =>
    if r.queued || r.queue != queue then s
    else
      let (r, s) := queueRequest s fn r
      let f := s.func fn
      s.setFunc fn { f with reqs := f.reqs.map fun (x : PageReq) => if x.key = r.key then r else x }) s

/-- The translations that wait for a request once it has been answered: after a positive answer they walk again, after a
negative one they fault (R218, R336). -/
def answerMisses (fn key : Nat) (neg : Bool) (ms : List Miss) : List Miss :=
  ms.filterMap fun m => if m.fn = fn ∧ m.req = key then (if neg then some { m with neg := true } else none) else some m
/-- A shuttle after the answer to a request: PGSTAT counts those that are left, and keeps the sign of the
answer (R338). -/
def Shuttle.answered (fn : Nat) (r : PageReq) (neg : Bool) (left : Nat × Nat → Bool) (sh : Shuttle) : Shuttle :=
  let sh := { sh with missed := answerMisses fn r.key neg sh.missed }
  match sh.status with
  | .waiting (.page ids _) =>
    if ids.contains (fn, r.key) then
      let n := (ids.filter fun x => x != (fn, r.key) && left x).length
      { sh with pgstat := w64 (setBits (setBit sh.pgstat.toNat 5 neg) 16 8 (min 255 n)) }
    else sh
  | _ => sh

/-- The commands and treadles that an answer concerns; a command probes again when it is next chosen. -/
def releaseCmds (s : State) (fn key : Nat) (neg : Bool) : State :=
  { s with
    cmds := s.cmds.map fun (c : Cmd) =>
      if c.missed.any fun m => m.fn == fn && m.req == key then
        { c with missed := answerMisses fn key neg c.missed, st := if c.st = .parked then .queued else c.st }
      else c
    treadles := s.treadles.map fun (t : Treadle) => { t with parked := answerMisses fn key neg t.parked } }
/-- The treadles that a negative answer ends (R302). -/
def denyTreadles (s : State) : State :=
  (s.treadles.filter fun (t : Treadle) => t.parked.any (·.neg)).foldl (fun s (t : Treadle) =>
    failTreadle s t.idx 6 0 s.chip (match t.op with
      | .amo _ _ a _ => a
      | .st _ a _ => a
      | _ => 0)) s

/-- A request that had no number gets one (R335); PGSTAT.LASTID shows it where the shuttle has placed or joined none since (R338). -/
def renumber (s : State) (fn key new : Nat) : State :=
  let mine (m : Miss) : Bool := m.fn == fn && m.req == key
  let miss (m : Miss) : Miss := if mine m then { m with id := new } else m
  let f := s.func fn
  let s := s.setFunc fn { f with
    nextReq := (new + 1) % 65536
    reqs := f.reqs.map fun (r : PageReq) => if r.key = key then
        { r with id := new, words := r.words.set 1 ((r.words.getD 1 0) + w64 (new * 2 ^ 16)) } else r }
  let s := s.mapShuttles fun sh =>
    if sh.missed.any mine then
      let newer := sh.missed.takeWhile fun m => !mine m
      { sh with
        missed := sh.missed.map miss
        pgstat := if newer.any (fun m => decide (m.id < 65536)) then sh.pgstat else w64 (setBits sh.pgstat.toNat 32 16 new) }
    else sh
  { s with
    cmds := s.cmds.map fun (c : Cmd) => { c with missed := c.missed.map miss }
    treadles := s.treadles.map fun (t : Treadle) => { t with parked := t.parked.map miss } }
/-- The first request that has no number takes the one that has become free. -/
def numberNext (s : State) (fn : Nat) : State :=
  let f := s.func fn
  match f.reqs.find? fun r => decide (65536 ≤ r.id) with
  | some r => renumber s fn r.key (nextId ((f.reqs.map (·.id)).filter (· < 65536)) 65536 f.nextReq)
  | none => s

/-- A write to the response register of a queue. Log entry 25, DEDUCED. -/
def pageResponse (s : State) (fn queue v : Nat) : State :=
  let bad := feqPush s fn 5 0 0 (w64 v) 0
  if v / 2 ^ 17 ≠ 0 then bad
  else
    let f := s.func fn
    match f.reqs.find? fun r => r.id == v % 2 ^ 16 && r.queue == queue && r.queued with
    | none => bad
    | some r =>
      let neg := bit v 16
      let s := s.setFunc fn { f with reqs := f.reqs.filter fun x => x.key != r.key }
      let s := { s with mig := { s.mig with failed := s.mig.failed.filter (· != (fn, r.page)) } }
      let left (x : Nat × Nat) : Bool := (s.func x.1).reqs.any fun q => q.key == x.2
      let s := releaseCmds (s.mapShuttles (Shuttle.answered fn r neg left)) fn r.key neg
      let s := numberNext (if neg then denyTreadles s else s) fn
      drainQueue (drainQueue s fn 1) fn 2

/-! ## Invalidations (R337, R217) -/

/-- An invalidation: 1 a stage-1 page, 2 all of stage 1, 3 a stage-2 page, 4 all of stage 2; the page; whether it is global. A
non-global one spares leaves with G = 1. -/
abbrev Inv := Nat × Nat × Bool
/-- Whether an invalidation covers an entry that the device holds: it is of the stage, and the walk of the page may have read it. -/
def Held.covered (part : Nat) (i : Inv) (h : Held) : Bool :=
  let n := levelPages h.level
  h.part == part && h.stage == (if i.1 ≤ 2 then 1 else 2)
    && (i.1 == 2 || i.1 == 4 || h.addr / 2 ^ 16 / n == i.2.1 / n)
    && (i.2.2 || bits h.entry 1 3 == 0 || !bit h.entry 5)
/-- Whether an invalidation hits a translation that an access has found: a leaf of its stage, whose pages hold the page that it names,
and which it does not spare. The translations of a context area are stage 2's alone (R109). -/
def Found.covered (i : Inv) (f : Found) : Bool :=
  let p := f.phys
  if i.1 ≤ 2 then
    decide (f.kind < 4) && (i.1 == 2 || f.vpage / p.vpages == i.2.1 / p.vpages) && (i.2.2 || !p.spared1)
  else (i.1 == 4 || p.gpage / p.gpages == i.2.1 / p.gpages) && (i.2.2 || !p.spared2)

def startInvalidation (s : State) (fn code page : Nat) (glob : Bool) : State :=
  let f := s.func fn
  s.setFunc fn { f with invPending := f.invPending ++ [(code, page, glob)] }

/-- Whether a shuttle's translations are in use: those of a convoy that has issued element groups, until it has drained, and of an
instruction that waits for another chip (R217). -/
def Shuttle.pins (sh : Shuttle) : Bool :=
  sh.midway || (match sh.status with
    | .waiting .remote => true
    | .waiting (.posted ..) => true
    | _ => false)
/-- Whether a pinned translation of a partition holds up an invalidation. Log entry 42, DESIGN CHOICE. -/
def State.pinned (s : State) (part : Nat) (i : Inv) : Bool :=
  ((s.resident ++ s.away).any fun sh => sh.live && sh.place.part == part && sh.pins && sh.found.any (·.covered i))
    || s.cmds.any fun c => c.ctx.part == part && c.st == .running && c.pins.any (·.covered i)
/-- The translations of a partition that nothing has used yet are unpinned where an invalidation covers them; they are walked
again (R217). -/
def unpin (s : State) (part : Nat) (i : Inv) : State :=
  let s := s.mapShuttles fun sh =>
    if sh.place.part = part ∧ !sh.pins then { sh with found := sh.found.filter fun f => !f.covered i } else sh
  { s with cmds := s.cmds.map fun (c : Cmd) =>
      if c.ctx.part = part ∧ c.st ≠ .running then { c with pins := c.pins.filter fun f => !f.covered i } else c }

/-- The invalidations of a function complete: entries that they cover are held no more. Log entry 10, DESIGN CHOICE. -/
def completeInvalidations (s : State) (fn : Nat) : State :=
  let f := s.func fn
  if f.invPending.isEmpty || f.invPending.any (s.pinned fn) then s
  else
    let s := f.invPending.foldl (fun s i =>
      unpin { s with held := s.held.filter (fun h => !h.covered fn i) } fn i) s
    s.setFunc fn { s.func fn with invPending := [] }

/-! ## Checkpoint granules (R365) -/

/-- The bank in use. -/
def Part.bankBase (p : Part) (bank : Nat) : Nat := p.ckBase.toNat + bank * p.ckSize * 65536

/-- Whether the bank in use has room for one more granule. -/
def State.bankRoom (s : State) (part : Nat) : Bool :=
  match (s.part part).image with
  | some i => decide (i.log.length < 4092 ∧ i.size + i.log.length < i.room) && s.bankRange part i.base (i.room * 65536)
  | none => false

/-- The granule of a guest page copied into the bank in use and logged. Log entry 37, DESIGN CHOICE. -/
def logGranule (s : State) (part gpage pa : Nat) : State :=
  let p := s.part part
  match p.image with
  | none => s
  | some i =>
    let n := i.log.length
    let slot := i.size + n
    let s := s.copyPage pa (i.base + slot * 65536)
    let s := s.store (i.base + 64 + 16 * n) 16 (gpage % 2 ^ 36 * 2 ^ 16 + slot % 2 ^ 32 * 2 ^ 64) false
    s.setPart part { p with image := some { i with log := i.log ++ [(gpage, slot)] }, ckUsed := n + 1 }

/-- COW clears once every granule of the leaf is copied. -/
def clearCow (s : State) (part gpage : Nat) : State :=
  let (k, level, e) := s.entry2 part gpage
  let n := leafSpan level / 65536
  let first := gpage / n * n
  match (s.part part).image with
  | none => s
  | some i =>
    if (List.range n).all fun j => i.log.any fun x => x.1 == first + j then s.putEntry k (setBit e 62 false) else s

/-- A granule finds no room in the bank in use: a capture into the other one begins (R365), where checkpoints are enabled
or an image was taken. Log entry 38, DEDUCED. -/
def askCapture (s : State) (part : Nat) : State :=
  if !s.bankOk part || ((s.part part).image.isNone && !s.ckEnabled part) then s else s.setPart part { s.part part with capturing := true }

/-- The copy of the granule at a guest page whose leaf has COW = 1; where log or bank is full, a capture begins. -/
def copyGranule (s : State) (part gpage : Nat) : State :=
  let (_, level, e) := s.entry2 part gpage
  if readEntry 2 level e != .leaf || !bit e 62 || s.logged part gpage then s
  else if !s.bankRoom part then askCapture s part
  else
    let pa := leafPpn e * 2 ^ 16 + gpage * 2 ^ 16 % leafSpan level
    wakeLeaf (clearCow (logGranule s part gpage pa) part gpage) part gpage

/-- The granules of a range of storage that a partition's image covers and no log holds yet, each as partition, guest page, place. -/
def State.unlogged (s : State) (k n : Nat) : List (Nat × Nat × Nat) :=
  (List.range 16).flatMap fun q =>
    if (s.part q).image.isNone then []
    else (List.range ((k + n - 1) / 65536 + 1 - k / 65536)).flatMap fun i =>
      let a := (k / 65536 + i) * 65536
      ((s.leaves2 q).filter fun x => bit x.entry 62 && x.maps a 65536).filterMap fun x =>
        let g := x.gpage + (a - x.key) / 65536
        if s.logged q g then none else some (q, g, a)
/-- An arrival from outside is about to write some ranges of storage, which a rollback takes back (R365, R367): the granules are logged,
or, where a bank is full, a capture begins and the arrival waits. -/
def logArrivals (s : State) (ranges : List (Nat × Nat)) : Bool × State :=
  ranges.foldl (fun (r : Bool × State) x =>
    (r.2.unlogged x.1 x.2).foldl (fun (r : Bool × State) y =>
      if !r.1 then r
      else if r.2.bankRoom y.1 then (true, clearCow (logGranule r.2 y.1 y.2.1 y.2.2) y.1 y.2.1)
      else (false, askCapture r.2 y.1)) r) (true, s)

/-! ## Migration (R340 to R343) -/

/-- A page is damped for 1 ms; a record that finds 4,096 others replaces the one with the least time left. -/
def damp (s : State) (part gpage : Nat) : State :=
  let ds := s.mig.damped.filter fun d => !(d.1 == part && d.2.1 == gpage)
  let least := ds.foldl (fun acc d => min acc d.2.2) (s.clock + 2500000)
  let ds := if ds.length < 4096 then ds
    else match ds.findIdx? fun d => d.2.2 == least with
      | some i => ds.eraseIdx i
      | none => ds
  { s with mig := { s.mig with damped := ds ++ [(part, gpage, s.clock + 2500000)] } }

def State.migrating (s : State) (part gpage : Nat) : Bool := s.mig.active.any fun m => m.part == part && m.gpage == gpage
def endMigration (s : State) (part gpage : Nat) : State :=
  { s with mig := { s.mig with active := s.mig.active.filter fun m => !(m.part == part && m.gpage == gpage) } }

/-- The partition's next free page, and the state once it is taken (R340). Log entry 40, DEDUCED. -/
def takePage (s : State) (part : Nat) : Option (Nat × State) :=
  let p := s.part part
  if p.fpProd = p.fpCons then none
  else some (bits (readLE s.mem ((p.fpBase.toNat + 8 * p.fpCons) % 2 ^ 52) 8) 0 36,
    s.setPart part { p with fpCons := (p.fpCons + 1) % 2 ^ 32 })

/-- The loss of a pull's source (R343): accesses parked on the page trap when they walk again, commands and treadles fail, and the
function's error queue receives SOURCE_LOST with the first of the accesses and its shuttle (R347). -/
def loseSource (s : State) (part gpage chip cause : Nat) : State :=
  let hit (sh : Shuttle) : Option Nat := match sh.status with
    | .waiting (.page _ leaves) => (leaves.find? (·.isOf part gpage)).map (·.va)
    | _ => none
  let first := (s.resident ++ s.away).findSome? fun sh => (hit sh).map fun v => (sh, v)
  let cmdVa := s.cmds.findSome? fun c => match c.st with
    | .held l => if l.isOf part gpage then some l.va else none
    | _ => none
  let s := s.mapShuttles fun sh => match hit sh with
    | some _ => { sh with status := .ready, lostSources := { page := gpage, chip := chip, cause := cause } :: sh.lostSources }
    | none => sh
  let parked := s.cmds.filter fun c => match c.st with
    | .held l => l.isOf part gpage
    | _ => false
  let s := parked.foldl (fun s c => failRemote s c cause 0 chip) s
  let fired := s.treadles.filter fun t => t.leaf.any (·.isOf part gpage)
  let s := fired.foldl (fun s t => failTreadle s t.idx 6 0 s.chip (w64 ((t.leaf.map (·.va)).getD 0))) s
  match first with
  | some (sh, v) => feqPush s part 6 sh.shid sh.place.launchId (w64 v) 0
  | none => feqPush s part 6 0 0 (w64 ((cmdVa <|> fired.findSome? fun t => t.leaf.map (·.va)).getD 0)) 0

/-- A page-in that is not to be made by the unit: its miss goes to the S2 queue (R340, R342). -/
def failPageIn (s : State) (part gpage : Nat) : State :=
  wakeLeaf { s with mig := { s.mig with failed := (part, gpage) :: s.mig.failed.filter (· != (part, gpage)) } } part gpage
/-- The unit accepts a page-in or a pull of the device. A damped page stays where it is: one in host memory is mapped there, and a pull
of one is refused (R341). An empty pool ends it (R340). Log entry 41, DEDUCED. -/
def acceptOne (s : State) (part gpage : Nat) : State :=
  let (k, level, e) := s.entry2 part gpage
  let n := bits e 60 2
  if !stage2On part || readEntry 2 level e != .pull n || level ≠ 0 || bit e 63 || s.migrating part gpage
      || !s.hardwareMig part then s
  else if s.damped part gpage then
    if n = 1 then wakeLeaf (s.putEntry k (setBits (withPull (setBit e 0 true) 0) 53 3 3)) part gpage else s
  else
    let src := leafPpn e * 2 ^ 16
    let chip := src / 2 ^ 44
    if n = 2 ∧ (s.path chip).lost then loseSource s part gpage chip (s.lostCause chip)
    else match takePage s part with
      | none => failPageIn s part gpage
      | some (ppn, s) =>
        let m : Migration :=
          { part := part, gpage := gpage, leaf := k, oldLeaf := w64 e, src := src, dst := ppn * 2 ^ 16,
            pull := if n = 2 then some chip else none, host := false }
        let s := s.putEntry k (withMig e true)
        { s with mig := { s.mig with active := s.mig.active ++ [m] } }
/-- The guest pages that the hint of an access parked on a page names, in hint order (R339). -/
def State.aheadOf (s : State) (part gpage : Nat) : List Nat :=
  let shuttles := (s.resident ++ s.away).flatMap fun sh => match sh.status with
    | .waiting (.page _ leaves) => leaves
    | _ => []
  let cmds := s.cmds.filterMap fun c => match c.st with
    | .held l => some l
    | _ => none
  (((shuttles ++ cmds).find? (·.isOf part gpage)).map (·.ahead)).getD []
/-- The unit accepts a page-in or a pull, and then, in hint order, the hinted pages whose leaf has V = 0 and PULL = 1 as well (R340). -/
def acceptMigration (s : State) (part gpage : Nat) : State :=
  let ahead := s.aheadOf part gpage
  let t := acceptOne s part gpage
  if t.migrating part gpage && !s.migrating part gpage then
    ahead.foldl (fun s g => if bits (s.entry2 part g).2.2 60 2 = 1 then acceptOne s part g else s) t
  else t

/-- Whether a translation leads to a page of storage. -/
def Found.leadsTo (f : Found) (ppage : Nat) : Bool := f.phys.key / 65536 == ppage
/-- Whether a page of storage is pinned: an open convoy, an access in flight or a running command uses it (R217). -/
def State.pagePinned (s : State) (ppage : Nat) : Bool :=
  ((s.resident ++ s.away).any fun sh => sh.live && sh.pins && sh.found.any (·.leadsTo ppage))
    || s.cmds.any fun c => c.st == .running && c.pins.any (·.leadsTo ppage)
/-- The translations to a page that nothing has used yet are walked again. -/
def unpinPage (s : State) (ppage : Nat) : State :=
  let s := s.mapShuttles fun sh => if sh.pins then sh else { sh with found := sh.found.filter fun f => !f.leadsTo ppage }
  { s with cmds := s.cmds.map fun (c : Cmd) =>
      if c.st = .running then c else { c with pins := c.pins.filter fun f => !f.leadsTo ppage } }

/-- A request of the host to move an HBM page to a page of its aperture: the status it is answered. -/
def hostMove (s : State) (part gpage ppn : Nat) : State :=
  let (k, level, e) := s.entry2 part gpage
  let status (s : State) (n : Nat) : State := { s with mig := { s.mig with status := n } }
  let dst := ppn % 2 ^ 36 * 2 ^ 16
  let src := leafPpn e * 2 ^ 16
  if !stage2On part then status s 3
  else if bit e 63 || s.migrating part gpage then status s 1
  else if s.damped part gpage then status s 2
  else if !bit e 0 && level == 0 && bits e 60 2 == 1 then status (damp s part gpage) 0
  else if readEntry 2 level e != .leaf || level ≠ 0 || src / 2 ^ 44 ≠ s.chip || decide (hbmBytes < src % 2 ^ 44 + 65536)
      || dst / 2 ^ 44 ≠ s.chip || decide (dst % 2 ^ 44 < 2 ^ 43) then status s 3
  else
    let s := unpinPage { s with held := s.held.filter fun h => !(h.part == part && h.stage == 2 && h.place == k) } (src / 65536)
    let m : Migration :=
      { part := part, gpage := gpage, leaf := k, oldLeaf := w64 e, src := src, dst := dst, pull := none, host := true }
    let s := s.putEntry k (withMig e true)
    status { s with mig := { s.mig with active := s.mig.active ++ [m] } } 0

/-- An aborted migration (R342): MIG clears, the leaf is as before; the miss that started it goes to the S2 queue, the
host reads FAILED. -/
def abortMigration (s : State) (m : Migration) : State :=
  let s := endMigration (s.putEntry m.leaf (withMig (readLE s.mem m.leaf 8) false)) m.part m.gpage
  let s := { s with mig := { s.mig with
    status := if m.host then 3 else s.mig.status
    failed := if m.host then s.mig.failed else (m.part, m.gpage) :: s.mig.failed } }
  wakeLeaf s m.part m.gpage

/-- The copy of a migration ends. A host-bound move waits for what is pinned on the page; an unlogged granule of a leaf
with COW set is copied into the checkpoint bank first (R365). -/
def completeMigration (s : State) (part gpage : Nat) (ok : Bool) : State :=
  match s.mig.active.find? fun m => m.part == part && m.gpage == gpage with
  | none => s
  | some m =>
    let e := readLE s.mem m.leaf 8
    if !ok then abortMigration s m
    else if m.host && s.pagePinned (m.src / 65536) then s
    else
      let cow := m.host && bit e 62 && !s.logged part gpage && (s.part part).image.isSome
      if cow && !s.bankRoom part then askCapture s part
      else
        let s := if cow then logGranule s part gpage m.src else s
        let s := if m.pull.isSome then s.pullPage m.dst else s.copyPage m.src m.dst
        let e := withMig (withPpn e (m.dst / 65536)) false
        let e := if m.host then withPull (setBit e 0 false) 1 else setBits (withPull (setBit e 0 true) 0) 53 3 0
        let s := endMigration (s.putEntry m.leaf e) part gpage
        wakeLeaf (damp s part gpage) part gpage

end Sys2Proof.Machine
end

