-- ==== Sys2Proof/Machine/Paths.lean ====
section
/-!
DEFINITION. Sys2Proof/Machine/Paths.lean: paths between chips, their flits, replay and keys (R285 to R292, R388, R389), the
loss of a path (R277, R291), and the memory unit's work for other chips (R279, R293).
-/
namespace Sys2Proof.Machine

/-! ## Loss (R277, R291, Table 15-6) -/

/-- A free value of what had become of an operation. -/
def drawOutcome (s : State) (kinds : Nat) : Nat × State :=
  (Config.lostOutcome s.fresh % kinds, { s with fresh := s.fresh + 1 })

/-- The outcome of a returning request whose path is lost: a load has done nothing, another that was sent may have. -/
def Request.lostOutcome (q : Request) : Nat :=
  match q.op with
  | .load | .ctrRd | .resv => 0
  | _ => if q.sent then 1 else 0
/-- The returning requests of a shuttle to a chip fail. -/
def Shuttle.loseRequests (chip cause : Nat) (sh : Shuttle) : Shuttle :=
  { sh with requests := sh.requests.map fun q =>
      if q.peer = chip ∧ q.reply = .waiting ∧ !q.addrs.isEmpty then { q with reply := .failed cause q.lostOutcome } else q }

/-- A posted request of a shuttle is over: acknowledged, or recorded as failed with a cause and outcome (R282); the AQ form
that waits for it learns which (R135). -/
def endPosted (s : State) (uid : Nat) (p : Posted) (fate : Option (Nat × Nat)) : State :=
  let s := s.onUid uid fun x => { x with
    posted := x.posted.filter fun q => q.key != p.key
    requests := x.requests.map fun q => match fate with
      | some (c, o) => if q.key = p.key ∧ q.addrs.isEmpty then { q with reply := .failed c o } else q
      | none => q }
  match fate with
  | none => s
  | some (c, o) => recordFailure s uid (eqHeader p.kind c o p.peer p.owner 0 0) p.addr
/-- The posted requests of a shuttle to a chip fail, each with its entry. -/
def losePosted (s : State) (chip cause : Nat) (sh : Shuttle) : State :=
  (sh.posted.filter fun p => p.peer == chip).foldl (fun s p =>
    let (o, s) := if p.kind = 2 ∨ p.kind = 4 then drawOutcome s 2 else (0, s)
    endPosted s sh.uid p (some (cause, if p.sent then 1 + o else 0))) s

/-- The chip that a firing treadle's operation reaches, with the address that its entry holds. -/
def Treadle.target (s : State) (t : Treadle) : Option (Nat × Word) :=
  let far (a : Word) (kind : Nat) : Option (Nat × Word) :=
    match (xlate t.ctx t.core a.toNat kind [] t.parked [] (0, 0) s).1 with
    | .ok p => p.remote.map fun c => (c, a)
    | _ => none
  match t.op with
  | .ctrAdd ref _ => if bit ref.toNat 40 then some (bits ref.toNat 32 8, ref) else none
  | .amo _ _ a _ => far a 2
  | .st _ a _ => far a 1
  | _ => none

/-- Whether a firing treadle's operation may be performed: a captured CTR.ADD waits for what fired earlier (R303). -/
def Treadle.ripe (t : Treadle) (s : State) : Bool :=
  match t.op with
  | .ctrAdd .. => s.turnOf t
  | _ => true

/-- A slot that a lost chip had reserved (R277). Log entry 31, DEDUCED. -/
def tearSlot (s : State) (z : Zone) (i cause : Nat) : State :=
  match s.zones.find? fun (x : Zone) => x.core == z.core && x.num == z.num with
  | none => s
  | some z =>
    let t := z.slot i
    if t.arr = 0 then s.setZone (z.setSlot i {})
    else
      let s := s.setZone (z.setSlot i { t with st := .torn })
      let (o, s) := drawOutcome s 3
      let owner := ((s.byUid z.uid).map (·.owner)).getD 63
      recordFailure s z.uid (eqHeader 8 cause o t.holder owner 0 0) (zoneName s.chip z.core i z.gen z.num)
def tearSlots (s : State) (chip cause : Nat) : State :=
  s.zones.foldl (fun s z => (List.range z.slots.length).foldl (fun s i =>
    if (z.slot i).st == .reserved && (z.slot i).holder == chip then tearSlot s z i cause else s) s) s

/-- The two paths between this chip and another are lost, or the other chip is. Whether a packet was cut off after some of its
elements had been accepted is a free value: those arrive as a request of their own (R291). Log entry 55, DESIGN CHOICE. -/
def losePath (s : State) (chip : Nat) (peer : Bool) : State :=
  let p := s.path chip
  if !s.inDomain chip then s
  else if p.lost then s.setPath chip { p with peerLost := p.peerLost || peer }
  else
    let alone := (s.fabric.paths.filter fun (e : Nat × Path) => !e.2.keys.isEmpty).length == 1
    let s := { s with fresh := s.fresh + 1 }.setPath chip { p with
      arrived := p.arrived + if Config.cutPacket s.fresh then 1 else 0
      lost := true, peerLost := peer || alone, unacked := [], reest := false, replaying := false, fresh := [], owed := 0 }
    let cause := s.lostCause chip
    let s := s.mapShuttles (Shuttle.loseRequests chip cause)
    let s := (s.resident ++ s.away).foldl (fun s sh => losePosted s chip cause sh) s
    let far := s.cmds.filter fun c => c.st == .running && (c.peers s.chip).contains chip
    let s := far.foldl (fun s c =>
      let (o, s) := drawOutcome s 3
      failRemote s c cause (if c.sent then o else 0) chip) s
    let firing := s.treadles.filter fun (t : Treadle) => t.st == .firing && t.parked.isEmpty
    let s := firing.foldl (fun s (t : Treadle) => match t.target s with
      | some (c, a) => if c = chip then failTreadle s t.idx cause t.sent.toNat chip a else s
      | none => s) s
    let s := tearSlots s chip cause
    let pulls := s.mig.active.filter fun m => m.pull == some chip
    pulls.foldl (fun s m =>
      loseSource (endMigration (s.putEntry m.leaf m.oldLeaf.toNat) m.part m.gpage) m.part m.gpage chip cause) s

/-! ## Flits (R285, R286) -/

/-- The 36 copies of a destination chip that the device writes, each equal to it: copy k at bit 8k (R286). -/
def copiesOf (dst : Nat) : Nat := (List.range 36).foldl (fun acc k => acc + dst % 256 * 2 ^ (8 * k)) 0
/-- The copy that switch chip k receives. -/
def Flit.copy (f : Flit) (k : Nat) : Nat := bits f.copies (8 * k) 8
/-- Route word w of a flit, for w from 0 to 3: symbol k, two bits, of each switch chip's copy (R286). -/
def Flit.routeWord (f : Flit) (w : Nat) : Nat :=
  (List.range 36).foldl (fun acc k => acc + bits (f.copy k) (2 * w) 2 * 4 ^ k) 0
/-- ROUTE: the data positions of the four route words. -/
def Flit.route (f : Flit) : Nat := (List.range 4).foldl (fun acc w => acc + f.routeWord w % 2 ^ 64 * 2 ^ (64 * w)) 0
/-- HDR: the bits of Table 15-4 from 256 to 383. -/
def Flit.hdr (f : Flit) : Nat :=
  f.blen % 256 * 2 ^ 24 + f.ackseq % 2 ^ 32 * 2 ^ 32 + f.seq % 2 ^ 32 * 2 ^ 64 + f.kslot % 2 * 2 ^ 103 + f.dst % 256 * 2 ^ 104
    + f.src % 256 * 2 ^ 112 + f.typ % 256 * 2 ^ 120
/-- The 2,048 bits of a flit (Table 15-4). -/
def Flit.word (f : Flit) : Nat := f.route + f.hdr * 2 ^ 256 + f.body % 2 ^ 1536 * 2 ^ 384 + f.tag % 2 ^ 128 * 2 ^ 1920
/-- The flit of 2,048 bits, with the copies of DST that its route words hold as its device wrote them. -/
def Flit.ofWord (w : Nat) : Flit :=
  { typ := bits w 376 8, src := bits w 368 8, dst := bits w 360 8, kslot := bits w 359 1, seq := bits w 320 32
    ackseq := bits w 288 32, blen := bits w 280 8, body := bits w 384 1536, tag := bits w 1920 128
    copies := copiesOf (bits w 360 8) }

/-- The bits of a flit that arrives, from its HDR, BODY and TAG; the receiver reads no route word (R286). -/
def flitBits (hdr body tag : Nat) : Nat := hdr * 2 ^ 256 + body * 2 ^ 384 + tag * 2 ^ 1920

/-- The initialisation vector of a new flit (R290): SRC, DST, KSLOT, the path's epoch, the slot's invocation counter. -/
def initVector (src dst kslot epoch ctr : Nat) : Nat :=
  ctr % 2 ^ 64 + epoch % 2 ^ 15 * 2 ^ 64 + kslot % 2 * 2 ^ 79 + dst % 256 * 2 ^ 80 + src % 256 * 2 ^ 88

/-! ## Sending (R288 to R290) -/

/-- A sequence number after another. -/
def nextSeq (n : Nat) : Nat := (n + 1) % 2 ^ 32
/-- The places of the retry buffer that a path's flits take beyond its reserve. -/
def Path.shared (p : Path) : Nat := p.unacked.length - 32
/-- Whether a new flit of a path finds a place in the retry buffer (R289). -/
def State.bufferRoom (s : State) (p : Path) : Bool :=
  let used := (s.fabric.paths.map fun (e : Nat × Path) => e.2.shared).sum
  decide (p.unacked.length < 8192)
    && (decide (p.unacked.length < 32) || decide (used < 16384 - 32 * (s.fabric.paths.filter fun (e : Nat × Path) => !e.2.keys.isEmpty).length))
/-- Whether the key slot in use holds a key, and whether the other one holds a fresh one. -/
def Path.keyed (p : Path) : Bool := p.keys.any fun e => e.1 == p.kslot
def Path.spare (p : Path) : Bool := p.fresh.contains (1 - p.kslot)
/-- A path once a new flit has been put on it: it acknowledges what has been accepted on the reverse path, and the invocation
counter rises; from the rekey threshold on the path waits for a fresh key in its other slot (R290). -/
def Path.put (p : Path) (f : Flit) (clock : Nat) : Path :=
  let n := tget 0 p.inv p.kslot + 1
  { p with
    wire := some f, ackDue := 0, inv := tput p.inv p.kslot n
    rekeySince := if p.rekey ≤ n ∧ !p.spare then some (p.rekeySince.getD clock) else p.rekeySince }
/-- A new flit, encrypted under the current slot (R290). -/
def Path.encrypt (p : Path) (src dst typ seq blen plain : Nat) : Flit :=
  let key := tget 0 p.keys p.kslot
  let iv := initVector src dst p.kslot p.epoch (tget 0 p.inv p.kslot)
  let f : Flit :=
    { typ := typ, src := src, dst := dst, kslot := p.kslot, seq := seq, ackseq := p.accepted, blen := blen
      body := Config.flitCipher key iv plain % 2 ^ 1536, tag := 0, copies := copiesOf dst }
  { f with tag := Config.flitTag key iv f.hdr f.body % 2 ^ 128 }
/-- An idle, acknowledgement, negative-acknowledgement or resynchronisation flit, which carries the SEQ of the last data flit sent. -/
def Path.control (p : Path) (src dst typ plain : Nat) : Flit := p.encrypt src dst typ p.dataSeq 0 plain
/-- A new data or key-marker flit. -/
def Path.sealed (p : Path) (src dst typ blen plain : Nat) : Flit := p.encrypt src dst typ (nextSeq p.seq) blen plain
/-- The path once it has sent such a flit: the retry buffer keeps it as transmitted. -/
def Path.newFlit (p : Path) (f : Flit) (clock : Nat) : Path :=
  { p.put f clock with
    seq := f.seq, dataSeq := if f.typ = 1 then f.seq else p.dataSeq, unacked := p.unacked ++ [f]
    progressAt := if p.unacked.isEmpty then clock else p.progressAt }
/-- The path once it has sent a key marker: every later flit uses the other slot. -/
def Path.marker (p : Path) (src dst plain clock : Nat) : Path :=
  { p.newFlit (p.sealed src dst 4 0 plain) clock with
    kslot := 1 - p.kslot, fresh := p.fresh.filter (· != 1 - p.kslot), rekeySince := none }

/-- Whether a path injects flits: it is open, is not being re-established, and the fabric is not resynchronising (R288, R289). -/
def State.injects (s : State) (p : Path) : Bool := !p.lost && !p.reest && !s.fabric.resync
/-- A new flit that is neither data nor marker, where the path may send one; at the rekey threshold the marker goes first (R290). -/
def sendControl (s : State) (chip typ : Nat) : State :=
  let p := s.path chip
  let s' := { s with fresh := s.fresh + 1 }
  if !s.injects p || !p.keyed then s
  else if tget 0 p.inv p.kslot < p.rekey then
    s'.setPath chip (p.put (p.control s.chip chip typ (Config.flitBody s.fresh)) s.clock)
  else if p.spare && s.bufferRoom p then s'.setPath chip (p.marker s.chip chip (Config.flitBody s.fresh) s.clock)
  else s.setPath chip { p with rekeySince := some (p.rekeySince.getD s.clock) }

/-- Whether a request, posted request, copy or treadle operation of a name is to be carried to a chip. -/
def State.carries (s : State) (chip key : Nat) : Bool :=
  ((s.resident ++ s.away).any fun sh => sh.requests.any (fun q => q.key == key && q.peer == chip && !q.addrs.isEmpty)
      || sh.posted.any fun p => p.key == key && p.peer == chip)
    || (s.cmds.any fun c => c.key == key && c.st == .running && (c.peers s.chip).contains chip)
    || s.treadles.any fun (t : Treadle) => t.fired == key && t.st == .firing && (t.target s).any (fun x => x.1 == chip) && t.ripe s
/-- A request that has not been transmitted: its name, its agent and the bytes it is for. -/
structure Unsent where
  key : Nat
  agent : Nat
  addrs : List (Nat × Nat)
  deriving DecidableEq, Repr
/-- Whether an earlier request of the same agent is for a byte of a later one. -/
def Unsent.leads (u v : Unsent) : Bool :=
  decide (u.key < v.key) && u.agent == v.agent
    && u.addrs.any fun a => v.addrs.any fun b => decide (a.1 < b.1 + b.2 ∧ b.1 < a.1 + a.2)
/-- The agent whose posted request a failure would report with a KIND (Table 15-3). -/
def kindAgent (kind : Nat) : Nat := if kind = 5 then agCounter else if kind = 2 ∨ kind = 4 then agVector else agScalar
/-- What a shuttle has not sent to a chip. -/
def Shuttle.unsent (sh : Shuttle) (chip : Nat) : List Unsent :=
  ((sh.requests.filter fun q => q.peer == chip && !q.sent && q.reply == .waiting && !q.addrs.isEmpty).map fun q =>
    ⟨q.key, q.agent, q.addrs⟩)
  ++ (sh.posted.filter fun p => p.peer == chip && !p.sent).map fun p =>
    ⟨p.key, kindAgent p.kind, p.elems.map fun e => (e.key, e.bytes.length)⟩
/-- Whether the requests of some names keep the order of their agents' accesses to one address (R92, R278). -/
def State.inOrder (s : State) (chip : Nat) (keys : List Nat) : Bool :=
  (s.resident ++ s.away).all fun sh =>
    let us := sh.unsent chip
    us.all fun v => !keys.contains v.key || us.all fun u => keys.contains u.key || !u.leads v
/-- A flit of the operations of some names has been transmitted (R291); a captured CTR.ADD is a release before it leaves (R303). -/
def State.markSent (s : State) (keys : List Nat) : State :=
  let adds := s.treadles.any fun (t : Treadle) => keys.contains t.fired && (match t.op with
    | .ctrAdd .. => t.st == .firing
    | _ => false)
  let s := if adds then s.performed byTreadle .chip else s
  let s := s.mapShuttles fun sh => { sh with
    requests := sh.requests.map fun q => if keys.contains q.key then { q with sent := true } else q
    posted := sh.posted.map fun p => if keys.contains p.key then { p with sent := true } else p }
  { s with
    cmds := s.cmds.map fun (c : Cmd) => if keys.contains c.key then { c with sent := true } else c
    treadles := s.treadles.map fun (t : Treadle) => if t.st = .firing ∧ keys.contains t.fired then { t with sent := true } else t }

/-- FLIT_SEND: the flits of a replay, as they were stored; else an idle flit where there is nothing to carry; else the next new one: a
key marker at the rekey threshold, or a data flit that carries operations of this chip and answers that the other one awaits. -/
def sendFlit (s : State) (x : FlitLoad) : State :=
  let chip := x.chip
  let p := s.path chip
  let s' := { s with fresh := s.fresh + 1 }
  if !s.injects p then s
  else if p.replaying then s.setPath chip { p with replaying := false, wire := p.unacked.getLast? }
  else if p.rekey ≤ tget 0 p.inv p.kslot ∨ (x.keys.isEmpty && x.answers == 0) then sendControl s chip 0
  else if !p.keyed || !s.bufferRoom p then s
  else if x.keys.all (s.carries chip) && s.inOrder chip x.keys && decide (x.answers ≤ p.owed) then
    (s'.setPath chip { p.newFlit (p.sealed s.chip chip 1 x.blen (Config.flitBody s.fresh)) s.clock with
      owed := p.owed - x.answers }).markSent x.keys
  else s

/-- The source sends again every unacknowledged flit; the eighth replay without progress starts re-establishment. -/
def Path.replay (p : Path) (clock : Nat) : Path :=
  if p.unacked.isEmpty then p
  else if 8 ≤ p.replays + 1 then { p with replays := 8, replaying := false, reest := true, reestSince := clock }
  else { p with replays := p.replays + 1, replaying := true, progressAt := clock }

/-- Every flit up to a sequence number is acknowledged. -/
def Path.acknowledge (p : Path) (n clock : Nat) : Path :=
  match p.unacked.findIdx? (·.seq == n) with
  | some i => { p with unacked := p.unacked.drop (i + 1), replays := 0, progressAt := clock }
  | none => p

/-- NEGATIVE_ACKNOWLEDGEMENT: the flits after the named one are sent again. -/
def nakFlit (s : State) (chip seq : Nat) : State :=
  let p := s.path chip
  if p.lost || p.reest then s else s.setPath chip ((p.acknowledge seq s.clock).replay s.clock)

/-- RETRY_TIMEOUT: 25,000 clocks with flits outstanding and no progress. -/
def retryFlits (s : State) (chip : Nat) : State :=
  let p := s.path chip
  if p.lost || p.reest || p.unacked.isEmpty || decide (s.clock < p.progressAt + 25000) then s
  else s.setPath chip (p.replay s.clock)

/-! ## Receiving (R289, R290, R292) -/

/-- A flit that is not accepted is discarded, and a negative acknowledgement names the last accepted one, once per
2,500 clocks. -/
def discardFlit (s : State) (chip : Nat) (p : Path) : State :=
  let s' := s.setPath chip p
  let again := p.lastNak.any fun x => x.1 == p.accepted && decide (s.clock < x.2 + 2500)
  if again || !s.injects p || !p.keyed || decide (p.rekey ≤ tget 0 p.inv p.kslot) then s'
  else
    let t := sendControl s' chip 3
    t.setPath chip { t.path chip with lastNak := some (p.accepted, s.clock) }

/-- FLIT_RECEIVE: 2,048 bits arrive on the path from a chip; `decodes` and `auth` say whether they decode and
authenticate under their key slot, `requests` how many requests have all their flits accepted with this one. -/
def receiveFlit (s : State) (chip word requests : Nat) (decodes auth : Bool) : State :=
  let p := s.path chip
  let f := Flit.ofWord word
  if p.lost then s
  else if !decodes || f.dst != s.chip || f.src != chip then discardFlit s chip p
  else if !auth then
    let n := if p.authSeq = f.seq ∧ p.authFails ≠ 0 then p.authFails + 1 else 1
    if 3 ≤ n then losePath s chip false
    else discardFlit s chip { p with authFails := n, authSeq := f.seq }
  else
    let p := { p with authFails := 0 }.acknowledge f.ackseq s.clock
    if f.typ ≠ 1 ∧ f.typ ≠ 4 then s.setPath chip p
    else if f.kslot ≠ p.rxSlot ∨ f.seq ≠ nextSeq p.accepted then discardFlit s chip p
    else
      s.setPath chip { p with
        accepted := f.seq, ackDue := p.ackDue + 1, ackSince := if p.ackDue = 0 then s.clock else p.ackSince
        rxSlot := if f.typ = 4 then 1 - p.rxSlot else p.rxSlot
        arrived := if f.typ = 1 then p.arrived + requests else p.arrived }

/-- ACKNOWLEDGEMENT_TIMER: an acknowledgement flit answers 128 flits accepted since the last, or fewer after 2,500 clocks. -/
def ackFlits (s : State) (chip : Nat) : State :=
  let p := s.path chip
  if decide (128 ≤ p.ackDue) || p.ackDue != 0 && decide (p.ackSince + 2500 ≤ s.clock) then sendControl s chip 2 else s

/-! ## Re-establishment, modes, resynchronisation -/

def endReest (s : State) (chip : Nat) : State :=
  let p := s.path chip
  if p.lost || !p.reest then s
  else s.setPath chip { p with reest := false, replays := 0, replaying := !p.unacked.isEmpty, progressAt := s.clock }
def reestOver (s : State) (chip : Nat) : State :=
  let p := s.path chip
  if !p.lost && p.reest && decide (p.reestSince + 2500000 ≤ s.clock) then losePath s chip false else s
def rekeyOver (s : State) (chip : Nat) : State :=
  match (s.path chip).rekeySince with
  | some t => if t + 25000000 ≤ s.clock then losePath s chip false else s
  | none => s

/-- The erased set of a pair of paths (R287): the dead switch chips, and the failed links of both ends. -/
def State.erasedSet (s : State) (chip : Nat) : Nat := s.fabric.dead ||| s.fabric.links ||| (s.path chip).links
/-- The mode of a path by the size of its erased set (Table 15-5). -/
def modeOf (n : Nat) : PathMode :=
  if n = 0 then .normal else if n = 1 then .erased else if n = 2 then .doubleCheck else .down
def State.pathMode (s : State) (chip : Nat) : PathMode := modeOf (popc (s.erasedSet chip) 36)
/-- LINK_FAILURE: what Flosil has declared dead, the failed links of this device and those of another; the paths that are Down by
it are lost. -/
def eraseLinks (s : State) (chip : Nat) (x : Erased) : State :=
  if 144 ≤ chip ∨ chip = s.chip then s
  else
    let s := { s with fabric := { s.fabric with dead := x.dead, links := x.own } }
    let s := s.setPath chip { s.path chip with links := x.far }
    s.fabric.paths.foldl (fun s (e : Nat × Path) => if s.pathMode e.1 = .down then losePath s e.1 false else s) s

def stopInjection (s : State) : State := { s with fabric := { s.fabric with resync := true, resyncAt := s.clock } }
/-- Injection goes on: each path sends a resynchronisation flit and replays from its first unacknowledged flit. Log entry 86,
DESIGN CHOICE. -/
def endResync (s : State) : State :=
  if !s.fabric.resync then s
  else
    let s := { s with fabric := { s.fabric with
      resync := false
      paths := s.fabric.paths.map fun (e : Nat × Path) =>
        if e.2.lost || e.2.unacked.isEmpty then e else (e.1, { e.2 with replaying := true }) } }
    s.fabric.paths.foldl (fun s (e : Nat × Path) => sendControl s e.1 5) s

/-! ## Keys (R388, R389) -/

/-- A key in a slot of the outgoing path; the incoming one's stands two slots higher. -/
def Path.load (p : Path) (slot out inn : Nat) : Path :=
  { p with keys := tput (tput p.keys slot out) (slot + 2) inn, inv := tput p.inv slot 0
           fresh := slot :: p.fresh.filter (· != slot), rekeySince := none }
/-- The paths to a chip as they are opened: slot 0 is in use, a chip that rejoins has a new epoch. -/
def opened (s : State) (chip : Nat) : Path :=
  let old := s.path chip
  { lost := false, links := old.links, gen := old.gen, rekey := old.rekey, arrived := old.arrived,
    epoch := if s.inDomain chip then (old.epoch + 1) % 2 ^ 15 else old.epoch, progressAt := s.clock }
/-- Whether a key may be loaded into a slot: slot 0 of a path that is not open, or the slot retired. -/
def State.keySlotOk (s : State) (chip slot : Nat) : Bool :=
  let p := s.path chip
  if p.lost then slot == 0 && decide (1 ≤ s.boot.stage) && s.boot.stage != 3 && !s.boot.alone
    && decide (chip < 144) && chip != s.chip && s.pathMode chip != .down
  else slot != p.kslot && !p.fresh.contains slot
/-- Keys into a slot of the paths to a chip; at bring-up this opens them. -/
def loadKeys (s : State) (chip slot out inn : Nat) : State :=
  let p := if (s.path chip).lost then opened s chip else s.path chip
  let p := { p.load slot out inn with gen := p.gen + 1 }
  s.setPath chip (if (s.path chip).lost then { p with fresh := [] } else p)
/-- PATH_KEY_EXCHANGE in hardware mode; a failed exchange leaves the path lost, and with one that succeeds Flosil sets the rekey
threshold (R290). -/
def exchangeKeys (s : State) (chip slot : Nat) (rekey : Option Nat) : State :=
  if bit (s.func 16).mode.toNat 4 || !s.keySlotOk chip slot then s
  else match rekey with
  | none => losePath s chip false
  | some n =>
    let p := if (s.path chip).lost then opened s chip else s.path chip
    let s := loadKeys s chip slot (Config.pathKey s.chip chip p.epoch slot p.gen) (Config.pathKey chip s.chip p.epoch slot p.gen)
    s.setPath chip { s.path chip with rekey := n }

/-! ## Requests of other chips (R279, R292, R293) -/

/-- The partitions that hold the blocks of an HBM range. -/
def State.blockHolders (s : State) (a n : Nat) : List Nat :=
  (List.range ((a + n - 1) / 256 + 1 - a / 256)).map fun i => s.groupHolder (groupOf ((a / 256 + i) * 256))

/-- The operation of a request by its code: 0 load, 1 store, 2 CAS, 16 to 24 the operations of AMO, 32 to 34 the counter
operations. -/
def farOp (n : Nat) : Option FarOp :=
  if n = 0 then some .load else if n = 1 then some .store else if n = 2 then some (.amo 9)
  else if 16 ≤ n ∧ n < 25 then some (.amo (n - 16))
  else if n = 32 then some .ctrRd else if n = 33 then some .ctrAdd else if n = 34 then some .ctrSet else none

/-- What the memory unit has found for a request so far: the code, 0 or that of a failure, the bytes, their marks. -/
structure FarFound where
  code : Nat := 0
  bytes : List Byte := []
  pois : Nat := 0
  deriving DecidableEq, Repr
def FarFound.more (r : FarFound) (b : List Byte) (pm : Nat) : FarFound :=
  { r with bytes := r.bytes ++ b, pois := r.pois + pm * 2 ^ r.bytes.length }
/-- What the memory unit loads; its accesses come after everything that has been performed (R99, R278). -/
def farLoad (s : State) (k n : Nat) : Loaded × State :=
  if s.disputed k n then { s with fresh := s.fresh + 1 }.viewLoad farObs s.now s.fresh k n
  else ({ v := (s.load k n).1, pois := (s.load k n).2, time := 0 }, s)

/-- One access of a request to HBM that has been admitted. `data` and `cmp` are its values; of a store, a non-zero `cmp` holds
the bits written, and `rpois` the poison of its bytes. An atomic meets poison as R293 states. Log entry 21, DESIGN CHOICE. -/
def farAccess (op : FarOp) (k n data cmp rpois : Nat) (r : FarFound) (s : State) : FarFound × State :=
  match op with
  | .load =>
    let (x, s) := farLoad s k n
    let pm := markMask s.poisoned k n
    (r.more (toBytes x.v n) (if x.pois && pm == 0 then 2 ^ n - 1 else pm), s)
  | .store =>
    let old := (s.load k n).1
    let v := if cmp = 0 then data else old - (old &&& cmp) + (data &&& cmp)
    let words := runsOf (fun j => (k + j) % 8 == 0) n 0
    (r, words.foldl (fun (s : State) x =>
      s.storeBy farObs s.now (k + x.1) x.2 (bits v (8 * x.1) (8 * x.2)) (bits rpois x.1 x.2 != 0) false) s)
  | .amo o =>
    if n ≠ 4 ∧ n ≠ 8 ∨ k % n ≠ 0 then ({ r with code := 3 }, s)
    else
      let s := s.readNewest farObs k n
      let (old, pois) := s.load k n
      if pois then ({ r.more (toBytes 0 n) (2 ^ n - 1) with code := 5 }, s)
      else
        let v := if o = 9 then (if old = cmp then some data else none) else some (amoResult o n old (data % 256 ^ n))
        (r.more (toBytes old n) 0, match v with
          | some v => s.storeBy farObs s.now k n (v % 256 ^ n) false true
          | none => s)
  | _ => (r, s)

/-- The addresses that the memory unit expands a packet into (R188). -/
def expandAddrs : FarAddrs → List Nat
  | .strided base stride es => es.map fun e => base / 2 ^ 44 * 2 ^ 44 + (base + stride * e) % 2 ^ 44
  | .listed as => as
/-- A request of another chip for a counter: the check of R279, and its effect. -/
def farCounter (s : State) (op : FarOp) (tenant idx data : Nat) : State :=
  let part := s.counterHolder idx
  if 65536 ≤ idx then answer s 3 [] 0
  else if !s.admits part tenant then answer s 4 [] 0
  else
    let old := s.counter idx
    let s := chargeRemote s part
    answer (match op with
      | .ctrAdd => counterSet s idx (old + w64 data)
      | .ctrSet => counterSet s idx (w64 data)
      | _ => s) 0 (toBytes old.toNat 8) 0
/-- Why a request for HBM is not performed: 3 what it names is no HBM of this chip, 4 the check of R279, 0 for none. -/
def farRefusal (s : State) (tenant : Nat) (as : List Nat) (size : Nat) : Nat :=
  if as.isEmpty || size == 0 || as.any (fun a => a / 2 ^ 44 != s.chip || decide (hbmBytes < a % 2 ^ 44 + size)) then 3
  else if !as.all fun a => (s.blockHolders (a % 2 ^ 44) size).all fun h => s.admits h tenant then 4
  else 0
/-- A request of another chip for HBM that is not refused: its accesses one after another. What it has written is performed before it is
acknowledged (R97). -/
def farPerform (s : State) (op : FarOp) (as : List Nat) (size : Nat) (data cmp rpois : List Nat) : State :=
  let s := chargeRemote s ((s.blockHolders ((as.headD 0) % 2 ^ 44) size).headD 16)
  let (r, s) := as.zipIdx.foldl (fun (r : FarFound × State) x =>
    farAccess op x.1 size (data.getD x.2 0) (cmp.getD x.2 0) (rpois.getD x.2 0) r.1 r.2) (({} : FarFound), s)
  answer (s.performed (fun x => x.src == farSrc) .chip) r.code r.bytes r.pois
/-- A request of another chip for HBM: its check, and its effect; one that writes is held while the log of a checkpoint bank has no room
for what it writes (R365, R367). -/
def farMemory (s : State) (src : Nat) (op : FarOp) (tenant : Nat) (as : List Nat) (size : Nat) (data cmp rpois : List Nat) : State :=
  match farRefusal s tenant as size with
  | 0 =>
    let (ok, t) := if op = .load then (true, s) else logArrivals s (as.map fun a => (a, size))
    if ok then farPerform (takeArrival t src) op as size data cmp rpois else t
  | q => answer (takeArrival s src) q [] 0
/-- REMOTE_REQUEST_ARRIVAL. -/
def farRequest (s : State) (src tenant opn : Nat) (addrs : FarAddrs) (size : Nat) (data cmp rpois : List Nat) : State :=
  if (s.path src).arrived = 0 then s
  else
    let t := takeArrival s src
    match farOp opn with
    | none => answer t 3 [] 0
    | some .ctrRd => farCounter t .ctrRd tenant ((expandAddrs addrs).headD 0) 0
    | some .ctrAdd => farCounter t .ctrAdd tenant ((expandAddrs addrs).headD 0) (data.headD 0)
    | some .ctrSet => farCounter t .ctrSet tenant ((expandAddrs addrs).headD 0) (data.headD 0)
    | some op => farMemory s src op tenant (expandAddrs addrs) size data cmp rpois

/-! ## Replies and acknowledgements (R281, R282) -/

/-- The bytes that a reply to a request carries. -/
def Request.size (q : Request) : Nat := (q.addrs.map (·.2)).sum
/-- REMOTE_REPLY: a shuttle's request of a key, which has been sent, gets its reply. -/
def takeReply (s : State) (core slot key : Nat) (reply : Reply) (n : Option Nat) : State :=
  match s.at core slot with
  | none => s
  | some sh =>
    s.onUid sh.uid fun sh => { sh with requests := sh.requests.map fun q =>
      if q.key = key && q.sent && q.reply == .waiting && n.all (fun n => n == q.size) then { q with reply := reply } else q }
/-- REMOTE_ACK: a posted request that has been sent is acknowledged, or its failure is recorded. -/
def takeAck (s : State) (core slot key : Nat) (ok : Bool) (cause outcome : Nat) : State :=
  match (s.resident ++ s.away).find? fun sh =>
      sh.place.core == core && sh.place.slot == slot && sh.posted.any fun p => p.key == key with
  | none => s
  | some sh =>
    match sh.posted.find? fun p => p.key == key with
    | none => s
    | some p => if p.sent then endPosted s sh.uid p (if ok then none else some (cause, outcome)) else s

end Sys2Proof.Machine
end

