-- ==== Sys2Proof/Machine/EvAcct.lean ====
section
/-!
DEFINITION. Sys2Proof/Machine/EvAcct.lean: the clocks of the queue arbiters, L2 slice ports, pseudo-channel queues, router outputs and
fabric injection (R309 to R319, R326 to R328, R352), and the events of accounting: the end of a settlement period and its broadcast,
the refill of a rate limit. An event whose condition does not hold changes nothing.
-/
namespace Sys2Proof.Machine

/-! ## What waits and what holds -/

/-- The pseudo-channel of a line: its group and bits [11:8] of its address (R328, R390). -/
def chanOf (addr : Nat) : Nat := 16 * groupOf (addr % 2 ^ 44) + bits addr 8 4
/-- The clocks beyond the first that a grant holds the output of an arbiter: 3 at an L2 slice port (R326), 15 at a
pseudo-channel (R328), as long as the packet or flit takes at the others. -/
def holdOf (kind hold : Nat) : Nat := if kind = 0 then 3 else if kind = 1 then 15 else hold
/-- An arbiter at the start of a clock: a hold that is over and a credit that has come back are gone (R326, R327). -/
def Arb.refreshed (a : Arb) (clock : Nat) : Arb :=
  { a with holder := a.holder.filter fun h => decide (clock ≤ h.2)
           credits := a.credits.filter fun c => c.back.all (clock < ·) }
/-- The number of the line that an access is for. Log entry 48, DESIGN CHOICE: lines are the 256-byte blocks of R390. -/
def lineOf (addr : Nat) : Nat := addr % 2 ^ 44 / 256
/-- Whether a request of an L2 slice port is sorted as a miss (R327): an atomic always, and a load or store of a line that the slice
does not hold, because it was never filled or has made room since. -/
def Arb.misses (a : Arb) (x : Arrival) : Bool := x.op == 2 || x.miss || !a.lines.contains (lineOf x.addr)
/-- A request arrives at an arbiter; at a pseudo-channel queue it must be one of that channel. -/
def Arb.arrive (kind inst clock : Nat) (a : Arb) (x : Arrival) : Arb :=
  if a.waiting.any (fun w => w.id == x.id) || kind == 1 && chanOf x.addr != inst then a
  else
    let miss := kind == 0 && a.misses x
    { a with
      waiting := a.waiting ++ [{ id := x.id, input := x.input, owner := x.owner, since := clock, part := x.part, chan := chanOf x.addr,
                                 line := lineOf x.addr, op := x.op, miss := miss, bytes := x.bytes }]
      lines := if miss && x.op != 2 then a.lines.filter (· != lineOf x.addr) else a.lines }
/-- Whether an owner is one that requests of other chips are charged to (R279). -/
def State.farOwner (s : State) (o : Nat) : Bool := (List.range 17).any fun p => s.remoteOwner p == o
/-- Whether what waits for the next flit to a chip carries an owner: a request of this chip its own, an answer the remote one. -/
def State.flitOwner (s : State) (chip o : Nat) : Bool :=
  ((s.resident ++ s.away).any fun sh =>
      sh.requests.any (fun q => q.peer == chip && q.owner == o) || sh.posted.any fun p => p.peer == chip && p.owner == o)
    || (s.cmds.any fun c => c.st == .running && c.owner == o && (c.peers s.chip).contains chip)
    || (s.treadles.any fun (t : Treadle) => t.st == .firing && t.owner == o && (t.target s).any fun x => x.1 == chip)
    || (decide (0 < (s.path chip).owed) && s.farOwner o)
/-- Whether a new request of an input carries the owner that R307, R279 and R395 give it. -/
def State.newOwner (s : State) (kind : Nat) (x : Arrival) : Bool :=
  match kind with
  | 0 =>
    if x.input < 160 then
      s.ownerOf (s.loomHolder (x.input / 4)) x.owner
        || s.resident.any fun sh => sh.place.core == x.input && sh.owner == x.owner
    else if x.input < 200 then (s.issuing (x.input - 160)).any fun c => c.owner == x.owner
    else if x.input = 200 then s.treadles.any fun (t : Treadle) => t.st == .firing && t.owner == x.owner
    else s.farOwner x.owner
  | 1 => if x.input = 640 then s.farOwner x.owner else decide (641 ≤ x.input) && x.owner == 63
  | 3 => s.flitOwner x.input x.owner
  | _ => x.owner == 63 || s.farOwner x.owner || (List.range 17).any fun p => s.ownerOf p x.owner
/-- Whether a request may arrive at an arbiter: it keeps its owner on its way, and belongs to the partition whose rate limit holds
it; at a pseudo-channel queue a slice's request is the miss that holds the slice port's credit, and comes in the last clock of its
hold or later (R326, R327). -/
def State.mayArrive (s : State) (kind inst : Nat) (x : Arrival) : Bool :=
  (match s.flights.find? fun e => e.1 == x.id with
    | some e => e.2.owner == x.owner
    | none => s.newOwner kind x)
  && x.part.all (fun p => s.ownerOf p x.owner)
  && (kind != 1 || decide (640 ≤ x.input) || (s.arb 0 x.input).credits.any fun c =>
      c.id == x.id && c.chan == inst && c.back.isNone && decide (c.at_ + 3 ≤ s.clock))
/-- A request that no arbiter knows yet carries its own owner as blame tag (R307). -/
def State.launchFlight (s : State) (x : Arrival) : State :=
  if s.flights.any fun e => e.1 == x.id then s
  else { s with flights := tput s.flights x.id { owner := x.owner, tag := x.owner, next := x.owner, nextAt := 0 } }
/-- Requests that wait nowhere and hold nothing are forgotten. -/
def State.landFlights (s : State) : State :=
  { s with flights := s.flights.filter fun (e : Nat × Flight) => s.waitsAnywhere e.1 || s.held_ e.1 }

/-! ## Eligibility -/

/-- Whether the rate limit of its own partition withholds a packet (R352). -/
def State.withheld (s : State) (w : Waiter) : Bool :=
  w.part.any fun p => (s.part p).rate != 0 && decide ((s.part p).tokens < w.bytes)
/-- Whether the next outgoing flit of a path may be new (R288 to R290). -/
def State.injectable (s : State) (chip : Nat) : Bool :=
  let p := s.path chip
  s.injects p && !p.replaying && p.keyed && s.bufferRoom p
    && (decide (tget 0 p.inv p.kslot < p.rekey) || p.spare)
/-- The forwarding credit that a miss needs, where another one has it (R327). -/
def Arb.creditOf (a : Arb) (kind : Nat) (w : Waiter) : Option Credit :=
  if kind = 0 ∧ w.miss then a.credits.find? fun c => c.chan == w.chan else none
/-- Whether an arbiter may grant a request. -/
def State.eligible (s : State) (kind : Nat) (a : Arb) (w : Waiter) : Bool :=
  !s.withheld w && (a.creditOf kind w).isNone && (kind != 3 || s.injectable w.input)
def Waiter.contender (w : Waiter) : Contender Waiter := { input := w.input, owner := w.owner, since := w.since, what := w }

/-! ## One clock -/

/-- The root culprit of a waiting request (R311, R312): its own owner where its partition's rate limit withholds it, owner 63 where
its path replays or waits for a place in the retry buffer, else the blame tag of the visible holder: the request at the output; at
an L2 slice port that grants nothing, the miss that holds the credit (R327); the request downstream that withholds credit; owner 63
where none is involved. -/
def State.culprit (s : State) (kind : Nat) (a : Arb) (stall : Option (Option Nat)) (w : Waiter) : Nat :=
  if s.withheld w then w.owner
  else if kind = 3 ∧ !s.injectable w.input then 63
  else
    let seen := (a.holder.map (·.1)) <|> ((a.creditOf kind w).map (·.id)) <|> stall.join
    match seen with
    | some id => s.tagOf id 63
    | none => 63
/-- A pseudo-channel queue has granted a request of a slice: the forwarding credit returns in the next clock, a load's line is filled
from there, and an atomic leaves no slice a copy of its line (R293, R327). -/
def State.servedMiss (s : State) (w : Waiter) : State :=
  { s with arbs := s.arbs.map fun (e : Nat × Arb) =>
      if e.1 % 8 ≠ 0 then e
      else
        let a := e.2
        let a := { a with credits := a.credits.map fun (c : Credit) => if c.id = w.id then { c with back := some (s.clock + 1) } else c }
        (e.1, { a with lines :=
          if w.op = 2 then a.lines.filter (· != w.line)
          else if w.op = 0 ∧ w.input < 640 ∧ e.1 / 8 = w.input then w.line :: a.lines.filter (· != w.line) else a.lines }) }
/-- The effects of a grant beside the arbiter: the tokens that the packet takes (R352), its energy (R320), the credit that comes
back. -/
def State.afterGrant (s : State) (kind : Nat) (w : Waiter) : State :=
  let s := match w.part with
    | some p => if (s.part p).rate = 0 then s else s.setPart p { s.part p with tokens := (s.part p).tokens - w.bytes }
    | none => s
  if kind = 0 then s.spend w.owner 0 w.bytes
  else if kind = 1 then (s.spend w.owner 1 w.bytes).servedMiss w
  else if kind = 3 then s.spend w.owner 2 256
  else s
/-- An arbiter after a grant. -/
def Arb.granted (s : State) (kind hold : Nat) (a : Arb) (w : Waiter) (cs : List (Contender Waiter)) : Arb :=
  let b := a.after s w.contender cs
  { b with
    waiting := b.waiting.filter fun x => x.id != w.id
    holder := some (w.id, s.clock + holdOf kind hold)
    credits := if kind = 0 ∧ w.miss then { chan := w.chan, id := w.id, at_ := s.clock, back := none } :: b.credits else b.credits }
/-- The blame tags after a clock of an arbiter (R313): a request that waits here while it holds an output or a credit elsewhere
carries its root culprit from the next clock on; the one that holds the output here has advanced, unless it waits elsewhere. -/
def State.moveTags (s : State) (a : Arb) (culprit : Waiter → Nat) : State :=
  let s' := a.waiting.foldl (fun s' w => if s.held_ w.id then s'.setTag w.id w.owner (culprit w) else s') s
  match a.holder.bind fun h => (s.flights.find? fun e => e.1 == h.1) with
  | some e => if s.waitsAnywhere e.1 then s' else s'.setTag e.1 e.2.owner e.2.owner
  | none => s'

/-- A copy command's tag from the next clock on. -/
def State.blameCmd (s : State) (c : Cmd) (culprit : Nat) : State :=
  s.setCmd { c with blame := { owner := c.owner, tag := c.blame.at_ s.clock, next := culprit, nextAt := s.clock + 1 } }
/-- The commands whose requests wait at an L2 slice port carry their root culprit from the next clock on (R313, R314). -/
def State.blameEngines (s : State) (kind : Nat) (a : Arb) (culprit : Waiter → Nat) : State :=
  if kind ≠ 0 then s
  else a.waiting.foldl (fun (s' : State) w =>
    if 160 ≤ w.input ∧ w.input < 200 then
      match s'.issuing (w.input - 160) with
      | some c => s'.blameCmd c (culprit w)
      | none => s'
    else s') s
/-- A command whose requests have waited nowhere in this clock has advanced (R313). -/
def State.advanceCmds (s : State) : State :=
  (s.cmds.filter fun c => c.st == .running && decide (c.blame.nextAt ≤ s.clock) && c.blame.next != c.owner).foldl
    (fun s c => s.blameCmd c c.owner) s

/-- One clock of a queue arbiter, made once: requests arrive, one of the eligible ones is granted by the harm rule unless an earlier
grant holds the output or it cannot advance, and the others wait, each owner on the account that its oldest
request meets (R309, R311, R312, R327). Log entry 48, DESIGN CHOICE. -/
def queueClock (s : State) (key : Nat) (arrivals : List Arrival) (out : OutputClock) : State :=
  let kind := key % 8
  let a := s.arbOf key
  if a.accounted s.clock then s
  else
    let arrivals := arrivals.filter (s.mayArrive kind (key / 8))
    let s := arrivals.foldl State.launchFlight s
    let a := arrivals.foldl (Arb.arrive kind (key / 8) s.clock) (a.refreshed s.clock)
    let cs := (a.waiting.filter (s.eligible kind a)).map Waiter.contender
    let grant := if a.holder.isSome || out.stall.isSome then none else (ranked s a cs).head?
    let b := match grant with
      | some w => a.granted s kind out.hold w.what cs
      | none => a
    let culprit (w : Waiter) : Nat := s.culprit kind b out.stall w
    let charges := b.waiting.map fun w => (w.owner, culprit w)
    let s := ((s.putArb key b).moveTags b culprit).blameEngines kind b culprit
    let s := match grant with
      | some w => s.afterGrant kind w.what
      | none => s
    (s.chargeClock key b charges).landFlights

/-- ARBITER_GRANT (R309). -/
def execArbiterGrant (key : Nat) (arrivals : List Arrival) (out : OutputClock) (s : State) : Out :=
  .next (queueClock s key arrivals out)

/-! ## The clock of the machine -/

/-- The looms of some cores. -/
def loomsOfCores (cs : List Nat) : List Nat := (cs.map (· / 4)).eraseDups
/-- The dispatcher's charges in a clock in which it has placed nothing (R311, R319). -/
def chargeDispatch (s : State) : State :=
  let a := s.arb 7 0
  if a.accounted s.clock || s.away.isEmpty && s.parts.all fun e => e.2.queue.isEmpty then s
  else match s.placeable with
    | [] => s
    | cs => s.chargeClock (arbKey 7 0) a (cs.map fun c => (c.owner, 63))
/-- What the harm-weighted arbiters do in a clock in which no event has made theirs: those that hold nothing up do nothing, and at
the others every waiting clock is charged (R311, R319). -/
def arbitersClock (s : State) : State :=
  let lanes := loomsOfCores ((s.cores.filter fun (e : Nat × Core) => e.2.laneReq.isSome).map (·.1))
  let s := lanes.foldl (fun s n => if (s.arb 6 n).accounted s.clock then s else heddleClock s n) s
  let mats := loomsOfCores ((s.cores.filter fun (e : Nat × Core) => e.2.attached.isSome).map (·.1))
  let s := mats.foldl (fun s n => if (s.arb 5 n).accounted s.clock then s else matrixClock s n) s
  let copies := ((s.cmds.filter fun c => c.st != .running).map s.engineLoom).eraseDups
  let s := copies.foldl chargeCopy s
  let s := chargeDispatch s
  ((s.arbs.filter fun (e : Nat × Arb) => decide (e.1 % 8 < 4) && !e.2.waiting.isEmpty).foldl
    (fun s (e : Nat × Arb) => queueClock s e.1 [] { hold := 0, stall := none }) s).advanceCmds
/-- The refill of a partition's token bucket, once for each 256 clocks (R352). -/
def refillBucket (s : State) (part : Nat) : State :=
  let p := s.part part
  let n := s.clock / 256
  if n ≤ p.refills then s
  else s.setPart part { p with tokens := min p.bucket (p.tokens + p.rate * (n - p.refills)), refills := n }

/-- The scrubs go on: PROG counts the units that are done (R355). Log entry 45, DEDUCED. -/
def scrubClock (s : State) : State :=
  if s.scrubs.any fun (e : Nat × Scrub) => e.2.st == .scrubbing then
    { s with
      fresh := s.fresh + 1
      scrubs := s.scrubs.map fun (e : Nat × Scrub) =>
        if e.2.st = .scrubbing then
          (e.1, { e.2 with prog := max e.2.prog (min (scrubUnits e.1 - 1) (e.2.prog + Config.scrubbedUnits s.fresh e.1)) })
        else e }
  else s
/-- What a clock brings at its start: hardware convoys that have had no vector instruction for 64 clocks close (R36), and the token
buckets are filled each 256 clocks (R352). -/
def startClock (s : State) : State :=
  let late := s.cores.filter fun (e : Nat × Core) => decide (e.2.vqSince + 64 ≤ s.clock)
  let s := late.foldl (fun (s : State) (e : Nat × Core) => match e.2.vqOwner with
    | some u => closeQueue s e.1 u
    | none => s) s
  let s := scrubClock s
  if s.clock % 256 = 0 then
    (s.parts.filter fun (e : Nat × Part) => e.2.rate != 0).foldl (fun s (e : Nat × Part) => refillBucket s e.1) s
  else s
/-- What happens at the start of a clock (R315): at 4,096k the period before ends, and 256 clocks later its broadcast takes
effect. -/
def settlementDue (s : State) : State :=
  if s.clock % 4096 = 0 then { s with agenda := .settlementPeriodEnd :: s.agenda }
  else if s.clock % 4096 = 256 ∧ 4096 ≤ s.clock then { s with agenda := .settlementBroadcast :: s.agenda }
  else s
/-- A clock passes. Log entry 19, DESIGN CHOICE. -/
def tick (s : State) : State :=
  let s := arbitersClock s
  settlementDue (startClock { s with clock := s.clock + 1 })

/-! ## Settlement (R315, R317) -/

/-- The charges of an ended period at the accounting unit (R315): balances clamped, cells modulo 2^48. -/
def Acct.collect (ac : Acct) (a : Arb) : Acct :=
  { ac with h := a.delta.foldl (fun t (e : Nat × Int) => addInt t e.1 e.2) ac.h
            dm := a.inc.foldl (fun t (e : Nat × Nat) => tput t e.1 ((tget 0 t e.1 + e.2) % 2 ^ 48)) ac.dm }
/-- The energy of an ended period (R320): counters of 64 bits in units of 2^-20 J. Refresh, idle, scrub and training energy is owner
63's. -/
def Acct.addEnergy (ac : Acct) (fresh : Nat) : Acct :=
  let idle := (List.range 3).map fun i => (4 * 63 + i, Config.idleEnergy fresh i)
  { ac with spent := []
            energy := (ac.spent ++ idle).foldl (fun t (e : Nat × Nat) => tput t e.1 ((tget 0 t e.1 + e.2) % 2 ^ 92)) ac.energy }
/-- The end of a settlement period (R315), at which ECTOT grows too (R377). -/
def endPeriod (s : State) : State :=
  let ac := s.acct
  if ac.periods ≠ ac.broadcasts ∨ s.clock < 4096 * (ac.periods + 1) then s
  else
    let ac := s.arbs.foldl (fun ac (e : Nat × Arb) => ac.collect e.2) ac
    let ac := { ac with h := ac.h.map fun (e : Nat × Int) => (e.1, clampH e.2), periods := ac.periods + 1 }.addEnergy s.fresh
    let power := { s.power with ectot := (s.power.ectot + Config.packageEnergy s.fresh) % 2 ^ 64 }
    { s with acct := ac, fresh := s.fresh + 1, power := power
             arbs := s.arbs.map fun (e : Nat × Arb) => (e.1, { e.2 with closed := e.2.delta, delta := [], inc := [] }) }

/-- SETTLEMENT_PERIOD_END (R315). -/
def execSettlementPeriodEnd (s : State) : Out := .next (endPeriod s)
/-- The broadcast of a period takes effect at every arbiter (R315, R317). -/
def broadcast (s : State) : State :=
  let ac := s.acct
  if ac.periods ≤ ac.broadcasts ∨ s.clock < 4096 * (ac.broadcasts + 1) + 256 then s
  else
    -- Flosil sets E(63) (R308). Log entry 48, DESIGN CHOICE
    let ent := tput ac.ent 63 (Config.flosilEntitlement s.fresh % 65536)
    let ac := { ac with hSeen := ac.h, dmSeen := ac.dm, energySeen := ac.energy, ent := ent, entSeen := ent,
                        broadcasts := ac.broadcasts + 1 }
    { s with acct := ac, fresh := s.fresh + 1, arbs := s.arbs.map fun (e : Nat × Arb) => (e.1, { e.2 with closed := [] }) }

/-- SETTLEMENT_BROADCAST (R315). -/
def execSettlementBroadcast (s : State) : Out := .next (broadcast s)
/-- RATE_BUCKET_REFILL (R352). -/
def execRateBucketRefill (part : Nat) (s : State) : Out := .next (refillBucket s part)

end Sys2Proof.Machine
end

