-- ==== Sys2Proof/Machine/EvCopy.lean ====
section
/-!
DEFINITION. Sys2Proof/Machine/EvCopy.lean: the events of the copy engines, of landing zones and of treadles. An event whose
condition does not hold changes nothing.
-/
namespace Sys2Proof.Machine

/-- COPY_COMMAND_START (R251). -/
def execCopyCommandStart (loom : Nat) (s : State) : Out := .next (chooseCmd s loom)
/-- COPY_DATA_ARRIVAL (R263). -/
def execCopyDataArrival (loom key lo n : Nat) (rdata : List (BitVec 8)) (rpois : Nat) (s : State) : Out :=
  .next (arrive s loom key lo n rdata rpois)
/-- COPY_DONE (R261). -/
def execCopyDone (loom key : Nat) (s : State) : Out := .next (completeCmd s loom key)
/-- The fabric ends a running remote command: a fabric cause of Table 15-1, or, 16 above it, the refusal of a landing
zone (R262, R275). -/
def fabricFails (s : State) (loom key peer cause outcome : Nat) : State :=
  match s.cmds.find? fun c => c.key == key && c.st == .running && s.engineLoom c == loom && (c.peers s.chip).contains peer with
  | none => s
  | some c =>
    if 1 ≤ cause ∧ cause ≤ 6 then failRemote s c cause outcome peer
    else if 16 < cause ∧ c.form = 7 ∧ nameChip c.a = peer then failTarget s c (cause - 16)
    else s

/-- COPY_FAILED (R262). -/
def execCopyFailed (loom key : Nat) (why : CopyEnd) (outcome : Nat) (s : State) : Out :=
  .next (fabricFails s loom key why.peer why.cause outcome)
/-- LZ_RESV_ARRIVAL (R274). -/
def execLzResvArrival (src tenant name len : Nat) (s : State) : Out := .next (zoneRequest s src tenant name len)
/-- LZ_ARRIVAL (R275). -/
def execLzArrival (src tenant token len cpctl : Nat) (rdata : List (BitVec 8)) (rpois : Nat) (s : State) : Out :=
  .next (zoneArrival s src tenant token len cpctl rdata rpois)
/-- LZ_CLOSE_COMPLETE (R276). -/
def execLzCloseComplete (core zone : Nat) (s : State) : Out := .next (closeComplete s core zone)
/-- TREADLE_COMPLETE (R304). -/
def execTreadleComplete (idx : Nat) (ok : Bool) (cause outcome : Nat) (s : State) : Out :=
  .next (completeTreadle s idx ok cause outcome)

end Sys2Proof.Machine
end

