-- ==== Sys2Proof/Machine/EvFabric.lean ====
section
/-!
DEFINITION. Sys2Proof/Machine/EvFabric.lean: the events of the fabric. An event whose condition does not hold changes
nothing.
-/
namespace Sys2Proof.Machine

/-- REMOTE_REQUEST_ARRIVAL (R278). -/
def execRemoteRequestArrival (src tenant op : Nat) (addrs : FarAddrs) (size : Nat) (data cmp rpois : List Nat) (s : State) : Out :=
  .next (farRequest s src tenant op addrs size data cmp rpois)
/-- REMOTE_REPLY (R281). -/
def execRemoteReply (core slot key : Nat) (ok : Bool) (rdata : List (BitVec 8)) (poison cause outcome : Nat) (s : State) : Out :=
  .next (if ok then takeReply s core slot key (.data rdata poison) (some rdata.length)
    else if reported cause outcome then takeReply s core slot key (.failed cause outcome) none else s)
/-- REMOTE_ACK (R282). -/
def execRemoteAck (core slot key : Nat) (ok : Bool) (cause outcome : Nat) (s : State) : Out :=
  .next (if ok || reported cause outcome then takeAck s core slot key ok cause outcome else s)
/-- FLIT_SEND (R289). -/
def execFlitSend (load : FlitLoad) (s : State) : Out := .next (sendFlit s load)
/-- FLIT_RECEIVE (R289). -/
def execFlitReceive (chip hdr body tag requests : Nat) (decodes auth : Bool) (s : State) : Out :=
  .next (receiveFlit s chip (flitBits hdr body tag) requests decodes auth)
/-- NEGATIVE_ACKNOWLEDGEMENT (R289). -/
def execNegativeAcknowledgement (chip seq : Nat) (s : State) : Out := .next (nakFlit s chip seq)
/-- ACKNOWLEDGEMENT_TIMER (R289). -/
def execAcknowledgementTimer (chip : Nat) (s : State) : Out := .next (ackFlits s chip)
/-- RETRY_TIMEOUT (R289). -/
def execRetryTimeout (chip : Nat) (s : State) : Out := .next (retryFlits s chip)
/-- REESTABLISHMENT_COMPLETE (R289). -/
def execReestablishmentComplete (chip : Nat) (s : State) : Out := .next (endReest s chip)
/-- REESTABLISHMENT_TIMEOUT (R289). -/
def execReestablishmentTimeout (chip : Nat) (s : State) : Out := .next (reestOver s chip)
/-- REKEY_TIMEOUT (R290). -/
def execRekeyTimeout (chip : Nat) (s : State) : Out := .next (rekeyOver s chip)
/-- LINK_FAILURE (R287). -/
def execLinkFailure (chip : Nat) (erased : Erased) (s : State) : Out := .next (eraseLinks s chip erased)
/-- GRANT_HASH_COMPARE (R288). -/
def execGrantHashCompare (agree : Bool) (s : State) : Out := .next (if agree then s else stopInjection s)
/-- RESYNCHRONISATION_COMPLETE (R288). -/
def execResynchronisationComplete (s : State) : Out := .next (endResync s)
/-- PATH_LOST (R291). -/
def execPathLost (chip : Nat) (peer : Bool) (s : State) : Out := .next (losePath s chip peer)
/-- PATH_KEY_EXCHANGE (R388). -/
def execPathKeyExchange (chip kslot : Nat) (rekey : Option Nat) (s : State) : Out := .next (exchangeKeys s chip kslot rekey)

end Sys2Proof.Machine
end

