-- ==== Sys2Proof/Machine/Admin.lean ====
section
/-!
DEFINITION. Sys2Proof/Machine/Admin.lean: the end of a partition (R357, R368), scrubbing (R355, R356), regions and their
release (R354), captures and rollback (R363 to R369), lanes and looms that fail (R360, R361), struck state (R362).
-/
namespace Sys2Proof.Machine

/-! ## Scrubbing (R355, R356) -/

/-- Whether released regions wait for SCRUB.GO (Table 21-5). -/
def State.scrubAssisted (s : State) : Bool := bit (s.func 16).mode.toNat 3
/-- The scrub of a region begins, or waits: for GO, or for the next stage 1 of a loom that did not pass it (R361). -/
def startScrub (s : State) (r last : Nat) : State :=
  let wait := s.scrubAssisted || (decide (r < 40) && !(s.loom r).passed) || s.boot.stage != 2
  { s with scrubs := tput s.scrubs r { st := if wait then .pending else .scrubbing, last := last, prog := 0 } }
/-- A write of 1 to GO. -/
def goScrub (s : State) (r : Nat) : State :=
  let x := s.scrub r
  if x.st = .pending && s.scrubAssisted && s.boot.stage == 2 && (decide (40 ≤ r) || (s.loom r).passed) then
    { s with scrubs := tput s.scrubs r { x with st := .scrubbing, prog := 0 } }
  else s
/-- The regions of a partition, by their SCRUB numbers. -/
def Part.regions (p : Part) : List Nat :=
  (List.range 40).filter (fun l => bit p.looms l) ++ ((List.range 48).filter fun g => bit p.pcgs g).map (64 + ·)
/-- A function whose partition's regions are all clean may accept launches again (R357). -/
def clearNeed (s : State) : State :=
  { s with funcs := s.funcs.map fun (f : Nat × Func) =>
    if f.2.needScrub && (s.part f.1).regions.all fun r => (s.scrub r).st == .clean then (f.1, { f.2 with needScrub := false }) else f }
/-- What a scrub zeroes: the key slots, scratchpads and tiles of a loom and what its L2 slices hold, with its droop table and last zone
generations; the HBM of a group. Log entry 45, DEDUCED. -/
def zeroRegion (s : State) (r : Nat) : State :=
  if r < 40 then
    let s := (List.range 4).foldl (fun s c =>
      let core := 4 * r + c
      let k := s.core core
      (s.zero (spadKey core 0) (2 ^ 22)).setCore core { k.zeroTiles with zoneGens := [] }) s
    let s := { s with arbs := s.arbs.map fun (e : Nat × Arb) =>
      if e.1 % 8 = 0 ∧ e.1 / 8 / 16 = r then (e.1, { e.2 with lines := [] }) else e }
    s.setLoom r { s.loom r with droop := [], keySlots := 0 }
  else s.zero (s.hbmKey ((r - 64) * 12000000000)) 12000000000
/-- The scrub of a region ends. -/
def endScrub (s : State) (r : Nat) : State :=
  let x := s.scrub r
  if x.st ≠ .scrubbing then s
  else
    let s := zeroRegion s r
    clearNeed { s with scrubs := tput s.scrubs r { x with st := .clean, prog := scrubUnits r } }

/-! ## The end of a partition (R357, R368) -/

/-- A core without the shuttles of a list: nothing of them is attached, queued or issuing. -/
def Core.forget (k : Core) (us : List Nat) : Core :=
  let gone (o : Option Nat) : Bool := match o with
    | some u => us.contains u
    | none => false
  let k := if gone k.attached || gone k.claim then { k.zeroTiles with attached := none, claim := none, matReq := 0 } else k
  { k with matQueue := k.matQueue.filter fun u => !us.contains u, vqOwner := if gone k.vqOwner then none else k.vqOwner }

/-- Every shuttle of a partition is gone, with its commands, treadles, zones and launches; nothing is counted done. -/
def dropPartition (s : State) (n : Nat) : State :=
  let mine (sh : Shuttle) : Bool := sh.live && sh.place.part == n
  let all := (s.resident ++ s.away).filter mine
  let us := all.map (·.uid)
  let cores := ((s.resident.filter mine).map (·.place.core)).eraseDups
  let s := { s with
    cur := if mine s.cur then {} else s.cur, others := s.others.filter fun sh => !mine sh,
    away := s.away.filter fun sh => !mine sh, cores := s.cores.map fun (k : Nat × Core) => (k.1, k.2.forget us),
    rooms := s.rooms.filter fun (r : Room) => !(s.part n).held.any fun l => l.key == r.key
    cmds := s.cmds.filter fun c => c.ctx.part != n, zones := s.zones.filter fun (z : Zone) => z.part != n,
    treadles := s.treadles.filter fun (t : Treadle) => t.part != n, tracks := s.tracks.filter fun (t : Track) => t.part != n }
  let s := s.setPart n { s.part n with queue := [], held := [], fired := [], capturing := false }
  let s := cores.foldl leaveCore s
  ((all.map fun sh => sh.place.core / 4).eraseDups).foldl arrangeRows s

/-- The migrations of a partition are aborted; the host reads FAILED for its own (R342, R369). -/
def dropMigrations (s : State) (n : Nat) : State :=
  let ms := s.mig.active.filter fun m => m.part == n
  let s := if ms.any (·.host) then { s with mig := { s.mig with status := 3 } } else s
  let s := ms.foldl (fun s m => endMigration (s.putEntry m.leaf (withMig (readLE s.mem m.leaf 8) false)) m.part m.gpage) s
  { s with mig := { s.mig with failed := s.mig.failed.filter fun x => x.1 != n } }

/-- A partition is ended as by a function-level reset: its queues are empty, its acceptance count 0 (R26), its function's
registers zero, but for the error queue's where `keep` holds; its regions stay, and each is scrubbed before the function accepts a launch,
its counters at once (R355); a release under way goes on. Log entry 39, DEDUCED. -/
def endPartition (s : State) (n : Nat) (keep : Bool) : State :=
  let s := dropMigrations (dropPartition s n) n
  let f := s.func n
  let fresh : Func := { featLo := f.featLo, featHi := f.featHi, needScrub := true }
  let s := s.setFunc n (if keep then
      { fresh with feqBase := f.feqBase, feqHead := f.feqHead, feqWrite := f.feqWrite, feqPhase := f.feqPhase, feqLost := f.feqLost }
    else fresh)
  let p := s.part n
  let s := s.setPart n { p with prqHead := 0, prqWrite := 0, prqPhase := true, image := none, accepts := 0 }
  let s := { s with
    held := s.held.filter fun h => h.part != n
    counters := s.counters.filter fun e => !decide (p.cbase ≤ e.1 ∧ e.1 < p.cbase + p.ccount) }
  clearNeed (p.regions.foldl (fun s r => startScrub s r n) s)

/-- TENANT_LOST (R368). -/
def tenantLost (s : State) (n : Nat) : State :=
  let seq := (s.part n).ckSeq
  feqPush (endPartition s n true) n 9 0 0 (w64 seq) 0

/-! ## Captures (R364) -/

/-- The open convoy of the issuing shuttle stops as for a pre-emption, and the shuttle keeps its slot; one that has made accesses beyond
the boundary that are not to be made twice goes on first. Log entry 38, DEDUCED. -/
def quietConvoy (s : State) : State :=
  let sh := s.cur
  let c := sh.convoy
  if !c.isOpen then s
  else
    let at_ := max c.committed sh.vstart.toNat
    let b := if sh.pageWait then at_ else c.stop (max at_ sh.madeTo) sh.vl.toNat
    if sh.vl.toNat ≤ b then finishConvoy s id
    else if b < sh.madeTo then s
    else cutAt s b b id

/-- Whether nothing of a partition is under way that a capture waits for (R364, R299). -/
def State.quiet (s : State) (n : Nat) : Bool :=
  let live := s.resident.filter fun sh => sh.live && sh.place.part == n
  live.all (fun sh => sh.status != .ending && sh.requests.isEmpty && sh.posted.isEmpty && sh.convoy.fault.isNone
      && !(s.core sh.place.core).matQueue.contains sh.uid)
    && s.away.all (fun sh => sh.place.part != n || sh.posted.isEmpty)
    && s.cmds.all (fun c => c.ctx.part != n || c.st != .running)
    && s.treadles.all fun (t : Treadle) => t.part != n || t.st != .firing || (match t.op with
        | .launch _ => true
        | .cpy _ => true
        | _ => false)

/-- The shuttle after it has stopped and its state has been written: it evaluates its wait again afterwards, and a page request of its
stays outstanding (R369). -/
def Shuttle.captured (sh : Shuttle) : Shuttle :=
  let st : Status := match sh.status with
    | .waiting (.capture k) => .waiting (.capture k)
    | .waiting .matrixGrant => .waiting .matrixGrant
    | _ => .ready
  { sh.settled with status := st, missed := sh.missed, hwemap := 0, homeIsCtx := true, homeBase := sh.ctxptr + 1024 }

/-- The shuttles of a list stop in turn, their state written to their context areas; false where one's area is not
there yet. A fault of an area ends its shuttle. -/
def captureShuttles : List Nat → State → Bool × State
  | [], s => (true, s)
  | u :: us, s =>
    let back := s.cur
    let s := quietConvoy (s.focus u)
    if s.cur.midway then (false, s.backTo back)
    else match saveContext false s with
    | .ok _ s' => captureShuttles us ({ s' with cur := s'.cur.captured }.backTo back)
    | .error (.trap c _ _) s' => captureShuttles us ((killShuttle { s' with cur := s.cur } c).backTo back)
    | .error _ s' => (false, { s' with cur := { s.cur with missed := s'.cur.missed, pgstat := s'.cur.pgstat } }.backTo back)

/-- The scratchpads of the looms of a mask. -/
def spadCells (looms : Nat) (k : Nat) : Bool :=
  decide (2 ^ 52 ≤ k) && bit looms ((k - 2 ^ 52) / 2 ^ 24)

/-- The pieces of a range of guest addresses, page by page: the first address and the length of each. -/
def pagePieces (a n : Nat) : List (Nat × Nat) :=
  (List.range ((a + n - 1) / 65536 + 1 - a / 65536)).map fun i =>
    let lo := max a ((a / 65536 + i) * 65536)
    (lo, min (a + n) ((a / 65536 + i + 1) * 65536) - lo)
/-- Bytes of a range that no rule gives. -/
def State.fillFree (s : State) (lo n off : Nat) : State :=
  { s with mem := s.mem.filter (fun c => decide (c.1 < lo)) ++ freeCells (fun i => Config.imageByte s.fresh (off + i)) lo n
      ++ s.mem.filter fun c => decide (lo + n ≤ c.1) }
/-- The image of a partition written into the bank that is not current, in the order of R364: the header, the context areas, the
scratchpads of the looms held, the counters; the form of the other parts, and of the header, is not given. Log entry 37, DESIGN CHOICE. -/
def writeImage (s : State) (n : Nat) : State :=
  let p := s.part n
  let bank := p.bankBase (1 - p.ckBank)
  let area := p.ctxCount * 7832832
  let looms := (List.range 40).filter fun l => bit p.looms l
  let s := s.zero bank (65536 * s.imgSize n)
  let s := (pagePieces p.ctxBase.toNat area).foldl (fun (s : State) x => match s.gpaPlace n x.1 with
    | some k => s.copyBytes k (bank + 65536 + (x.1 - p.ctxBase.toNat)) x.2
    | none => s) s
  let spads := bank + 65536 * (1 + ceilDiv area 65536)
  let s := looms.zipIdx.foldl (fun (s : State) x => (List.range 4).foldl (fun (s : State) c =>
    s.copyBytes (spadKey (4 * x.1 + c) 0) (spads + 2 ^ 24 * x.2 + 2 ^ 22 * c) (2 ^ 22)) s) s
  let ctrs := spads + 2 ^ 24 * looms.length
  let s := (s.counters.filter fun e => decide (p.cbase ≤ e.1 ∧ e.1 < p.cbase + p.ccount)).foldl (fun (s : State) e =>
    s.store (ctrs + 8 * (e.1 - p.cbase)) 8 e.2.toNat false) s
  let rest := ctrs + 65536 * ceilDiv (8 * p.ccount) 65536
  let s := (s.fillFree bank 64 0).fillFree rest (bank + 65536 * s.imgSize n - rest) (rest - bank)
  { s with fresh := s.fresh + 1 }

/-- CHECKPOINT_CAPTURE: the image of a partition is taken and its bank becomes the current one; the firings that the capture has held
follow (R364). A bank that may hold no image ends the capture (R363). Log entry 37, DESIGN CHOICE. -/
def takeImage (s : State) (n : Nat) : State :=
  if !(s.part n).capturing then s
  else if !s.ckEnabled n then fireDue (s.setPart n { s.part n with capturing := false }) n
  else if !s.quiet n then s
  else
    let us := (s.resident.filter fun sh => sh.live && sh.place.part == n).map (·.uid)
    let (ok, s) := captureShuttles us s
    if !ok || !s.quiet n then s
    else
      let s := writeImage s n
      let p := s.part n
      let here := (s.resident.filter fun sh => sh.live && sh.place.part == n).map fun sh => { sh with inPlace := true }
      let image : Image :=
        { seq := p.ckSeq + 1, base := p.bankBase (1 - p.ckBank), room := p.ckSize, size := s.imgSize n
          shuttles := here ++ s.away.filter fun sh => sh.place.part == n
          spad := s.mem.filter fun c => spadCells p.looms c.1
          spadPoison := s.poisoned.filter fun w => spadCells p.looms (8 * w)
          counters := s.counters.filter fun e => decide (p.cbase ≤ e.1 ∧ e.1 < p.cbase + p.ccount)
          treadles := (s.treadles.filter fun (t : Treadle) => t.part == n).map fun (t : Treadle) => { t with parked := [], sent := false }
          zones := s.zones.filter fun (z : Zone) => z.part == n
          queue := p.queue, held := p.held, tracks := s.tracks.filter fun (t : Track) => t.part == n
          cmds := (s.cmds.filter fun c => c.ctx.part == n).map fun c => { c with st := .queued, pins := [], missed := [] }
          rooms := s.rooms.filter fun (r : Room) => p.held.any fun l => l.key == r.key
          fired := p.fired, log := [] }
      let s := (s.leaves2 n).foldl (fun s x =>
        if bits x.entry 53 3 ≤ 1 then s.putEntry x.place (setBit x.entry 62 true) else s) s
      -- what was found before the leaves had COW = 1 is found again
      let s := { s with
        held := s.held.filter fun h => h.part != n
        cmds := s.cmds.map fun (c : Cmd) => if c.ctx.part = n then { c with pins := [] } else c }
      fireDue (s.setPart n { p with image := some image, ckBank := 1 - p.ckBank, ckSeq := p.ckSeq + 1, ckUsed := 0,
                                    capturing := false, lastCapture := s.clock }) n

/-- CHECKPOINT_PERIOD: the period starts a capture. -/
def periodCapture (s : State) (n : Nat) : State :=
  let p := s.part n
  if s.ckEnabled n && p.ckPer != 0 && !p.capturing && decide (p.lastCapture + 2500 * p.ckPer ≤ s.clock) then
    s.setPart n { p with capturing := true }
  else s

/-! ## Rollback (R367) -/

/-- A logged granule written back to its guest page. -/
def writeBack (n base : Nat) (s : State) (x : Nat × Nat) : State :=
  let (_, level, e) := s.entry2 n x.1
  let from_ := base + x.2 * 65536
  if readEntry 2 level e = .leaf then s.copyPage from_ (leafPpn e * 2 ^ 16 + x.1 * 2 ^ 16 % leafSpan level)
  else if !bit e 0 && level == 0 && bits e 60 2 == 1 then s.copyPage from_ (leafPpn e * 2 ^ 16)
  else s

/-- Cells and marks put back over the scratchpads of the looms of a mask. -/
def putSpad (s : State) (looms : Nat) (cells : List Host.Cell) (marks : List Nat) : State :=
  let mine (k : Nat) : Bool := spadCells looms k
  { s with
    mem := cells.foldl (fun m c => if mine c.1 then memWrite m c.1 c.2 else m) (s.mem.filter fun c => !mine c.1)
    poisoned := marks.foldl (fun p w => if mine (8 * w) then sAdd p w else p) (s.poisoned.filter fun w => !mine (8 * w)) }

/-- A shuttle of an image on a loom that its partition has released since: its region goes to its context area (R21, R392). -/
def moveOut (i : Image) (s : State) (sh : Shuttle) : State :=
  let n := 256 * sh.place.spad
  let k := spadKey sh.place.core sh.place.spadOff
  match Route.gpa.put true 0 (sh.ctxptr.toNat + spadSection) n (readLE i.spad k n) (markMask i.spadPoison k n) { s with cur := sh } with
  | .ok _ s' => { s' with cur := s.cur }
  | .error .. => s
/-- A shuttle of an image as it waits for its placement: its CKPT of that capture is over (R140), everything else begins again. -/
def Shuttle.comeBack (sh : Shuttle) (seq clock : Nat) (inPlace : Bool) : Shuttle :=
  let sh := sh.setEstat 7 true
  { sh with
    prbSeq := w64 seq, since := clock, inPlace := inPlace, restored := true
    status := match sh.status with
      | .waiting (.capture k) => .waiting (.capture k)
      | _ => .ready
    missed := [], found := [], faulted := [], kept := [], lostSources := [], again := none, span := [], stopping := none, killed := none
    views := Vector.replicate 3 {}, ctrHigh := 0 }
/-- The image of a partition restored, as far as the partition still holds what it covers (R21). Log entry 44, DEDUCED. -/
def rollback (s : State) (n : Nat) : State :=
  let p := s.part n
  match p.image with
  | none => s
  | some i =>
    let s := dropMigrations (dropPartition s n) n
    let s := i.log.foldl (writeBack n i.base) s
    let s := (s.leaves2 n).foldl (fun s x => s.putEntry x.place (setBit x.entry 62 false)) s
    let s := putSpad s p.looms i.spad i.spadPoison
    let holds (core : Nat) : Bool := s.loomHolder (core / 4) == n
    let out := i.shuttles.filter fun sh => sh.inPlace && !holds sh.place.core && sh.place.spad != 0
    let s := out.foldl (moveOut i) s
    let back := i.shuttles.map fun sh => sh.comeBack i.seq s.clock (sh.inPlace && holds sh.place.core)
    let mine (k : Nat) : Bool := decide (p.cbase ≤ k ∧ k < p.cbase + p.ccount)
    let s := { s with
      away := s.away ++ back
      counters := (i.counters.filter fun (e : Nat × Word) => mine e.1).foldl (fun t (e : Nat × Word) => tput t e.1 e.2) (s.counters.filter fun (e : Nat × Word) => !mine e.1)
      treadles := s.treadles ++ i.treadles.filter fun (t : Treadle) => decide (p.tbase ≤ t.idx ∧ t.idx < p.tbase + p.tcount)
      zones := s.zones ++ i.zones.filter fun (z : Zone) => holds z.core
      tracks := s.tracks ++ i.tracks, cmds := s.cmds ++ i.cmds, rooms := s.rooms ++ i.rooms.filter fun (r : Room) => holds r.core
      held := s.held.filter fun h => h.part != n, struck := s.struck.filter (· != n) }
    let s := fireDue (s.setPart n { s.part n with queue := i.queue, held := i.held, fired := i.fired }) n
    feqPush s n 10 0 0 (w64 i.seq) 0

/-- State of a partition that cannot carry poison is struck (R362, R368). -/
def strikePart (s : State) (n : Nat) : State :=
  if s.ckEnabled n && (s.part n).image.isSome then rollback s n else tenantLost s n
/-- The partitions whose state an access has found struck roll back (R362). -/
def strikeAll (s : State) : State := s.struck.foldl strikePart { s with struck := [] }

/-! ## Regions (R354) -/

/-- QSTAT. -/
def setQstat (s : State) (n q : Nat) : State := s.setPart n { s.part n with qstat := q }
def refuseRegion (s : State) (n : Nat) : State := setQstat s n 2
/-- A new mask of regions: it removes none, and adds only clean ones that no other partition holds. -/
def maskOk (s : State) (n old new base count : Nat) (holder : Nat → Nat) : Bool :=
  (List.range count).all fun i =>
    if bit old i then bit new i
    else !bit new i || ((s.scrub (base + i)).st == .clean && holder i == 16)
    && n != 16
def writeLooms (s : State) (n v : Nat) : State :=
  let p := s.part n
  if n = 16 then s
  else if s.boot.stage = 2 && maskOk s n p.looms v 0 40 s.loomHolder then s.setPart n { p with looms := v % 2 ^ 40 }
  else refuseRegion s n
def writePcgs (s : State) (n v : Nat) : State :=
  let p := s.part n
  if n = 16 then s
  else if s.boot.stage = 2 && maskOk s n p.pcgs v 64 48 s.groupHolder then s.setPart n { p with pcgs := v % 2 ^ 48 }
  else refuseRegion s n
/-- A new slice of `limit` indexes: it keeps the old one, and meets no other partition's. -/
def sliceOk (s : State) (n limit ob oc nb nc : Nat) (other : Part → Nat × Nat) : Bool :=
  decide (nb + nc ≤ limit) && (oc == 0 || decide (nb ≤ ob ∧ ob + oc ≤ nb + nc))
    && (List.range 16).all fun k => k == n || (let (b, c) := other (s.part k); c == 0 || nc == 0 || decide (b + c ≤ nb ∨ nb + nc ≤ b))
def writeCslice (s : State) (n v : Nat) : State :=
  let p := s.part n
  let b := bits v 0 16
  let c := bits v 32 16
  if n = 16 then s
  else if s.boot.stage = 2 && sliceOk s n 65536 p.cbase p.ccount b c (fun q => (q.cbase, q.ccount)) then
    s.setPart n { p with cbase := b, ccount := c }
  else refuseRegion s n
def writeTslice (s : State) (n v : Nat) : State :=
  let p := s.part n
  let b := bits v 0 14
  let c := bits v 32 14
  if n = 16 then s
  else if s.boot.stage = 2 && sliceOk s n 16384 p.tbase p.tcount b c (fun q => (q.tbase, q.tcount)) then
    s.setPart n { p with tbase := b, tcount := c }
  else refuseRegion s n
def writeIdent (s : State) (n v : Nat) : State :=
  if n = 16 then s
  else if bits v 0 12 = 0xFFF then refuseRegion s n
  else s.setPart n { s.part n with tenant := bits v 0 12, remoteOwner := bits v 16 6, cap := bit v 24 }

/-- The open zones on a loom. -/
def State.zonesOn (s : State) (loom : Nat) : Nat := (s.zones.filter fun (z : Zone) => z.core / 4 == loom).length
/-- A pre-empted shuttle that stayed in place, whose zones are closed, leaves its slot: its region is written (R392). -/
def evict (s : State) (sh : Shuttle) : State :=
  let put : M Unit := do
    let s ← get
    let sh := s.cur
    if sh.place.spad != 0 then
      let n := 256 * sh.place.spad
      let k := spadKey sh.place.core sh.place.spadOff
      Route.gpa.put true 0 (sh.ctxptr.toNat + spadSection) n (readLE s.mem k n) (markMask s.poisoned k n)
  match put { s with cur := sh } with
  | .ok _ s' =>
    let s' := { s' with cur := s.cur, away := s'.away.map fun x => if x.uid = sh.uid then { x with inPlace := false } else x }
    let k := s'.core sh.place.core
    if k.claim = some sh.uid then s'.setCore sh.place.core { k with claim := none } else s'
  | .error .. => s
/-- The shuttles of a loom leave it, but for those with an open zone. -/
def emptyLoom (s : State) (n loom : Nat) : State :=
  let go := s.resident.filter fun sh =>
    sh.live && sh.status != .ending && sh.place.part == n && sh.place.core / 4 == loom && !staysInPlace s sh
  let s := go.foldl (fun s sh => onSlot s sh.place.core sh.place.slot fun s => requestPreempt s 0) s
  let s := settleLends s
  let stuck := s.away.filter fun sh => sh.inPlace && sh.place.core / 4 == loom && !staysInPlace s sh && !s.isParent sh
  stuck.foldl evict s

/-- FORCE closes the open zones of a loom as LZ.CLOSE does; their shuttles lose them. Log entry 58, DEDUCED. -/
def forceZones (s : State) (loom : Nat) : State :=
  let zs := s.zones.map fun (z : Zone) => if z.core / 4 = loom then { z with closing := true, uid := 0 } else z
  let s := { s with zones := zs }
  { s with zones := s.zones.filter fun (z : Zone) => !(decide (z.core / 4 = loom) && !s.landing z) }

/-- The treadles at the top of a slice that FORCE disarms. -/
def disarm (s : State) (lo hi : Nat) : State :=
  { s with treadles := s.treadles.filter fun (t : Treadle) => !(decide (lo ≤ t.idx ∧ t.idx < hi) && t.st == .armed) }

/-- How many indexes a release of a slice takes off its top. -/
def topCount (count have_ : Nat) : Nat := if count = 0 ∨ have_ ≤ count then have_ else count

/-- A write to QCMD with op RELEASE, or FORCE: the region in [7:0], COUNT in [47:32]. Log entry 47, DEDUCED. -/
def startRelease (s : State) (n v : Nat) (force : Bool) : State :=
  let p := s.part n
  let r := bits v 0 8
  let count := bits v 32 16
  let busy (s : State) (zones : Nat) : State :=
    s.setPart n { s.part n with qstat := 1, zonesSeen := zones, release := some (r, count), forced := force }
  if n = 16 ∨ p.release.isSome then s
  else if bits v 10 22 ≠ 0 ∨ bits v 48 16 ≠ 0 then refuseRegion s n
  else if r < 40 then
    if !bit p.looms r || popc p.looms 40 == 1 then refuseRegion s n
    else
      let s := s.setLoom r { s.loom r with releasing := true }
      -- every shuttle of the loom is pre-empted, those with an open zone in place
      let s := if force then forceZones s r else s
      let zoned := s.resident.filter fun sh => sh.live && sh.place.part == n && sh.place.core / 4 == r && staysInPlace s sh
      let s := zoned.foldl (fun s sh => onSlot s sh.place.core sh.place.slot fun s => requestPreempt s 0) s
      let s := emptyLoom s n r
      busy s (s.zonesOn r)
  else if 64 ≤ r ∧ r < 112 then
    if !bit p.pcgs (r - 64) || popc p.pcgs 48 == 1 then refuseRegion s n else busy s 0
  else if r = 128 then
    if force || p.ccount == 0 then refuseRegion s n else busy s 0
  else if r = 129 then
    if p.tcount = 0 then refuseRegion s n
    else
      let k := topCount count p.tcount
      busy (if force then disarm s (p.tbase + p.tcount - k) (p.tbase + p.tcount) else s) 0
  else refuseRegion s n

/-- Whether a launch names a counter of a range. -/
def Launch.names (l : Launch) (hit : Nat → Bool) : Bool :=
  (l.dep0t != 0 && hit l.dep0) || (l.dep1t != 0 && hit l.dep1) || (l.dadd != 0 && hit l.done) || (l.weave && hit l.disp)
/-- Whether anything that R354 lists names a counter of a range. -/
def State.namesCounter (s : State) (n lo hi : Nat) : Bool :=
  let hit (i : Nat) : Bool := decide (lo ≤ i ∧ i < hi)
  let p := s.part n
  let cmd (c : Cmd) : Bool := c.cen && hit c.ctr
  (p.queue ++ p.held).any (fun l => l.names hit) || p.fired.any (fun f => f.2.names hit)
    || (s.resident ++ s.away).any (fun sh => sh.live && ((match sh.status with
        | .waiting (.counter i _ _) => hit i
        | _ => false) || (sh.place.weave && hit sh.place.disp)
        || (match sh.lend with
          | some l => l.names hit
          | none => false)))
    || s.treadles.any (fun (t : Treadle) => (t.st == .armed && hit t.ctr) || (t.st != .failed && (match t.op with
        | .cpy c => cmd c
        | .ctrAdd r _ => (!bit r.toNat 40 || bits r.toNat 32 8 == s.chip) && hit (bits r.toNat 0 16)
        | .launch l => l.names hit
        | _ => false)))
    || s.zones.any (fun (z : Zone) => z.cen && hit z.ctr) || s.cmds.any cmd

/-- Whether a stage-2 leaf with V = 1 maps a page of a group (R354, R390). -/
def State.mapsGroup (s : State) (n g : Nat) : Bool :=
  (s.leaves2 n).any fun x =>
    let pa := x.key
    pa / 2 ^ 44 == s.chip && decide (pa % 2 ^ 44 < (g + 1) * 12000000000 ∧ g * 12000000000 < pa % 2 ^ 44 + leafSpan x.level)

/-- Whether a copy that has begun reads or writes a window of a loom: the loom is not another partition's before it has
ended (R21). Log entry 71, DEDUCED. -/
def State.copiesOn (s : State) (loom : Nat) : Bool :=
  s.cmds.any fun c => c.st == .running && c.core / 4 == loom && (inWindow c.a.toNat || inWindow c.b.toNat)

/-- The withdrawal of a loom that found another release of its partition under way begins (R361). -/
def nextRelease (s : State) (n : Nat) : State :=
  match (s.part n).withdrawing with
  | [] => s
  | l :: ls => startRelease (s.setPart n { s.part n with withdrawing := ls }) n l false
/-- RELEASE_COMPLETE: a release under way ends once nothing holds it up; FORCE of treadle entries waits for the FIRING ones alone
(R354). -/
def endRelease (s : State) (n : Nat) : State :=
  match (s.part n).release with
  | none => s
  | some (r, count) =>
    let done (s : State) (p : Part) : State :=
      nextRelease (s.setPart n { p with qstat := 3, zonesSeen := 0, release := none, forced := false }) n
    if r < 40 then
      let s := emptyLoom s n r
      let p := s.part n
      if (s.resident.any fun sh => sh.live && sh.place.core / 4 == r) || (s.away.any fun sh => sh.inPlace && sh.place.core / 4 == r)
          || s.zonesOn r != 0 || s.copiesOn r then
        s.setPart n { p with zonesSeen := s.zonesOn r }
      else
        let s := s.setLoom r { s.loom r with releasing := false, clusters := [], blocks := [] }
        done (startScrub s r n) { p with looms := p.looms - 2 ^ r }
    else if r < 112 then
      let p := s.part n
      if s.mapsGroup n (r - 64) then s
      else done (startScrub s r n) { p with pcgs := p.pcgs - 2 ^ (r - 64) }
    else if r = 128 then
      let p := s.part n
      let hi := p.cbase + p.ccount
      let lo := hi - topCount count p.ccount
      if s.namesCounter n lo hi then s
      else
        let s := { s with counters := s.counters.filter fun e => !decide (lo ≤ e.1 ∧ e.1 < hi) }
        done s { p with ccount := lo - p.cbase }
    else
      let p := s.part n
      let hi := p.tbase + p.tcount
      let lo := hi - topCount count p.tcount
      let top (t : Treadle) : Bool := decide (lo ≤ t.idx ∧ t.idx < hi)
      if s.treadles.any fun (t : Treadle) => top t && (!p.forced || t.st == .firing) then s
      else done { s with treadles := s.treadles.filter fun (t : Treadle) => !top t } { p with tcount := lo - p.tbase }

/-! ## Failing lanes and looms (R360, R361) -/

/-- A loom is withdrawn: it is released as by the partition manager, and stays out until the next stage 1. -/
def withdraw (s : State) (loom reason : Nat) : State :=
  let n := s.loomHolder loom
  let s := s.setLoom loom { s.loom loom with passed := false }
  let p := s.part n
  let s := if n ≠ 16 ∧ p.release.isSome then s.setPart n { p with withdrawing := p.withdrawing ++ [loom] } else startRelease s n loom false
  feqPush s 16 11 0 0 (w64 (loom + reason * 2 ^ 8)) 0

/-- A lane is retired, with its cluster where it is the second there; a loom with fewer than four clusters is withdrawn. -/
def retireLane (s : State) (loom lane : Nat) : State :=
  let l := s.loom loom
  if l.retired.contains lane then s
  else
    let l := { l with retired := lane :: l.retired }
    let keep (m : Nat) : Nat := (List.range 16).foldl (fun acc c => if bit m c && l.inService c then acc + 2 ^ c else acc) 0
    let s := s.setLoom loom { l with clusters := l.clusters.map fun (e : Nat × Nat) => (e.1, keep e.2) }
    if ((List.range 16).filter l.inService).length < 4 && l.passed then withdraw s loom 1 else s

/-- The position of the open convoy's member in which an element group that begins at `k` goes to a lane of the core (R40). -/
def State.failing (s : State) (sh : Shuttle) (lane k : Nat) : Option Nat :=
  sh.convoy.members.findIdx? fun m =>
    k % m.k == 0 && (s.loom (sh.place.core / 4)).laneOf (sh.place.core % 4) (k / m.k) == some lane
/-- A residue mismatch of a lane in the element group of which `k` is the first: the open convoy stops there as for a fault, with no
trap, and the lane is retired. A group beyond a fault that the convoy has met is not executed. During stage 1 it is the failure of a
lane's trim (R370). Log entry 87, DESIGN CHOICE. -/
def laneFails (s : State) (core slot lane k : Nat) : State :=
  if s.boot.stage = 1 then retireLane s (core / 4) lane
  else match s.at core slot with
  | none => s
  | some sh =>
    let c := sh.convoy
    match s.failing sh lane k with
    | none => s
    | some i =>
      if !c.isOpen || decide (k < c.committed) || decide (sh.vl.toNat ≤ k) || c.unsettled k || c.fault.any (fun f => decide (f.elem ≤ k)) then s
      else
        let f : Pending := { elem := k, member := i, cause := cLANE, eaddr := 0, einfo := 0 }
        retireLane (onSlot s core slot fun s => strikeCut { s with cur := s.cur.meet f } f) (core / 4) lane
/-- A residue mismatch of a matrix sweep: the sweep is repeated; a second one of the same sweep withdraws the loom. -/
def sweepFails (s : State) (core : Nat) : State :=
  let n := core / 4
  let l := s.loom n
  let c := core % 4
  if (s.core core).matQueue.isEmpty then s
  else if bit l.arrayFailed c then withdraw (s.setLoom n { l with arrayFailed := setBits l.arrayFailed c 1 0 }) n 2
  else s.setLoom n { l with arrayFailed := setBits l.arrayFailed c 1 1 }

/-! ## Struck state (R362) -/

/-- A byte of a vector or scale register marked. -/
def VecReg.mark (r : VecReg) (i : Nat) : VecReg := { r with poison := setBit r.poison i true }
/-- The partition whose context area holds a byte of storage. -/
def State.areaHolder (s : State) (k : Nat) : Option Nat :=
  ((s.resident ++ s.away).find? fun sh => sh.live && (pagePieces sh.ctxptr.toNat 7832832).any fun x =>
    (s.gpaPlace sh.place.part x.1).any fun p => decide (p ≤ k ∧ k < p + x.2)).map (·.place.part)
/-- The partition whose image or granule log holds a byte of storage. -/
def State.imageHolder (s : State) (k : Nat) : Option Nat :=
  (List.range 16).find? fun n => (s.part n).image.any fun i => decide (i.base ≤ k ∧ k < i.base + 65536 * (i.size + i.log.length))
/-- An uncorrectable error by the class of state it strikes: 0 a clean copy; 1 the memory word of key `a`, which may be one of a context area or image; 2 byte
b mod 2^16 of register b / 2^16 (32 and up the scale registers) of the shuttle at slot a mod 8 of core a / 8; 3 byte
b mod 2^22 of tile b / 2^22 of core `a`; 4 other state of partition `a`; 5 the image or granule log of partition `a`; 6
unit `b`, 3 being the state of the path from chip a / 256 to chip a mod 256. Log entry 55, DESIGN CHOICE. -/
def uncorrectable (s : State) (kind a b : Nat) : State :=
  match kind with
  | 1 =>
    match s.imageHolder a, s.areaHolder a with
    | some n, _ => tenantLost s n
    | none, some n => strikePart s n
    | none, none => { s with poisoned := sAdd s.poisoned (a / 8) }
  | 2 =>
    match s.at (a / 8) (a % 8) with
    | none => s
    | some sh =>
      let r := b / 2 ^ 16
      let i := b % 2 ^ 16
      s.onUid sh.uid fun sh =>
        if r < 32 then { sh with v := sh.v.setIfInBounds r ((sh.v[r]?.getD {}).mark i) }
        else { sh with e := sh.e.setIfInBounds (r - 32) ((sh.e[r - 32]?.getD {}).mark i) }
  | 3 =>
    let k := s.core a
    let t := b / 2 ^ 22
    let x := k.tiles[t]?.getD {}
    s.setCore a { k with tiles := k.tiles.setIfInBounds t { x with poison := setBit x.poison (b % 2 ^ 22) true } }
  | 4 => if a ≤ 16 then strikePart s a else s
  | 5 => if a ≤ 16 && (s.part a).image.isSome then tenantLost s a else s
  | 6 => if 1 ≤ b ∧ b ≤ 3 then feqPush s 16 12 0 0 (w64 b) (if b = 3 then w64 (a % 2 ^ 16) else 0) else s
  | _ => s

end Sys2Proof.Machine
end

