-- ==== Sys2Proof/Machine/EvFail.lean ====
section
/-!
DEFINITION. Sys2Proof/Machine/EvFail.lean: the events of failure: lanes, struck state, captures and rollback. An event whose condition does not hold
changes nothing.
-/
namespace Sys2Proof.Machine

/-- LANE_RESIDUE_MISMATCH (R360). -/
def execLaneResidueMismatch (core slot lane k : Nat) (array : Bool) (s : State) : Out :=
  .next (if array then sweepFails s core else laneFails s core slot lane k)
/-- UNCORRECTABLE_ERROR (R362). -/
def execUncorrectableError (kind a b : Nat) (s : State) : Out := .next (uncorrectable s kind a b)
/-- ROLLBACK (R367). -/
def execRollback (part : Nat) (s : State) : Out :=
  .next (if s.ckEnabled part then Sys2Proof.Machine.rollback s part else s)
/-- CHECKPOINT_PERIOD (R364). -/
def execCheckpointPeriod (part : Nat) (s : State) : Out := .next (periodCapture s part)
/-- CHECKPOINT_CAPTURE (R364). -/
def execCheckpointCapture (part : Nat) (s : State) : Out := .next (takeImage s part)

end Sys2Proof.Machine
end

