-- ==== Sys2Proof/Machine/EvSched.lean ====
section
/-!
DEFINITION. Sys2Proof/Machine/EvSched.lean: the events of scheduling, lanes, convoys and the matrix array. An event whose
condition does not hold changes nothing.
-/
namespace Sys2Proof.Machine

/-! ## Traps, launches, placement -/

/-- ASYNC_TRAP_ENTRY (R119). -/
def execAsyncTrapEntry (s : State) : Out := .next (takeAsync s)
/-- A write to a function's launch window (R23 to R26, R357, R379): one launch, or an entry of the error queue. -/
def windowWrite (s : State) (fn off len data : Nat) : State :=
  let f := s.func fn
  if 16 < fn ∨ 4096 ≤ off then s
  else if off % 64 ≠ 0 ∨ len ≠ 64 ∨ f.needScrub ∨ s.boot.stage ≠ 2 then feqPush s fn 1 0 0 (w64 off) 0
  else
    match parseLaunch s fn (data % 2 ^ 512) with
    | none => feqPush s fn 2 0 0 (w64 off) 0
    | some l =>
      let (st, s') := launchNow s l
      if st = 0 then s' else feqPush s fn 3 0 0 (w64 l.cls) 0

/-- LAUNCH_WINDOW_WRITE (R23). -/
def execLaunchWindowWrite (fn off len data : Nat) (s : State) : Out := .next (windowWrite s fn off len data)
/-- SHUTTLE_PLACEMENT (R29). -/
def execShuttlePlacement (s : State) : Out := .next (dispatch s)
/-- SHUTTLE_END (R141). -/
def execShuttleEnd (core slot : Nat) (s : State) : Out :=
  .next (onSlot s core slot fun s => if mayEnd s s.cur then endShuttle s else s)
/-- LEND_HANDOVER (R33). -/
def execLendHandover (core slot : Nat) (s : State) : Out := .next (onSlot s core slot handover)
/-- PREEMPTION (R43). -/
def execPreemption (core slot b : Nat) (s : State) : Out :=
  .next (settleLends (onSlot s core slot fun s => requestPreempt s b))
/-- The launch of a key that has waited 4,096 clocks without fitting, and has its class's turn (R43). -/
def State.starvedLaunch (s : State) (part key : Nat) : Option Launch :=
  (s.part part).queue.find? fun l =>
    l.key == key && l.eligible && decide (l.since + 4096 ≤ s.clock) && (s.fit l).isNone

/-- PREEMPT_AFTER_FAIL_TO_FIT (R43). -/
def execPreemptAfterFailToFit (part key b : Nat) (s : State) : Out :=
  .next (match s.starvedLaunch part key with
    | none => s
    | some l =>
      match s.victim l with
      | none => s
      | some sh => settleLends (onSlot s sh.place.core sh.place.slot fun s => requestPreempt s b))
/-! ## Lanes -/

/-- CONVOY_CLOSE_TIMEOUT (R36). -/
def execConvoyCloseTimeout (core : Nat) (s : State) : Out :=
  .next (match (s.core core).vqOwner with
    | some u => if (s.core core).vqSince + 64 ≤ s.clock then closeQueue s core u else s
    | none => s)
/-- LANE_RETURN (R38). -/
def execLaneReturn (core : Nat) (s : State) : Out :=
  let k := s.core core
  .next (if k.vqOwner.isSome then s
    else if k.laneReturn then returnLanes (s.setCore core { k with laneReturn := false }) core
    else if s.resident.any (fun sh => sh.live && sh.place.core == core) then s
    else returnLanes s core)
/-- EXECUTE_CLUSTER_REQUEST (R38). -/
def execExecuteClusterRequest (core slot : Nat) (s : State) : Out :=
  .next (onSlot s core slot fun s =>
    if (s.loom (core / 4)).held (core % 4) = 0 && s.cur.convoy.isOpen then
      heddle s core (clusterRequest s.cur.vl.toNat (ebits s.cur.ety))
    else s)
/-- HEDDLE_RECLAIM (R39). -/
def execHeddleReclaim (core : Nat) (s : State) : Out := .next (giveClusters s core)
/-! ## Convoys and waiting accesses -/

/-- A shuttle parked on translations probes again once one of them has been answered (R218, R229). -/
def probeAgain (s : State) (sh : Shuttle) : Shuttle :=
  match sh.status with
  | .waiting (.page ids leaves) => if waitOver s sh (.page ids leaves) then { sh with status := .ready } else sh
  | _ => sh
/-- CONVOY_PROBE (R216). -/
def execConvoyProbe (core slot : Nat) (s : State) : Out :=
  .next (onSlot s core slot fun s => { s with cur := probeAgain s s.cur })
/-- The next element group of the issuing shuttle's open convoy commits, where no member can join it any more (R220); a
fault that the convoy has met bounds it (R221). Remote accesses wait for the convoy's end. Log entry 20, DESIGN CHOICE. -/
def commitGroup (s : State) : State :=
  let sh := s.cur
  let c := sh.convoy
  let limit := match c.fault with
    | some f => c.boundary f.elem
    | none => sh.vl.toNat
  let b := min limit (c.committed + c.group)
  if c.isOpen && c.count == 8 && !c.ordered && c.wants.isEmpty && c.buffer.all (fun x => x.remote.isNone) then
    match commitTo s b with
    | (.redo lo, t) => runAgain t (max lo t.cur.convoy.committed) t.cur.sameAgain
    | (_, t) => t
  else s

/-- ELEMENT_GROUP_COMMIT (R220). -/
def execElementGroupCommit (core slot : Nat) (s : State) : Out := .next (onSlot s core slot commitGroup)
/-- A scalar access whose translation or reply has come goes on: its shuttle is ready (R130). -/
def dataReturns (s : State) (sh : Shuttle) : Shuttle :=
  match sh.status with
  | .waiting .remote => if waitOver s sh .remote then { sh with status := .ready } else sh
  | _ => if sh.convoy.isOpen then sh else probeAgain s sh
/-- LOAD_DATA_RETURN (R130). -/
def execLoadDataReturn (core slot : Nat) (s : State) : Out :=
  .next (onSlot s core slot fun s => { s with cur := dataReturns s s.cur })
/-! ## The matrix array -/

/-- MATRIX_BLOCK_OFFER (R231): a free block is offered, or the first core that was promised one is at a sweep boundary. -/
def execMatrixBlockOffer (loom : Nat) (s : State) : Out :=
  .next (if 40 ≤ loom then s
    else match (s.loom loom).offers, (s.loom loom).pend with
      | [], x :: _ => sweepBoundary s (4 * loom + x.2 % 4)
      | _, _ => offerBlock s loom)
/-- MATRIX_RECLAIM (R231): the marked holder is at a sweep boundary. -/
def execMatrixReclaim (loom : Nat) (s : State) : Out :=
  .next (if 40 ≤ loom then s
    else match s.markedHolder loom with
      | some h => sweepBoundary s (4 * loom + h)
      | none => s)
/-- The operation at the head of a core's matrix queue has been performed, which is a sweep boundary (R238, R248). Log entry 52, DESIGN CHOICE. -/
def finishTile (s : State) (core : Nat) : State :=
  let k := s.core core
  let s := s.setLoom (core / 4) { s.loom (core / 4) with arrayFailed := setBits (s.loom (core / 4)).arrayFailed (core % 4) 1 0 }
  arrangeRows (sweepBoundary (s.setCore core { k with matQueue := k.matQueue.drop 1 }) core) (core / 4)

/-- TILE_OPERATION_EXECUTE (R238). -/
def execTileOperationExecute (core : Nat) (s : State) : Out :=
  .next (if (s.core core).matQueue.isEmpty then s else finishTile s core)
end Sys2Proof.Machine
end

