-- ==== Sys2Proof/Machine/Power.lean ====
section
/-!
DEFINITION. Sys2Proof/Machine/Power.lean: budgets and leases (R375, R376), sensors (R373, R374), start-up (R379 to R381), the
mailbox and its commands (R383 to R389).
-/
namespace Sys2Proof.Machine

/-! ## Budgets and leases -/

def clampW (n : Nat) : Nat := max 500 (min 3400 n)
def writeCap (s : State) (v : Nat) : State := { s with power := { s.power with cap := clampW (bits v 0 16) } }
def writeFloor (s : State) (v : Nat) : State := { s with power := { s.power with floor := clampW (bits v 0 16) } }
/-- Whether the host sets the budget (Table 21-5). -/
def State.powerAssisted (s : State) : Bool := bit (s.func 16).mode.toNat 5
/-- Whether a lease is current. -/
def State.leaseCurrent (s : State) : Bool := s.power.leased && decide (s.clock < s.power.expiry)
/-- The source of the applied budget, as PWRSTAT codes it, and the budget (R375, R379). -/
def State.applied (s : State) : Nat × Nat :=
  if s.boot.stage ≠ 2 then (0, s.power.floor)
  else if s.powerAssisted then (2, s.power.cap)
  else if s.leaseCurrent then (1, s.power.budget)
  else (0, s.power.floor)
/-- PWRSTAT (Table 23-1). -/
def State.pwrstat (s : State) : Word :=
  w64 (s.power.lastSeq % 2 ^ 32 * 2 ^ 32 + s.applied.1 * 2 ^ 16 + s.applied.2 % 2 ^ 16)
/-- A lease (R376); host-assisted mode ignores it. -/
def takeLease (s : State) (seq budget dur : Nat) : State :=
  if s.powerAssisted ∨ seq ≤ s.power.lastSeq then s
  else { s with power := { s.power with
    lastSeq := seq, budget := clampW budget, expiry := s.clock + 2500 * dur, leased := true } }
/-- LEASE_EXPIRY. -/
def lapseLease (s : State) : State :=
  if s.power.leased && decide (s.power.expiry ≤ s.clock) then
    let s := { s with power := { s.power with leased := false } }
    if s.powerAssisted then s else feqPush s 16 14 0 0 (w64 s.power.lastSeq) 0
  else s
/-- BUDGET_UPDATE: the budget caps that Flosil sets (R375). -/
def setCaps (s : State) (caps : List Nat) : State :=
  caps.zipIdx.foldl (fun s (x : Nat × Nat) => s.setLoom x.2 { s.loom x.2 with budgetCap := x.1 }) s

/-! ## Sensors -/

/-- The looms beside a loom on its die (R373). Log entry 59, DEDUCED. -/
def neighbours (l : Nat) : List Nat := (if l % 10 = 0 then [] else [l - 1]) ++ (if l % 10 = 9 then [] else [l + 1])
/-- Of the two kinds of sensor, 0 thermal and 1 current: what is voted out, the history, the range and the margin. -/
def Loom.sensorOut (l : Loom) (kind : Nat) : Bool := if kind = 0 then l.thermOut else l.currOut
def Loom.hist (l : Loom) (kind : Nat) : List Int := if kind = 0 then l.thermHist else l.currHist
def sensorLo (kind : Nat) : Int := if kind = 0 then -40 else 0
def sensorHi (_kind : Nat) : Int := 150
def sensorMargin (kind : Nat) : Int := if kind = 0 then 5 else 10
def far (a b m : Int) : Bool := decide (m < a - b) || decide (m < b - a)
/-- How much the readings of a history differ. -/
def swing (h : List Int) : Int :=
  match h with
  | [] => 0
  | x :: xs => xs.foldl max x - xs.foldl min x
/-- Whether a sample votes a sensor out (R373). -/
def voteOut (s : State) (kind l : Nat) (xs : List Int) : Bool :=
  let m := sensorMargin kind
  let x := xs.getD l 0
  let live := (neighbours l).filter fun k => (s.loom k).passed && !(s.loom k).sensorOut kind
  let h := x :: (s.loom l).hist kind
  !(s.loom l).sensorOut kind
    && (decide (x < sensorLo kind) || decide (sensorHi kind < x)
      || (decide (64 ≤ h.length) && swing (h.take 64) == 0
        && (neighbours l).any fun k => decide (m < swing ((xs.getD k 0 :: (s.loom k).hist kind).take 64)))
      || (live.length == 2 && live.all fun k => far x (xs.getD k 0) m))
/-- The reading that a loom uses (R374). -/
def reading (s : State) (kind l : Nat) (xs : List Int) : Int :=
  if !(s.loom l).sensorOut kind then xs.getD l 0
  else match ((neighbours l).filter fun k => (s.loom k).passed && !(s.loom k).sensorOut kind).map fun k => xs.getD k 0 with
    | [] => sensorHi kind
    | y :: ys => ys.foldl max y + sensorMargin kind
/-- A sensor voted out. -/
def dropSensor (s : State) (kind l : Nat) : State :=
  let x := s.loom l
  let x := if kind = 0 then { x with thermOut := true } else { x with currOut := true }
  feqPush (s.setLoom l { x with share := max 80 (x.share - 5) }) 16 13 0 0 (w64 (l + kind * 2 ^ 8)) 0
/-- SENSOR_SAMPLE: readings in °C and in per cent of rated current. -/
def sample (s : State) (therm cur : List Int) : State :=
  let outs := (List.range 40).flatMap fun l =>
    (if voteOut s 0 l therm then [(0, l)] else []) ++ (if voteOut s 1 l cur then [(1, l)] else [])
  let s := outs.foldl (fun s (x : Nat × Nat) => dropSensor s x.1 x.2) s
  (List.range 40).foldl (fun s l =>
    let x := s.loom l
    s.setLoom l { x with
      thermHist := (therm.getD l 0 :: x.thermHist).take 64, currHist := (cur.getD l 0 :: x.currHist).take 64,
      sensorCap := 16 * (Config.sensorCap (reading s 0 l therm) (reading s 1 l cur) % 16 + 1) }) s

/-! ## Droop (R372) -/

/-- Insert or refresh a signature: the table is kept with the most recently refreshed first, 64 at most. Log entry 18, DESIGN CHOICE. -/
def installDroop (l : Loom) (clock : Nat) : Loom :=
  let sig := l.signature
  { l with droop := ((sig, clock) :: l.droop.filter fun e => e.1 != sig).take 64 }
def endDroopCap (l : Loom) (clock : Nat) : Loom := if l.droopUntil ≤ clock then { l with droopCap := 256 } else l

/-! ## Start-up (R379 to R381) -/

/-- BOOTSTAT (Table 24-2). -/
def State.bootstat (s : State) : Word :=
  w64 (((List.range 40).foldl (fun acc l => if (s.loom l).passed then acc + 2 ^ l else acc) 0) * 2 ^ 16
    + s.boot.image % 4 * 2 ^ 6 + s.boot.stage % 4)

/-- The storage of this device under another chip number. -/
def rekey (m : List Host.Cell) (old new : Nat) : List Host.Cell :=
  (m.filter fun c => c.1 / 2 ^ 44 == old).map (fun c => (c.1 % 2 ^ 44 + new * 2 ^ 44, c.2))
    ++ m.filter fun c => decide (2 ^ 52 ≤ c.1)
def rekeyMarks (p : List Nat) (old new : Nat) : List Nat :=
  (p.filter fun w => w / 2 ^ 41 == old).map (fun w => w % 2 ^ 41 + new * 2 ^ 41) ++ p.filter fun w => decide (2 ^ 49 ≤ w)
def State.setChip (s : State) (new : Nat) : State :=
  if s.boot.chip = new then s
  else { s with
    mem := rekey s.mem s.boot.chip new, poisoned := rekeyMarks s.poisoned s.boot.chip new, boot := { s.boot with chip := new } }

/-- A reset of the device (R356, R379): everything is as after a cold reset but for what is in storage, the fused minimum,
the image slots, and the epochs of the paths that were open. Log entry 45, DEDUCED, 50, DEDUCED. -/
def restart (s : State) : State :=
  let s := s.setChip 0
  let b := s.boot
  let paths := s.fabric.paths.map fun (e : Nat × Path) =>
    (e.1, { epoch := if e.2.keys.isEmpty then e.2.epoch else (e.2.epoch + 1) % 2 ^ 15 : Path })
  let boot : Boot := match b.staged with
    | some i => { powered := true, fuse := b.fuse, okA := b.okA, verA := b.verA, imgA := b.imgA, imgB := i,
                  okB := Config.imageVerifies i, verB := Config.imageVersion i }
    | none => { powered := true, fuse := b.fuse, okA := b.okA, verA := b.verA, imgA := b.imgA, imgB := b.imgB, okB := b.okB,
                verB := b.verB }
  { State.reset with
    mem := s.mem, poisoned := s.poisoned, boot := boot, fabric := { paths := paths }, nextKey := s.nextKey
    fresh := s.fresh, agenda := s.agenda }

/-- POWER_GOOD: the slots hold images that verify or not, of some versions. -/
def powerOn (s : State) (okA okB : Bool) (verA verB : Nat) : State :=
  if s.boot.powered then s
  else { s with clock := 0, acct := { s.acct with periods := 0, broadcasts := 0 }, boot := { s.boot with powered := true, okA := okA, okB := okB, verA := verA, verB := verB } }

/-- STAGE0_COMPLETE: the boot ROM accepts slot A, else slot B, else enters recovery (R380). -/
def endStage0 (s : State) : State :=
  let b := s.boot
  if !b.powered || b.stage0 then s
  else
    let a := b.okA && decide (b.fuse ≤ b.verA)
    let bb := b.okB && decide (b.fuse ≤ b.verB)
    let fuse := if a then max b.fuse b.verA else if bb then max b.fuse b.verB else b.fuse
    { s with boot := { b with
      stage0 := true, stage := if a || bb then 0 else 3, image := if a then 0 else if bb then 1 else 2, fuse := fuse
      m0 := if a then Config.imageDigest b.imgA else if bb then Config.imageDigest b.imgB else 0
      m1 := Config.fuseDigest fuse, m2 := 0 } }

/-- LOOM_PASS. -/
def passLoom (s : State) (l : Nat) : State :=
  if s.boot.stage = 1 then s.setLoom l { s.loom l with passed := true, droop := [] } else s

/-- STAGE1_COMPLETE: the energy coefficients are known, and pending regions start their scrub (R356, R378). -/
def endStage1 (s : State) (coef : Nat) : State :=
  if s.boot.stage ≠ 1 then s
  else
    let s := { s with boot := { s.boot with stage := 2 }, power := { s.power with coef := coef % 2 ^ 48 } }
    ((List.range 40) ++ (List.range 48).map (64 + ·)).foldl (fun s r =>
      if (s.scrub r).st == ScrubSt.pending then startScrub s r (s.scrub r).last else s) s

/-! ## The mailbox (R383 to R389) -/

/-- Fields of MBCMD. -/
def mbCode (v : Nat) : Nat := bits v 0 8
def mbStart (v : Nat) : Bool := bit v 8
def mbEnd (v : Nat) : Bool := bit v 9
def mbLen (v : Nat) : Nat := bits v 16 13
/-- The command is over: state, error code, and its output where it has one. -/
def mbDone (s : State) (n out : Nat) : State := { s with mailbox := { st := 2, err := 0, outLen := n, data := out } }
def mbOk (s : State) : State := { s with mailbox := { s.mailbox with st := 2, err := 0, outLen := 0 } }
def mbError (s : State) (e : Nat) : State := { s with mailbox := { s.mailbox with st := 3, err := e, outLen := 0 } }
def mbIn (s : State) (v : Nat) : Nat := s.mailbox.data % 2 ^ (8 * mbLen v)

/-- Whether a command is offered (Table 24-5, R380, R387). -/
def State.offers (s : State) (code : Nat) : Bool :=
  let b := s.boot
  b.stage0 && (match code with
    | 1 => true
    | 2 => b.stage != 3
    | 3 => b.stage != 3
    | 4 => (b.stage == 1 || b.stage == 2) && bit (s.func 16).mode.toNat 4
    | 5 => true
    | 6 => b.stage == 0 && !b.gate
    | _ => false)
/-- Whether a write to MBCMD is well formed. -/
def mbValid (v : Nat) : Bool :=
  bits v 10 6 == 0 && bits v 29 35 == 0 && decide (mbLen v ≤ 4096) && (mbCode v == 5 || (!mbStart v && !mbEnd v))

/-- IDENT (R386). Log entry 14, DESIGN CHOICE. -/
def mbIdent (s : State) : State :=
  let n := min 4096 Config.identityChainLen
  mbDone s n (Config.identityChain % 2 ^ (8 * n))
/-- QUOTE (R386): M0, M1, M2, BOOTSTAT, FEATACC of the physical function, the signature over their digest. -/
def mbQuote (s : State) : State :=
  let b := s.boot
  let f := s.func 16
  let body := b.m0 % 2 ^ 384 + 2 ^ 384 * (b.m1 % 2 ^ 384) + 2 ^ 768 * (b.m2 % 2 ^ 384) + 2 ^ 1152 * s.bootstat.toNat
    + 2 ^ 1216 * f.featLo.toNat + 2 ^ 1280 * f.featHi.toNat
  mbDone s 264 (body + 2 ^ 1344 * (Config.quoteSignature (Config.sha384 body 168) % 2 ^ 768))
/-- LEASE (R376). -/
def mbLease (s : State) (v : Nat) : State :=
  let d := mbIn s v
  mbOk (takeLease s (bits d 0 64) (bits d 64 16) (bits d 80 32))
/-- KEYLOAD (R389): the path's source and destination chips, the slot, the key. Both directions of a pair open once
slot 0 of each holds a key. -/
def mbKeyload (s : State) (v : Nat) : State :=
  let d := mbIn s v
  let src := bits d 0 8
  let dst := bits d 8 8
  let slot := bits d 16 8
  let key := bits d 24 256
  let chip := if src = s.chip then dst else src
  let p := s.path chip
  let mine := (src == s.chip) != (dst == s.chip)
  let k := if src = s.chip then slot else slot + 2
  if !mine || decide (1 < slot) || !(if src = s.chip then s.keySlotOk chip slot
      else if p.lost then s.keySlotOk chip slot else slot != p.rxSlot) then mbError s 2
  else if p.lost then
    let keys := tput p.keys k key
    let got := k :: p.fresh.filter (· != k)
    if got.contains 0 && got.contains 2 then
      mbOk (s.setPath chip { opened s chip with keys := keys.filter fun e => e.1 % 2 == 0, gen := p.gen + 1 })
    else mbOk (s.setPath chip { p with keys := keys, fresh := got })
  else if src = s.chip then
    mbOk (s.setPath chip { p with
      keys := tput p.keys k key, inv := tput p.inv slot 0, fresh := slot :: p.fresh.filter (· != slot), rekeySince := none })
  else mbOk (s.setPath chip { p with keys := tput p.keys k key })
/-- FWLOAD (R385): the image so far is its length and its bytes. -/
def mbFwload (s : State) (v : Nat) : State :=
  let n := mbLen v
  let d := mbIn s v
  let set (s : State) (f : Option (Nat × Nat)) : State := { s with boot := { s.boot with fw := f } }
  match (if mbStart v then some (0, 0) else s.boot.fw) with
  | none => mbError s 3
  | some (len, acc) =>
    let len' := len + n
    let acc' := acc + 2 ^ (8 * len) * d
    if 2 ^ 25 < len' then mbError (set s none) 3
    else if mbEnd v then
      if bits acc' 0 64 = len' ∧ 8 ≤ len' then
        let s := set s none
        mbOk { s with boot := { s.boot with staged := some acc' } }
      else mbError (set s none) 3
    else mbOk (set s (some (len', acc')))
/-- DOMAIN (R387): the chip number and the domain identifier; stage 1 begins. -/
def mbDomain (s : State) (v : Nat) : State :=
  let d := mbIn s v
  let chip := bits d 0 8
  let id := bits d 8 128
  if 144 ≤ chip ∧ id ≠ 0 then mbError s 1
  else
    let s := s.setChip (if id = 0 then 0 else chip)
    mbOk { s with boot := { s.boot with domain := id, alone := id == 0, gate := true, stage := 1 } }

/-- A write to MBCMD. Log entry 46, DEDUCED. -/
def mbCommand (s : State) (v : Nat) : State :=
  if !s.boot.stage0 then s
  else if !s.offers (mbCode v) || !mbValid v then mbError s 1
  else match mbCode v with
    | 1 => mbIdent s
    | 2 => mbQuote s
    | 3 => mbLease s v
    | 4 => mbKeyload s v
    | 5 => mbFwload s v
    | _ => mbDomain s v

end Sys2Proof.Machine
end

