-- ==== Sys2Proof/Machine/HostRegs.lean ====
section
/-!
DEFINITION. Sys2Proof/Machine/HostRegs.lean: what the host writes: the registers of BAR 0 (Table 21-2, Table 21-3, Table
24-3) and of the physical function's BAR 2 (Table 21-4, Table 22-4, Table 23-1, R383), interrupts (R348, R349), CXL.mem
(R345).
-/
namespace Sys2Proof.Machine

/-! ## Modes and features (R353, R382, R386) -/

/-- M2 after a write to the physical function's MODE or FEATACC. Log entry 14, DESIGN CHOICE, 49, DEDUCED. -/
def measure (s : State) (fn off v : Nat) : State :=
  if fn = 16 then
    let m2 := Config.sha384 (s.boot.m2 % 2 ^ 384 + 2 ^ 384 * off + 2 ^ 448 * v) 64
    { s with boot := { s.boot with m2 := m2 } }
  else s
/-- A write to MODE, ignored once the function has accepted a launch. -/
def writeMode (s : State) (fn v : Nat) : State :=
  let f := s.func fn
  let s := measure s fn 0x1048 v
  if f.launched then s else s.setFunc fn { f with mode := w64 (v % 2 ^ 6) }
/-- FEATADV: what the device implements, and for a virtual function the physical function's accepted set. -/
def State.featAdv (s : State) (fn : Nat) : Word := if fn = 16 then 0x3FF1F else (s.func 16).featLo
/-- A write to FEATACC. -/
def writeFeat (s : State) (fn : Nat) (hi : Bool) (v : Nat) : State :=
  let f := s.func fn
  let s := measure s fn (if hi then 0x1068 else 0x1060) v
  if f.launched || hi then s else s.setFunc fn { f with featLo := w64 v &&& s.featAdv fn }

/-! ## Watches and vectors (R348, R349) -/

/-- A write to a WATCH register; bits that Table 21-2 does not name are not kept. Log entry 76, DESIGN CHOICE. -/
def writeWatch (s : State) (fn idx v : Nat) : State :=
  let w := w64 (v % 2 ^ 54 + v / 2 ^ 63 % 2 * 2 ^ 63)
  if s.counterHolder (watchIdx w) ≠ fn then s
  else
    let f := s.func fn
    if watchEn w && decide (watchThr w ≤ (s.counter (watchIdx w)).toNat) then
      raiseVec (s.setFunc fn { f with watch := tput f.watch idx (wordSet w 63 1 0) }) fn (watchVec w)
    else s.setFunc fn { f with watch := tput f.watch idx w }

/-- Whether a vector's message is due: its count is reached, or its timer has run out (Table 21-3). -/
def State.vectorDue (s : State) (fn vec : Nat) : Bool :=
  let f := s.func fn
  let n := tget 0 f.msixPend vec
  let t := bits (tget 0 f.coal vec).toNat 0 10
  decide (0 < n) && (decide (f.coalCount vec ≤ n)
    || (t != 0 && decide (tget 0 f.msixOldest vec + 2500 * t ≤ s.clock)))
/-- Send a vector's message if it is due and not masked; the events of this clock stay for the next one (R349). Log entry 54, DESIGN CHOICE. -/
def sendDue (s : State) (fn vec : Nat) : State :=
  let f := s.func fn
  let n := tget 0 f.msixPend vec
  let late := f.recent vec s.clock
  if s.vectorDue fn vec && !f.masked vec then s.setFunc fn (f.send vec s.clock (if late < n then late else 0)) else s
/-- A vector is unmasked. -/
def unmask (s : State) (fn vec : Nat) : State :=
  let f := s.func fn
  let w := wordSet (tget 0 f.msix (2 * vec + 1)) 32 1 0
  sendDue (s.setFunc fn { f with msix := tput f.msix (2 * vec + 1) w }) fn vec

/-! ## BAR 0 -/

/-- A base that is to be aligned: the low bits of a misaligned value are not kept, and it reads back without them.
Log entry 75, DESIGN CHOICE. -/
def alignTo (v n : Nat) : Word := w64 (v / n * n)
/-- A write to INV1 or INV2: the page in [55:16], [62] all pages, [63] global. -/
def writeInv (s : State) (fn v base : Nat) : State :=
  startInvalidation s fn (if bit v 62 then base + 1 else base) (if bit v 62 then 0 else bits v 16 40) (bit v 63)
/-- An 8-byte write to BAR 0 of a function. S1ROOT keeps every bit, FEQHEAD and PRQ1HEAD those that Table 21-2 names. Log entry 76, DESIGN CHOICE. -/
def writeBar0 (s : State) (fn off v : Nat) : State :=
  let f := s.func fn
  if off < 0x1000 then windowWrite s fn off 8 v
  else if 0x2000 ≤ off ∧ off < 0x2400 then
    let i := (off - 0x2000) / 8
    sendDue (s.setFunc fn { f with msix := tput f.msix i (w64 v) }) fn (i / 2)
  else if 0x2800 ≤ off ∧ off < 0x2A00 then
    sendDue (s.setFunc fn { f with coal := tput f.coal ((off - 0x2800) / 8) (w64 v &&& 0xFF03FF) }) fn ((off - 0x2800) / 8)
  else if 0x2A00 ≤ off ∧ off < 0x2B00 then writeWatch s fn ((off - 0x2A00) / 8) v
  else match off with
    | 0x1000 => s.setFunc fn { f with feqBase := alignTo v 32768 }
    | 0x1008 => s.setFunc fn { f with feqHead := v % 1024 }
    | 0x1018 => s.setFunc fn { f with prqBase := alignTo v 32768 }
    | 0x1020 => drainQueue (s.setFunc fn { f with prqHead := v % 1024 }) fn 1
    | 0x1028 => pageResponse s fn 1 v
    | 0x1030 => s.setFunc fn { f with s1root := w64 v }
    | 0x1038 => writeInv s fn v 1
    | 0x1048 => writeMode s fn v
    | 0x1060 => writeFeat s fn false v
    | 0x1068 => writeFeat s fn true v
    | _ => s

/-! ## BAR 2 of the physical function -/

/-- A write to QCMD. Log entry 47, DEDUCED. -/
def writeQcmd (s : State) (n v : Nat) : State :=
  match bits v 8 2 with
  | 1 => startRelease s n v false
  | 2 => startRelease s n v true
  | _ => refuseRegion s n
/-- OWNERS: a number that another partition has stays that partition's (R20). Log entry 74, DEDUCED. -/
def writeOwners (s : State) (n v : Nat) : State :=
  let others := (List.range 16).foldl (fun acc k => if k = n then acc else acc ||| (s.part k).owners) 0
  s.setPart n { s.part n with owners := (List.range 63).foldl (fun acc o => if bit v o && !bit others o then acc + 2 ^ o else acc) 0 }
/-- A write to a partition block; the system set's has RATE, HBASE, CTXBASE and CTXCNT alone. HBASE, S2ROOT and FPBASE keep every bit.
Log entry 76, DESIGN CHOICE. -/
def writeBlock (s : State) (n off v : Nat) : State :=
  let p := s.part n
  match off with
  | 0x030 => s.setPart n { p with rate := bits v 0 32, bucket := bits v 32 32, tokens := min p.tokens (bits v 32 32), refills := s.clock / 256 }
  | 0x038 => s.setPart n { p with hbase := w64 v }
  | 0x040 => s.setPart n { p with ctxBase := alignTo v 256 }
  | 0x048 => s.setPart n { p with ctxCount := v }
  | _ =>
    if n = 16 then s
    else match off with
      | 0x000 => writeLooms s n v
      | 0x008 => writePcgs s n v
      | 0x010 => writeCslice s n v
      | 0x018 => writeTslice s n v
      | 0x020 => writeOwners s n v
      | 0x028 => writeIdent s n v
      | 0x050 => s.setPart n { p with s2root := w64 v }
      | 0x058 => writeInv s n v 3
      | 0x060 => s.setPart n { p with prqBase := alignTo v 32768 }
      | 0x068 => drainQueue (s.setPart n { p with prqHead := v % 1024 }) n 2
      | 0x070 => pageResponse s n 2 v
      | 0x078 => s.setPart n { p with fpBase := w64 v }
      | 0x080 => s.setPart n { p with fpProd := v % 2 ^ 32 }
      | 0x090 => writeQcmd s n v
      | 0x0A0 => s.setPart n { p with ckBase := alignTo v 65536 }
      | 0x0A8 => s.setPart n { p with ckSize := v % 2 ^ 32 }
      | 0x0B0 => s.setPart n { p with ckPer := v % 2 ^ 32 }
      | _ => s
/-- An entitlement (R308, R351). -/
def writeEnt (s : State) (o v : Nat) : State :=
  if o = 63 then s else { s with acct := { s.acct with ent := tput s.acct.ent o (v % 65536) } }
/-- An 8-byte write to BAR 2, which answers once stage 0 has completed (R379). -/
def writeBar2 (s : State) (off v : Nat) : State :=
  if !s.boot.stage0 then s
  else if 0x8000 ≤ off ∧ off < 0x8200 then writeEnt s ((off - 0x8000) / 8) v
  else if 0x9000 ≤ off ∧ off < 0x9380 then if bit v 61 then goScrub s ((off - 0x9000) / 8) else s
  else if off = 0xA008 then writeCap s v
  else if off = 0xA010 then writeFloor s v
  else if off = 0xC000 then mbCommand s v
  else if 0xD000 ≤ off ∧ off < 0xE000 then
    { s with mailbox := { s.mailbox with data := setBits s.mailbox.data (8 * (off - 0xD000)) 64 v } }
  else if 0x10000 ≤ off ∧ off < 0x20000 then writeBlock s ((off - 0x10000) / 0x1000) (off % 0x1000) v
  else if 0x30000 ≤ off ∧ off < 0x31000 then writeBlock s 16 (off % 0x1000) v
  else s

/-- REGISTER_WRITE (R346, R351): a write that is not a naturally aligned 8-byte access is discarded, but for the launch window
(R23). -/
def writeRegister (s : State) (bar fn : Nat) (at_ : RegAccess) (v : Nat) : State :=
  if bar = 0 ∧ at_.off < 0x1000 then windowWrite s fn at_.off at_.size v
  else if at_.size ≠ 8 ∨ at_.off % 8 ≠ 0 then s
  else if bar = 0 then writeBar0 s fn at_.off v
  else writeBar2 s at_.off v

/-! ## CXL.mem -/

/-- How the host observes storage: from outside every loom. -/
def hostObs : Obs := { who := hostSrc, core := none, agent := agScalar }
/-- A host access to HBM through the HDM decoder, which is committed once the feature is accepted (R345, R382). It comes after everything
that has been performed (R102, R348). A store, once the link has completed it, is performed with respect to every agent; it waits while the
log of a checkpoint bank has no room for what it writes (R365, R367); a load sees what one from outside the device may see (R91). -/
def hostAccess (s : State) (wr : Bool) (addr size data : Nat) : State :=
  let k := s.hbmKey addr
  if !s.feature 16 1 || size == 0 then s
  else if wr then
    let (ok, s) := logArrivals s [(k, size)]
    if ok then (s.storeBy hostObs s.now k size data false false).performed (fun r => r.src == hostSrc && r.hits k size) .chip else s
  else ({ s with fresh := s.fresh + 1 }.viewLoad hostObs s.now s.fresh k size).2

end Sys2Proof.Machine
end

