-- ==== Sys2Proof/Machine/EvHost.lean ====
section
/-!
DEFINITION. Sys2Proof/Machine/EvHost.lean: the events of the host: its writes to registers and to HBM, and what they lead to. An event whose condition does not hold
changes nothing.
-/
namespace Sys2Proof.Machine

/-- FUNCTION_LEVEL_RESET (R357). Log entry 39, DEDUCED. -/
def execFunctionLevelReset (fn : Nat) (s : State) : Out := .next (if fn = 16 then s else endPartition s fn false)
/-- FEQSTAT_READ (R346). -/
def execFeqstatRead (fn : Nat) (s : State) : Out := let f := s.func fn
  .next (s.setFunc fn { f with feqLost := 0 })
/-- MODE_WRITE (R353). -/
def execModeWrite (fn v : Nat) (s : State) : Out := .next (writeMode s fn v)
/-- FEATACC_WRITE (R382). -/
def execFeataccWrite (fn : Nat) (hi : Bool) (v : Nat) (s : State) : Out := .next (writeFeat s fn hi v)
/-- WATCH_WRITE (R348). -/
def execWatchWrite (fn idx v : Nat) (s : State) : Out := .next (writeWatch s fn idx v)
/-- COALESCE_TIMER (R349). -/
def execCoalesceTimer (fn vec : Nat) (s : State) : Out := .next (sendDue s fn vec)
/-- MSIX_UNMASK (R349). -/
def execMsixUnmask (fn vec : Nat) (s : State) : Out := .next (unmask s fn vec)
/-- LOOMS_WRITE (R354). -/
def execLoomsWrite (part v : Nat) (s : State) : Out := .next (writeLooms s part v)
/-- PCGS_WRITE (R354). -/
def execPcgsWrite (part v : Nat) (s : State) : Out := .next (writePcgs s part v)
/-- CSLICE_WRITE (R354). -/
def execCsliceWrite (part v : Nat) (s : State) : Out := .next (writeCslice s part v)
/-- TSLICE_WRITE (R354). -/
def execTsliceWrite (part v : Nat) (s : State) : Out := .next (writeTslice s part v)
/-- IDENT_WRITE (R351). -/
def execIdentWrite (part v : Nat) (s : State) : Out := .next (writeIdent s part v)
/-- RELEASE (R354). -/
def execRelease (part v : Nat) (s : State) : Out := .next (startRelease s part v false)
/-- FORCE (R354). -/
def execForce (part v : Nat) (s : State) : Out := .next (startRelease s part v true)
/-- RELEASE_COMPLETE (R354). -/
def execReleaseComplete (part : Nat) (s : State) : Out := .next (endRelease s part)
/-- SCRUB_GO (R355). -/
def execScrubGo (r : Nat) (s : State) : Out := .next (goScrub s r)
/-- SCRUB_COMPLETE (R355). -/
def execScrubComplete (r : Nat) (s : State) : Out := .next (endScrub s r)
/-- REGISTER_WRITE (R346). -/
def execRegisterWrite (bar fn : Nat) (at_ : RegAccess) (v : Nat) (s : State) : Out := .next (writeRegister s bar fn at_ v)
/-- HOST_CXL_MEM_ACCESS (R102). -/
def execHostCxlMemAccess (wr : Bool) (addr size data : Nat) (s : State) : Out :=
  .next (hostAccess s wr addr size data)

end Sys2Proof.Machine
end

