-- ==== Sys2Proof/Machine/EvMem.lean ====
section
/-!
DEFINITION. Sys2Proof/Machine/EvMem.lean: the events of translation, page requests, invalidation, migration and copy on
write. An event whose condition does not hold changes nothing.
-/
namespace Sys2Proof.Machine

/-- PAGE_RESPONSE_S1 (R336). -/
def execPageResponseS1 (fn v : Nat) (s : State) : Out := .next (pageResponse s fn 1 v)
/-- PAGE_RESPONSE_S2 (R336). -/
def execPageResponseS2 (fn v : Nat) (s : State) : Out := .next (if fn = 16 then s else pageResponse s fn 2 v)
/-- INV1_PAGE (R337). -/
def execInv1Page (fn page : Nat) (glob : Bool) (s : State) : Out := .next (startInvalidation s fn 1 page glob)
/-- INV1_ALL (R337). -/
def execInv1All (fn : Nat) (glob : Bool) (s : State) : Out := .next (startInvalidation s fn 2 0 glob)
/-- INV2_PAGE (R337). -/
def execInv2Page (fn page : Nat) (glob : Bool) (s : State) : Out :=
  .next (if fn = 16 then s else startInvalidation s fn 3 page glob)
/-- INV2_ALL (R337). -/
def execInv2All (fn : Nat) (glob : Bool) (s : State) : Out :=
  .next (if fn = 16 then s else startInvalidation s fn 4 0 glob)
/-- INVALIDATION_COMPLETE (R217). -/
def execInvalidationComplete (fn : Nat) (s : State) : Out := .next (completeInvalidations s fn)
/-- MIGRATION_ACCEPT (R341). -/
def execMigrationAccept (part gpage : Nat) (s : State) : Out := .next (acceptMigration s part gpage)
/-- HOST_MIGRATION_REQUEST (R341). -/
def execHostMigrationRequest (part gpage ppn : Nat) (s : State) : Out := .next (hostMove s part gpage ppn)
/-- MIGRATION_COPY_COMPLETE (R340). -/
def execMigrationCopyComplete (part gpage : Nat) (ok : Bool) (s : State) : Out :=
  .next (completeMigration s part gpage ok)
/-- A damping record whose time is over is gone (R341). -/
def expireDamping (s : State) (part gpage : Nat) : State :=
  let ds := s.mig.damped.filter fun d => !(d.1 == part && d.2.1 == gpage && decide (d.2.2 ≤ s.clock))
  { s with mig := { s.mig with damped := ds } }

/-- DAMPING_EXPIRY (R341). -/
def execDampingExpiry (part gpage : Nat) (s : State) : Out := .next (expireDamping s part gpage)
/-- COW_GRANULE_COPY (R365). -/
def execCowGranuleCopy (part gpage : Nat) (s : State) : Out := .next (copyGranule s part gpage)

end Sys2Proof.Machine
end

