-- ==== Sys2Proof/Machine/EvPower.lean ====
section
/-!
DEFINITION. Sys2Proof/Machine/EvPower.lean: the events of power, start-up and the mailbox. An event whose condition does not hold
changes nothing.
-/
namespace Sys2Proof.Machine

/-- PWRCAP_WRITE (R377). -/
def execPwrcapWrite (v : Nat) (s : State) : Out := .next (writeCap s v)
/-- PWRFLOOR_WRITE (R377). -/
def execPwrfloorWrite (v : Nat) (s : State) : Out := .next (writeFloor s v)
/-- IDENT (R384). -/
def execIdent (v : Nat) (s : State) : Out := .next (if mbCode v = 1 then mbCommand s v else s)
/-- QUOTE (R386). -/
def execQuote (v : Nat) (s : State) : Out := .next (if mbCode v = 2 then mbCommand s v else s)
/-- LEASE (R376). -/
def execLease (v : Nat) (s : State) : Out := .next (if mbCode v = 3 then mbCommand s v else s)
/-- KEYLOAD (R389). -/
def execKeyload (v : Nat) (s : State) : Out := .next (if mbCode v = 4 then mbCommand s v else s)
/-- FWLOAD (R385). -/
def execFwload (v : Nat) (s : State) : Out := .next (if mbCode v = 5 then mbCommand s v else s)
/-- DOMAIN (R387). -/
def execDomain (v : Nat) (s : State) : Out := .next (if mbCode v = 6 then mbCommand s v else s)
/-- MBCMD_DISCARDED (R383). -/
def execMbcmdDiscarded (v : Nat) (s : State) : Out :=
  .next (if s.offers (mbCode v) && mbValid v then s else mbCommand s v)
/-- LEASE_EXPIRY (R376). -/
def execLeaseExpiry (s : State) : Out := .next (lapseLease s)
/-- BUDGET_UPDATE (R375). -/
def execBudgetUpdate (caps : List Nat) (s : State) : Out := .next (setCaps s caps)
/-- SENSOR_SAMPLE (R373). -/
def execSensorSample (therm cur : List Int) (s : State) : Out := .next (sample s therm cur)
/-- DROOP_DETECT (R372). -/
def execDroopDetect (loom : Nat) (s : State) : Out := .next (s.setLoom loom (installDroop (s.loom loom) s.clock))
/-- DROOP_CAP_EXPIRY (R372). -/
def execDroopCapExpiry (loom : Nat) (s : State) : Out := .next (s.setLoom loom (endDroopCap (s.loom loom) s.clock))
/-- POWER_GOOD (R379). -/
def execPowerGood (okA okB : Bool) (verA verB : Nat) (s : State) : Out := .next (powerOn s okA okB verA verB)
/-- DEVICE_RESET (R379). -/
def execDeviceReset (s : State) : Out := .next (restart s)
/-- STAGE0_COMPLETE (R379). -/
def execStage0Complete (s : State) : Out := .next (endStage0 s)
/-- LOOM_PASS (R379). -/
def execLoomPass (loom : Nat) (s : State) : Out := .next (passLoom s loom)
/-- STAGE1_COMPLETE (R379). -/
def execStage1Complete (coef : Nat) (s : State) : Out := .next (endStage1 s coef)

end Sys2Proof.Machine
end

