-- ==== Sys2Proof/Machine/Fp.lean ====
section
/-!
DEFINITION. Sys2Proof/Machine/Fp.lean: scalar floating point (R147, R148).
-/
namespace Sys2Proof.Machine

/-- The format that t names: F32 or F64. -/
def sfpType (t : Bool) : Nat := if t then cF64 else cF32
/-- An operand: F32 is read from bits [31:0]. -/
def sfpBits (t : Bool) (w : Word) : Nat := bits w.toNat 0 (ebits (sfpType t))
def sfpVal (t : Bool) (w : Word) : Num := fdecode (sfpType t) (sfpBits t w)
/-- FCTL.RM (R111). -/
def Shuttle.frm (sh : Shuttle) : Nat := bits sh.fctl.toNat 0 2

/-- A scalar floating-point instruction: a result and its flags, which go to FFLAGS (R112, R147). -/
def sfp (bits reads : Nat) (d : SReg) (f : Shuttle → Nat × Nat) (s : State) : Out :=
  run (do
    inSpan bits reads (sMask d)
    let s ← get
    let r := f s.cur
    onCur (·.raiseF r.2)
    writeReg d (w64 r.1)
    retire 4) s
/-- Two operands. -/
def sfp2 (bits : Nat) (d a b : SReg) (t : Bool) (f : (rm : Nat) → Num → Num → Nat × Nat) (s : State) : Out :=
  sfp bits (sMask a ||| sMask b) d (fun sh => f sh.frm (sfpVal t (sh.reg a)) (sfpVal t (sh.reg b))) s
/-- One operand. -/
def sfp1 (bits : Nat) (d a : SReg) (f : (rm : Nat) → Word → Nat × Nat) (s : State) : Out :=
  sfp bits (sMask a) d (fun sh => f sh.frm (sh.reg a)) s
/-- Three operands, one rounding (R148). -/
def sfp3 (bits : Nat) (d a b c : SReg) (t np na : Bool) (s : State) : Out :=
  sfp bits (sMask a ||| sMask b ||| sMask c) d
    (fun sh => fmaOf (sfpType t) sh.frm np na (sfpVal t (sh.reg a)) (sfpVal t (sh.reg b)) (sfpVal t (sh.reg c))) s

/-- FADD (R147). -/
def execFadd (d a b : SReg) (t : Bool) (s : State) : Out :=
  sfp2 (Bits.fadd d a b t) d a b t (fun rm x y => fround (sfpType t) rm (nadd rm x y)) s

/-- FSUB (R147). -/
def execFsub (d a b : SReg) (t : Bool) (s : State) : Out :=
  sfp2 (Bits.fsub d a b t) d a b t (fun rm x y => fround (sfpType t) rm (nadd rm x y.neg)) s

/-- FMUL (R147). -/
def execFmul (d a b : SReg) (t : Bool) (s : State) : Out :=
  sfp2 (Bits.fmul d a b t) d a b t (fun rm x y => fround (sfpType t) rm (nmul x y)) s

/-- FDIV (R147). -/
def execFdiv (d a b : SReg) (t : Bool) (s : State) : Out :=
  sfp2 (Bits.fdiv d a b t) d a b t (fun rm x y => divOf (sfpType t) rm x y) s

/-- FMIN (R147). -/
def execFmin (d a b : SReg) (t : Bool) (s : State) : Out :=
  sfp2 (Bits.fmin d a b t) d a b t (fun rm x y => minOf (sfpType t) rm x y) s

/-- FMAX (R147). -/
def execFmax (d a b : SReg) (t : Bool) (s : State) : Out :=
  sfp2 (Bits.fmax d a b t) d a b t (fun rm x y => maxOf (sfpType t) rm x y) s

/-- FCMP_EQ (R147). -/
def execFcmpEq (d a b : SReg) (t : Bool) (s : State) : Out :=
  sfp2 (Bits.fcmpEq d a b t) d a b t (fun _ x y => cmpOf 0 x y) s

/-- FCMP_LT (R147). -/
def execFcmpLt (d a b : SReg) (t : Bool) (s : State) : Out :=
  sfp2 (Bits.fcmpLt d a b t) d a b t (fun _ x y => cmpOf 2 x y) s

/-- FCMP_LE (R147). -/
def execFcmpLe (d a b : SReg) (t : Bool) (s : State) : Out :=
  sfp2 (Bits.fcmpLe d a b t) d a b t (fun _ x y => cmpOf 3 x y) s

/-- FSQRT (R147). -/
def execFsqrt (d a : SReg) (t : Bool) (s : State) : Out :=
  sfp1 (Bits.fsqrt d a t) d a (fun rm x => fround (sfpType t) rm (nsqrt (sfpVal t x))) s

/-- FCLASS (R147). -/
def execFclass (d a : SReg) (t : Bool) (s : State) : Out :=
  sfp1 (Bits.fclass d a t) d a (fun _ x => (Machine.fclass (sfpType t) (sfpBits t x), 0)) s

/-- FCVT_F (R147). -/
def execFcvtF (d a : SReg) (t : Bool) (s : State) : Out :=
  sfp1 (Bits.fcvtF d a t) d a (fun rm x => fround (sfpType t) rm (sfpVal (!t) x)) s

/-- FCVT_I64 (R147). -/
def execFcvtI64 (d a : SReg) (t : Bool) (s : State) : Out :=
  sfp1 (Bits.fcvtI64 d a t) d a (fun rm x => toInt64 rm true (sfpVal t x)) s

/-- FCVT_N64 (R147). -/
def execFcvtN64 (d a : SReg) (t : Bool) (s : State) : Out :=
  sfp1 (Bits.fcvtN64 d a t) d a (fun rm x => toInt64 rm false (sfpVal t x)) s

/-- FCVT_FI (R147). -/
def execFcvtFi (d a : SReg) (t : Bool) (s : State) : Out :=
  sfp1 (Bits.fcvtFi d a t) d a (fun rm x => fround (sfpType t) rm (ofInt x.toInt)) s

/-- FCVT_FN (R147). -/
def execFcvtFn (d a : SReg) (t : Bool) (s : State) : Out :=
  sfp1 (Bits.fcvtFn d a t) d a (fun rm x => fround (sfpType t) rm (ofInt x.toNat)) s

/-- FMA (R148). -/
def execFma (d a b c : SReg) (t : Bool) (s : State) : Out := sfp3 (Bits.fma d a b c t) d a b c t false false s

/-- FMS (R148). -/
def execFms (d a b c : SReg) (t : Bool) (s : State) : Out := sfp3 (Bits.fms d a b c t) d a b c t false true s

/-- FNMA (R148). -/
def execFnma (d a b c : SReg) (t : Bool) (s : State) : Out := sfp3 (Bits.fnma d a b c t) d a b c t true false s

/-- FNMS (R148). -/
def execFnms (d a b c : SReg) (t : Bool) (s : State) : Out := sfp3 (Bits.fnms d a b c t) d a b c t true true s

end Sys2Proof.Machine
end

