-- ==== Sys2Proof/Machine/Matrix.lean ====
section
/-!
DEFINITION. Sys2Proof/Machine/Matrix.lean: attachment (R230 to R237) and the tile operations (R238 to R247).
-/
namespace Sys2Proof.Machine

/-! ## Attachment -/


/-- MAT_ATT (R235). It waits until the core holds its rows. -/
def execMatAtt (d a : SReg) (s : State) : Out :=
  run (do
    legal (Bits.matAtt d a) [] [8]
    endConvoy
    waitTiles
    let s ← get
    let sh := s.cur
    let core := sh.place.core
    let k := s.core core
    let q := (s.reg a).toNat
    let other (u : Option Nat) : Bool := match u with
      | some u => u != sh.uid && sh.lentFrom != some u
      | none => false
    if q = 0 ∨ 1024 < q ∨ q % 128 ≠ 0 then
      writeReg d (w64 (2 * 2 ^ 62))
      retire 4
    else if other k.attached || other k.claim then
      writeReg d (w64 (2 ^ 62))
      retire 4
    else
      let k := if sh.attached then k else k.zeroTiles
      let since := if sh.status == .waiting .matrixGrant then k.matSince else s.clock
      let s := s.setCore core { k with attached := some sh.uid, matReq := q, matSince := since }
      let s := { s with cur := { sh with attached := true, matReq := q } }
      let s := arrangeRows s (core / 4)
      set s
      let rows := (s.loom (core / 4)).rows (core % 4)
      if rows < min q (s.fairShare (core / 4)) then park .matrixGrant
      writeReg d (w64 rows)
      retire 4) s

/-- MAT_DET (R236). -/
def execMatDet (s : State) : Out :=
  run (do
    legal Bits.matDet [] [8]
    endConvoy
    waitTiles
    let s ← get
    if s.cur.attached then
      let s := detachCore s s.cur.place.core
      set { s with cur := { s.cur with attached := false, matReq := 0 } }
    retire 4) s

/-- MAT_SHP (R237). -/
def execMatShp (d a : SReg) (s : State) : Out :=
  run (do
    endConvoy
    let s ← get
    legal (Bits.matShp d a) [unless2 (!shapeBad (s.reg a).toNat)] [8]
    waitTiles
    setShape (Bits.matShp d a) (s.reg a)
    writeReg d (w64 (shapeTiles (s.reg a).toNat))
    retire 4) s

/-! ## The frame of a tile operation (R238) -/

/-- REASON 5 of a tile that does not exist (R234). -/
def tileBad (sh : Shuttle) (tl : TReg) : Option Nat := if shapeTiles sh.mshape.toNat ≤ tl.val then some 5 else none
/-- A tile of the shuttle's core. -/
def State.tile (s : State) (tl : TReg) : Tile := (s.core s.cur.place.core).tiles[tl]
def State.setTile (s : State) (tl : TReg) (t : Tile) : State :=
  let k := s.core s.cur.place.core
  s.setCore s.cur.place.core { k with tiles := k.tiles.set tl t }

/-- A tile operation: its ILLEGAL checks, MATRIX_DETACHED (R230), room in the matrix queue, the registers a copy holds, its
effect, which stands in program order whenever the array performs it (R239), and its place in the queue. Log entry 52, DESIGN CHOICE. -/
def tileOp (ibits : Nat) (tl : TReg) (checks : List (Option Nat)) (feats : List Nat) (rV wV : Nat) (body : M Unit)
    (s : State) : Out :=
  run (do
    legal ibits (tileBad s.cur tl :: checks) (8 :: feats)
    endConvoy
    let s ← get
    let core := s.cur.place.core
    if !s.cur.attached then
      trap cDETACHED 0 (w64 (tl.val + (s.loom (core / 4)).rows (core % 4) * 2 ^ 16))
    if 16 ≤ (s.core core).matQueue.length then park .matrixQueue
    interlock rV wV
    body
    modify fun s =>
      let k := s.core core
      s.setCore core { k with matQueue := k.matQueue ++ [s.cur.uid] }
    retire 8) s

/-! ## Outer products (R241 to R243) -/

/-- MVal: the value of an operand element and whether it depends on poison. -/
def mVal (sh : Shuttle) (sc : Bool) (n i t k : Nat) : Num × Bool :=
  let x := vdecode t (sh.elem n t i)
  let p := sh.elemPois n t i
  if sc && scalable t then
    let j := i / 32 % sh.vlen
    let r := k + i / (32 * sh.vlen)
    (scaleBy (bits (sh.ereg r).bits (8 * j) 8) true x, p || bit (sh.ereg r).poison j)
  else (x, p)
/-- T + x · y under Acc (R241): the encoding and the flags. -/
def accumulate (acc : Nat) (sat : Bool) (old : Nat) (x y : Num) : Nat × Nat :=
  if acc = 0x02 then
    match nmul x y with
    | .num s n _ => narrow 0x02 sat (sext old 32 + signed s n)
    | _ => (old, 0)
  else fround acc 0 (nadd 0 (fdecode acc old) (nmul x y))

/-- The rank-1 update of a tile by the values xs and ys of its rows and columns: the tile and the flags. -/
def outer (m : Nat) (sat : Bool) (xs ys : List (Nat × Num × Bool)) (t : Tile) : Tile × Nat :=
  xs.foldl (fun (r : Tile × Nat) x =>
    ys.foldl (fun (r : Tile × Nat) y =>
      let p := x.2.2 || y.2.2 || r.1.pois m x.1 y.1
      let v := accumulate (accType m) sat (r.1.get m x.1 y.1) x.2.1 y.2.1
      (r.1.put m x.1 y.1 v.1 p, if p then r.2 else r.2 ||| v.2)) r) (t, 0)

/-- Whether a MOP operand may go with an I32 accumulator. -/
def intOperand (t : Nat) : Bool := t == 0x00 || t == 0x04 || isQ t
/-- The pair of Table 12-3 for MOP. -/
def mopPair (m : Nat) (at_ bt : Nat) (sc : Bool) : Bool :=
  shapeAcc m != 2 || (intOperand at_ && intOperand bt && !sc)

/-- MOP and MOPS: `f` reads the element `i` of a group. -/
def product (p : PReg) (tl : TReg) (fa fb : Shuttle → Nat → Num × Bool) : M Unit := do
  let s ← get
  let sh := s.cur
  let m := sh.mshape.toNat
  let xs := ((List.range sh.vl.toNat).filter fun i => sh.pbit p.val i).map fun i => (i, fa sh i)
  let ys := (List.range (shapeCols m)).map fun j => (j, fb sh j)
  let r := outer m sh.sat xs ys (s.tile tl)
  set (s.setTile tl r.1)
  onCur (·.raiseV r.2)

/-- MOP (R242). -/
def execMop (p : PReg) (tl : TReg) (va vb : VReg) (aty bty : ECode) (sc : Bool) (ea eb : EReg) (s : State) : Out :=
  let sh := s.cur
  let m := sh.mshape.toNat
  let A := aty.val
  let B := bty.val
  let ga := grpOf sh.vlen A sh.vl.toNat
  let gb := grpOf sh.vlen B (shapeCols m)
  let scaleOk (t : Nat) (k : EReg) : Option Nat :=
    if !sc then none
    else if !scalable t then (if k = 0 then none else some 3)
    else if sh.place.escl ≤ k.val then some 5 else none
  tileOp (Bits.mop p tl va vb aty bty sc ea eb) tl
    [unless2 (mopPair m A B sc), unless2 (decide (sh.vl.toNat ≤ shapeRows m)), scaleOk A ea, scaleOk B eb,
     groupBad sh va.val ga, groupBad sh vb.val gb]
    ((if isQ A || isQ B then [10] else []) ++ (if sc then [11] else []))
    (regMask va.val ga ||| regMask vb.val gb) 0
    (product p tl (fun sh i => mVal sh sc va.val i A ea.val) fun sh j => mVal sh sc vb.val j B eb.val) s

/-- MOPS (R243). -/
def execMops (p : PReg) (tl : TReg) (va vb : VReg) (aty bty : ECode) (s : State) : Out :=
  let sh := s.cur
  let m := sh.mshape.toNat
  let ga := grpOf sh.vlen cF64 sh.vl.toNat
  let gb := grpOf sh.vlen cF64 (shapeCols m)
  let rd (n : VReg) (sh : Shuttle) (i : Nat) : Num × Bool :=
    (splitVal sh.sl (sh.elem n.val cF64 i), sh.elemPois n.val cF64 i)
  tileOp (Bits.mops p tl va vb aty bty) tl
    [unless2 (shapeAcc m == 1), unless2 (decide (sh.vl.toNat ≤ shapeRows m)), groupBad sh va.val ga, groupBad sh vb.val gb]
    [9] (regMask va.val ga ||| regMask vb.val gb) 0 (product p tl (rd va) (rd vb)) s

/-! ## Zeroing and moving (R245 to R247) -/

/-- MZERO (R245). -/
def execMzero (tl : TReg) (s : State) : Out := tileOp (Bits.mzero tl) tl [] [] 0 0 (modify fun s => s.setTile tl {}) s

/-- The address of element (r, j) of a tile in memory, and the accesses of a whole tile in the order r, then j. -/
def tileAccesses (m : Nat) (a stride : Word) : List (Nat × Nat × Nat) :=
  (List.range (shapeRows m)).flatMap fun r => (List.range (shapeCols m)).map fun j =>
    (r, j, (a + w64 r * stride + w64 (j * accBytes m)).toNat)

/-- The wait for the misses of a tile's elements before the first that faults (R218, R228). -/
def tileWait (xs : List XRes) : Option Wait :=
  let ids := (xs.filterMap fun x => match x with
    | .page m => some (m.fn, m.req)
    | _ => none).eraseDups
  let leaves := (xs.filterMap fun x => match x with
    | .leaf l => some l
    | _ => none).eraseDups
  if ids.isEmpty && leaves.isEmpty then none else some (.page ids leaves)
/-- The probe of R246: the translations of every element, or its wait, or the first fault, taken with VSTART at 0 (R219). -/
def tileProbe (kind n : Nat) (xs : List (Nat × Nat × Nat)) : M (List ((Nat × Nat × Nat) × Phys)) := do
  let rs ← xs.mapM fun x => do
    if x.2.2 % n ≠ 0 then return (x, XRes.fault cMISALIGNED (w64 x.2.2) (w64 kind))
    else
      match ← tryXlate x.2.2 kind (0, 0) with
      | .ok p =>
        return (x, if p.win || (p.remote.isNone && decide (p.mtype ≤ 1)) then XRes.ok p
          else XRes.fault cACCESS (w64 x.2.2) 5)
      | r => return (x, r)
  let before := rs.takeWhile fun x => match x.2 with
    | .fault .. => false
    | _ => true
  match tileWait (before.map (·.2)) with
  | some w =>
    blockingWait
    park w
  | none => pure ()
  match rs.drop before.length with
  | (_, .fault c ea ei) :: _ =>
    onCur fun sh => { sh with vstart := 0 }
    trap c ea ei
  | _ => return before.filterMap fun x => match x.2 with
    | .ok p => some (x.1, p)
    | _ => none

/-- MTLD (R246). -/
def execMtld (tl : TReg) (sa sb : SReg) (s : State) : Out :=
  tileOp (Bits.mtld tl sa sb) tl [] [] 0 0 (do
    let s ← get
    let m := s.cur.mshape.toNat
    let n := accBytes m
    let xs ← tileProbe 0 n (tileAccesses m (s.reg sa) (s.reg sb))
    let vs ← xs.mapM fun x => do return (x.1, ← loadAs agMatrix x.2.key n)
    modify fun s => s.setTile tl (vs.foldl (fun t x => t.put m x.1.1 x.1.2.1 x.2.1 x.2.2) (s.tile tl))) s

/-- MTST (R246). Log entry 7, DESIGN CHOICE. -/
def execMtst (tl : TReg) (sa sb : SReg) (s : State) : Out :=
  tileOp (Bits.mtst tl sa sb) tl [] [] 0 0 (do
    let s ← get
    let m := s.cur.mshape.toNat
    let n := accBytes m
    let t := s.tile tl
    let xs ← tileProbe 1 n (tileAccesses m (s.reg sa) (s.reg sb))
    match xs.find? fun x => t.pois m x.1.1 x.1.2.1 && !x.2.win && !x.2.pcap with
    | some x => trap cPOISON (w64 x.1.2.2) 3
    | none => pure ()
    let f ← draw
    let _ ← xs.foldlM (fun (done : List Nat) x => do
      let e := tileIndex m x.1.1 x.1.2.1
      if done.contains x.2.key && !Config.laterStoreWins f e then return done
      else
        storeAs agMatrix x.2.key n (t.get m x.1.1 x.1.2.1) (t.pois m x.1.1 x.1.2.1)
        return x.2.key :: done) []
    pure ()) s

/-- MROW (R247). -/
def execMrow (tl : TReg) (va : VReg) (sa : SReg) (s : State) : Out :=
  let sh := s.cur
  let m := sh.mshape.toNat
  let t := accType m
  let g := grpOf sh.vlen t (shapeCols m)
  let r := (s.reg sa).toNat
  tileOp (Bits.mrow tl va sa) tl [unless2 (decide (r < shapeRows m)), groupBad sh va.val g] [] 0 (regMask va.val g) (do
    let s ← get
    let js := List.range (shapeCols m)
    let T := s.tile tl
    onCur fun sh => js.foldl (fun sh j => sh.putElem va.val t j (T.get m r j) (T.pois m r j)) sh) s

/-- MWROW (R247). -/
def execMwrow (tl : TReg) (va : VReg) (sa : SReg) (s : State) : Out :=
  let sh := s.cur
  let m := sh.mshape.toNat
  let t := accType m
  let g := grpOf sh.vlen t (shapeCols m)
  let r := (s.reg sa).toNat
  tileOp (Bits.mwrow tl va sa) tl [unless2 (decide (r < shapeRows m)), groupBad sh va.val g] [] (regMask va.val g) 0 (do
    let s ← get
    let js := List.range (shapeCols m)
    let T := s.tile tl
    set (s.setTile tl (js.foldl (fun T j => T.put m r j (s.cur.elem va.val t j) (s.cur.elemPois va.val t j)) T))) s

end Sys2Proof.Machine
end

