-- ==== Sys2Proof/Machine/VFp.lean ====
section
/-!
DEFINITION. Sys2Proof/Machine/VFp.lean: vector floating point (R199 to R205) and conversion (R171).
-/
namespace Sys2Proof.Machine

/-- A VFP instruction on the types `ok`; `acc` says that it reads the old element of vd. `F` has the shuttle for its modes
and the three encodings. -/
def vfp (ibits : Nat) (c : Bool) (p : PReg) (d : VReg) (a : Option Opnd) (b : VReg) (acc : Bool) (ok : Nat → Bool)
    (F : Shuttle → Nat → Nat → Nat → Nat × Nat) (s : State) : Out :=
  let sh := s.cur
  let g := sh.group
  let u : Uses :=
    { c := c, rV := (a.elim 0 (·.vmask g)) ||| regMask b.val g ||| (if acc then regMask d.val g else 0),
      wV := regMask d.val g, sR := a.elim 0 (·.smask) }
  run (member ibits u [typeBad sh ok, groupBad sh d.val g, a.bind (·.bad sh), groupBad sh b.val g] []
    (writeElems d.val sh.ety (perGroup sh.ety) (fun sh => sh.active p.val) fun sh e =>
      let t := sh.ety
      let x := a.elim (0, false) (·.get sh t e)
      let y := (sh.elem b.val t e, sh.elemPois b.val t e)
      let old := (sh.elem d.val t e, acc && sh.elemPois d.val t e)
      let r := F sh x.1 y.1 old.1
      (r.1, r.2, x.2 || y.2 || old.2))) s

/-- The multiplicand of a vector product: truncated under VTYPE.SL for F64 (R167). -/
def Shuttle.factor (sh : Shuttle) (x : Nat) : Num :=
  if sh.ety = cF64 then splitVal sh.sl x else fdecode sh.ety x
def vf2 (f : (t rm : Nat) → Num → Num → Nat × Nat) (sh : Shuttle) (x y _ : Nat) : Nat × Nat :=
  f sh.ety sh.rm (fdecode sh.ety x) (fdecode sh.ety y)
def vfMul (sh : Shuttle) (x y _ : Nat) : Nat × Nat := fround sh.ety sh.rm (nmul (sh.factor x) (sh.factor y))
def vfFma (np na : Bool) (sh : Shuttle) (x y d : Nat) : Nat × Nat :=
  fmaOf sh.ety sh.rm np na (sh.factor x) (sh.factor y) (fdecode sh.ety d)
/-- VFABS and VFNEG: exact; a NaN gives CanonNaN, with NV where it is signalling. -/
def vfSign (neg : Bool) (sh : Shuttle) (_ y _ : Nat) : Nat × Nat :=
  let t := sh.ety
  match fdecode t y with
  | .nan g => (canonNaN t, if g then fNV else 0)
  | _ => (setBit y (ebits t - 1) (neg && !bit y (ebits t - 1)), 0)

/-- The special operands of Table 9-4, or the algorithm's value (R200). -/
def vfTrans (special : Num → Option (Num × Nat)) (f : Bool → Nat → Nat → Num) (sh : Shuttle) (_ y _ : Nat) : Nat × Nat :=
  let v := fdecode cF32 y
  match special v, v with
  | some (x, fl), _ =>
    let r := fround cF32 sh.rm x
    (r.1, r.2 ||| fl)
  | none, .num s n d => fround cF32 sh.rm (f s n d)
  | none, x => fround cF32 sh.rm x
def rcpSpecial : Num → Option (Num × Nat)
  | .inf s => some (.num s 0 1, 0)
  | .num s n _ => if n = 0 then some (.inf s, fDZ) else none
  | .nan _ => none
def rsqSpecial : Num → Option (Num × Nat)
  | .inf s => some (if s then .nan true else .num false 0 1, 0)
  | .num s n _ => if n = 0 then some (.inf s, fDZ) else if s then some (.nan true, 0) else none
  | .nan _ => none
def exp2Special : Num → Option (Num × Nat)
  | .inf s => some (if s then .num false 0 1 else .inf false, 0)
  | _ => none
def log2Special : Num → Option (Num × Nat)
  | .inf s => some (if s then .nan true else .inf false, 0)
  | .num s n _ => if n = 0 then some (.inf true, fDZ) else if s then some (.nan true, 0) else none
  | .nan _ => none
def isF32 (t : Nat) : Bool := t == cF32

/-- VFADD_VV (R199). -/
def execVfaddVv (c : Bool) (p : PReg) (d a b : VReg) (s : State) : Out :=
  vfp (Bits.vfaddVv c p d a b) c p d (some (.v a)) b false vfpType (vf2 fun t rm x y => fround t rm (nadd rm x y)) s

/-- VFADD_VX (R199). -/
def execVfaddVx (c : Bool) (p : PReg) (d : VReg) (a : SReg) (b : VReg) (s : State) : Out :=
  vfp (Bits.vfaddVx c p d a b) c p d (some (.x a)) b false vfpType (vf2 fun t rm x y => fround t rm (nadd rm x y)) s

/-- VFSUB_VV (R199). -/
def execVfsubVv (c : Bool) (p : PReg) (d a b : VReg) (s : State) : Out :=
  vfp (Bits.vfsubVv c p d a b) c p d (some (.v a)) b false vfpType (vf2 fun t rm x y => fround t rm (nadd rm x y.neg)) s

/-- VFSUB_VX (R199). -/
def execVfsubVx (c : Bool) (p : PReg) (d : VReg) (a : SReg) (b : VReg) (s : State) : Out :=
  vfp (Bits.vfsubVx c p d a b) c p d (some (.x a)) b false vfpType (vf2 fun t rm x y => fround t rm (nadd rm x y.neg)) s

/-- VFMUL_VV (R199). -/
def execVfmulVv (c : Bool) (p : PReg) (d a b : VReg) (s : State) : Out :=
  vfp (Bits.vfmulVv c p d a b) c p d (some (.v a)) b false vfpType vfMul s

/-- VFMUL_VX (R199). -/
def execVfmulVx (c : Bool) (p : PReg) (d : VReg) (a : SReg) (b : VReg) (s : State) : Out :=
  vfp (Bits.vfmulVx c p d a b) c p d (some (.x a)) b false vfpType vfMul s

/-- VFDIV_VV (R199). -/
def execVfdivVv (c : Bool) (p : PReg) (d a b : VReg) (s : State) : Out :=
  vfp (Bits.vfdivVv c p d a b) c p d (some (.v a)) b false vfpType (vf2 divOf) s

/-- VFDIV_VX (R199). -/
def execVfdivVx (c : Bool) (p : PReg) (d : VReg) (a : SReg) (b : VReg) (s : State) : Out :=
  vfp (Bits.vfdivVx c p d a b) c p d (some (.x a)) b false vfpType (vf2 divOf) s

/-- VFMA_VV (R199). -/
def execVfmaVv (c : Bool) (p : PReg) (d a b : VReg) (s : State) : Out :=
  vfp (Bits.vfmaVv c p d a b) c p d (some (.v a)) b true vfpType (vfFma false false) s

/-- VFMA_VX (R199). -/
def execVfmaVx (c : Bool) (p : PReg) (d : VReg) (a : SReg) (b : VReg) (s : State) : Out :=
  vfp (Bits.vfmaVx c p d a b) c p d (some (.x a)) b true vfpType (vfFma false false) s

/-- VFMS_VV (R199). -/
def execVfmsVv (c : Bool) (p : PReg) (d a b : VReg) (s : State) : Out :=
  vfp (Bits.vfmsVv c p d a b) c p d (some (.v a)) b true vfpType (vfFma false true) s

/-- VFMS_VX (R199). -/
def execVfmsVx (c : Bool) (p : PReg) (d : VReg) (a : SReg) (b : VReg) (s : State) : Out :=
  vfp (Bits.vfmsVx c p d a b) c p d (some (.x a)) b true vfpType (vfFma false true) s

/-- VFNMA_VV (R199). -/
def execVfnmaVv (c : Bool) (p : PReg) (d a b : VReg) (s : State) : Out :=
  vfp (Bits.vfnmaVv c p d a b) c p d (some (.v a)) b true vfpType (vfFma true false) s

/-- VFNMA_VX (R199). -/
def execVfnmaVx (c : Bool) (p : PReg) (d : VReg) (a : SReg) (b : VReg) (s : State) : Out :=
  vfp (Bits.vfnmaVx c p d a b) c p d (some (.x a)) b true vfpType (vfFma true false) s

/-- VFMIN_VV (R199). -/
def execVfminVv (c : Bool) (p : PReg) (d a b : VReg) (s : State) : Out :=
  vfp (Bits.vfminVv c p d a b) c p d (some (.v a)) b false vfpType (vf2 minOf) s

/-- VFMIN_VX (R199). -/
def execVfminVx (c : Bool) (p : PReg) (d : VReg) (a : SReg) (b : VReg) (s : State) : Out :=
  vfp (Bits.vfminVx c p d a b) c p d (some (.x a)) b false vfpType (vf2 minOf) s

/-- VFMAX_VV (R199). -/
def execVfmaxVv (c : Bool) (p : PReg) (d a b : VReg) (s : State) : Out :=
  vfp (Bits.vfmaxVv c p d a b) c p d (some (.v a)) b false vfpType (vf2 maxOf) s

/-- VFMAX_VX (R199). -/
def execVfmaxVx (c : Bool) (p : PReg) (d : VReg) (a : SReg) (b : VReg) (s : State) : Out :=
  vfp (Bits.vfmaxVx c p d a b) c p d (some (.x a)) b false vfpType (vf2 maxOf) s

/-- VFSQRT (R199). -/
def execVfsqrt (c : Bool) (p : PReg) (d b : VReg) (s : State) : Out :=
  vfp (Bits.vfsqrt c p d b) c p d none b false vfpType (vf2 fun t rm _ y => fround t rm (nsqrt y)) s

/-- VFABS (R199). -/
def execVfabs (c : Bool) (p : PReg) (d b : VReg) (s : State) : Out :=
  vfp (Bits.vfabs c p d b) c p d none b false vfpType (vfSign false) s

/-- VFNEG (R199). -/
def execVfneg (c : Bool) (p : PReg) (d b : VReg) (s : State) : Out :=
  vfp (Bits.vfneg c p d b) c p d none b false vfpType (vfSign true) s

/-- VFRCP (R201). -/
def execVfrcp (c : Bool) (p : PReg) (d b : VReg) (s : State) : Out :=
  vfp (Bits.vfrcp c p d b) c p d none b false isF32 (vfTrans rcpSpecial rcpVal) s

/-- VFRSQ (R202). -/
def execVfrsq (c : Bool) (p : PReg) (d b : VReg) (s : State) : Out :=
  vfp (Bits.vfrsq c p d b) c p d none b false isF32 (vfTrans rsqSpecial fun _ n d => rsqVal n d) s

/-- VFEXP2 (R203). -/
def execVfexp2 (c : Bool) (p : PReg) (d b : VReg) (s : State) : Out :=
  vfp (Bits.vfexp2 c p d b) c p d none b false isF32 (vfTrans exp2Special exp2Val) s

/-- VFLOG2 (R204). -/
def execVflog2 (c : Bool) (p : PReg) (d b : VReg) (s : State) : Out :=
  vfp (Bits.vflog2 c p d b) c p d none b false isF32 (vfTrans log2Special fun _ n d => log2Val n d) s

/-- VFCLASS (R199). -/
def execVfclass (c : Bool) (p : PReg) (d b : VReg) (s : State) : Out :=
  vfp (Bits.vfclass c p d b) c p d none b false vfpType (fun sh _ y _ => (fclass sh.ety y, 0)) s

/-- VCVT (R171): the source has type `src`; the destination type is VTYPE.ETYPE. -/
def vcvtOp (ibits : Nat) (c : Bool) (p : PReg) (d b : VReg) (src : Nat) (ov sr sat : Bool) (rm : Nat) (s : State) : Out :=
  let sh := s.cur
  let t := sh.ety
  let g := sh.group
  let gs := grpOf sh.vlen src sh.vlmax
  let u : Uses := { c := c, rV := regMask b.val gs, wV := regMask d.val g,
                    rE := (if sh.scaled src then 2 ^ (b.val / 4) else 0) ||| (if sh.scaled t then 2 ^ (d.val / 4) else 0) }
  let feats := (if isQ src then [10] else []) ++ (if sr then [17] else [])
  run (member ibits u [unless2 (src != 0x0F), groupBad sh d.val g, groupBad sh b.val gs, scaleBad sh b.val src,
      scaleBad sh d.val t] feats
    (writeElems d.val t (perGroup t) (fun sh => sh.active p.val) fun sh e =>
      let x := sh.val b.val e src
      let y := sh.unscale d.val e t x.1
      let u := if sr || sh.sr then
          some (srValue sh.vseed.toNat sh.strip.toNat sh.srem.toNat sh.position e)
        else none
      let r := convert src t { rm := if ov then rm else sh.rm, sr := u, sat := sat || sh.sat } y.1
      (r.1, r.2, x.2 || y.2))) s

/-- VCVT (R171). -/
def execVcvt (c : Bool) (p : PReg) (d : VReg) (t : ECode) (b : VReg) (o q g : Bool) (r : Fin 4) (s : State) : Out :=
  vcvtOp (Bits.vcvt c p d t b o q g r) c p d b t.val o g q r.val s

end Sys2Proof.Machine
end

