-- ==== Sys2Proof/Machine/VInt.lean ====
section
/-!
DEFINITION. Sys2Proof/Machine/VInt.lean: vector integer arithmetic (R197, R198).
-/
namespace Sys2Proof.Machine

/-- A VINT instruction on the types `ok`: `y` names the group vb, `acc` says that F reads the old element of vd. The
elements of `es` are written: the active ones, or every one (VMERGE). -/
def vint (ibits : Nat) (c : Bool) (p : PReg) (d : VReg) (a : Opnd) (y : Option VReg) (acc : Bool) (ok : Nat → Bool)
    (F : (t : Nat) → (sat : Bool) → Nat → Nat → Nat → Nat × Nat) (s : State) : Out :=
  let sh := s.cur
  let g := sh.group
  let yb := match y with
    | some b => groupBad sh b.val g
    | none => none
  let ym := match y with
    | some b => regMask b.val g
    | none => 0
  let u : Uses := { c := c, rV := a.vmask g ||| ym ||| (if acc then regMask d.val g else 0), wV := regMask d.val g,
                    sR := a.smask }
  run (member ibits u [typeBad sh ok, groupBad sh d.val g, a.bad sh, yb] []
    (writeElems d.val sh.ety (perGroup sh.ety) (fun sh => sh.active p.val) fun sh e =>
      let t := sh.ety
      let x := a.get sh t e
      let y' := match y with
        | some b => (sh.elem b.val t e, sh.elemPois b.val t e)
        | none => (0, false)
      let old := (sh.elem d.val t e, acc && sh.elemPois d.val t e)
      let r := F t sh.sat x.1 y'.1 old.1
      (r.1, r.2, x.2 || y'.2 || old.2))) s

/-- VMERGE (R198): x where the guard bit is 1 and y where it is 0; every element from VSTART to VL − 1 is written. -/
def vmerge (ibits : Nat) (c : Bool) (p : PReg) (d : VReg) (a : Opnd) (b : VReg) (s : State) : Out :=
  let sh := s.cur
  let g := sh.group
  let u : Uses := { c := c, rV := a.vmask g ||| regMask b.val g, wV := regMask d.val g, sR := a.smask }
  run (member ibits u [typeBad sh moveType, groupBad sh d.val g, a.bad sh, groupBad sh b.val g] []
    (writeElems d.val sh.ety (perGroup sh.ety) Shuttle.elems fun sh e =>
      let r := if sh.pbit p.val e then a.get sh sh.ety e else (sh.elem b.val sh.ety e, sh.elemPois b.val sh.ety e)
      (r.1, 0, r.2))) s

/-! ## The functions of Table 9-2 -/

/-- An exact integer function of x, y and the old element, under R164. -/
def exact (f : Int → Int → Int → Int) (t : Nat) (sat : Bool) (x y d : Nat) : Nat × Nat :=
  narrow t sat (f (intVal t x) (intVal t y) (intVal t d))
/-- A function of S(x) and S(y), or of U(x) and U(y), modulo 2^w. -/
def onS (f : Int → Int → Int) (t : Nat) (_ : Bool) (x y _ : Nat) : Nat × Nat :=
  (wrapTo (f (sext x (ebits t)) (sext y (ebits t))) (ebits t), 0)
def onU (f : Nat → Nat → Nat) (t : Nat) (_ : Bool) (x y _ : Nat) : Nat × Nat := (f x y % 2 ^ ebits t, 0)
/-- The high half of a product, signed and unsigned. -/
def fVmulh (t : Nat) (_ : Bool) (x y _ : Nat) : Nat × Nat :=
  (wrapTo (sext x (ebits t) * sext y (ebits t) / 2 ^ ebits t) (ebits t), 0)
def fVmulhn (t : Nat) (_ : Bool) (x y _ : Nat) : Nat × Nat := (x * y / 2 ^ ebits t % 2 ^ ebits t, 0)
/-- A zero divisor sets DZ. -/
def dz (y : Nat) : Nat := if y = 0 then fDZ else 0
def fVdiv (t : Nat) (_ : Bool) (x y _ : Nat) : Nat × Nat :=
  (if y = 0 then 2 ^ ebits t - 1 else wrapTo ((sext x (ebits t)).tdiv (sext y (ebits t))) (ebits t), dz y)
def fVdivn (t : Nat) (_ : Bool) (x y _ : Nat) : Nat × Nat := (if y = 0 then 2 ^ ebits t - 1 else x / y, dz y)
def fVrem (t : Nat) (_ : Bool) (x y _ : Nat) : Nat × Nat :=
  (if y = 0 then x else wrapTo ((sext x (ebits t)).tmod (sext y (ebits t))) (ebits t), dz y)
def fVremn (_ : Nat) (_ : Bool) (x y _ : Nat) : Nat × Nat := (if y = 0 then x else x % y, dz y)
def fVshl (t : Nat) (_ : Bool) (x y _ : Nat) : Nat × Nat := (y * 2 ^ (x % ebits t) % 2 ^ ebits t, 0)
def fVshr (t : Nat) (_ : Bool) (x y _ : Nat) : Nat × Nat := (y / 2 ^ (x % ebits t), 0)
def fVsar (t : Nat) (_ : Bool) (x y _ : Nat) : Nat × Nat :=
  (wrapTo (sext y (ebits t) / 2 ^ (x % ebits t)) (ebits t), 0)
def satAddS (f : Int → Int → Int) (t : Nat) (_ : Bool) (x y _ : Nat) : Nat × Nat :=
  satS (f (sext x (ebits t)) (sext y (ebits t))) (ebits t)
def satAddN (f : Int → Int → Int) (t : Nat) (_ : Bool) (x y _ : Nat) : Nat × Nat := satN (f x y) (ebits t)
def fVabsd (t : Nat) (_ : Bool) (x y _ : Nat) : Nat × Nat := ((intVal t x - intVal t y).natAbs % 2 ^ ebits t, 0)

/-! ## The instructions -/

/-- VADD_VV (R198). -/
def execVaddVv (c : Bool) (p : PReg) (d a b : VReg) (s : State) : Out :=
  vint (Bits.vaddVv c p d a b) c p d (.v a) (some b) false vintType (exact fun x y _ => x + y) s

/-- VADD_VX (R198). -/
def execVaddVx (c : Bool) (p : PReg) (d : VReg) (a : SReg) (b : VReg) (s : State) : Out :=
  vint (Bits.vaddVx c p d a b) c p d (.x a) (some b) false vintType (exact fun x y _ => x + y) s

/-- VADD_VI (R198). -/
def execVaddVi (c : Bool) (p : PReg) (d : VReg) (i : BitVec 5) (b : VReg) (s : State) : Out :=
  vint (Bits.vaddVi c p d i b) c p d (.i i true) (some b) false vintType (exact fun x y _ => x + y) s

/-- VSUB_VV (R198). -/
def execVsubVv (c : Bool) (p : PReg) (d a b : VReg) (s : State) : Out :=
  vint (Bits.vsubVv c p d a b) c p d (.v a) (some b) false vintType (exact fun x y _ => x - y) s

/-- VSUB_VX (R198). -/
def execVsubVx (c : Bool) (p : PReg) (d : VReg) (a : SReg) (b : VReg) (s : State) : Out :=
  vint (Bits.vsubVx c p d a b) c p d (.x a) (some b) false vintType (exact fun x y _ => x - y) s

/-- VSUB_VI (R198). -/
def execVsubVi (c : Bool) (p : PReg) (d : VReg) (i : BitVec 5) (b : VReg) (s : State) : Out :=
  vint (Bits.vsubVi c p d i b) c p d (.i i true) (some b) false vintType (exact fun x y _ => x - y) s

/-- VRSUB_VV (R198). -/
def execVrsubVv (c : Bool) (p : PReg) (d a b : VReg) (s : State) : Out :=
  vint (Bits.vrsubVv c p d a b) c p d (.v a) (some b) false vintType (exact fun x y _ => y - x) s

/-- VRSUB_VX (R198). -/
def execVrsubVx (c : Bool) (p : PReg) (d : VReg) (a : SReg) (b : VReg) (s : State) : Out :=
  vint (Bits.vrsubVx c p d a b) c p d (.x a) (some b) false vintType (exact fun x y _ => y - x) s

/-- VRSUB_VI (R198). -/
def execVrsubVi (c : Bool) (p : PReg) (d : VReg) (i : BitVec 5) (b : VReg) (s : State) : Out :=
  vint (Bits.vrsubVi c p d i b) c p d (.i i true) (some b) false vintType (exact fun x y _ => y - x) s

/-- VMUL_VV (R198). -/
def execVmulVv (c : Bool) (p : PReg) (d a b : VReg) (s : State) : Out :=
  vint (Bits.vmulVv c p d a b) c p d (.v a) (some b) false vintType (exact fun x y _ => x * y) s

/-- VMUL_VX (R198). -/
def execVmulVx (c : Bool) (p : PReg) (d : VReg) (a : SReg) (b : VReg) (s : State) : Out :=
  vint (Bits.vmulVx c p d a b) c p d (.x a) (some b) false vintType (exact fun x y _ => x * y) s

/-- VMUL_VI (R198). -/
def execVmulVi (c : Bool) (p : PReg) (d : VReg) (i : BitVec 5) (b : VReg) (s : State) : Out :=
  vint (Bits.vmulVi c p d i b) c p d (.i i true) (some b) false vintType (exact fun x y _ => x * y) s

/-- VMULH_VV (R198). -/
def execVmulhVv (c : Bool) (p : PReg) (d a b : VReg) (s : State) : Out :=
  vint (Bits.vmulhVv c p d a b) c p d (.v a) (some b) false vintType fVmulh s

/-- VMULH_VX (R198). -/
def execVmulhVx (c : Bool) (p : PReg) (d : VReg) (a : SReg) (b : VReg) (s : State) : Out :=
  vint (Bits.vmulhVx c p d a b) c p d (.x a) (some b) false vintType fVmulh s

/-- VMULH_VI (R198). -/
def execVmulhVi (c : Bool) (p : PReg) (d : VReg) (i : BitVec 5) (b : VReg) (s : State) : Out :=
  vint (Bits.vmulhVi c p d i b) c p d (.i i true) (some b) false vintType fVmulh s

/-- VMULHN_VV (R198). -/
def execVmulhnVv (c : Bool) (p : PReg) (d a b : VReg) (s : State) : Out :=
  vint (Bits.vmulhnVv c p d a b) c p d (.v a) (some b) false vintType fVmulhn s

/-- VMULHN_VX (R198). -/
def execVmulhnVx (c : Bool) (p : PReg) (d : VReg) (a : SReg) (b : VReg) (s : State) : Out :=
  vint (Bits.vmulhnVx c p d a b) c p d (.x a) (some b) false vintType fVmulhn s

/-- VMULHN_VI (R198). -/
def execVmulhnVi (c : Bool) (p : PReg) (d : VReg) (i : BitVec 5) (b : VReg) (s : State) : Out :=
  vint (Bits.vmulhnVi c p d i b) c p d (.i i true) (some b) false vintType fVmulhn s

/-- VMADD_VV (R198). -/
def execVmaddVv (c : Bool) (p : PReg) (d a b : VReg) (s : State) : Out :=
  vint (Bits.vmaddVv c p d a b) c p d (.v a) (some b) true vintType (exact fun x y d => x * y + d) s

/-- VMADD_VX (R198). -/
def execVmaddVx (c : Bool) (p : PReg) (d : VReg) (a : SReg) (b : VReg) (s : State) : Out :=
  vint (Bits.vmaddVx c p d a b) c p d (.x a) (some b) true vintType (exact fun x y d => x * y + d) s

/-- VMADD_VI (R198). -/
def execVmaddVi (c : Bool) (p : PReg) (d : VReg) (i : BitVec 5) (b : VReg) (s : State) : Out :=
  vint (Bits.vmaddVi c p d i b) c p d (.i i true) (some b) true vintType (exact fun x y d => x * y + d) s

/-- VDIV_VV (R198). -/
def execVdivVv (c : Bool) (p : PReg) (d a b : VReg) (s : State) : Out :=
  vint (Bits.vdivVv c p d a b) c p d (.v a) (some b) false vintType fVdiv s

/-- VDIV_VX (R198). -/
def execVdivVx (c : Bool) (p : PReg) (d : VReg) (a : SReg) (b : VReg) (s : State) : Out :=
  vint (Bits.vdivVx c p d a b) c p d (.x a) (some b) false vintType fVdiv s

/-- VDIV_VI (R198). -/
def execVdivVi (c : Bool) (p : PReg) (d : VReg) (i : BitVec 5) (b : VReg) (s : State) : Out :=
  vint (Bits.vdivVi c p d i b) c p d (.i i true) (some b) false vintType fVdiv s

/-- VDIVN_VV (R198). -/
def execVdivnVv (c : Bool) (p : PReg) (d a b : VReg) (s : State) : Out :=
  vint (Bits.vdivnVv c p d a b) c p d (.v a) (some b) false vintType fVdivn s

/-- VDIVN_VX (R198). -/
def execVdivnVx (c : Bool) (p : PReg) (d : VReg) (a : SReg) (b : VReg) (s : State) : Out :=
  vint (Bits.vdivnVx c p d a b) c p d (.x a) (some b) false vintType fVdivn s

/-- VDIVN_VI (R198). -/
def execVdivnVi (c : Bool) (p : PReg) (d : VReg) (i : BitVec 5) (b : VReg) (s : State) : Out :=
  vint (Bits.vdivnVi c p d i b) c p d (.i i true) (some b) false vintType fVdivn s

/-- VREM_VV (R198). -/
def execVremVv (c : Bool) (p : PReg) (d a b : VReg) (s : State) : Out :=
  vint (Bits.vremVv c p d a b) c p d (.v a) (some b) false vintType fVrem s

/-- VREM_VX (R198). -/
def execVremVx (c : Bool) (p : PReg) (d : VReg) (a : SReg) (b : VReg) (s : State) : Out :=
  vint (Bits.vremVx c p d a b) c p d (.x a) (some b) false vintType fVrem s

/-- VREM_VI (R198). -/
def execVremVi (c : Bool) (p : PReg) (d : VReg) (i : BitVec 5) (b : VReg) (s : State) : Out :=
  vint (Bits.vremVi c p d i b) c p d (.i i true) (some b) false vintType fVrem s

/-- VREMN_VV (R198). -/
def execVremnVv (c : Bool) (p : PReg) (d a b : VReg) (s : State) : Out :=
  vint (Bits.vremnVv c p d a b) c p d (.v a) (some b) false vintType fVremn s

/-- VREMN_VX (R198). -/
def execVremnVx (c : Bool) (p : PReg) (d : VReg) (a : SReg) (b : VReg) (s : State) : Out :=
  vint (Bits.vremnVx c p d a b) c p d (.x a) (some b) false vintType fVremn s

/-- VREMN_VI (R198). -/
def execVremnVi (c : Bool) (p : PReg) (d : VReg) (i : BitVec 5) (b : VReg) (s : State) : Out :=
  vint (Bits.vremnVi c p d i b) c p d (.i i true) (some b) false vintType fVremn s

/-- VAND_VV (R198). -/
def execVandVv (c : Bool) (p : PReg) (d a b : VReg) (s : State) : Out :=
  vint (Bits.vandVv c p d a b) c p d (.v a) (some b) false vintType (onU (· &&& ·)) s

/-- VAND_VX (R198). -/
def execVandVx (c : Bool) (p : PReg) (d : VReg) (a : SReg) (b : VReg) (s : State) : Out :=
  vint (Bits.vandVx c p d a b) c p d (.x a) (some b) false vintType (onU (· &&& ·)) s

/-- VAND_VI (R198). -/
def execVandVi (c : Bool) (p : PReg) (d : VReg) (i : BitVec 5) (b : VReg) (s : State) : Out :=
  vint (Bits.vandVi c p d i b) c p d (.i i true) (some b) false vintType (onU (· &&& ·)) s

/-- VOR_VV (R198). -/
def execVorVv (c : Bool) (p : PReg) (d a b : VReg) (s : State) : Out :=
  vint (Bits.vorVv c p d a b) c p d (.v a) (some b) false vintType (onU (· ||| ·)) s

/-- VOR_VX (R198). -/
def execVorVx (c : Bool) (p : PReg) (d : VReg) (a : SReg) (b : VReg) (s : State) : Out :=
  vint (Bits.vorVx c p d a b) c p d (.x a) (some b) false vintType (onU (· ||| ·)) s

/-- VOR_VI (R198). -/
def execVorVi (c : Bool) (p : PReg) (d : VReg) (i : BitVec 5) (b : VReg) (s : State) : Out :=
  vint (Bits.vorVi c p d i b) c p d (.i i true) (some b) false vintType (onU (· ||| ·)) s

/-- VXOR_VV (R198). -/
def execVxorVv (c : Bool) (p : PReg) (d a b : VReg) (s : State) : Out :=
  vint (Bits.vxorVv c p d a b) c p d (.v a) (some b) false vintType (onU (· ^^^ ·)) s

/-- VXOR_VX (R198). -/
def execVxorVx (c : Bool) (p : PReg) (d : VReg) (a : SReg) (b : VReg) (s : State) : Out :=
  vint (Bits.vxorVx c p d a b) c p d (.x a) (some b) false vintType (onU (· ^^^ ·)) s

/-- VXOR_VI (R198). -/
def execVxorVi (c : Bool) (p : PReg) (d : VReg) (i : BitVec 5) (b : VReg) (s : State) : Out :=
  vint (Bits.vxorVi c p d i b) c p d (.i i true) (some b) false vintType (onU (· ^^^ ·)) s

/-- VSHL_VV (R198). -/
def execVshlVv (c : Bool) (p : PReg) (d a b : VReg) (s : State) : Out :=
  vint (Bits.vshlVv c p d a b) c p d (.v a) (some b) false vintType fVshl s

/-- VSHL_VX (R198). -/
def execVshlVx (c : Bool) (p : PReg) (d : VReg) (a : SReg) (b : VReg) (s : State) : Out :=
  vint (Bits.vshlVx c p d a b) c p d (.x a) (some b) false vintType fVshl s

/-- VSHL_VI (R198). -/
def execVshlVi (c : Bool) (p : PReg) (d : VReg) (i : BitVec 5) (b : VReg) (s : State) : Out :=
  vint (Bits.vshlVi c p d i b) c p d (.i i false) (some b) false vintType fVshl s

/-- VSHR_VV (R198). -/
def execVshrVv (c : Bool) (p : PReg) (d a b : VReg) (s : State) : Out :=
  vint (Bits.vshrVv c p d a b) c p d (.v a) (some b) false vintType fVshr s

/-- VSHR_VX (R198). -/
def execVshrVx (c : Bool) (p : PReg) (d : VReg) (a : SReg) (b : VReg) (s : State) : Out :=
  vint (Bits.vshrVx c p d a b) c p d (.x a) (some b) false vintType fVshr s

/-- VSHR_VI (R198). -/
def execVshrVi (c : Bool) (p : PReg) (d : VReg) (i : BitVec 5) (b : VReg) (s : State) : Out :=
  vint (Bits.vshrVi c p d i b) c p d (.i i false) (some b) false vintType fVshr s

/-- VSAR_VV (R198). -/
def execVsarVv (c : Bool) (p : PReg) (d a b : VReg) (s : State) : Out :=
  vint (Bits.vsarVv c p d a b) c p d (.v a) (some b) false vintType fVsar s

/-- VSAR_VX (R198). -/
def execVsarVx (c : Bool) (p : PReg) (d : VReg) (a : SReg) (b : VReg) (s : State) : Out :=
  vint (Bits.vsarVx c p d a b) c p d (.x a) (some b) false vintType fVsar s

/-- VSAR_VI (R198). -/
def execVsarVi (c : Bool) (p : PReg) (d : VReg) (i : BitVec 5) (b : VReg) (s : State) : Out :=
  vint (Bits.vsarVi c p d i b) c p d (.i i false) (some b) false vintType fVsar s

/-- VMIN_VV (R198). -/
def execVminVv (c : Bool) (p : PReg) (d a b : VReg) (s : State) : Out :=
  vint (Bits.vminVv c p d a b) c p d (.v a) (some b) false vintType (onS min) s

/-- VMIN_VX (R198). -/
def execVminVx (c : Bool) (p : PReg) (d : VReg) (a : SReg) (b : VReg) (s : State) : Out :=
  vint (Bits.vminVx c p d a b) c p d (.x a) (some b) false vintType (onS min) s

/-- VMIN_VI (R198). -/
def execVminVi (c : Bool) (p : PReg) (d : VReg) (i : BitVec 5) (b : VReg) (s : State) : Out :=
  vint (Bits.vminVi c p d i b) c p d (.i i true) (some b) false vintType (onS min) s

/-- VMAX_VV (R198). -/
def execVmaxVv (c : Bool) (p : PReg) (d a b : VReg) (s : State) : Out :=
  vint (Bits.vmaxVv c p d a b) c p d (.v a) (some b) false vintType (onS max) s

/-- VMAX_VX (R198). -/
def execVmaxVx (c : Bool) (p : PReg) (d : VReg) (a : SReg) (b : VReg) (s : State) : Out :=
  vint (Bits.vmaxVx c p d a b) c p d (.x a) (some b) false vintType (onS max) s

/-- VMAX_VI (R198). -/
def execVmaxVi (c : Bool) (p : PReg) (d : VReg) (i : BitVec 5) (b : VReg) (s : State) : Out :=
  vint (Bits.vmaxVi c p d i b) c p d (.i i true) (some b) false vintType (onS max) s

/-- VMINN_VV (R198). -/
def execVminnVv (c : Bool) (p : PReg) (d a b : VReg) (s : State) : Out :=
  vint (Bits.vminnVv c p d a b) c p d (.v a) (some b) false vintType (onU min) s

/-- VMINN_VX (R198). -/
def execVminnVx (c : Bool) (p : PReg) (d : VReg) (a : SReg) (b : VReg) (s : State) : Out :=
  vint (Bits.vminnVx c p d a b) c p d (.x a) (some b) false vintType (onU min) s

/-- VMINN_VI (R198). -/
def execVminnVi (c : Bool) (p : PReg) (d : VReg) (i : BitVec 5) (b : VReg) (s : State) : Out :=
  vint (Bits.vminnVi c p d i b) c p d (.i i true) (some b) false vintType (onU min) s

/-- VMAXN_VV (R198). -/
def execVmaxnVv (c : Bool) (p : PReg) (d a b : VReg) (s : State) : Out :=
  vint (Bits.vmaxnVv c p d a b) c p d (.v a) (some b) false vintType (onU max) s

/-- VMAXN_VX (R198). -/
def execVmaxnVx (c : Bool) (p : PReg) (d : VReg) (a : SReg) (b : VReg) (s : State) : Out :=
  vint (Bits.vmaxnVx c p d a b) c p d (.x a) (some b) false vintType (onU max) s

/-- VMAXN_VI (R198). -/
def execVmaxnVi (c : Bool) (p : PReg) (d : VReg) (i : BitVec 5) (b : VReg) (s : State) : Out :=
  vint (Bits.vmaxnVi c p d i b) c p d (.i i true) (some b) false vintType (onU max) s

/-- VSADD_VV (R198). -/
def execVsaddVv (c : Bool) (p : PReg) (d a b : VReg) (s : State) : Out :=
  vint (Bits.vsaddVv c p d a b) c p d (.v a) (some b) false vintType (satAddS (· + ·)) s

/-- VSADD_VX (R198). -/
def execVsaddVx (c : Bool) (p : PReg) (d : VReg) (a : SReg) (b : VReg) (s : State) : Out :=
  vint (Bits.vsaddVx c p d a b) c p d (.x a) (some b) false vintType (satAddS (· + ·)) s

/-- VSADD_VI (R198). -/
def execVsaddVi (c : Bool) (p : PReg) (d : VReg) (i : BitVec 5) (b : VReg) (s : State) : Out :=
  vint (Bits.vsaddVi c p d i b) c p d (.i i true) (some b) false vintType (satAddS (· + ·)) s

/-- VSSUB_VV (R198). -/
def execVssubVv (c : Bool) (p : PReg) (d a b : VReg) (s : State) : Out :=
  vint (Bits.vssubVv c p d a b) c p d (.v a) (some b) false vintType (satAddS (· - ·)) s

/-- VSSUB_VX (R198). -/
def execVssubVx (c : Bool) (p : PReg) (d : VReg) (a : SReg) (b : VReg) (s : State) : Out :=
  vint (Bits.vssubVx c p d a b) c p d (.x a) (some b) false vintType (satAddS (· - ·)) s

/-- VSSUB_VI (R198). -/
def execVssubVi (c : Bool) (p : PReg) (d : VReg) (i : BitVec 5) (b : VReg) (s : State) : Out :=
  vint (Bits.vssubVi c p d i b) c p d (.i i true) (some b) false vintType (satAddS (· - ·)) s

/-- VSADDN_VV (R198). -/
def execVsaddnVv (c : Bool) (p : PReg) (d a b : VReg) (s : State) : Out :=
  vint (Bits.vsaddnVv c p d a b) c p d (.v a) (some b) false vintType (satAddN (· + ·)) s

/-- VSADDN_VX (R198). -/
def execVsaddnVx (c : Bool) (p : PReg) (d : VReg) (a : SReg) (b : VReg) (s : State) : Out :=
  vint (Bits.vsaddnVx c p d a b) c p d (.x a) (some b) false vintType (satAddN (· + ·)) s

/-- VSADDN_VI (R198). -/
def execVsaddnVi (c : Bool) (p : PReg) (d : VReg) (i : BitVec 5) (b : VReg) (s : State) : Out :=
  vint (Bits.vsaddnVi c p d i b) c p d (.i i true) (some b) false vintType (satAddN (· + ·)) s

/-- VSSUBN_VV (R198). -/
def execVssubnVv (c : Bool) (p : PReg) (d a b : VReg) (s : State) : Out :=
  vint (Bits.vssubnVv c p d a b) c p d (.v a) (some b) false vintType (satAddN (· - ·)) s

/-- VSSUBN_VX (R198). -/
def execVssubnVx (c : Bool) (p : PReg) (d : VReg) (a : SReg) (b : VReg) (s : State) : Out :=
  vint (Bits.vssubnVx c p d a b) c p d (.x a) (some b) false vintType (satAddN (· - ·)) s

/-- VSSUBN_VI (R198). -/
def execVssubnVi (c : Bool) (p : PReg) (d : VReg) (i : BitVec 5) (b : VReg) (s : State) : Out :=
  vint (Bits.vssubnVi c p d i b) c p d (.i i true) (some b) false vintType (satAddN (· - ·)) s

/-- VABSD_VV (R198). -/
def execVabsdVv (c : Bool) (p : PReg) (d a b : VReg) (s : State) : Out :=
  vint (Bits.vabsdVv c p d a b) c p d (.v a) (some b) false vintType fVabsd s

/-- VABSD_VX (R198). -/
def execVabsdVx (c : Bool) (p : PReg) (d : VReg) (a : SReg) (b : VReg) (s : State) : Out :=
  vint (Bits.vabsdVx c p d a b) c p d (.x a) (some b) false vintType fVabsd s

/-- VABSD_VI (R198). -/
def execVabsdVi (c : Bool) (p : PReg) (d : VReg) (i : BitVec 5) (b : VReg) (s : State) : Out :=
  vint (Bits.vabsdVi c p d i b) c p d (.i i true) (some b) false vintType fVabsd s

/-- VMERGE_VV (R198). -/
def execVmergeVv (c : Bool) (p : PReg) (d a b : VReg) (s : State) : Out :=
  vmerge (Bits.vmergeVv c p d a b) c p d (.v a) b s

/-- VMERGE_VX (R198). -/
def execVmergeVx (c : Bool) (p : PReg) (d : VReg) (a : SReg) (b : VReg) (s : State) : Out :=
  vmerge (Bits.vmergeVx c p d a b) c p d (.x a) b s

/-- VMERGE_VI (R198). -/
def execVmergeVi (c : Bool) (p : PReg) (d : VReg) (i : BitVec 5) (b : VReg) (s : State) : Out :=
  vmerge (Bits.vmergeVi c p d i b) c p d (.i i true) b s

/-- VMOV_VV (R198). -/
def execVmovVv (c : Bool) (p : PReg) (d a : VReg) (s : State) : Out :=
  vint (Bits.vmovVv c p d a) c p d (.v a) none false moveType (fun _ _ x _ _ => (x, 0)) s

/-- VMOV_VX (R198). -/
def execVmovVx (c : Bool) (p : PReg) (d : VReg) (a : SReg) (s : State) : Out :=
  vint (Bits.vmovVx c p d a) c p d (.x a) none false moveType (fun _ _ x _ _ => (x, 0)) s

/-- VMOV_VI (R198). -/
def execVmovVi (c : Bool) (p : PReg) (d : VReg) (i : BitVec 5) (s : State) : Out :=
  vint (Bits.vmovVi c p d i) c p d (.i i true) none false moveType (fun _ _ x _ _ => (x, 0)) s

end Sys2Proof.Machine
end

