-- ==== Sys2Proof/Machine/VMem.lean ====
section
/-!
DEFINITION. Sys2Proof/Machine/VMem.lean: vector loads, stores and atomics (R174 to R192), VSCL.LD and VSCL.ST (R172), with the
probe (R216 to R219, R391) and the faults during execution (R220 to R223).
-/
namespace Sys2Proof.Machine

/-! ## Element accesses -/

/-- One access of an element: `n` bytes at `va`, whose bits from `sb` are the element's bits from `se`, `w` of them. -/
structure Piece where
  va : Nat
  n : Nat
  se : Nat
  sb : Nat
  w : Nat
  deriving DecidableEq, Repr

/-- An element access: the element that faults name, the index in the register group, the accesses it is made of, and
whether its index element is poisoned. -/
structure Item where
  e : Nat
  i : Nat
  pieces : List Piece
  pois : Bool
  deriving DecidableEq, Repr

/-- The access of a whole element of `n` bytes. -/
def whole (va n : Nat) : List Piece := [{ va := va % 2 ^ 64, n := n, se := 0, sb := 0, w := 8 * n }]

/-- The bytes of a plane element whose `w` bits start at bit address `m`; the first argument bounds their number. -/
def planePieces : Nat → Nat → Nat → Nat → List Piece
  | 0, _, _, _ => []
  | f + 1, m, se, w =>
    if w = 0 then []
    else
      let k := min w (8 - m % 8)
      { va := m / 8 % 2 ^ 64, n := 1, se := se, sb := m % 8, w := k } :: planePieces f (m + k) (se + k) (w - k)

/-- How a VLD or VST forms its addresses (Table 8-2). -/
inductive Mode where
  | unit
  | strided (x : SReg)
  | indexed (x : VReg)
  | plane (x : SReg)
  deriving DecidableEq, Repr

/-- The index type of R177. -/
def indexType (t : Nat) : Nat := if ebits t ≤ 32 then 0x06 else 0x07
/-- Gx of R177. -/
def Shuttle.indexGroup (sh : Shuttle) : Nat := grpOf sh.vlen (indexType sh.ety) sh.vlmax

/-- Table 8-3. -/
def Mode.typeOk (m : Mode) (t : Nat) : Bool :=
  match m with
  | .unit => !isQ t
  | .strided _ => !isQ t && t != cF4
  | .indexed _ => !isQ t && t != cF4
  | .plane _ => isQ t

/-- The pieces of element e (R177, R178, R181), from the base `a`. -/
def Mode.pieces (m : Mode) (sh : Shuttle) (a e : Nat) : List Piece :=
  let t := sh.ety
  let n := ebits t / 8
  match m with
  | .unit =>
    if t = cF4 then [{ va := (a + e / 2) % 2 ^ 64, n := 1, se := 0, sb := 4 * (e % 2), w := 4 }] else whole (a + e * n) n
  | .strided x => whole (a + e * (sh.reg x).toNat) n
  | .indexed x => whole (a + sh.elem x.val (indexType t) e) n
  | .plane x => planePieces 4 (8 * a + (sh.reg x).toNat + e * ebits t) 0 (ebits t)

def Mode.item (m : Mode) (sh : Shuttle) (a e : Nat) : Item :=
  { e := e, i := e, pieces := m.pieces sh a e
    pois := match m with
      | .indexed x => sh.elemPois x.val (indexType sh.ety) e
      | _ => false }

/-- The hint of R339 for a miss at element e: STRIDE and NELEM. -/
def Mode.hint (m : Mode) (sh : Shuttle) (e : Nat) : Hint :=
  let r := sh.srem.toNat - e
  let t := sh.ety
  if r = 0 then (0, 0)
  else match m with
    | .unit => if t = cF4 then (1, ceilDiv r 2) else (ebits t / 8, r)
    | .strided x => ((sh.reg x).toNat, r)
    | .indexed _ => (0, 0)
    | .plane _ => (1, ceilDiv (r * ebits t) 8)

/-- The checks of a mode's x operand, and what it reads. -/
def Mode.bad (m : Mode) (sh : Shuttle) : Option Nat :=
  match m with
  | .indexed x => groupBad sh x.val sh.indexGroup
  | _ => none
def Mode.index (m : Mode) (sh : Shuttle) : Nat :=
  match m with
  | .indexed x => regMask x.val sh.indexGroup
  | _ => 0
def Mode.smask (m : Mode) : Nat :=
  match m with
  | .strided x => sMask x
  | .plane x => sMask x
  | _ => 0
def Mode.isIndexed (m : Mode) : Bool :=
  match m with
  | .indexed _ => true
  | _ => false
def Mode.feats (m : Mode) : List Nat :=
  match m with
  | .plane _ => [10]
  | _ => []

/-! ## The probe -/

/-- What the probe finds of an element: its translations, a fault, or what it must wait for. -/
inductive Probed where
  | good (ps : List (Piece × Phys))
  | bad (c : Nat) (ea : Word) (ei : Nat)
  | miss (ids : List (Nat × Nat)) (leaves : List HeldLeaf)
  deriving DecidableEq, Repr

/-- What is found of an element whose first access misses, from what is found of the rest (R181, R228). -/
def Probed.joins (ids : List (Nat × Nat)) (leaves : List HeldLeaf) : Probed → Probed
  | .miss i l => .miss (ids ++ i) (leaves ++ l)
  | _ => .miss ids leaves
/-- The translations of an element's pieces. The first that faults decides, once those before it have been answered. -/
def probePieces (kind : Nat) (hint : Hint) : List Piece → M Probed
  | [] => return .good []
  | p :: ps => do
    if p.va % p.n ≠ 0 then return .bad cMISALIGNED (w64 p.va) kind
    match ← tryXlate p.va kind hint with
    | .fault c ea ei => return .bad c ea ei.toNat
    | .page m => return (← probePieces kind hint ps).joins [(m.fn, m.req)] []
    | .leaf l => return (← probePieces kind hint ps).joins [] [l]
    | .ok x =>
      match ← probePieces kind hint ps with
      | .good qs => return .good ((p, x) :: qs)
      | r => return r

/-- An element whose index is poisoned has no address: it faults when execution consumes it (R186, R192). -/
def probeItem (kind pk : Nat) (hint : Nat → Hint) (it : Item) : M (Item × Probed) := do
  if it.pois then return (it, .bad cPOISON 0 pk)
  else return (it, ← probePieces kind (hint it.e) it.pieces)

def Probed.isBad : Probed → Bool
  | .bad .. => true
  | _ => false
/-- The wait for every miss of a list (R218). -/
def missWait (xs : List (Item × Probed)) : Option Wait :=
  let ids := (xs.flatMap fun x => match x.2 with
    | .miss i _ => i
    | _ => []).eraseDups
  let leaves := (xs.flatMap fun x => match x.2 with
    | .miss _ l => l
    | _ => []).eraseDups
  if ids.isEmpty && leaves.isEmpty then none else some (.page ids leaves)

/-- A probe fault is taken now; the others strike an element during execution: poison, and what is held for a candidate
(R391). -/
def Probed.now (cand : Bool) : Probed → Bool
  | .bad c _ _ => !cand && c != cPOISON
  | _ => false

/-- Whether a member joins a hardware convoy that has issued no element group yet: its probe comes before all of it (R216). -/
def State.probing (s : State) : Bool :=
  let k := s.core s.cur.place.core
  s.cur.convoy.isOpen && k.vqOwner == some s.cur.uid && decide (s.clock < k.vqSince + 64)
/-- A probe parks its convoy (R218): where the member joins a hardware convoy, the convoy as a whole. -/
def parkProbe (w : Wait) : M Unit := do
  let s ← get
  blockingWait
  if s.probing then
    modify fun s =>
      let s := unnoteConvoy (backToProbe s w)
      { s with cur := s.cur.startWait w }
    throw .again
  else park w

/-- The probe of a member (R216 to R219, R391): `cand` says that its guard was written earlier in the convoy, so that
`items` are its candidates; `ff` that it is a VLD.FF, which trims. The answer is what it found of each element before
the first that faults; for a VLD.FF that trims, also the element at which it does. -/
def probe (kind pk : Nat) (ff cand : Bool) (hint : Nat → Hint) (items : List Item) :
    M (List (Item × Probed) × Option Nat) := do
  let rs ← items.mapM (probeItem kind pk hint)
  let before := rs.takeWhile fun x => !x.2.now cand
  match missWait before with
  | some w => parkProbe w
  | none => pure ()
  match rs.drop before.length with
  | (it, .bad c ea ei) :: _ =>
    let trims := ff && !before.isEmpty && (c == cMISALIGNED || c == cPAGEFAULT || c == cACCESS)
    if trims then return (before, some it.e)
    else
      let s ← get
      trap c ea (w64 (ei + vecInfo s.cur.position true it.e))
  | _ => return (before, none)

/-! ## Execution -/

/-- Whether the guard of a member was written earlier in its convoy, which it joins. -/
def candidates (sh : Shuttle) (c : Bool) (p : PReg) : Bool := !c && sh.convoy.isOpen && bit sh.convoy.wroteP p.val

/-- The element from which on nothing is performed: that of the fault the convoy has met. -/
def Shuttle.faultAt (sh : Shuttle) : Nat := (sh.convoy.fault.map (·.elem)).getD (2 ^ 64)

/-- An element that execution reaches, with its accesses. -/
abbrev Reached := Item × List (Piece × Phys)

/-- The elements of a probed member that execution reaches: those below a fault that the convoy has met, up to the
first whose fault strikes now, which is met or trims (R221, R391). -/
def strike (ff : Bool) (sh : Shuttle) (xs : List (Item × Probed)) : Shuttle × List Reached :=
  let live := xs.filter fun x => decide (x.1.e < sh.faultAt)
  let good := live.takeWhile fun x => !x.2.isBad
  let reach := good.map fun x => (x.1, match x.2 with
    | .good ps => ps
    | _ => [])
  match live.drop good.length with
  | (it, .bad c ea ei) :: _ =>
    if ff && !good.isEmpty && (c == cMISALIGNED || c == cPAGEFAULT || c == cACCESS) then
      ({ sh with vl := w64 it.e }, reach)
    else (sh.meet { elem := it.e, member := sh.position, cause := c, eaddr := ea, einfo := ei }, reach)
  | _ => (sh, reach)

/-- Whether an access of the list is non-repeatable (R94). -/
def serialAccess (nr : Bool) (xs : List Reached) : Bool :=
  nr || xs.any fun x => x.2.any fun p => !p.2.win && p.2.mtype == 2

/-! ## What a load finds -/

/-- The stores of the open convoy that have not committed and that a load of an element must see (R95, R187); in an
element-serial convoy those of later elements come after it (R222). -/
def Convoy.under (c : Convoy) (serial : Bool) (e : Nat) (remote : Option Nat) (k n : Nat) : List Buffered :=
  c.buffer.filter fun b =>
    b.remote == remote && decide (b.key < k + n ∧ k < b.key + b.n) && (!(serial || c.serial) || decide (b.elem ≤ e))

/-- What a load of `n` bytes at `k` finds once the stores over them are performed upon `v`, with its mark: no store of another agent
comes between. -/
def overlay (s : State) (mine : List Buffered) (k n v : Nat) (pois : Bool) : Nat × Bool :=
  if mine.isEmpty then (v, pois)
  else
    let s' := performLocal true ({ s with stores := [] }.poke k n v pois) (mine.map fun b => { b with remote := none })
    s'.load k n

/-- A load by the vector agent of this device's storage, for an element: its value and its read. A non-repeatable one comes after every
access so far (R94). The read must hold when the element commits where the convoy is element-serial, or where an atomic of the convoy
lies under it. -/
def loadVector (nr : Bool) (serial : Bool) (e k n : Nat) : M (Nat × Bool × List LogRead) := do
  let s ← get
  let c := s.cur.convoy
  let mine := c.under serial e none k n
  let x ← (if nr then loadSerial agVector k n else loadAt agVector k n)
  let s ← get
  let (v, p) := overlay s mine k n x.v x.pois
  return (v, p, [{ elem := e, key := k, n := n, v := v, pois := p, late := !c.buffer.isEmpty, atom := false,
                   plain := !mine.any fun b => b.amo.isSome }])

/-! ## Remote packets (R188) -/

/-- One access of a remote packet: the element, the access, where it leads, the bytes it carries. -/
structure FarPart where
  e : Nat
  piece : Piece
  phys : Phys
  data : List Byte
  deriving DecidableEq, Repr
/-- One remote packet of a member: the chip, the packet's number, the accesses with their elements. -/
structure Packet where
  peer : Nat
  number : Nat
  parts : List FarPart
  deriving DecidableEq, Repr

/-- The remote accesses of a member by packet: one for each chip, or for each page of it where the addresses are at a
constant stride, or for each element of a non-repeatable access (R184, R188). -/
def packetNumber (indexed serial : Bool) (e va : Nat) (p : Phys) : Nat :=
  if serial then e else if indexed then 0 else va / max 1 p.span
def partsOf (data : Nat → List Byte) (xs : List Reached) : List FarPart :=
  xs.flatMap fun x => (x.2.filter fun p => p.2.remote.isSome).map fun p => ⟨x.1.e, p.1, p.2, data x.1.e⟩
def packetsOf (indexed serial : Bool) (ps : List FarPart) : List Packet :=
  let name (y : FarPart) : Nat × Nat := (y.phys.remote.getD 0, packetNumber indexed serial y.e y.piece.va y.phys)
  (ps.map name).eraseDups.map fun n =>
    { peer := n.1, number := n.2, parts := ps.filter fun y => name y == n }

def Packet.elem (p : Packet) : Nat := (p.parts.head?.map (·.e)).getD 0
def Packet.va (p : Packet) : Word := w64 ((p.parts.head?.map (·.piece.va)).getD 0)

/-- The bytes of a remote access: its own, or, where an uncommitted atomic of the convoy covers some of them, the 8 that the atomic
may need. -/
def Convoy.wide (c : Convoy) (y : FarPart) : Nat × Nat :=
  if c.buffer.any fun b => b.remote == y.phys.remote && b.amo.isSome && decide (b.key < y.phys.key + y.piece.n ∧ y.phys.key < b.key + b.n)
  then (y.phys.key / 8 * 8, 8) else (y.phys.key, y.piece.n)
def Packet.ask (c : Convoy) (op : FarOp) (p : Packet) : Ask :=
  { peer := p.peer, agent := agVector, op := op, addrs := p.parts.map c.wide, data := p.parts.flatMap (·.data), va := p.va }

/-- A value that a remote access has returned, of the bytes that it asked for. -/
structure FarVal where
  e : Nat
  va : Nat
  key : Nat
  n : Nat
  v : Nat
  poison : Nat
  deriving DecidableEq, Repr

/-- The values that the replies to packets carry. -/
def shareReply (c : Convoy) : List FarPart → List Byte → Nat → List FarVal
  | [], _, _ => []
  | y :: rest, b, pm =>
    let (k, n) := c.wide y
    { e := y.e, va := y.piece.va, key := k, n := n, v := (b.take n).foldr (fun x acc => x.toNat + 256 * acc) 0,
      poison := pm % 2 ^ n } :: shareReply c rest (b.drop n) (pm / 2 ^ n)

/-- The reply to an access that an earlier run of the convoy has made (R94, R192, R222). -/
def Shuttle.keptOf (sh : Shuttle) (y : FarPart) : Option Kept :=
  let first := if sh.convoy.isOpen then sh.convoy.firstPc else sh.pc
  sh.kept.find? fun x => x.pc == first && x.member == sh.position && x.elem == y.e && some x.peer == y.phys.remote
    && decide (x.addr ≤ y.phys.key ∧ y.phys.key + y.piece.n ≤ x.addr + x.n)
/-- The shuttle once it keeps a reply. -/
def Shuttle.keep (sh : Shuttle) (peer : Nat) (once : Bool) (fail : Option (Nat × Nat)) (v : FarVal) : Shuttle :=
  let first := if sh.convoy.isOpen then sh.convoy.firstPc else sh.pc
  let k : Kept := { pc := first, member := sh.position, elem := v.e, peer := peer, addr := v.key, n := v.n, v := v.v,
                    poison := v.poison, once := once, fail := fail }
  { sh with kept := if sh.kept.contains k then sh.kept else k :: sh.kept }

/-- REMOTE_LOAD is met at an element (R189). -/
def meetFailure (load : Bool) (e : Nat) (va : Word) (peer c o : Nat) : M Unit :=
  onCur fun sh => sh.meet { elem := e, member := sh.position, cause := cREMOTE, eaddr := va,
                            einfo := peer * 2 ^ 16 + (if load then 0 else o) * 2 ^ 4 + c }
/-- The values of an access that has its reply; one that has failed fails its element again. -/
def takeKept (load : Bool) (y : FarPart) (x : Kept) : M (List FarVal) := do
  match x.fail with
  | none => return [{ e := y.e, va := y.piece.va, key := x.addr, n := x.n, v := x.v, poison := x.poison }]
  | some (c, o) =>
    meetFailure load y.e (w64 y.piece.va) x.peer c o
    return []
/-- The values of a packet that has been answered, which are kept. A packet that has failed strikes at its lowest element (R189), and
where its accesses must not be made twice, their failure is kept too. Log entry 79, DEDUCED. -/
def takeAnswer (load once : Bool) (x : Packet × Answer) : M (List FarVal) := do
  let conv := (← get).cur.convoy
  match x.2 with
  | .data b pm =>
    let vs := shareReply conv x.1.parts b pm
    onCur fun sh => vs.foldl (fun sh v => sh.keep x.1.peer once none v) sh
    return vs
  | .failed c o =>
    meetFailure load x.1.elem x.1.va x.1.peer c o
    if once then
      onCur fun sh => (shareReply conv x.1.parts [] 0).foldl (fun sh v => sh.keep x.1.peer true (some (c, o)) v) sh
    return []

/-- The values of the remote accesses of a member. None is made while the convoy runs for the first time, in which all its probes are
made (R216); what has to be made is noted. Accesses that must not be made twice (`once`), and all of an element-serial convoy, are
made only below the element up to which the convoy asks, each once the shuttle's earlier vector stores are acknowledged in the latter
(R94, R220, R222). -/
def askFar (indexed serial once : Bool) (op : FarOp) (parts : List FarPart) : M (List FarVal) := do
  let s ← get
  let load := op == .load
  let fresh := parts.filter fun y => (s.cur.keptOf y).isNone
  let inOrder := serial || s.cur.convoy.serial || s.cur.again.any (·.serial)
  let go := match s.cur.again with
    | none => []
    | some a => fresh.filter fun y => !(inOrder || once) || decide (y.e < a.askTo)
  if inOrder && !go.isEmpty then waitKinds vectorKinds 0
  let ps := packetsOf indexed serial go
  let answers ← askAll (ps.map (Packet.ask s.cur.convoy op))
  let olds ← parts.flatMapM fun y => match s.cur.keptOf y with
    | some x => takeKept load y x
    | none => return []
  let news ← (ps.zip answers).flatMapM (takeAnswer load once)
  onCur fun sh =>
    let wants := (fresh.filter fun y => !go.contains y).foldl (fun ws y =>
      if ws.contains (y.e, once || serial) then ws else (y.e, once || serial) :: ws) sh.convoy.wants
    { sh with convoy := { sh.convoy with wants := wants } }
  return olds ++ news

/-- The elements that remain below what the convoy has met. -/
def stillBelow (xs : List Reached) : M (List Reached) := do
  let s ← get
  return xs.filter fun x => decide (x.1.e < s.cur.faultAt)

/-- The window accesses of a load chain behind the shuttle's copies: they wait for their bytes, and come after the engine's release
of those (R98, R264). -/
def chain (xs : List Reached) : M Unit := do
  let s ← get
  let mine := xs.flatMap fun x => (x.2.filter fun p => p.2.win).map fun p => (p.1.va - windowBase, p.1.n)
  if mine.any fun x => s.cur.chained x.1 x.2 then park (.chained mine)
  else set (s.cur.bobbins.toList.foldl (fun s b => mine.foldl (fun s x => s.acquireRuns b (b.runsAt x.1 x.2)) s) s)

/-- The value of an element from its pieces, with its reads; `nr` says that the instruction carries NR. -/
def loadItem (nr serial : Bool) (far : List FarVal) (x : Reached) : M (Nat × Bool × List LogRead) :=
  x.2.foldlM (fun (acc : Nat × Bool × List LogRead) (p : Piece × Phys) => do
    let (v, m, rs) ← (match p.2.remote with
      | some c => do
        let s ← get
        match far.find? fun y => y.e == x.1.e && y.va == p.1.va with
        | none => return (0, false, [])
        | some y =>
          let (v, m) := overlay s (s.cur.convoy.under serial x.1.e (some c) p.2.key p.1.n) y.key y.n y.v (y.poison != 0)
          let o := p.2.key - y.key
          return (bits v (8 * o) (8 * p.1.n), if y.n = p.1.n then m else m && bits y.poison o p.1.n != 0, [])
      | none => loadVector (nr || p.2.serial) serial x.1.e p.2.key p.1.n)
    return (acc.1 + bits v p.1.sb p.1.w * 2 ^ p.1.se, acc.2.1 || m, acc.2.2 ++ rs)) (0, false, [])

/-- The body of a load: `put` writes one element. `trim` is the length that a VLD.FF leaves, to which the members after it are probed
(R391). Log entry 83, DEDUCED. -/
def loadBody (ff nr indexed : Bool) (tr : Trace) (xs : List (Item × Probed)) (trim : Option Nat)
    (put : Shuttle → Nat → Nat → Bool → Shuttle) : M Trace := do
  let s ← get
  let (_, reach) := strike ff s.cur xs
  chain reach
  let serial := serialAccess nr reach
  let far ← askFar indexed serial serial .load (partsOf (fun _ => []) reach)
  onCur fun sh => (strike ff (match trim with
    | some g => { sh with vl := w64 g }
    | none => sh) xs).1
  let reach ← stillBelow reach
  let vals ← reach.mapM fun x => do return (x.1.i, ← loadItem nr serial far x)
  onCur fun sh => vals.foldl (fun sh (y : Nat × Nat × Bool × List LogRead) => put sh y.1 y.2.1 y.2.2.1) sh
  return { tr with wrote := reach.map (·.1.i), reads := vals.flatMap fun (y : Nat × Nat × Bool × List LogRead) => y.2.2.2,
                   serial := serial }

/-! ## Stores -/

/-- The stores of one element: its encoding and its poison. -/
def bufferItem (kind : Nat) (amo : Option Nat) (indexed serial yields : Bool) (x : Reached) (v : Nat) (pois : Bool) :
    List Buffered :=
  x.2.map fun p =>
    { elem := x.1.e, packet := packetNumber indexed serial x.1.e p.1.va p.2, va := w64 p.1.va, key := p.2.key,
      remote := p.2.remote, n := p.1.n, v := bits v p.1.se p.1.w * 2 ^ p.1.sb, mask := (2 ^ p.1.w - 1) * 2 ^ p.1.sb,
      pois := pois, yields := yields, kind := kind, amo := amo }

/-- The body of a store: `get` reads one element. A poisoned element bound for a page that cannot hold poison is
consumed (R186, R332). Log entry 7, DESIGN CHOICE. -/
def storeBody (nr indexed ordered : Bool) (tr : Trace) (xs : List (Item × Probed)) (rd : Shuttle → Nat → Nat × Bool) :
    M Trace := do
  let s ← get
  let f ← (if indexed && !ordered then draw else pure 0)
  let (sh, reach) := strike false s.cur xs
  let refuses (x : Reached) : Option Piece :=
    if (rd s.cur x.1.i).2 then (x.2.find? fun p => !p.2.win && !p.2.pcap).map (·.1) else none
  let good := reach.takeWhile fun x => (refuses x).isNone
  let sh := match reach.drop good.length with
    | x :: _ => sh.meet (poisonAt sh x.1.e 3 (w64 ((refuses x).elim 0 (·.va))))
    | [] => sh
  onCur fun _ => sh
  let serial := serialAccess nr reach
  let single := ordered || serial || !indexed
  return { tr with
    buffer := good.flatMap fun x =>
      let v := rd s.cur x.1.i
      bufferItem 2 none indexed serial (!single && !Config.laterStoreWins f x.1.e) x v.1 v.2
    ordered := ordered, serial := serial }

/-- The elements that a member probes: its active ones, or its candidates. -/
def probed (sh : Shuttle) (cand : Bool) (p : PReg) (f : Nat → Item) : List Item :=
  (if cand then sh.elems else sh.active p.val).map f
/-- What was found of the active elements. -/
def onlyActive (sh : Shuttle) (p : PReg) (xs : List (Item × Probed)) : List (Item × Probed) :=
  xs.filter fun x => sh.pbit p.val x.1.e

/-- The size of the page of an access that a probe has found. -/
def spanOf (xs : List (Item × Probed)) (va : Nat) : Nat :=
  (xs.findSome? fun x => match x.2 with
    | .good ps => (ps.find? fun p => p.1.va == va).map (·.2.span)
    | _ => none).getD 65536

/-- VLD (R174 to R186). -/
def vload (ibits : Nat) (m : Mode) (ff : Bool) (c : Bool) (p : PReg) (d : VReg) (a : SReg) (nr : Bool) (s : State) :
    Out :=
  let sh := s.cur
  let t := sh.ety
  let g := sh.group
  let u : Uses := { c := c, load := true, rV := m.index sh, wV := regMask d.val g, index := m.index sh,
                    sR := sMask a ||| m.smask }
  run (member ibits u [unless2 (m.typeOk t), groupBad sh d.val g, m.bad sh,
      unless2 ((regMask d.val g &&& m.index sh) == 0)] m.feats (do
    let s ← get
    let sh := s.cur
    let cand := candidates sh c p
    let items := probed sh cand p (m.item sh (sh.reg a).toNat)
    let (found, trim) ← probe 0 2 ff cand (m.hint sh) items
    loadBody ff nr m.isIndexed { k := perGroup t, code := t, base := d.val } (onlyActive sh p found) trim
      fun sh e v pois => sh.putElem d.val t e v pois)) s

/-- VST (R174 to R190). -/
def vstore (ibits : Nat) (m : Mode) (ordered : Bool) (c : Bool) (p : PReg) (d : VReg) (a : SReg) (nr : Bool)
    (s : State) : Out :=
  let sh := s.cur
  let t := sh.ety
  let g := sh.group
  let strided := match m with
    | .strided _ => true
    | _ => false
  let u : Uses := { c := c, store := true, rV := m.index sh ||| regMask d.val g, index := m.index sh,
                    sR := sMask a ||| m.smask }
  run (member ibits u [unless2 (m.typeOk t), groupBad sh d.val g, m.bad sh] m.feats (do
    let s ← get
    let sh := s.cur
    let cand := candidates sh c p
    let items := probed sh cand p (m.item sh (sh.reg a).toNat)
    let (found, _) ← probe 1 2 false cand (m.hint sh) items
    let tr ← storeBody nr (m.isIndexed || strided) ordered { k := perGroup t } (onlyActive sh p found)
      fun sh e => (sh.elem d.val t e, sh.elemPois d.val t e)
    -- the packets of a strided store go by page
    return { tr with buffer := tr.buffer.map fun b =>
      if strided && !tr.serial then { b with packet := b.va.toNat / max 1 (spanOf found b.va.toNat) } else b })) s

/-! ## Atomics -/

/-- The elements in the order in which their atomics are performed (R192, R220): group by group, in a free order within a
group, in element order where an access is non-repeatable. -/
def vamoBefore (serial : Bool) (f k : Nat) (x y : Nat) : Bool :=
  if serial then decide (x < y)
  else decide (x / k < y / k) || (x / k == y / k && (decide (Config.vamoKey f x < Config.vamoKey f y)
    || (Config.vamoKey f x == Config.vamoKey f y && decide (x < y))))
def insertAtomic (serial : Bool) (f k : Nat) (x : Nat) : List Nat → List Nat
  | [] => [x]
  | y :: ys => if vamoBefore serial f k x y then x :: y :: ys else y :: insertAtomic serial f k x ys

/-- A local atomic of an element that returns its old value (R192): its read, which must be the newest when it commits, and the store of
its result. -/
structure Old where
  e : Nat
  v : Nat
  read : LogRead
  store : Buffered
  deriving DecidableEq, Repr

/-- The local atomics of a VAMO.R in their order: each reads what those before it leave, and its store waits for its element's
commitment (R220). -/
def readAtomics (op n : Nat) (data : Nat → Nat) : List (Nat × Piece × Phys) → List Old → M (List Old)
  | [], done => return done
  | (e, p, ph) :: rest, done => do
    modify fun s => s.readNewest (s.cur.obs agVector) ph.key n
    let s ← get
    let (v, pois) := s.load ph.key n
    let (v, pois) := overlay s ((done.map (·.store)).filter fun b => decide (b.key < ph.key + n ∧ ph.key < b.key + b.n)) ph.key n v pois
    let new := amoResult op n v (data e)
    let o : Old :=
      { e := e, v := v
        read := { elem := e, key := ph.key, n := n, v := v, pois := pois, late := false, atom := true, plain := false }
        store := { elem := e, packet := 0, va := w64 p.va, key := ph.key, remote := none, n := n, v := new, mask := 256 ^ n - 1,
                   pois := false, yields := false, kind := 4, amo := some 0 } }
    readAtomics op n data rest (done ++ [o])

/-- Whether a local target of an atomic is poisoned where that is consumed: for a form that returns its old value, and where the
target is not HBM (R192, R293). -/
def targetBad (s : State) (ret : Bool) (n : Nat) (ph : Phys) : Bool :=
  ph.remote.isNone && markedAny s.poisoned ph.key n && (ret || ph.win || decide (2 ^ 43 ≤ ph.key % 2 ^ 44))

/-- POISON_CONSUMED is met at the lowest element whose remote target was poisoned (R192, R293). -/
def meetPoisoned (vs : List FarVal) : M Unit :=
  onCur fun sh => match vs.foldl (fun (m : Option FarVal) v => if v.poison = 0 then m else match m with
      | none => some v
      | some x => some (if v.e < x.e then v else x)) none with
    | some v => sh.meet (poisonAt sh v.e 6 (w64 v.va))
    | none => sh

/-- VAMO (R191, R192). -/
def vamo (ibits op : Nat) (c : Bool) (p : PReg) (d : VReg) (a : SReg) (b : VReg) (ret : Bool) (s : State) : Out :=
  let sh := s.cur
  let t := sh.ety
  let g := sh.group
  let n := ebits t / 8
  let m := Mode.indexed b
  let dm := regMask d.val g
  let u : Uses := { c := c, load := true, store := true, rV := m.index sh ||| dm, wV := if ret then dm else 0,
                    index := m.index sh, sR := sMask a }
  run (member ibits u [unless2 (t == 0x02 || t == 0x03 || t == 0x06 || t == 0x07), groupBad sh d.val g, m.bad sh,
      unless2 (!ret || (dm &&& m.index sh) == 0)] [] (do
    let s ← get
    let sh := s.cur
    let cand := candidates sh c p
    let item (e : Nat) : Item :=
      let it := m.item sh (sh.reg a).toNat e
      { it with pois := it.pois || (sh.pbit p.val e && sh.elemPois d.val t e) }
    let (found, _) ← probe 2 6 false cand (m.hint sh) (probed sh cand p item)
    let s ← get
    let mine := (onlyActive sh p found).map fun x => match x.2 with
      | .good [(q, ph)] => if targetBad s ret n ph then (x.1, Probed.bad cPOISON (w64 q.va) 6) else x
      | _ => x
    let (_, reach) := strike false sh mine
    chain reach
    let serial := serialAccess false reach
    let data (e : Nat) : Nat := sh.elem d.val t e
    let far ← (if ret then askFar true serial true (.amo op) (partsOf (fun e => toBytes (data e) n) reach) else pure [])
    meetPoisoned far
    onCur fun sh => (strike false sh mine).1
    let reach ← stillBelow reach
    let f ← draw
    let k := perGroup t
    let order := (reach.map (·.1.e)).foldr (insertAtomic serial f k) []
    let accesses := order.flatMap fun e => reach.filter fun x => x.1.e == e
    if ret then
      let olds ← readAtomics op n data (accesses.flatMap fun x =>
        (x.2.filter fun q => q.2.remote.isNone).map fun q => (x.1.e, q.1, q.2)) []
      let old (e : Nat) : Nat :=
        match olds.find? fun o => o.e == e with
        | some o => o.v
        | none => ((far.find? fun y => y.e == e).map (·.v)).getD 0
      onCur fun sh => reach.foldl (fun sh x => sh.putElem d.val t x.1.e (old x.1.e) false) sh
      return { k := k, code := t, base := d.val, wrote := reach.map (·.1.e), reads := olds.map (·.read),
               buffer := olds.map (·.store), serial := serial }
    else
      return { k := k, code := t, base := d.val, serial := serial,
               buffer := accesses.flatMap fun x => bufferItem 4 (some op) true serial false x (data x.1.e) false })) s

/-! ## Scale bytes (R172) -/

/-- The scale bytes of an instruction: ⌊VSTART / 32⌋ to ⌈VL / 32⌉ − 1. -/
def Shuttle.scaleBytes (sh : Shuttle) : List Nat :=
  let lo := sh.vstart.toNat / 32
  (List.range (ceilDiv sh.vl.toNat 32 - lo)).map (lo + ·)
/-- REASON 5 for a scale register beyond the slice. -/
def scaleRegBad (sh : Shuttle) (k : EReg) : Option Nat := if sh.place.escl ≤ k.val then some 5 else none
/-- The access of scale byte j, which stands for element 32 j. -/
def scaleItem (a j : Nat) : Item := { e := 32 * j, i := j, pieces := whole (a + j) 1, pois := false }
/-- The hint of R339; the element of a scale byte is 32 times its number. -/
def scaleHint (sh : Shuttle) (e : Nat) : Hint :=
  let r := sh.srem.toNat - e
  if r = 0 then (0, 0) else (1, ceilDiv r 32)


/-- VLD (R178). -/
def execVld (c : Bool) (p : PReg) (d : VReg) (a : SReg) (n : Bool) (s : State) : Out :=
  vload (Bits.vld c p d a n) .unit false c p d a n s

/-- VLD_S (R178). -/
def execVldS (c : Bool) (p : PReg) (d : VReg) (a x : SReg) (n : Bool) (s : State) : Out :=
  vload (Bits.vldS c p d a x n) (.strided x) false c p d a n s

/-- VLD_X (R178). -/
def execVldX (c : Bool) (p : PReg) (d : VReg) (a : SReg) (x : VReg) (n : Bool) (s : State) : Out :=
  vload (Bits.vldX c p d a x n) (.indexed x) false c p d a n s

/-- VLD_FF (R180). -/
def execVldFf (c : Bool) (p : PReg) (d : VReg) (a : SReg) (n : Bool) (s : State) : Out :=
  vload (Bits.vldFf c p d a n) .unit true c p d a n s

/-- VLD_P (R181). -/
def execVldP (c : Bool) (p : PReg) (d : VReg) (a x : SReg) (n : Bool) (s : State) : Out :=
  vload (Bits.vldP c p d a x n) (.plane x) false c p d a n s

/-- VST (R179). -/
def execVst (c : Bool) (p : PReg) (d : VReg) (a : SReg) (n : Bool) (s : State) : Out :=
  vstore (Bits.vst c p d a n) .unit false c p d a n s

/-- VST_S (R179). -/
def execVstS (c : Bool) (p : PReg) (d : VReg) (a x : SReg) (n : Bool) (s : State) : Out :=
  vstore (Bits.vstS c p d a x n) (.strided x) false c p d a n s

/-- VST_X (R179). -/
def execVstX (c : Bool) (p : PReg) (d : VReg) (a : SReg) (x : VReg) (n : Bool) (s : State) : Out :=
  vstore (Bits.vstX c p d a x n) (.indexed x) false c p d a n s

/-- VST_XO (R179). -/
def execVstXo (c : Bool) (p : PReg) (d : VReg) (a : SReg) (x : VReg) (n : Bool) (s : State) : Out :=
  vstore (Bits.vstXo c p d a x n) (.indexed x) true c p d a n s

/-- VST_P (R181). -/
def execVstP (c : Bool) (p : PReg) (d : VReg) (a x : SReg) (n : Bool) (s : State) : Out :=
  vstore (Bits.vstP c p d a x n) (.plane x) false c p d a n s

/-- VAMO_SWAP (R192). -/
def execVamoSwap (c : Bool) (p : PReg) (d : VReg) (a : SReg) (b : VReg) (r : Bool) (s : State) : Out :=
  vamo (Bits.vamoSwap c p d a b r) 0 c p d a b r s

/-- VAMO_ADD (R192). -/
def execVamoAdd (c : Bool) (p : PReg) (d : VReg) (a : SReg) (b : VReg) (r : Bool) (s : State) : Out :=
  vamo (Bits.vamoAdd c p d a b r) 1 c p d a b r s

/-- VAMO_AND (R192). -/
def execVamoAnd (c : Bool) (p : PReg) (d : VReg) (a : SReg) (b : VReg) (r : Bool) (s : State) : Out :=
  vamo (Bits.vamoAnd c p d a b r) 2 c p d a b r s

/-- VAMO_OR (R192). -/
def execVamoOr (c : Bool) (p : PReg) (d : VReg) (a : SReg) (b : VReg) (r : Bool) (s : State) : Out :=
  vamo (Bits.vamoOr c p d a b r) 3 c p d a b r s

/-- VAMO_XOR (R192). -/
def execVamoXor (c : Bool) (p : PReg) (d : VReg) (a : SReg) (b : VReg) (r : Bool) (s : State) : Out :=
  vamo (Bits.vamoXor c p d a b r) 4 c p d a b r s

/-- VAMO_MIN (R192). -/
def execVamoMin (c : Bool) (p : PReg) (d : VReg) (a : SReg) (b : VReg) (r : Bool) (s : State) : Out :=
  vamo (Bits.vamoMin c p d a b r) 5 c p d a b r s

/-- VAMO_MAX (R192). -/
def execVamoMax (c : Bool) (p : PReg) (d : VReg) (a : SReg) (b : VReg) (r : Bool) (s : State) : Out :=
  vamo (Bits.vamoMax c p d a b r) 6 c p d a b r s

/-- VAMO_MINN (R192). -/
def execVamoMinn (c : Bool) (p : PReg) (d : VReg) (a : SReg) (b : VReg) (r : Bool) (s : State) : Out :=
  vamo (Bits.vamoMinn c p d a b r) 7 c p d a b r s

/-- VAMO_MAXN (R192). -/
def execVamoMaxn (c : Bool) (p : PReg) (d : VReg) (a : SReg) (b : VReg) (r : Bool) (s : State) : Out :=
  vamo (Bits.vamoMaxn c p d a b r) 8 c p d a b r s

/-- VSCL_LD (R172). -/
def execVsclLd (c : Bool) (k : EReg) (a : SReg) (s : State) : Out :=
  let sh := s.cur
  let u : Uses := { c := c, load := true, wE := 2 ^ k.val, sR := sMask a }
  run (member (Bits.vsclLd c k a) u [scaleRegBad sh k] [11] (do
    let s ← get
    let sh := s.cur
    let (found, trim) ← probe 0 2 false false (scaleHint sh) (sh.scaleBytes.map (scaleItem (sh.reg a).toNat))
    loadBody false false false { k := perGroup sh.ety, code := 0x04, base := k.val, per := 32 } found trim
      fun sh j v pois => sh.putScale k.val j v pois)) s

/-- VSCL_ST (R172). -/
def execVsclSt (c : Bool) (k : EReg) (a : SReg) (s : State) : Out :=
  let sh := s.cur
  let u : Uses := { c := c, store := true, rE := 2 ^ k.val, sR := sMask a }
  run (member (Bits.vsclSt c k a) u [scaleRegBad sh k] [11] (do
    let s ← get
    let sh := s.cur
    let (found, _) ← probe 1 2 false false (scaleHint sh) (sh.scaleBytes.map (scaleItem (sh.reg a).toNat))
    storeBody false false false { k := perGroup sh.ety } found
      fun sh j => (sh.scaleByte k.val j, sh.scalePois k.val j))) s

end Sys2Proof.Machine
end

