-- ==== Sys2Proof/Machine/VQ.lean ====
section
/-!
DEFINITION. Sys2Proof/Machine/VQ.lean: narrow-family arithmetic (R213, R214) and VSCL.FIT and VSCL.MOV (R172, R173).
-/
namespace Sys2Proof.Machine

/-- The value of a Q element. -/
def qVal (sh : Shuttle) (n e : Nat) : Int :=
  let x := sh.elem n sh.ety e
  if sh.ety = 0x10 then (if x % 2 = 1 then 1 else -1) else sext x (ebits sh.ety)

/-- VQADD to VQMAC and VQSHR (R213): `f` gives r from x, y and the old element with a flag, and QFit encodes it. -/
def vq (ibits : Nat) (acc : Bool) (f : Shuttle → Nat → Int × Nat) (c : Bool) (p : PReg) (d a b : VReg) (s : State) : Out :=
  let sh := s.cur
  let g := sh.group
  let dm := regMask d.val g
  let u : Uses := { c := c, rV := regMask a.val g ||| regMask b.val g ||| (if acc then dm else 0), wV := dm }
  run (member ibits u [typeBad sh isQ, groupBad sh d.val g, groupBad sh a.val g, groupBad sh b.val g] [10]
    (writeElems d.val sh.ety (perGroup sh.ety) (fun sh => sh.active p.val) fun sh e =>
      let t := sh.ety
      let r := f sh e
      let q := qfit t sh.sat r.1
      (q.1, q.2 ||| r.2, sh.elemPois a.val t e || sh.elemPois b.val t e || (acc && sh.elemPois d.val t e)))) s


/-- VQADD (R213). -/
def execVqadd (c : Bool) (p : PReg) (d a b : VReg) (s : State) : Out :=
  vq (Bits.vqadd c p d a b) false (fun sh e => (qVal sh a.val e + qVal sh b.val e, 0)) c p d a b s

/-- VQSUB (R213). -/
def execVqsub (c : Bool) (p : PReg) (d a b : VReg) (s : State) : Out :=
  vq (Bits.vqsub c p d a b) false (fun sh e => (qVal sh a.val e - qVal sh b.val e, 0)) c p d a b s

/-- VQMUL (R213). -/
def execVqmul (c : Bool) (p : PReg) (d a b : VReg) (s : State) : Out :=
  vq (Bits.vqmul c p d a b) false (fun sh e => (qVal sh a.val e * qVal sh b.val e, 0)) c p d a b s

/-- VQMAC (R213). -/
def execVqmac (c : Bool) (p : PReg) (d a b : VReg) (s : State) : Out :=
  vq (Bits.vqmac c p d a b) true (fun sh e => (qVal sh d.val e + qVal sh a.val e * qVal sh b.val e, 0)) c p d a b s

/-- VQSHR (R213). -/
def execVqshr (c : Bool) (p : PReg) (d a b : VReg) (s : State) : Out :=
  vq (Bits.vqshr c p d a b) false (fun sh e =>
    let y := qVal sh b.val e
    let r := roundInt sh.rm (decide (y < 0)) y.natAbs (2 ^ sh.elem a.val sh.ety e)
    (r.1, if r.2 then fNX else 0)) c p d a b s

/-- The sum of block j of VQDOT, and whether it depends on poison. -/
def dotBlock (sh : Shuttle) (p : PReg) (a b : VReg) (j : Nat) : Int × Bool :=
  let es := ((List.range 32).map (32 * j + ·)).filter fun e => decide (e < sh.vl.toNat) && sh.pbit p.val e
  es.foldl (fun (acc : Int × Bool) e =>
    (acc.1 + qVal sh a.val e * qVal sh b.val e,
      acc.2 || sh.elemPois a.val sh.ety e || sh.elemPois b.val sh.ety e)) (0, false)

/-- VQDOT (R214). -/
def execVqdot (c : Bool) (p : PReg) (d a b : VReg) (s : State) : Out :=
  let sh := s.cur
  let g := sh.group
  let rV := regMask a.val g ||| regMask b.val g
  let u : Uses := { c := c, rV := rV, wV := regMask d.val 1 }
  run (member (Bits.vqdot c p d a b) u [typeBad sh isQ, groupBad sh d.val 1, groupBad sh a.val g, groupBad sh b.val g,
      unless2 ((rV &&& regMask d.val 1) == 0)] [10] (do
    let s ← get
    let sh := s.cur
    let lo := ceilDiv sh.vstart.toNat 32
    let lim := (sh.convoy.fault.map (·.elem)).getD (2 ^ 64)
    let js := ((List.range (ceilDiv sh.vl.toNat 32 - lo)).map (lo + ·)).filter fun j => decide (32 * j < lim)
    let (y, fls) := js.foldl (fun (y : Shuttle × List (Nat × Nat)) j =>
      let r := dotBlock sh p a b j
      let v := narrow 0x02 sh.sat r.1
      let x := y.1.putElem d.val 0x02 j v.1 r.2
      if r.2 then (x, y.2) else (x.raiseV v.2, (32 * j, v.2) :: y.2)) (sh, [])
    onCur fun _ => y
    return { k := perGroup sh.ety, code := 0x02, base := d.val, per := 32, wrote := js, flags := fls })) s

/-! ## Scale bytes -/

/-- emax(d) of R173. -/
def emaxOf (t : Nat) : Int :=
  if t = 0x08 then 8 else if t = 0x09 then 15 else if t = 0x0A then 2 else if t = 0x00 then 6
  else if t = 0x10 then 0 else (ebits t : Int) - 2
/-- Fit(j) (R173): the scale byte and whether it depends on poison. -/
def fitByte (sh : Shuttle) (p : PReg) (b : VReg) (j : Nat) : Nat × Bool :=
  let es := ((List.range 32).map (32 * j + ·)).filter fun e => decide (e < sh.vl.toNat) && sh.pbit p.val e
  let xs := es.map fun e => fdecode cF32 (sh.elem b.val cF32 e)
  let pz := es.any fun e => sh.elemPois b.val cF32 e
  let special := xs.any fun x => match x with
    | .num .. => false
    | _ => true
  let logs := xs.filterMap fun x => match x with
    | .num _ n d => if n = 0 then none else some (floorLog2 n d)
    | _ => none
  let v := if special then 0xFF
    else match logs with
      | [] => 127
      | l :: ls => (max 0 (min 254 (ls.foldl max l - emaxOf sh.ety + 127))).toNat
  (v, pz)

/-- The checks of the source group of VSCL.FIT, whose size has no bound of its own (R173). -/
def wideBad (sh : Shuttle) (n g : Nat) : Option Nat :=
  if n % g ≠ 0 then some 2 else if sh.place.vregs < n + g then some 5 else none

/-- VSCL_FIT (R173). -/
def execVsclFit (c : Bool) (p : PReg) (k : EReg) (b : VReg) (s : State) : Out :=
  let sh := s.cur
  let g := grpOf sh.vlen cF32 sh.vlmax
  let u : Uses := { c := c, cross := true, rV := regMask b.val g, wE := 2 ^ k.val }
  run (member (Bits.vsclFit c p k b) u [unless2 (scalable sh.ety), scaleRegBad sh k, wideBad sh b.val g] [11] (do
    let s ← get
    let sh := s.cur
    let js := List.range (ceilDiv sh.vl.toNat 32)
    onCur fun y => js.foldl (fun y j =>
      let r := fitByte sh p b j
      y.putScale k.val j r.1 r.2) y
    return { k := perGroup sh.ety, code := 0x04, base := k.val, per := 32, wrote := js })) s

/-- VSCL_MOV (R172). -/
def execVsclMov (c : Bool) (k j : EReg) (s : State) : Out :=
  let sh := s.cur
  let u : Uses := { c := c, rE := 2 ^ j.val, wE := 2 ^ k.val }
  run (member (Bits.vsclMov c k j) u [scaleRegBad sh k, scaleRegBad sh j] [11] (do
    let s ← get
    let sh := s.cur
    let lim := (sh.convoy.fault.map (·.elem)).getD (2 ^ 64)
    let is := sh.scaleBytes.filter fun i => decide (32 * i < lim)
    onCur fun y => is.foldl (fun y i => y.putScale k.val i (sh.scaleByte j.val i) (sh.scalePois j.val i)) y
    return { k := perGroup sh.ety, code := 0x04, base := k.val, per := 32, wrote := is })) s

end Sys2Proof.Machine
end

