-- ==== Sys2Proof/Machine/Dispatch.lean ====
section
/-!
DEFINITION. Sys2Proof/Machine/Dispatch.lean: one arm per instruction and per event, each a call of its meaning.
-/
namespace Sys2Proof.Machine

def exec (i : Instr) (s : State) : Host.Outcome State Fault Refusal :=
  match i with
  | .add d a b => Sys2Proof.Machine.execAdd d a b s
  | .sub d a b => Sys2Proof.Machine.execSub d a b s
  | .and d a b => Sys2Proof.Machine.execAnd d a b s
  | .or d a b => Sys2Proof.Machine.execOr d a b s
  | .xor d a b => Sys2Proof.Machine.execXor d a b s
  | .andn d a b => Sys2Proof.Machine.execAndn d a b s
  | .orn d a b => Sys2Proof.Machine.execOrn d a b s
  | .shl d a b => Sys2Proof.Machine.execShl d a b s
  | .shr d a b => Sys2Proof.Machine.execShr d a b s
  | .sar d a b => Sys2Proof.Machine.execSar d a b s
  | .rol d a b => Sys2Proof.Machine.execRol d a b s
  | .ror d a b => Sys2Proof.Machine.execRor d a b s
  | .slt d a b => Sys2Proof.Machine.execSlt d a b s
  | .sltn d a b => Sys2Proof.Machine.execSltn d a b s
  | .min d a b => Sys2Proof.Machine.execMin d a b s
  | .max d a b => Sys2Proof.Machine.execMax d a b s
  | .minn d a b => Sys2Proof.Machine.execMinn d a b s
  | .maxn d a b => Sys2Proof.Machine.execMaxn d a b s
  | .mul d a b => Sys2Proof.Machine.execMul d a b s
  | .mulh d a b => Sys2Proof.Machine.execMulh d a b s
  | .mulhn d a b => Sys2Proof.Machine.execMulhn d a b s
  | .div d a b => Sys2Proof.Machine.execDiv d a b s
  | .divn d a b => Sys2Proof.Machine.execDivn d a b s
  | .rem d a b => Sys2Proof.Machine.execRem d a b s
  | .remn d a b => Sys2Proof.Machine.execRemn d a b s
  | .clz d a => Sys2Proof.Machine.execClz d a s
  | .ctz d a => Sys2Proof.Machine.execCtz d a s
  | .popc d a => Sys2Proof.Machine.execPopc d a s
  | .sext d a b => Sys2Proof.Machine.execSext d a b s
  | .addi d a im => Sys2Proof.Machine.execAddi d a im s
  | .andi d a im => Sys2Proof.Machine.execAndi d a im s
  | .ori d a im => Sys2Proof.Machine.execOri d a im s
  | .xori d a im => Sys2Proof.Machine.execXori d a im s
  | .shli d a n => Sys2Proof.Machine.execShli d a n s
  | .shri d a n => Sys2Proof.Machine.execShri d a n s
  | .sari d a n => Sys2Proof.Machine.execSari d a n s
  | .slti d a im => Sys2Proof.Machine.execSlti d a im s
  | .sltni d a im => Sys2Proof.Machine.execSltni d a im s
  | .lui d im => Sys2Proof.Machine.execLui d im s
  | .adpc d im => Sys2Proof.Machine.execAdpc d im s
  | .bext d a p l => Sys2Proof.Machine.execBext d a p l s
  | .bextS d a p l => Sys2Proof.Machine.execBextS d a p l s
  | .bins d a p l => Sys2Proof.Machine.execBins d a p l s
  | .ld d a w o => Sys2Proof.Machine.execLd d a w o s
  | .st s_ a w o => Sys2Proof.Machine.execSt s_ a w o s
  | .lda d a w o => Sys2Proof.Machine.execLda d a w o s
  | .stl s_ a w o => Sys2Proof.Machine.execStl s_ a w o s
  | .beq a b o => Sys2Proof.Machine.execBeq a b o s
  | .bne a b o => Sys2Proof.Machine.execBne a b o s
  | .blt a b o => Sys2Proof.Machine.execBlt a b o s
  | .bge a b o => Sys2Proof.Machine.execBge a b o s
  | .bltn a b o => Sys2Proof.Machine.execBltn a b o s
  | .bgen a b o => Sys2Proof.Machine.execBgen a b o s
  | .jmp o => Sys2Proof.Machine.execJmp o s
  | .call o => Sys2Proof.Machine.execCall o s
  | .jr a => Sys2Proof.Machine.execJr a s
  | .callr d a => Sys2Proof.Machine.execCallr d a s
  | .amoSwap d a b o z => Sys2Proof.Machine.execAmoSwap d a b o z s
  | .amoAdd d a b o z => Sys2Proof.Machine.execAmoAdd d a b o z s
  | .amoAnd d a b o z => Sys2Proof.Machine.execAmoAnd d a b o z s
  | .amoOr d a b o z => Sys2Proof.Machine.execAmoOr d a b o z s
  | .amoXor d a b o z => Sys2Proof.Machine.execAmoXor d a b o z s
  | .amoMin d a b o z => Sys2Proof.Machine.execAmoMin d a b o z s
  | .amoMax d a b o z => Sys2Proof.Machine.execAmoMax d a b o z s
  | .amoMinn d a b o z => Sys2Proof.Machine.execAmoMinn d a b o z s
  | .amoMaxn d a b o z => Sys2Proof.Machine.execAmoMaxn d a b o z s
  | .cas d a b c o z => Sys2Proof.Machine.execCas d a b c o z s
  | .fence s_ k => Sys2Proof.Machine.execFence s_ k s
  | .trap a => Sys2Proof.Machine.execTrap a s
  | .rett => Sys2Proof.Machine.execRett s
  | .ckpt d => Sys2Proof.Machine.execCkpt d s
  | .exit => Sys2Proof.Machine.execExit s
  | .yield => Sys2Proof.Machine.execYield s
  | .sloop a => Sys2Proof.Machine.execSloop a s
  | .crr d r => Sys2Proof.Machine.execCrr d r s
  | .crw d a r => Sys2Proof.Machine.execCrw d a r s
  | .crs d a r => Sys2Proof.Machine.execCrs d a r s
  | .crc d a r => Sys2Proof.Machine.execCrc d a r s
  | .snext o => Sys2Proof.Machine.execSnext o s
  | .launch d a => Sys2Proof.Machine.execLaunch d a s
  | .launchLend d a => Sys2Proof.Machine.execLaunchLend d a s
  | .fadd d a b t => Sys2Proof.Machine.execFadd d a b t s
  | .fsub d a b t => Sys2Proof.Machine.execFsub d a b t s
  | .fmul d a b t => Sys2Proof.Machine.execFmul d a b t s
  | .fdiv d a b t => Sys2Proof.Machine.execFdiv d a b t s
  | .fsqrt d a t => Sys2Proof.Machine.execFsqrt d a t s
  | .fmin d a b t => Sys2Proof.Machine.execFmin d a b t s
  | .fmax d a b t => Sys2Proof.Machine.execFmax d a b t s
  | .fcmpEq d a b t => Sys2Proof.Machine.execFcmpEq d a b t s
  | .fcmpLt d a b t => Sys2Proof.Machine.execFcmpLt d a b t s
  | .fcmpLe d a b t => Sys2Proof.Machine.execFcmpLe d a b t s
  | .fclass d a t => Sys2Proof.Machine.execFclass d a t s
  | .fcvtF d a t => Sys2Proof.Machine.execFcvtF d a t s
  | .fcvtI64 d a t => Sys2Proof.Machine.execFcvtI64 d a t s
  | .fcvtN64 d a t => Sys2Proof.Machine.execFcvtN64 d a t s
  | .fcvtFi d a t => Sys2Proof.Machine.execFcvtFi d a t s
  | .fcvtFn d a t => Sys2Proof.Machine.execFcvtFn d a t s
  | .fma d a b c t => Sys2Proof.Machine.execFma d a b c t s
  | .fms d a b c t => Sys2Proof.Machine.execFms d a b c t s
  | .fnma d a b c t => Sys2Proof.Machine.execFnma d a b c t s
  | .fnms d a b c t => Sys2Proof.Machine.execFnms d a b c t s
  | .vsetl d a im => Sys2Proof.Machine.execVsetl d a im s
  | .vld c p d a n => Sys2Proof.Machine.execVld c p d a n s
  | .vldS c p d a x n => Sys2Proof.Machine.execVldS c p d a x n s
  | .vldX c p d a x n => Sys2Proof.Machine.execVldX c p d a x n s
  | .vldFf c p d a n => Sys2Proof.Machine.execVldFf c p d a n s
  | .vldP c p d a x n => Sys2Proof.Machine.execVldP c p d a x n s
  | .vst c p d a n => Sys2Proof.Machine.execVst c p d a n s
  | .vstS c p d a x n => Sys2Proof.Machine.execVstS c p d a x n s
  | .vstX c p d a x n => Sys2Proof.Machine.execVstX c p d a x n s
  | .vstXo c p d a x n => Sys2Proof.Machine.execVstXo c p d a x n s
  | .vstP c p d a x n => Sys2Proof.Machine.execVstP c p d a x n s
  | .vamoSwap c p d a b r => Sys2Proof.Machine.execVamoSwap c p d a b r s
  | .vamoAdd c p d a b r => Sys2Proof.Machine.execVamoAdd c p d a b r s
  | .vamoAnd c p d a b r => Sys2Proof.Machine.execVamoAnd c p d a b r s
  | .vamoOr c p d a b r => Sys2Proof.Machine.execVamoOr c p d a b r s
  | .vamoXor c p d a b r => Sys2Proof.Machine.execVamoXor c p d a b r s
  | .vamoMin c p d a b r => Sys2Proof.Machine.execVamoMin c p d a b r s
  | .vamoMax c p d a b r => Sys2Proof.Machine.execVamoMax c p d a b r s
  | .vamoMinn c p d a b r => Sys2Proof.Machine.execVamoMinn c p d a b r s
  | .vamoMaxn c p d a b r => Sys2Proof.Machine.execVamoMaxn c p d a b r s
  | .vaddVv c p d a b => Sys2Proof.Machine.execVaddVv c p d a b s
  | .vaddVx c p d a b => Sys2Proof.Machine.execVaddVx c p d a b s
  | .vaddVi c p d im b => Sys2Proof.Machine.execVaddVi c p d im b s
  | .vsubVv c p d a b => Sys2Proof.Machine.execVsubVv c p d a b s
  | .vsubVx c p d a b => Sys2Proof.Machine.execVsubVx c p d a b s
  | .vsubVi c p d im b => Sys2Proof.Machine.execVsubVi c p d im b s
  | .vrsubVv c p d a b => Sys2Proof.Machine.execVrsubVv c p d a b s
  | .vrsubVx c p d a b => Sys2Proof.Machine.execVrsubVx c p d a b s
  | .vrsubVi c p d im b => Sys2Proof.Machine.execVrsubVi c p d im b s
  | .vmulVv c p d a b => Sys2Proof.Machine.execVmulVv c p d a b s
  | .vmulVx c p d a b => Sys2Proof.Machine.execVmulVx c p d a b s
  | .vmulVi c p d im b => Sys2Proof.Machine.execVmulVi c p d im b s
  | .vmulhVv c p d a b => Sys2Proof.Machine.execVmulhVv c p d a b s
  | .vmulhVx c p d a b => Sys2Proof.Machine.execVmulhVx c p d a b s
  | .vmulhVi c p d im b => Sys2Proof.Machine.execVmulhVi c p d im b s
  | .vmulhnVv c p d a b => Sys2Proof.Machine.execVmulhnVv c p d a b s
  | .vmulhnVx c p d a b => Sys2Proof.Machine.execVmulhnVx c p d a b s
  | .vmulhnVi c p d im b => Sys2Proof.Machine.execVmulhnVi c p d im b s
  | .vmaddVv c p d a b => Sys2Proof.Machine.execVmaddVv c p d a b s
  | .vmaddVx c p d a b => Sys2Proof.Machine.execVmaddVx c p d a b s
  | .vmaddVi c p d im b => Sys2Proof.Machine.execVmaddVi c p d im b s
  | .vdivVv c p d a b => Sys2Proof.Machine.execVdivVv c p d a b s
  | .vdivVx c p d a b => Sys2Proof.Machine.execVdivVx c p d a b s
  | .vdivVi c p d im b => Sys2Proof.Machine.execVdivVi c p d im b s
  | .vdivnVv c p d a b => Sys2Proof.Machine.execVdivnVv c p d a b s
  | .vdivnVx c p d a b => Sys2Proof.Machine.execVdivnVx c p d a b s
  | .vdivnVi c p d im b => Sys2Proof.Machine.execVdivnVi c p d im b s
  | .vremVv c p d a b => Sys2Proof.Machine.execVremVv c p d a b s
  | .vremVx c p d a b => Sys2Proof.Machine.execVremVx c p d a b s
  | .vremVi c p d im b => Sys2Proof.Machine.execVremVi c p d im b s
  | .vremnVv c p d a b => Sys2Proof.Machine.execVremnVv c p d a b s
  | .vremnVx c p d a b => Sys2Proof.Machine.execVremnVx c p d a b s
  | .vremnVi c p d im b => Sys2Proof.Machine.execVremnVi c p d im b s
  | .vandVv c p d a b => Sys2Proof.Machine.execVandVv c p d a b s
  | .vandVx c p d a b => Sys2Proof.Machine.execVandVx c p d a b s
  | .vandVi c p d im b => Sys2Proof.Machine.execVandVi c p d im b s
  | .vorVv c p d a b => Sys2Proof.Machine.execVorVv c p d a b s
  | .vorVx c p d a b => Sys2Proof.Machine.execVorVx c p d a b s
  | .vorVi c p d im b => Sys2Proof.Machine.execVorVi c p d im b s
  | .vxorVv c p d a b => Sys2Proof.Machine.execVxorVv c p d a b s
  | .vxorVx c p d a b => Sys2Proof.Machine.execVxorVx c p d a b s
  | .vxorVi c p d im b => Sys2Proof.Machine.execVxorVi c p d im b s
  | .vshlVv c p d a b => Sys2Proof.Machine.execVshlVv c p d a b s
  | .vshlVx c p d a b => Sys2Proof.Machine.execVshlVx c p d a b s
  | .vshlVi c p d im b => Sys2Proof.Machine.execVshlVi c p d im b s
  | .vshrVv c p d a b => Sys2Proof.Machine.execVshrVv c p d a b s
  | .vshrVx c p d a b => Sys2Proof.Machine.execVshrVx c p d a b s
  | .vshrVi c p d im b => Sys2Proof.Machine.execVshrVi c p d im b s
  | .vsarVv c p d a b => Sys2Proof.Machine.execVsarVv c p d a b s
  | .vsarVx c p d a b => Sys2Proof.Machine.execVsarVx c p d a b s
  | .vsarVi c p d im b => Sys2Proof.Machine.execVsarVi c p d im b s
  | .vminVv c p d a b => Sys2Proof.Machine.execVminVv c p d a b s
  | .vminVx c p d a b => Sys2Proof.Machine.execVminVx c p d a b s
  | .vminVi c p d im b => Sys2Proof.Machine.execVminVi c p d im b s
  | .vmaxVv c p d a b => Sys2Proof.Machine.execVmaxVv c p d a b s
  | .vmaxVx c p d a b => Sys2Proof.Machine.execVmaxVx c p d a b s
  | .vmaxVi c p d im b => Sys2Proof.Machine.execVmaxVi c p d im b s
  | .vminnVv c p d a b => Sys2Proof.Machine.execVminnVv c p d a b s
  | .vminnVx c p d a b => Sys2Proof.Machine.execVminnVx c p d a b s
  | .vminnVi c p d im b => Sys2Proof.Machine.execVminnVi c p d im b s
  | .vmaxnVv c p d a b => Sys2Proof.Machine.execVmaxnVv c p d a b s
  | .vmaxnVx c p d a b => Sys2Proof.Machine.execVmaxnVx c p d a b s
  | .vmaxnVi c p d im b => Sys2Proof.Machine.execVmaxnVi c p d im b s
  | .vsaddVv c p d a b => Sys2Proof.Machine.execVsaddVv c p d a b s
  | .vsaddVx c p d a b => Sys2Proof.Machine.execVsaddVx c p d a b s
  | .vsaddVi c p d im b => Sys2Proof.Machine.execVsaddVi c p d im b s
  | .vssubVv c p d a b => Sys2Proof.Machine.execVssubVv c p d a b s
  | .vssubVx c p d a b => Sys2Proof.Machine.execVssubVx c p d a b s
  | .vssubVi c p d im b => Sys2Proof.Machine.execVssubVi c p d im b s
  | .vsaddnVv c p d a b => Sys2Proof.Machine.execVsaddnVv c p d a b s
  | .vsaddnVx c p d a b => Sys2Proof.Machine.execVsaddnVx c p d a b s
  | .vsaddnVi c p d im b => Sys2Proof.Machine.execVsaddnVi c p d im b s
  | .vssubnVv c p d a b => Sys2Proof.Machine.execVssubnVv c p d a b s
  | .vssubnVx c p d a b => Sys2Proof.Machine.execVssubnVx c p d a b s
  | .vssubnVi c p d im b => Sys2Proof.Machine.execVssubnVi c p d im b s
  | .vabsdVv c p d a b => Sys2Proof.Machine.execVabsdVv c p d a b s
  | .vabsdVx c p d a b => Sys2Proof.Machine.execVabsdVx c p d a b s
  | .vabsdVi c p d im b => Sys2Proof.Machine.execVabsdVi c p d im b s
  | .vmergeVv c p d a b => Sys2Proof.Machine.execVmergeVv c p d a b s
  | .vmergeVx c p d a b => Sys2Proof.Machine.execVmergeVx c p d a b s
  | .vmergeVi c p d im b => Sys2Proof.Machine.execVmergeVi c p d im b s
  | .vmovVv c p d a => Sys2Proof.Machine.execVmovVv c p d a s
  | .vmovVx c p d a => Sys2Proof.Machine.execVmovVx c p d a s
  | .vmovVi c p d im => Sys2Proof.Machine.execVmovVi c p d im s
  | .vfaddVv c p d a b => Sys2Proof.Machine.execVfaddVv c p d a b s
  | .vfaddVx c p d a b => Sys2Proof.Machine.execVfaddVx c p d a b s
  | .vfsubVv c p d a b => Sys2Proof.Machine.execVfsubVv c p d a b s
  | .vfsubVx c p d a b => Sys2Proof.Machine.execVfsubVx c p d a b s
  | .vfmulVv c p d a b => Sys2Proof.Machine.execVfmulVv c p d a b s
  | .vfmulVx c p d a b => Sys2Proof.Machine.execVfmulVx c p d a b s
  | .vfdivVv c p d a b => Sys2Proof.Machine.execVfdivVv c p d a b s
  | .vfdivVx c p d a b => Sys2Proof.Machine.execVfdivVx c p d a b s
  | .vfsqrt c p d b => Sys2Proof.Machine.execVfsqrt c p d b s
  | .vfmaVv c p d a b => Sys2Proof.Machine.execVfmaVv c p d a b s
  | .vfmaVx c p d a b => Sys2Proof.Machine.execVfmaVx c p d a b s
  | .vfmsVv c p d a b => Sys2Proof.Machine.execVfmsVv c p d a b s
  | .vfmsVx c p d a b => Sys2Proof.Machine.execVfmsVx c p d a b s
  | .vfnmaVv c p d a b => Sys2Proof.Machine.execVfnmaVv c p d a b s
  | .vfnmaVx c p d a b => Sys2Proof.Machine.execVfnmaVx c p d a b s
  | .vfminVv c p d a b => Sys2Proof.Machine.execVfminVv c p d a b s
  | .vfminVx c p d a b => Sys2Proof.Machine.execVfminVx c p d a b s
  | .vfmaxVv c p d a b => Sys2Proof.Machine.execVfmaxVv c p d a b s
  | .vfmaxVx c p d a b => Sys2Proof.Machine.execVfmaxVx c p d a b s
  | .vfabs c p d b => Sys2Proof.Machine.execVfabs c p d b s
  | .vfneg c p d b => Sys2Proof.Machine.execVfneg c p d b s
  | .vfrcp c p d b => Sys2Proof.Machine.execVfrcp c p d b s
  | .vfrsq c p d b => Sys2Proof.Machine.execVfrsq c p d b s
  | .vfexp2 c p d b => Sys2Proof.Machine.execVfexp2 c p d b s
  | .vflog2 c p d b => Sys2Proof.Machine.execVflog2 c p d b s
  | .vfclass c p d b => Sys2Proof.Machine.execVfclass c p d b s
  | .vcmpEq c p s_ q a b n => Sys2Proof.Machine.execVcmpEq c p s_ q a b n s
  | .vcmpNe c p s_ q a b n => Sys2Proof.Machine.execVcmpNe c p s_ q a b n s
  | .vcmpLt c p s_ q a b n => Sys2Proof.Machine.execVcmpLt c p s_ q a b n s
  | .vcmpLe c p s_ q a b n => Sys2Proof.Machine.execVcmpLe c p s_ q a b n s
  | .vcmpGt c p s_ q a b n => Sys2Proof.Machine.execVcmpGt c p s_ q a b n s
  | .vcmpGe c p s_ q a b n => Sys2Proof.Machine.execVcmpGe c p s_ q a b n s
  | .vcmpxEq c p s_ q a b n => Sys2Proof.Machine.execVcmpxEq c p s_ q a b n s
  | .vcmpxNe c p s_ q a b n => Sys2Proof.Machine.execVcmpxNe c p s_ q a b n s
  | .vcmpxLt c p s_ q a b n => Sys2Proof.Machine.execVcmpxLt c p s_ q a b n s
  | .vcmpxLe c p s_ q a b n => Sys2Proof.Machine.execVcmpxLe c p s_ q a b n s
  | .vcmpxGt c p s_ q a b n => Sys2Proof.Machine.execVcmpxGt c p s_ q a b n s
  | .vcmpxGe c p s_ q a b n => Sys2Proof.Machine.execVcmpxGe c p s_ q a b n s
  | .pand c p d a b => Sys2Proof.Machine.execPand c p d a b s
  | .por c p d a b => Sys2Proof.Machine.execPor c p d a b s
  | .pxor c p d a b => Sys2Proof.Machine.execPxor c p d a b s
  | .pandn c p d a b => Sys2Proof.Machine.execPandn c p d a b s
  | .pnot c p d b => Sys2Proof.Machine.execPnot c p d b s
  | .pmov c p d b => Sys2Proof.Machine.execPmov c p d b s
  | .pset c p d => Sys2Proof.Machine.execPset c p d s
  | .psbf c p d b => Sys2Proof.Machine.execPsbf c p d b s
  | .psif c p d b => Sys2Proof.Machine.execPsif c p d b s
  | .psof c p d b => Sys2Proof.Machine.execPsof c p d b s
  | .ppopc c p d b => Sys2Proof.Machine.execPpopc c p d b s
  | .pfirst c p d b => Sys2Proof.Machine.execPfirst c p d b s
  | .vrsum c p d a b => Sys2Proof.Machine.execVrsum c p d a b s
  | .vrsumO c p d a b => Sys2Proof.Machine.execVrsumO c p d a b s
  | .vrmax c p d a b => Sys2Proof.Machine.execVrmax c p d a b s
  | .vrmin c p d a b => Sys2Proof.Machine.execVrmin c p d a b s
  | .vrmaxn c p d a b => Sys2Proof.Machine.execVrmaxn c p d a b s
  | .vrminn c p d a b => Sys2Proof.Machine.execVrminn c p d a b s
  | .vrand c p d a b => Sys2Proof.Machine.execVrand c p d a b s
  | .vror c p d a b => Sys2Proof.Machine.execVror c p d a b s
  | .vrxor c p d a b => Sys2Proof.Machine.execVrxor c p d a b s
  | .vslup c p d a b => Sys2Proof.Machine.execVslup c p d a b s
  | .vsldn c p d a b => Sys2Proof.Machine.execVsldn c p d a b s
  | .vperm c p d a b => Sys2Proof.Machine.execVperm c p d a b s
  | .vcomp c p d b => Sys2Proof.Machine.execVcomp c p d b s
  | .vxpnd c p d b => Sys2Proof.Machine.execVxpnd c p d b s
  | .vmvs c d a b => Sys2Proof.Machine.execVmvs c d a b s
  | .vmvv c d a b => Sys2Proof.Machine.execVmvv c d a b s
  | .viota c p d => Sys2Proof.Machine.execViota c p d s
  | .vscan c p d a b => Sys2Proof.Machine.execVscan c p d a b s
  | .vcvt c p d t b o q g r => Sys2Proof.Machine.execVcvt c p d t b o q g r s
  | .vqadd c p d a b => Sys2Proof.Machine.execVqadd c p d a b s
  | .vqsub c p d a b => Sys2Proof.Machine.execVqsub c p d a b s
  | .vqmul c p d a b => Sys2Proof.Machine.execVqmul c p d a b s
  | .vqmac c p d a b => Sys2Proof.Machine.execVqmac c p d a b s
  | .vqdot c p d a b => Sys2Proof.Machine.execVqdot c p d a b s
  | .vqshr c p d a b => Sys2Proof.Machine.execVqshr c p d a b s
  | .vsclLd c k a => Sys2Proof.Machine.execVsclLd c k a s
  | .vsclSt c k a => Sys2Proof.Machine.execVsclSt c k a s
  | .vsclFit c p k b => Sys2Proof.Machine.execVsclFit c p k b s
  | .vsclMov c k j => Sys2Proof.Machine.execVsclMov c k j s
  | .vsett d a b => Sys2Proof.Machine.execVsett d a b s
  | .vsetb d n b => Sys2Proof.Machine.execVsetb d n b s
  | .vctxSv a => Sys2Proof.Machine.execVctxSv a s
  | .vctxRs a => Sys2Proof.Machine.execVctxRs a s
  | .matAtt d a => Sys2Proof.Machine.execMatAtt d a s
  | .matDet => Sys2Proof.Machine.execMatDet s
  | .matShp d a => Sys2Proof.Machine.execMatShp d a s
  | .cpyMs n a b c => Sys2Proof.Machine.execCpyMs n a b c s
  | .cpySm n a b c => Sys2Proof.Machine.execCpySm n a b c s
  | .cpyMr n a b c => Sys2Proof.Machine.execCpyMr n a b c s
  | .cpyRm n a b c => Sys2Proof.Machine.execCpyRm n a b c s
  | .cpyRr n a b c => Sys2Proof.Machine.execCpyRr n a b c s
  | .cpyMm n a b c => Sys2Proof.Machine.execCpyMm n a b c s
  | .cpyGs n a b c => Sys2Proof.Machine.execCpyGs n a b c s
  | .cpyLz n a b c => Sys2Proof.Machine.execCpyLz n a b c s
  | .bwait n => Sys2Proof.Machine.execBwait n s
  | .bchk d n b => Sys2Proof.Machine.execBchk d n b s
  | .brel n => Sys2Proof.Machine.execBrel n s
  | .bstat d n b => Sys2Proof.Machine.execBstat d n b s
  | .lzOpen d a b => Sys2Proof.Machine.execLzOpen d a b s
  | .lzClose a => Sys2Proof.Machine.execLzClose a s
  | .lzResv d a b => Sys2Proof.Machine.execLzResv d a b s
  | .lzWait d a => Sys2Proof.Machine.execLzWait d a s
  | .lzFree a => Sys2Proof.Machine.execLzFree a s
  | .lzStat d a => Sys2Proof.Machine.execLzStat d a s
  | .ctrAdd d a b => Sys2Proof.Machine.execCtrAdd d a b s
  | .ctrRd d a => Sys2Proof.Machine.execCtrRd d a s
  | .ctrSet d a b => Sys2Proof.Machine.execCtrSet d a b s
  | .ctrWait a b => Sys2Proof.Machine.execCtrWait a b s
  | .trdlArm d a b => Sys2Proof.Machine.execTrdlArm d a b s
  | .trdlX d a => Sys2Proof.Machine.execTrdlX d a s
  | .trdlStat d a => Sys2Proof.Machine.execTrdlStat d a s
  | .eqPop d b => Sys2Proof.Machine.execEqPop d b s
  | .eqCnt d b => Sys2Proof.Machine.execEqCnt d b s
  | .fabQuiet d => Sys2Proof.Machine.execFabQuiet d s
  | .ownSet d a => Sys2Proof.Machine.execOwnSet d a s
  | .harmRd d a b => Sys2Proof.Machine.execHarmRd d a b s
  | .dmxRd d a b => Sys2Proof.Machine.execDmxRd d a b s
  | .dmxAgg d a b => Sys2Proof.Machine.execDmxAgg d a b s
  | .eneRd d a b => Sys2Proof.Machine.execEneRd d a b s
  | .mop p tl va vb aty bty sc ea eb => Sys2Proof.Machine.execMop p tl va vb aty bty sc ea eb s
  | .mops p tl va vb aty bty => Sys2Proof.Machine.execMops p tl va vb aty bty s
  | .mzero tl => Sys2Proof.Machine.execMzero tl s
  | .mtld tl sa sb => Sys2Proof.Machine.execMtld tl sa sb s
  | .mtst tl sa sb => Sys2Proof.Machine.execMtst tl sa sb s
  | .mrow tl va sa => Sys2Proof.Machine.execMrow tl va sa s
  | .mwrow tl va sa => Sys2Proof.Machine.execMwrow tl va sa s
  | .cAddi r im => Sys2Proof.Machine.execCAddi r im s
  | .cLi r im => Sys2Proof.Machine.execCLi r im s
  | .cMov r s_ => Sys2Proof.Machine.execCMov r s_ s
  | .cAdd r s_ => Sys2Proof.Machine.execCAdd r s_ s
  | .cSub r s_ => Sys2Proof.Machine.execCSub r s_ s
  | .cAnd r s_ => Sys2Proof.Machine.execCAnd r s_ s
  | .cShli r n => Sys2Proof.Machine.execCShli r n s
  | .cShri r n => Sys2Proof.Machine.execCShri r n s
  | .cLdsp r o => Sys2Proof.Machine.execCLdsp r o s
  | .cStsp r o => Sys2Proof.Machine.execCStsp r o s
  | .cBeqz r o => Sys2Proof.Machine.execCBeqz r o s
  | .cBnez r o => Sys2Proof.Machine.execCBnez r o s
  | .cJ o => Sys2Proof.Machine.execCJ o s
  | .cJr r => Sys2Proof.Machine.execCJr r s
  | .cNop => Sys2Proof.Machine.execCNop s
  | .asyncTrapEntry => Sys2Proof.Machine.execAsyncTrapEntry s
  | .launchWindowWrite fn off len data => Sys2Proof.Machine.execLaunchWindowWrite fn off len data s
  | .shuttlePlacement => Sys2Proof.Machine.execShuttlePlacement s
  | .shuttleEnd core slot => Sys2Proof.Machine.execShuttleEnd core slot s
  | .lendHandover core slot => Sys2Proof.Machine.execLendHandover core slot s
  | .preemption core slot b => Sys2Proof.Machine.execPreemption core slot b s
  | .preemptAfterFailToFit part key b => Sys2Proof.Machine.execPreemptAfterFailToFit part key b s
  | .convoyCloseTimeout core => Sys2Proof.Machine.execConvoyCloseTimeout core s
  | .laneReturn core => Sys2Proof.Machine.execLaneReturn core s
  | .executeClusterRequest core slot => Sys2Proof.Machine.execExecuteClusterRequest core slot s
  | .heddleReclaim core => Sys2Proof.Machine.execHeddleReclaim core s
  | .convoyProbe core slot => Sys2Proof.Machine.execConvoyProbe core slot s
  | .elementGroupCommit core slot => Sys2Proof.Machine.execElementGroupCommit core slot s
  | .loadDataReturn core slot => Sys2Proof.Machine.execLoadDataReturn core slot s
  | .pageResponseS1 fn v => Sys2Proof.Machine.execPageResponseS1 fn v s
  | .pageResponseS2 fn v => Sys2Proof.Machine.execPageResponseS2 fn v s
  | .inv1Page fn page glob => Sys2Proof.Machine.execInv1Page fn page glob s
  | .inv1All fn glob => Sys2Proof.Machine.execInv1All fn glob s
  | .inv2Page fn page glob => Sys2Proof.Machine.execInv2Page fn page glob s
  | .inv2All fn glob => Sys2Proof.Machine.execInv2All fn glob s
  | .invalidationComplete fn => Sys2Proof.Machine.execInvalidationComplete fn s
  | .migrationAccept part gpage => Sys2Proof.Machine.execMigrationAccept part gpage s
  | .hostMigrationRequest part gpage ppn => Sys2Proof.Machine.execHostMigrationRequest part gpage ppn s
  | .migrationCopyComplete part gpage ok => Sys2Proof.Machine.execMigrationCopyComplete part gpage ok s
  | .dampingExpiry part gpage => Sys2Proof.Machine.execDampingExpiry part gpage s
  | .cowGranuleCopy part gpage => Sys2Proof.Machine.execCowGranuleCopy part gpage s
  | .copyCommandStart loom => Sys2Proof.Machine.execCopyCommandStart loom s
  | .copyDataArrival loom key lo n rdata rpois => Sys2Proof.Machine.execCopyDataArrival loom key lo n rdata rpois s
  | .copyDone loom key => Sys2Proof.Machine.execCopyDone loom key s
  | .copyFailed loom key why outcome => Sys2Proof.Machine.execCopyFailed loom key why outcome s
  | .lzResvArrival src tenant name len => Sys2Proof.Machine.execLzResvArrival src tenant name len s
  | .lzArrival src tenant token len cpctl rdata rpois => Sys2Proof.Machine.execLzArrival src tenant token len cpctl rdata rpois s
  | .lzCloseComplete core zone => Sys2Proof.Machine.execLzCloseComplete core zone s
  | .treadleComplete idx ok cause outcome => Sys2Proof.Machine.execTreadleComplete idx ok cause outcome s
  | .remoteRequestArrival src tenant op addrs size data cmp rpois => Sys2Proof.Machine.execRemoteRequestArrival src tenant op addrs size data cmp rpois s
  | .remoteReply core slot key ok rdata poison cause outcome => Sys2Proof.Machine.execRemoteReply core slot key ok rdata poison cause outcome s
  | .remoteAck core slot key ok cause outcome => Sys2Proof.Machine.execRemoteAck core slot key ok cause outcome s
  | .flitSend load => Sys2Proof.Machine.execFlitSend load s
  | .flitReceive chip hdr body tag requests decodes auth => Sys2Proof.Machine.execFlitReceive chip hdr body tag requests decodes auth s
  | .negativeAcknowledgement chip seq => Sys2Proof.Machine.execNegativeAcknowledgement chip seq s
  | .acknowledgementTimer chip => Sys2Proof.Machine.execAcknowledgementTimer chip s
  | .retryTimeout chip => Sys2Proof.Machine.execRetryTimeout chip s
  | .reestablishmentComplete chip => Sys2Proof.Machine.execReestablishmentComplete chip s
  | .reestablishmentTimeout chip => Sys2Proof.Machine.execReestablishmentTimeout chip s
  | .rekeyTimeout chip => Sys2Proof.Machine.execRekeyTimeout chip s
  | .linkFailure chip erased => Sys2Proof.Machine.execLinkFailure chip erased s
  | .grantHashCompare agree => Sys2Proof.Machine.execGrantHashCompare agree s
  | .resynchronisationComplete => Sys2Proof.Machine.execResynchronisationComplete s
  | .pathLost chip peer => Sys2Proof.Machine.execPathLost chip peer s
  | .pathKeyExchange chip kslot rekey => Sys2Proof.Machine.execPathKeyExchange chip kslot rekey s
  | .arbiterGrant key arrivals out => Sys2Proof.Machine.execArbiterGrant key arrivals out s
  | .settlementPeriodEnd => Sys2Proof.Machine.execSettlementPeriodEnd s
  | .settlementBroadcast => Sys2Proof.Machine.execSettlementBroadcast s
  | .matrixBlockOffer loom => Sys2Proof.Machine.execMatrixBlockOffer loom s
  | .matrixReclaim loom => Sys2Proof.Machine.execMatrixReclaim loom s
  | .tileOperationExecute core => Sys2Proof.Machine.execTileOperationExecute core s
  | .laneResidueMismatch core slot lane k array => Sys2Proof.Machine.execLaneResidueMismatch core slot lane k array s
  | .uncorrectableError kind a b => Sys2Proof.Machine.execUncorrectableError kind a b s
  | .rollback part => Sys2Proof.Machine.execRollback part s
  | .checkpointPeriod part => Sys2Proof.Machine.execCheckpointPeriod part s
  | .checkpointCapture part => Sys2Proof.Machine.execCheckpointCapture part s
  | .functionLevelReset fn => Sys2Proof.Machine.execFunctionLevelReset fn s
  | .feqstatRead fn => Sys2Proof.Machine.execFeqstatRead fn s
  | .modeWrite fn v => Sys2Proof.Machine.execModeWrite fn v s
  | .feataccWrite fn hi v => Sys2Proof.Machine.execFeataccWrite fn hi v s
  | .watchWrite fn idx v => Sys2Proof.Machine.execWatchWrite fn idx v s
  | .coalesceTimer fn vec => Sys2Proof.Machine.execCoalesceTimer fn vec s
  | .msixUnmask fn vec => Sys2Proof.Machine.execMsixUnmask fn vec s
  | .loomsWrite part v => Sys2Proof.Machine.execLoomsWrite part v s
  | .pcgsWrite part v => Sys2Proof.Machine.execPcgsWrite part v s
  | .csliceWrite part v => Sys2Proof.Machine.execCsliceWrite part v s
  | .tsliceWrite part v => Sys2Proof.Machine.execTsliceWrite part v s
  | .identWrite part v => Sys2Proof.Machine.execIdentWrite part v s
  | .release part v => Sys2Proof.Machine.execRelease part v s
  | .force part v => Sys2Proof.Machine.execForce part v s
  | .releaseComplete part => Sys2Proof.Machine.execReleaseComplete part s
  | .scrubGo r => Sys2Proof.Machine.execScrubGo r s
  | .scrubComplete r => Sys2Proof.Machine.execScrubComplete r s
  | .pwrcapWrite v => Sys2Proof.Machine.execPwrcapWrite v s
  | .pwrfloorWrite v => Sys2Proof.Machine.execPwrfloorWrite v s
  | .registerWrite bar fn at_ v => Sys2Proof.Machine.execRegisterWrite bar fn at_ v s
  | .hostCxlMemAccess wr addr size data => Sys2Proof.Machine.execHostCxlMemAccess wr addr size data s
  | .ident v => Sys2Proof.Machine.execIdent v s
  | .quote v => Sys2Proof.Machine.execQuote v s
  | .lease v => Sys2Proof.Machine.execLease v s
  | .keyload v => Sys2Proof.Machine.execKeyload v s
  | .fwload v => Sys2Proof.Machine.execFwload v s
  | .domain v => Sys2Proof.Machine.execDomain v s
  | .leaseExpiry => Sys2Proof.Machine.execLeaseExpiry s
  | .budgetUpdate caps => Sys2Proof.Machine.execBudgetUpdate caps s
  | .sensorSample therm cur => Sys2Proof.Machine.execSensorSample therm cur s
  | .droopDetect loom => Sys2Proof.Machine.execDroopDetect loom s
  | .droopCapExpiry loom => Sys2Proof.Machine.execDroopCapExpiry loom s
  | .powerGood okA okB verA verB => Sys2Proof.Machine.execPowerGood okA okB verA verB s
  | .deviceReset => Sys2Proof.Machine.execDeviceReset s
  | .stage0Complete => Sys2Proof.Machine.execStage0Complete s
  | .loomPass loom => Sys2Proof.Machine.execLoomPass loom s
  | .stage1Complete coef => Sys2Proof.Machine.execStage1Complete coef s
  | .rateBucketRefill part => Sys2Proof.Machine.execRateBucketRefill part s
  | .illegalEncoding len bits reason => Sys2Proof.Machine.execIllegalEncoding len bits reason s
  | .mbcmdDiscarded v => Sys2Proof.Machine.execMbcmdDiscarded v s

end Sys2Proof.Machine
end

