-- ==== Sys2Proof/Machine/Issue.lean ====
section
/-!
DEFINITION. Sys2Proof/Machine/Issue.lean: which shuttle issues next (R34), the asynchronous trap entry at a boundary
(R119), fetching, decoding and running its instruction (R48, R64 to R66), and what every issue leaves. A clock of the model is
one issue slot of every core: each core that can issues once, the cores one after another.
-/
namespace Sys2Proof.Machine

/-- Whether a shuttle would take an asynchronous cause now. -/
def asyncReady (sh : Shuttle) : Bool := sh.aie && sh.atBoundary && (asyncCause sh).isSome
/-- Whether a shuttle has something to do at its core's next issue slot. -/
def canIssue (s : State) (sh : Shuttle) : Bool := sh.live && (asyncReady sh || mayIssue s sh)

/-- The distance of a slot from the one that issued last on its core, in ascending order, wrapping from 7 to 0 (R34). -/
def slotDistance (last slot : Nat) : Nat := (slot + 15 - last) % 8
/-- Of two shuttles of a core, the one that R34 takes first. -/
def firstSlot (last : Nat) : Option Shuttle → Shuttle → Option Shuttle
  | none, y => some y
  | some x, y => if slotDistance last y.place.slot < slotDistance last x.place.slot then some y else some x
/-- The shuttle that a core issues from next (R34). -/
def nextOn (s : State) (core : Nat) : Option Shuttle :=
  (s.resident.filter fun sh => canIssue s sh && sh.place.core == core).foldl (firstSlot (s.core core).last) none
/-- The first core from `core` on that can issue, with its shuttle and whether a clock has passed. -/
def nextIssuer (s : State) (core : Nat) : Option (Shuttle × Bool) :=
  (List.range 160).findSome? fun d => (nextOn s ((core + d) % 160)).map fun sh => (sh, decide (160 ≤ core + d))

/-- The machine turns to the shuttle that issues next, on `core` or a later one; where none can, only time passes. -/
def turn (s : State) (core : Nat) : State :=
  match nextIssuer s core with
  | some (sh, wrapped) => (if wrapped then tick s else s).focus sh.uid
  | none => tick s

/-- A shuttle that yielded to `shid` has let it issue (R138). -/
def yieldedTo (shid : Nat) (sh : Shuttle) : Shuttle :=
  match sh.status with
  | .waiting (.others ids) => { sh with status := .waiting (.others (ids.filter (· != shid))) }
  | _ => sh

/-- What an issue from slot `slot` of `core` leaves to the machine: the lends whose child was pre-empted are over (R33),
the slot is the one that issued last, the peers that yielded to it have been served, and the next core's turn comes. -/
def afterIssue (core slot : Nat) (s : State) : State :=
  let s := settleLends s
  let s := s.setCore core { s.core core with last := slot }
  let s := { s with others := s.others.map (yieldedTo (8 * core + slot)) }
  turn s (core + 1)

/-- `f` of the next state of an outcome. -/
def onNext (f : State → State) : Out → Out
  | .next s => .next (f s)
  | .fault r => .fault r
  | .refused r => .refused r

/-- Whether an instruction, once the fields that must be zero are ignored, would trap with ILLEGAL and REASON 2: the lower
REASON is then the one that holds (R65). Log entry 51, DEDUCED. -/
def wouldBeBad (i : Instr) (s : State) : Bool :=
  match exec i { s with cur := { (s.cur.setEstat 3 false) with ecause := 0 } } with
  | .next t => t.cur.ecause == w64 cILLEGAL && bits t.cur.einfo.toNat 60 4 == 2
  | _ => false

/-- What the bits of an instruction do: the decoded instruction, or the trap of an encoding that is none (R64, R65). -/
noncomputable def execBits (len w : Nat) (s : State) : Out :=
  match decode len w with
  | .ok i => exec i s
  | .spare i => exec (.illegalEncoding len w (if wouldBeBad i s then 2 else 3)) s
  | .bad r => exec (.illegalEncoding len w r) s

/-- The instruction at the pc of a shuttle whose convoy runs again: it is the one that was fetched when the convoy first ran. -/
def Shuttle.again_ (sh : Shuttle) : Option Spanned :=
  if sh.again.isSome then sh.span.find? fun x => x.pc == sh.pc else none
/-- The span of the issuing shuttle's open convoy after an instruction of it (R61). -/
def Shuttle.keepSpan (x : Spanned) (sh : Shuttle) : Shuttle :=
  if sh.again.isSome then sh
  else if !sh.convoy.isOpen then { sh with span := [] }
  else if sh.span.any (fun y => y.pc == x.pc) then sh
  else { sh with span := x :: sh.span }
def State.keepSpan (x : Spanned) (s : State) : State := { s with cur := s.cur.keepSpan x }
/-- Fetching the instruction at the pc of the issuing shuttle and running it; a fault of the fetch comes first (R66). -/
noncomputable def runPc (s : State) : Out :=
  match s.cur.again_ with
  | some x => execBits x.len x.bits s
  | none =>
    match fetchFrom s.cur.pc s with
    | .ok (len, w) s' => onNext (State.keepSpan ⟨s.cur.pc, len, w⟩) (execBits len w s')
    | .error e s' => run (throw e) s'

/-- What the current shuttle does at its issue slot: the save of a double trap or of a pre-emption goes on, or its instruction runs. -/
noncomputable def issueCur (s : State) : Out :=
  match s.cur.killed with
  | some c => .next (doubleTrap s c)
  | none => if s.cur.stops then .next (preempt s) else runPc s
/-- The issue of the current shuttle. -/
noncomputable def issue (s : State) : Out := onNext (afterIssue s.cur.place.core s.cur.place.slot) (issueCur s)

/-- An event of the agenda: it takes effect where it can occur in the state, and leaves the state alone where not, as one does whose
arguments name nothing on the device. Log entry 5, DESIGN CHOICE. -/
def happen (i : Instr) (s : State) : Out :=
  if !i.hasEncoding && i.wf then onNext settleLends (exec i s) else .next s

end Sys2Proof.Machine
end

