-- ==== Sys2Proof/Machine/Step.lean ====
section
/-!
DEFINITION. Sys2Proof/Machine/Step.lean: one step of the machine, and the placing of an instruction where it fetches next.
-/
namespace Sys2Proof.Machine

/-- One step. Partitions whose state has been found struck roll back first (R362). What the device and its surroundings do next stands in
the agenda and comes then. Otherwise the current
shuttle takes an asynchronous cause, or issues; where it can do neither, the machine turns to a shuttle that can. Log entry 5, DESIGN CHOICE. -/
noncomputable def step (s : State) : Host.Outcome State Fault Refusal :=
  if !s.struck.isEmpty then .next (strikeAll s)
  else match s.agenda with
  | i :: rest => happen i { s with agenda := rest }
  | [] =>
    if s.cur.live && asyncReady s.cur then exec .asyncTrapEntry s
    else if canIssue s s.cur then issue s
    else .next (turn s s.cur.place.core)

/-- The state with the instruction of `nbits` bits `w`, as spec/opcode_table.json numbers them, at the first byte of this
device's HBM, and a shuttle of the system set (R25: its virtual addresses are physical) that fetches there. Log entry 3, DESIGN CHOICE, 24, DEDUCED. -/
def State.withFetchWord (s : State) (nbits w : Nat) : State :=
  let sh : Shuttle :=
    { s.cur with status := .ready, pc := w64 (s.hbmKey 0), place := { s.cur.place with part := 16 }, uid := s.nextKey, convoy := {}
                 requests := [], missed := [], found := [], faulted := [], kept := [], again := none, span := []
                 stopping := none, killed := none }
  let bs := instrBytes (tableLen nbits) w
  let s := { s with cur := sh, others := [], agenda := [], struck := [], held := [], stores := [], nextKey := s.nextKey + 1 }
  let s := s.setFunc 16 { s.func 16 with s1root := 0 }
  { s with poisoned := sDel s.poisoned (s.hbmKey 0 / 8), mem := (List.range bs.length).foldl (fun m i => memWrite m (s.hbmKey i) (bs[i]?.getD 0)) s.mem }

end Sys2Proof.Machine
end

