-- ==== Sys2Proof/Safety.lean ====
section
/-!
DEFINITION. Sys2Proof/Safety.lean: what a state that the machine can reach always satisfies, and when a run is safe.
-/
namespace Sys2Proof.Machine

/-- The numbers of a list rise strictly. -/
def rising : List Nat → Bool
  | a :: b :: t => decide (a < b) && rising (b :: t)
  | _ => true

/-- Storage is in its canonical form: the bytes (keys strictly rising, no byte listed that reads as an unlisted one does),
and the poison marks (word numbers strictly rising). -/
def State.Canonical (s : State) : Prop := Memory.wf s.mem = true ∧ rising s.poisoned = true

/-- A shuttle takes its instructions from its own registers only: s0 has never been written (R105). -/
def Shuttle.ZeroKept (sh : Shuttle) : Prop := sh.regs[0] = 0

/-- One step answers a next state: it neither faults nor is refused. -/
def State.StepsOn (s : State) : Prop := ∃ t, step s = .next t

/-- The first `n` steps of a run from `s` all answer a next state. -/
def State.RunsFor : State → Nat → Prop
  | _, 0 => True
  | s, n + 1 => ∃ t, step s = .next t ∧ t.RunsFor n

/-! ## The terms in which statements speak -/

/-- The machine once the hardware convoy of the issuing shuttle has closed (R36, R38). -/
def State.closed (s : State) : State := closeQueue s s.cur.place.core s.cur.uid
/-- The issuing shuttle is done with its instruction and goes on at `pc`. -/
def State.goingTo (s : State) (pc : Word) : State := { s with cur := { s.cur.settled with pc := pc } }
/-- The address of the instruction `o` parcels away from the one at the pc (R51). -/
def State.parcelsAway {n : Nat} (s : State) (o : BitVec n) : Word := s.cur.pc + (o.signExtend 64 <<< 1)
/-- `n` bytes from key `k`, as one number, in bytes of memory that no poison mark covers. -/
def State.bytesAt (s : State) (k n : Nat) : Nat := readLE s.mem k n
/-- Every byte of storage outside `n` bytes from key `k` reads in `t` as it does in `s`. -/
def sameBytesOutside (s t : State) (k n : Nat) : Prop :=
  ∀ a, a < k ∨ k + n ≤ a → memRead t.mem a = memRead s.mem a
/-- The shuttle's registers but the pc, and all that an instruction leaves when it only writes s[d] and moves on. -/
def sameBut (d : SReg) (s t : State) : Prop :=
  (∀ r, r ≠ d → t.reg r = s.reg r) ∧ t.cur.v = s.cur.v ∧ t.cur.e = s.cur.e ∧ t.cur.p = s.cur.p ∧ t.cur.priv = s.cur.priv ∧
  t.cur.estat = s.cur.estat ∧ t.cur.epc = s.cur.epc ∧ t.cur.ecause = s.cur.ecause ∧ t.cur.eaddr = s.cur.eaddr ∧
  t.cur.einfo = s.cur.einfo ∧ t.cur.tvec = s.cur.tvec ∧ t.cur.fctl = s.cur.fctl ∧ t.cur.vtype = s.cur.vtype ∧
  t.cur.vl = s.cur.vl ∧ t.counters = s.counters

end Sys2Proof.Machine
end

