-- ==== Sys2Proof/Certificates/Slice0/Obligations.lean ====
section
/-!
DEFINITION. Sys2Proof/Certificates/Slice0/Obligations.lean: the statements about this model, for the provers.
-/
open Sys2Proof Sys2Proof.Machine

/-- `n` bytes at an aligned address of the local window, which lie from key `k` on (R80, R81). -/
def Sys2Proof.Cert.inWindowAt (s : State) (va n k : Nat) : Prop :=
  0x00FFFF0000000000 ≤ va ∧ va < 0x00FFFF0000000000 + 2 ^ 22 ∧ va % n = 0 ∧
    k = 2 ^ 52 + 2 ^ 22 * s.cur.place.core + (va - 0x00FFFF0000000000)
/-- Such bytes without a poison mark. -/
def Sys2Proof.Cert.windowKey (s : State) (va n k : Nat) : Prop :=
  Cert.inWindowAt s va n k ∧ markedAny s.poisoned k n = false
/-- No posted request of the issuing shuttle is outstanding, nor one that was ordered before what it has seen (R97). -/
def Sys2Proof.Cert.noPosted (s : State) : Prop := s.awaiting s.cur (kindMask 23) 23 = false

/-! ## Integer instructions -/

/-- The three-register integer instructions and the function of s[a] and s[b] that Table 6-9 gives each. -/
def Sys2Proof.Cert.alu3 : List ((SReg → SReg → SReg → Instr) × (Word → Word → Word)) :=
  [(.add, fun a b => a + b), (.sub, fun a b => a - b), (.and, fun a b => a &&& b), (.or, fun a b => a ||| b),
   (.xor, fun a b => a ^^^ b), (.andn, fun a b => a &&& ~~~b), (.orn, fun a b => a ||| ~~~b),
   (.shl, fun a b => a <<< (b.toNat % 64)), (.shr, fun a b => a >>> (b.toNat % 64)),
   (.sar, fun a b => a.sshiftRight (b.toNat % 64)), (.rol, fun a b => a.rotateLeft (b.toNat % 64)),
   (.ror, fun a b => a.rotateRight (b.toNat % 64)),
   (.slt, fun a b => if a.toInt < b.toInt then 1 else 0), (.sltn, fun a b => if a.toNat < b.toNat then 1 else 0),
   (.min, fun a b => if b.toInt < a.toInt then b else a), (.max, fun a b => if a.toInt < b.toInt then b else a),
   (.minn, fun a b => if b.toNat < a.toNat then b else a), (.maxn, fun a b => if a.toNat < b.toNat then b else a),
   (.mul, fun a b => a * b), (.mulh, fun a b => BitVec.ofInt 64 (a.toInt * b.toInt / 2 ^ 64)),
   (.mulhn, fun a b => BitVec.ofNat 64 (a.toNat * b.toNat / 2 ^ 64)),
   (.div, fun a b => if b = 0 then BitVec.allOnes 64 else BitVec.ofInt 64 (a.toInt.tdiv b.toInt)),
   (.divn, fun a b => if b = 0 then BitVec.allOnes 64 else BitVec.ofNat 64 (a.toNat / b.toNat)),
   (.rem, fun a b => if b = 0 then a else BitVec.ofInt 64 (a.toInt.tmod b.toInt)),
   (.remn, fun a b => if b = 0 then a else BitVec.ofNat 64 (a.toNat % b.toNat)),
   (.sext, fun a b => sextW a.toNat (b.toNat % 64 + 1))]

/-- ADD to REMN and SEXT of three registers (R124): sd receives the function of the two operands, the pc moves on by 4, and
nothing else changes but the open convoy's record of the registers that its span reads and writes. A scalar instruction
in the span of an open convoy that writes what the span has read, or reads what it has written, traps with
ILLEGAL_CONVOY, reason 7 (R61, R62): the state is that of the trap, and no register is written. s0 reads as zero and a
write to it is discarded (R105): whatever is written, to whichever register. -/
def Obligations.IntegerThreeRegisters : Prop :=
  (∀ r ∈ Cert.alu3, ∀ (d a b : SReg) (s : State), s.breaksSpan (sMask a ||| sMask b) (sMask d) = false →
    exec (r.1 d a b) s =
      .next (((s.spanned (sMask a ||| sMask b) (sMask d)).wr d (r.2 (s.reg a) (s.reg b))).advance 4)) ∧
  (∀ r ∈ Cert.alu3, ∀ (d a b : SReg) (s : State), s.breaksSpan (sMask a ||| sMask b) (sMask d) = true →
    ∃ bits, exec (r.1 d a b) s =
      .next (takeTrap s 2 (BitVec.ofNat 64 bits) (BitVec.ofNat 64 (7 * 2 ^ 60 + s.cur.convoy.count)))) ∧
  (∀ (s : State) (v : Word), s.reg 0 = 0 ∧ s.wr 0 v = s ∧ (s.wr 0 v).reg 0 = 0 ∧
    ∀ q r : SReg, q ≠ 0 → (s.wr q v).reg q = v ∧ (r ≠ q → (s.wr q v).reg r = s.reg r))

/-- The integer instructions with immediates, with one register, and LUI, ADPC, BEXT, BEXT.S and BINS (R124 to R128), with
the encodings of those of R125 to R127. The two-byte integer instructions and C.NOP (R149): as their four-byte forms,
the pc moves on by 2. -/
def Obligations.IntegerImmediates : Prop :=
  ((∀ r ∈ ([(.addi, fun a i => a + i), (.andi, fun a i => a &&& i), (.ori, fun a i => a ||| i), (.xori, fun a i => a ^^^ i),
   (.slti, fun a i => if a.toInt < i.toInt then 1 else 0), (.sltni, fun a i => if a.toNat < i.toNat then 1 else 0)] : List ((SReg → SReg → BitVec 14 → Instr) × (Word → Word → Word))),
  ∀ (d a : SReg) (i : BitVec 14) (s : State), s.breaksSpan (sMask a) (sMask d) = false →
    exec (r.1 d a i) s =
      .next (((s.spanned (sMask a) (sMask d)).wr d (r.2 (s.reg a) (i.signExtend 64))).advance 4)) ∧
  (∀ r ∈ ([(.shli, fun a n => a <<< n), (.shri, fun a n => a >>> n), (.sari, fun a n => a.sshiftRight n)] : List ((SReg → SReg → BitVec 6 → Instr) × (Word → Nat → Word))),
  ∀ (d a : SReg) (n : BitVec 6) (s : State), s.breaksSpan (sMask a) (sMask d) = false →
    exec (r.1 d a n) s = .next (((s.spanned (sMask a) (sMask d)).wr d (r.2 (s.reg a) n.toNat)).advance 4)) ∧
  (∀ (d a : SReg) (s : State), s.breaksSpan (sMask a) (sMask d) = false →
    exec (.clz d a) s = .next (((s.spanned (sMask a) (sMask d)).wr d
      (BitVec.ofNat 64 (if s.reg a = 0 then 64 else 63 - Nat.log2 (s.reg a).toNat))).advance 4) ∧
    exec (.ctz d a) s = .next (((s.spanned (sMask a) (sMask d)).wr d
      (BitVec.ofNat 64 (((List.range 64).find? fun i => (s.reg a).toNat / 2 ^ i % 2 == 1).getD 64))).advance 4) ∧
    exec (.popc d a) s = .next (((s.spanned (sMask a) (sMask d)).wr d
      (BitVec.ofNat 64 ((List.range 64).filter fun i => (s.reg a).toNat / 2 ^ i % 2 == 1).length)).advance 4)) ∧
  (∀ (d : SReg) (i : BitVec 19) (s : State), s.breaksSpan 0 (sMask d) = false →
    exec (.lui d i) s = .next (((s.spanned 0 (sMask d)).wr d (i.signExtend 64 <<< 14)).advance 4) ∧
    exec (.adpc d i) s = .next (((s.spanned 0 (sMask d)).wr d (s.cur.pc + (i.signExtend 64 <<< 14))).advance 4)) ∧
  (∀ (d a : SReg) (p l : BitVec 6) (s : State), s.breaksSpan (sMask a) (sMask d) = false →
    exec (.bext d a p l) s = .next (((s.spanned (sMask a) (sMask d)).wr d
      (BitVec.ofNat 64 ((s.reg a).toNat / 2 ^ p.toNat % 2 ^ (l.toNat + 1)))).advance 4) ∧
    exec (.bextS d a p l) s = .next (((s.spanned (sMask a) (sMask d)).wr d
      (sextW ((s.reg a).toNat / 2 ^ p.toNat % 2 ^ (l.toNat + 1)) (l.toNat + 1))).advance 4)) ∧
  (∀ (d a : SReg) (p l : BitVec 6) (s : State), s.breaksSpan (sMask d ||| sMask a) (sMask d) = false →
    exec (.bins d a p l) s = .next (((s.spanned (sMask d ||| sMask a) (sMask d)).wr d
      (wordSet (s.reg d) p.toNat (l.toNat + 1) (s.reg a).toNat)).advance 4)) ∧
  (∀ (d a : SReg) (i : BitVec 14), ∀ r ∈ ([(2, .addi), (3, .andi), (4, .ori), (5, .xori), (7, .slti), (8, .sltni)] :
      List (Nat × (SReg → SReg → BitVec 14 → Instr))),
    decode 4 (2 ^ 31 + r.1 * 2 ^ 24 + d.val * 2 ^ 19 + a.val * 2 ^ 14 + i.toNat) = .ok (r.2 d a i)) ∧
  (∀ (d a : SReg) (n : BitVec 6), ∀ r ∈ ([(0, .shli), (1, .shri), (2, .sari)] : List (Nat × (SReg → SReg → BitVec 6 → Instr))),
    decode 4 (0x86000000 + d.val * 2 ^ 19 + a.val * 2 ^ 14 + r.1 * 2 ^ 12 + n.toNat) = .ok (r.2 d a n)) ∧
  (∀ k, k < 2 ^ 24 → k / 2 ^ 12 % 4 = 3 ∨ k / 2 ^ 6 % 64 ≠ 0 → ∀ i, decode 4 (0x86000000 + k) ≠ .ok i) ∧
  (∀ (d : SReg) (i : BitVec 19), decode 4 (0x89000000 + d.val * 2 ^ 19 + i.toNat) = .ok (.lui d i) ∧
    decode 4 (0x8A000000 + d.val * 2 ^ 19 + i.toNat) = .ok (.adpc d i))) ∧
  ((∀ r ∈ ([(.cMov, fun _ b => b), (.cAdd, fun a b => a + b), (.cSub, fun a b => a - b), (.cAnd, fun a b => a &&& b)] : List ((SReg → SReg → Instr) × (Word → Word → Word))),
  ∀ (d a : SReg) (s : State), s.breaksSpan (sMask d ||| sMask a) (sMask d) = false →
    ∃ t, exec (r.1 d a) s = .next t ∧ t.reg d = (if d = 0 then 0 else r.2 (s.reg d) (s.reg a)) ∧
      t.cur.pc = s.cur.pc + 2 ∧ (∀ q, q ≠ d → t.reg q = s.reg q) ∧ t.mem = s.mem ∧ t.poisoned = s.poisoned) ∧
  (∀ (d : SReg) (i : BitVec 6) (s : State), s.breaksSpan (sMask d) (sMask d) = false →
    exec (.cAddi d i) s = .next (((s.spanned (sMask d) (sMask d)).wr d (s.reg d + i.signExtend 64)).advance 2) ∧
    exec (.cShli d i) s = .next (((s.spanned (sMask d) (sMask d)).wr d (s.reg d <<< i.toNat)).advance 2) ∧
    exec (.cShri d i) s = .next (((s.spanned (sMask d) (sMask d)).wr d (s.reg d >>> i.toNat)).advance 2)) ∧
  (∀ (d : SReg) (i : BitVec 6) (s : State), s.breaksSpan 0 (sMask d) = false →
    exec (.cLi d i) s = .next (((s.spanned 0 (sMask d)).wr d (i.signExtend 64)).advance 2)) ∧
  (∀ s : State, exec .cNop s = .next (s.advance 2)))

/-! ## Control flow -/

/-- BEQ, BNE, BLT, BGE, BLTN, BGEN, C.BEQZ and C.BNEZ (R132, R149): once the open convoy has ended (in `u`), the hardware
convoy closes and the pc moves to the target where the condition holds, else past the instruction. Nothing is written.
-/
def Obligations.Branches : Prop :=
  (∀ r ∈ ([(.beq, fun a b => a == b), (.bne, fun a b => a != b), (.blt, fun a b => decide (a.toInt < b.toInt)),
      (.bge, fun a b => decide (b.toInt ≤ a.toInt)), (.bltn, fun a b => decide (a.toNat < b.toNat)),
      (.bgen, fun a b => decide (b.toNat ≤ a.toNat))] : List ((SReg → SReg → BitVec 14 → Instr) × (Word → Word → Bool))),
    ∀ (a b : SReg) (o : BitVec 14) (s u : State), endConvoy s = .ok () u →
      exec (r.1 a b o) s =
        .next (if r.2 (u.closed.reg a) (u.closed.reg b) then u.closed.goingTo (u.closed.parcelsAway o)
          else u.closed.advance 4)) ∧
  (∀ (a : SReg) (o : BitVec 6) (s u : State), endConvoy s = .ok () u →
    exec (.cBeqz a o) s =
      .next (if u.closed.reg a = 0 then u.closed.goingTo (u.closed.parcelsAway o) else u.closed.advance 2) ∧
    exec (.cBnez a o) s =
      .next (if u.closed.reg a = 0 then u.closed.advance 2 else u.closed.goingTo (u.closed.parcelsAway o)))

/-- JMP, CALL, C.J, JR, CALLR and C.JR (R133, R134, R149): the pc moves to the target; CALL writes the address after it to
s1, CALLR to sd, the target having been read first. A jump to an odd address in a register traps with MISALIGNED, EADDR
the address, EINFO 3 (R134), and writes nothing. -/
def Obligations.Jumps : Prop :=
  ((∀ (o : BitVec 24) (s u : State), endConvoy s = .ok () u →
    exec (.jmp o) s = .next (u.goingTo (u.parcelsAway o)) ∧
    exec (.call o) s = .next ((u.wr 1 (u.cur.pc + 4)).goingTo (u.parcelsAway o))) ∧
  (∀ (o : BitVec 11) (s u : State), endConvoy s = .ok () u →
    exec (.cJ o) s = .next (u.goingTo (u.parcelsAway o))) ∧
  (∀ (d a : SReg) (s u : State), endConvoy s = .ok () u → (u.reg a).toNat % 2 = 0 →
    exec (.jr a) s = .next (u.closed.goingTo (u.reg a)) ∧
    exec (.callr d a) s = .next ((u.closed.wr d (u.cur.pc + 4)).goingTo (u.reg a)) ∧
    exec (.cJr a) s = .next (u.closed.goingTo (u.reg a))) ∧
  (∀ o : BitVec 24, decode 4 (0x96000000 + o.toNat) = .ok (.jmp o) ∧ decode 4 (0x97000000 + o.toNat) = .ok (.call o))) ∧
  (∀ (d a : SReg) (s u : State), endConvoy s = .ok () u → (u.reg a).toNat % 2 = 1 →
    exec (.jr a) s = .next (takeTrap u 4 (u.reg a) 3) ∧ exec (.callr d a) s = .next (takeTrap u 4 (u.reg a) 3) ∧
    exec (.cJr a) s = .next (takeTrap u 4 (u.reg a) 3))

/-- The end of a convoy writes no scalar register and leaves the pc, the privilege and the trap registers (R60, R220): it
performs the stores its members have left. Of ESTAT it may set EQ_PENDING alone, where a store has failed (R283). -/
def Obligations.ConvoyEndKeepsRegisters : Prop :=
  ∀ s u : State, endConvoy s = .ok () u →
    u.cur.regs = s.cur.regs ∧ u.cur.pc = s.cur.pc ∧ u.cur.priv = s.cur.priv ∧
    u.cur.estat.toNat % 64 = s.cur.estat.toNat % 64 ∧ u.cur.estat.toNat / 128 = s.cur.estat.toNat / 128 ∧
    (u.cur.eq = s.cur.eq → u.cur.lost = s.cur.lost → u.cur.estat = s.cur.estat) ∧
    u.cur.epc = s.cur.epc ∧ u.cur.v = s.cur.v ∧ u.cur.p = s.cur.p ∧ u.cur.convoy.isOpen = false

/-! ## Traps, privilege, system instructions -/

/-- Trap entry (R117) with no convoy open and ESTAT.EH at 0: PPL, PAIE, AIE and EH of ESTAT, EPC, ECAUSE, EADDR and EINFO
are written, the shuttle is at privilege S at TVEC.BASE × 256, and its other registers and memory are untouched. A trap
taken while ESTAT.EH is 1 is a double trap (R118): where the shuttle's state can be saved, the shuttle stops for good,
its entry DOUBLE_TRAP with the second cause goes to the function's error queue, and its launch never completes. -/
def Obligations.TrapEntry : Prop :=
  (∀ (s : State) (c : Nat) (ea ei : Word), c < 256 → s.cur.convoy = {} → s.cur.estat.toNat / 8 % 2 = 0 →
    s.cur.estat.toNat < 256 →
    let t := takeTrap s c ea ei
    t.cur.priv = .s ∧ t.cur.pc = BitVec.ofNat 64 (s.cur.tvec.toNat / 256 % 2 ^ 48 * 256) ∧ t.cur.epc = s.cur.pc ∧
    t.cur.ecause = BitVec.ofNat 64 c ∧ t.cur.eaddr = ea ∧ t.cur.einfo = ei ∧
    (t.cur.estat.toNat % 2 = if s.cur.priv = .s then 1 else 0) ∧ t.cur.estat.toNat / 2 % 2 = 0 ∧
    t.cur.estat.toNat / 4 % 2 = s.cur.estat.toNat / 2 % 2 ∧ t.cur.estat.toNat / 8 % 2 = 1 ∧
    t.cur.estat.toNat / 64 = s.cur.estat.toNat / 64 ∧
    t.cur.regs = s.cur.regs ∧ t.cur.tvec = s.cur.tvec ∧ t.cur.sscratch = s.cur.sscratch ∧ t.cur.v = s.cur.v ∧
    t.mem = s.mem ∧ t.poisoned = s.poisoned ∧ t.counters = s.counters) ∧
  (∀ (s s' : State) (c : Nat) (ea ei : Word), s.cur.convoy = {} → s.cur.estat.toNat / 8 % 2 = 1 →
    let w := closeQueue { s with cur := { s.cur with vstart := if endsConvoy s.cur c ei then 0 else s.cur.vstart } }
      s.cur.place.core s.cur.uid
    saveContext false { w with cur := w.cur.settled } = .ok () s' →
    ∃ t, takeTrap s c ea ei = t ∧ t.cur.status = .ending ∧ t.cur.eq = [] ∧
      ∀ x ∈ t.tracks, x.key = s'.cur.place.launch → x.lost = true)

/-- RETT (R139): at privilege S it returns to EPC with the privilege of ESTAT.PPL, AIE from PAIE, and EH at 0; at U it traps
with PRIVILEGE; an odd EPC traps with MISALIGNED, kind 3. -/
def Obligations.ReturnFromTrap : Prop :=
  (∀ s u : State, s.cur.priv = .s → endConvoy s = .ok () u → u.cur.priv = .s → u.cur.epc.toNat % 2 = 0 →
    ∃ t, exec .rett s = .next t ∧ t.cur.pc = u.cur.epc ∧
      t.cur.priv = (if u.cur.estat.toNat % 2 = 1 then .s else .u) ∧
      t.cur.estat.toNat / 2 % 2 = u.cur.estat.toNat / 4 % 2 ∧ t.cur.estat.toNat / 8 % 2 = 0 ∧
      t.cur.estat.toNat % 2 = u.cur.estat.toNat % 2 ∧ t.cur.regs = u.cur.regs ∧ t.mem = u.mem) ∧
  (∀ s : State, s.cur.priv = .u → ∃ bits, exec .rett s = .next (takeTrap s 3 (BitVec.ofNat 64 bits) 0)) ∧
  (∀ s u : State, s.cur.priv = .s → endConvoy s = .ok () u → u.cur.epc.toNat % 2 = 1 →
    exec .rett s = .next (takeTrap u 4 u.cur.epc 3))

/-- ASYNC_TRAP_ENTRY (R119): with AIE at 1, the shuttle ready and between its instructions, and no pre-emption or double trap of it
under way, ROLLBACK_NOTICE goes before EQ_THRESHOLD;
the pending bit of the one taken is cleared, the other stays; EPC is the pc, EADDR is 0. -/
def Obligations.AsynchronousEntry : Prop :=
  ∀ s : State, s.cur.status = .ready → s.cur.between = true → s.cur.stopping = none → s.cur.killed = none → s.cur.estat.toNat < 256 →
    s.cur.estat.toNat / 2 % 2 = 1 → s.cur.estat.toNat / 64 ≠ 0 →
    ∃ t, exec .asyncTrapEntry s = .next t ∧ t.cur.epc = s.cur.pc ∧ t.cur.eaddr = 0 ∧ t.cur.priv = .s ∧
      t.cur.estat.toNat / 2 % 2 = 0 ∧ t.cur.estat.toNat / 8 % 2 = 1 ∧
      t.cur.pc = BitVec.ofNat 64 (s.cur.tvec.toNat / 256 % 2 ^ 48 * 256) ∧
      (s.cur.estat.toNat / 128 % 2 = 1 →
        t.cur.ecause = BitVec.ofNat 64 (0x0F + 2 ^ 63) ∧ t.cur.einfo = BitVec.ofNat 64 s.cur.prbSeq.toNat ∧
        t.cur.estat.toNat / 128 % 2 = 0 ∧ t.cur.estat.toNat / 64 % 2 = s.cur.estat.toNat / 64 % 2) ∧
      (s.cur.estat.toNat / 128 % 2 = 0 →
        t.cur.ecause = BitVec.ofNat 64 (0x0D + 2 ^ 63) ∧ t.cur.einfo = BitVec.ofNat 64 s.cur.eq.length ∧
        t.cur.estat.toNat / 64 % 2 = 0)

/-- CRR, CRW, CRS and CRC (R146): where the level may, sd receives the register's old value, after it has been written: with
s[a], or with the bits of s[a] set or cleared. CRS and CRC of s0 write nothing. The registers that hold what is written
to them read back so, each under its mask (Tables 6-1 and 6-2): STRIP, SREM, VSEED, EPC, EADDR, EINFO, SSCRATCH and
CTXPTR whole, XSTOP, VFLAGS, FFLAGS, FCTL, CPCTL, ECAUSE, TVEC and HWEMAP without their reserved bits; SCOPEDEM is
cleared where ones are written. A read-only register is not written. A control register that the level may not read or
write traps with PRIVILEGE, EINFO its number (R106, R146), and one that is not in the map with ILLEGAL, reason 2 (R107).
-/
def Obligations.ControlRegisters : Prop :=
  (∀ (d a : SReg) (r : BitVec 12) (s u w : State), cregListed r.toNat = true →
    cregReads s.cur.priv r.toNat = true → endConvoy s = .ok () u → waitTiles u = .ok () w →
    exec (.crr d r) s = .next ((w.wr d (w.creg r.toNat)).advance 4) ∧
    (∀ x y z : State, cregWrites s.cur.priv r.toNat = true →
      writeCreg 0 r.toNat (s.reg a) w = .ok () x → writeCreg 0 r.toNat (w.creg r.toNat ||| s.reg a) w = .ok () y →
      writeCreg 0 r.toNat (w.creg r.toNat &&& ~~~s.reg a) w = .ok () z →
      exec (.crw d a r) s = .next ((x.wr d (w.creg r.toNat)).advance 4) ∧
      (a ≠ 0 → exec (.crs d a r) s = .next ((y.wr d (w.creg r.toNat)).advance 4)) ∧
      (a ≠ 0 → r ≠ 0x10A → exec (.crc d a r) s = .next ((z.wr d (w.creg r.toNat)).advance 4))) ∧
    exec (.crs d 0 r) s = .next ((w.wr d (w.creg r.toNat)).advance 4) ∧
    exec (.crc d 0 r) s = .next ((w.wr d (w.creg r.toNat)).advance 4)) ∧
  (∀ (s : State) (v : Word),
    (∀ r ∈ ([(0x00B, 0xFFFFFFFFFFFFFFFF), (0x00C, 0xFFFFFFFFFFFFFFFF), (0x00D, 0xFFFFFFFFFFFFFFFF),
        (0x101, 0xFFFFFFFFFFFFFFFF), (0x103, 0xFFFFFFFFFFFFFFFF), (0x104, 0xFFFFFFFFFFFFFFFF),
        (0x106, 0xFFFFFFFFFFFFFFFF), (0x107, 0xFFFFFFFFFFFFFFFF), (0x007, 0x7FFFF), (0x008, 0x3F), (0x009, 0x1F),
        (0x00A, 0x3), (0x010, 0x0000FFFF0F031F87), (0x102, 0x80000000000000FF), (0x105, 0x00FFFFFFFFFFFF00),
        (0x108, 0xFFFFFFFFFF)] : List (Nat × Word)),
      ∃ t, writeCreg 0 r.1 v s = .ok () t ∧ t.creg r.1 = v &&& r.2 ∧
        ∀ q ∈ ([0x00B, 0x00C, 0x00D, 0x101, 0x103, 0x104, 0x106, 0x107, 0x007, 0x008, 0x009, 0x00A, 0x010, 0x102, 0x105,
          0x108] : List Nat), q ≠ r.1 → t.creg q = s.creg q) ∧
    (∃ t, writeCreg 0 0x10A v s = .ok () t ∧ t.creg 0x10A = s.creg 0x10A &&& ~~~v) ∧
    (∀ r ∈ ([0x003, 0x004, 0x005, 0x006, 0x00E, 0x011, 0x012, 0x013, 0x014, 0x015, 0x016, 0x017, 0x018, 0x019, 0x109,
        0x10B] : List Nat), writeCreg 0 r v s = .ok () s)) ∧
  (∀ (d a : SReg) (r : BitVec 12) (s : State),
    (cregListed r.toNat = true → cregReads s.cur.priv r.toNat = false →
      ∃ b, exec (.crr d r) s = .next (takeTrap s 3 (BitVec.ofNat 64 b) (BitVec.ofNat 64 r.toNat))) ∧
    (cregListed r.toNat = true → cregReads s.cur.priv r.toNat = false ∨ cregWrites s.cur.priv r.toNat = false →
      ∃ b, exec (.crw d a r) s = .next (takeTrap s 3 (BitVec.ofNat 64 b) (BitVec.ofNat 64 r.toNat))) ∧
    (cregListed r.toNat = false →
      ∃ b, exec (.crr d r) s = .next (takeTrap s 1 (BitVec.ofNat 64 b) (BitVec.ofNat 64 (2 * 2 ^ 60)))))

/-- TRAP, EXIT, SLOOP, YIELD with no ready peer, and the three ends of SNEXT (R138 to R144). CKPT (R140, R369): with checkpoints off it
answers 0; with them on it starts a capture and waits for it; once that capture or a later one has been taken, it answers the
number of the capture that it has waited for. -/
def Obligations.SystemInstructions : Prop :=
  (∀ (d a : SReg) (s u : State), endConvoy s = .ok () u →
    exec (.trap a) s = .next (takeTrap u 9 0 (u.reg a)) ∧
    (∃ t, exec .exit s = .next t ∧ t.cur.status = .ending ∧ t.cur.pc = u.closed.cur.pc ∧ t.mem = u.closed.mem ∧
      t.cur.regs = u.closed.cur.regs) ∧
    (let n := u.cur.place.part
     let last := (u.part n).ckSeq
     (∀ k, u.cur.status = .waiting (.capture k) → k ≤ last → exec (.ckpt d) s = .next ((u.wr d (BitVec.ofNat 64 k)).advance 4)) ∧
     ((∀ k, u.cur.status ≠ .waiting (.capture k)) → u.ckEnabled n = false → exec (.ckpt d) s = .next ((u.wr d 0).advance 4)) ∧
     ((∀ k, u.cur.status ≠ .waiting (.capture k)) → u.ckEnabled n = true → ∃ t, exec (.ckpt d) s = .next t ∧
       t.cur.status = .waiting (.capture (last + 1)) ∧ (t.part n).capturing = true ∧ t.cur.pc = u.cur.pc ∧ t.mem = u.mem ∧
       t.cur.regs = u.cur.regs)) ∧
    exec (.sloop a) s = .next (if u.cur.place.weave then u.advance 4
      else { u with cur := { u.cur with srem := u.reg a, strip := 0 } }.advance 4)) ∧
  (∀ s u : State, endConvoy s = .ok () u → u.cur.status = .ready → u.readyPeers = [] →
    ∃ t, exec .yield s = .next t ∧ t.cur.pc = u.cur.pc + 4 ∧ t.mem = u.mem ∧ t.cur.regs = u.cur.regs) ∧
  (∀ (o : BitVec 24) (s u : State), endConvoy s = .ok () u →
    let n := u.closed.cur.srem.toNat - min u.closed.cur.vl.toNat u.closed.cur.srem.toNat
    (u.closed.cur.place.weave = false →
      ∃ t, exec (.snext o) s = .next t ∧ t.cur.srem = BitVec.ofNat 64 n ∧ t.cur.strip = u.closed.cur.strip + 1 ∧
        t.cur.pc = (if n = 0 then u.closed.cur.pc + 4 else u.closed.parcelsAway o)) ∧
    (u.closed.cur.place.weave = true → n ≠ 0 →
      ∃ t, exec (.snext o) s = .next t ∧ t.cur.srem = BitVec.ofNat 64 n ∧ t.cur.strip = u.closed.cur.strip ∧
        t.cur.pc = u.closed.parcelsAway o)) ∧
  (∀ a : SReg, decode 4 (0x9C000000 + a.val * 2 ^ 14) = .ok (.trap a) ∧
    decode 4 (0x9C000005 + a.val * 2 ^ 14) = .ok (.sloop a))

/-- FENCE (R137): where no posted request of its earlier set is outstanding (R97), it completes, and writes no register but
SCOPEDEM and no memory. Each store that an agent of its earlier set has made or returned is then performed with respect
to its scope, and every later load of an agent of its later set sees it (R96, Table 5-3); after FENCE.ALL so does every
later fetch of the shuttle's own stores (R120). -/
def Obligations.FenceOrders : Prop :=
  ∀ (sc : Fin 8) (k : Fin 4) (s u : State), sc.val ≤ 4 → endConvoy s = .ok () u →
    let early := if k.val = 0 then 1 else if k.val = 3 then 23 else 6
    (3 ≤ sc.val → u.awaiting u.cur (kindMask early) early = false) →
    let vector := if sc.val = 0 then 2 else 6
    let late := (if k.val = 1 ∨ k.val = 3 then 1 else 0) + (if k.val = 1 then 0 else vector)
    ∃ t, exec (.fence sc k) s = .next t ∧ t.cur.pc = u.cur.pc + 4 ∧ t.mem = u.mem ∧ t.poisoned = u.poisoned ∧
      t.cur.regs = u.cur.regs ∧ t.cur.v = u.cur.v ∧
      (t.cur.scopedem = u.cur.scopedem ∨ (sc.val = 4 ∧ u.capped = true ∧ t.cur.scopedem = u.cur.scopedem ||| 1)) ∧
      ∀ x ∈ t.stores, x.seenBy u.cur.uid early = true →
        (x.vis.any fun y => y.1.covers (scopeDom sc.val u.cur.place.core)) = true ∧
        (∀ a ∈ ([1, 2, 4] : List Nat), a &&& late ≠ 0 → x.binds (t.cur.obs a) (t.cur.view a).floor = true) ∧
        (k.val = 3 → x.src = u.cur.uid →
          x.unfetched (t.cur.obs 8) = false ∧ x.binds (t.cur.obs 8) (t.cur.view 8).floor = true)

/-- LAUNCH and LAUNCH.LEND (R145, R32): the record is read as one 64-byte access; an invalid one answers 3; a valid one whose class
queue has room is enqueued and answers 0, once no posted request is outstanding and what came before has been released (R27); where
the queue is full LAUNCH answers 1 and releases nothing, and LAUNCH.LEND parks the child, after the same release, and answers 2, or
answers 1 where it cannot. A
clean record in the local window, which no store is in dispute over, is read so, and both instructions complete. -/
def Obligations.Launches : Prop :=
  (∀ (d a : SReg) (s u w : State) (r : Nat), endConvoy s = .ok () u → loadRecord (u.reg a) u = .ok r w →
    (parseLaunch w w.cur.place.part r = none →
      exec (.launch d a) s = .next ((w.wr d 3).advance 4) ∧ exec (.launchLend d a) s = .next ((w.wr d 3).advance 4)) ∧
    (∀ l, parseLaunch w w.cur.place.part r = some l →
      let y := w.release .chip
      ((w.part l.part).inClass l.cls < 256 → Cert.noPosted w →
        exec (.launch d a) s = .next (((launchNow y l).2.wr d 0).advance 4) ∧
        exec (.launchLend d a) s = .next (((launchNow y l).2.wr d 0).advance 4)) ∧
      (256 ≤ (w.part l.part).inClass l.cls →
        exec (.launch d a) s = .next ((w.wr d 1).advance 4) ∧
        ((lendChild w l).1 = 1 → exec (.launchLend d a) s = .next ((w.wr d 1).advance 4)) ∧
        ((lendChild w l).1 ≠ 1 → Cert.noPosted w →
          exec (.launchLend d a) s = .next (((lendChild y l).2.wr d 2).advance 4))))) ∧
  (∀ (d a : SReg) (s : State) (k : Nat), s.cur.convoy = {} → Cert.noPosted s → Cert.windowKey s (s.reg a).toNat 64 k →
    s.disputed k 64 = false →
    loadRecord (s.reg a) s = .ok (readLE s.mem k 64) s ∧
    (∃ t, exec (.launch d a) s = .next t ∧ t.cur.pc = s.cur.pc + 4 ∧ (t.reg d).toNat ≤ 3 ∧ ∀ r, r ≠ d → t.reg r = s.reg r) ∧
    (∃ t, exec (.launchLend d a) s = .next t ∧ t.cur.pc = s.cur.pc + 4 ∧ (t.reg d).toNat ≤ 3 ∧ ∀ r, r ≠ d → t.reg r = s.reg r))

/-! ## Scalar floating point -/

/-- What a scalar floating-point instruction leaves: its result, as the low bits of sd, and its flags in FFLAGS. -/
def Sys2Proof.Cert.fpResult (s : State) (reads : Nat) (d : SReg) (r : Nat × Nat) : State :=
  let u := s.spanned reads (sMask d)
  (({ u with cur := { u.cur with fflags := u.cur.fflags ||| BitVec.ofNat 64 r.2 } }).wr d (BitVec.ofNat 64 r.1)).advance 4

/-- FADD to FCVT.FN, FMA, FMS, FNMA and FNMS (R147, R148), in F32 and F64: sd receives the result rounded once in FCTL.RM,
or the value of a compare, class or conversion; its flags are set in FFLAGS and no other flag changes; nothing else
changes but the open convoy's record of its span. -/
def Obligations.ScalarFloatingPoint : Prop :=
  (∀ r ∈ ([(.fadd, fun t rm x y => fround t rm (nadd rm x y)), (.fsub, fun t rm x y => fround t rm (nadd rm x y.neg)),
      (.fmul, fun t rm x y => fround t rm (nmul x y)),
      (.fdiv, fun t rm x y => ((fround t rm (ndiv x y).1).1, (fround t rm (ndiv x y).1).2 ||| (ndiv x y).2)),
      (.fmin, fun t rm x y => ((fround t rm (nmin x y).1).1, (nmin x y).2)),
      (.fmax, fun t rm x y => ((fround t rm (nmax x y).1).1, (nmax x y).2)),
      (.fcmpEq, fun _ _ x y => cmpOf 0 x y), (.fcmpLt, fun _ _ x y => cmpOf 2 x y), (.fcmpLe, fun _ _ x y => cmpOf 3 x y)] :
      List ((SReg → SReg → SReg → Bool → Instr) × (Nat → Nat → Machine.Num → Machine.Num → Nat × Nat))),
    ∀ (d a b : SReg) (t : Bool) (s : State), s.breaksSpan (sMask a ||| sMask b) (sMask d) = false →
      exec (r.1 d a b t) s = .next (Cert.fpResult s (sMask a ||| sMask b) d
        (r.2 (sfpType t) s.cur.frm (sfpVal t (s.reg a)) (sfpVal t (s.reg b))))) ∧
  (∀ r ∈ ([(.fsqrt, fun t rm x => fround (sfpType t) rm (nsqrt (sfpVal t x))),
      (.fclass, fun t _ x => (fclass (sfpType t) (sfpBits t x), 0)),
      (.fcvtF, fun t rm x => fround (sfpType t) rm (sfpVal (!t) x)),
      (.fcvtI64, fun t rm x => toInt64 rm true (sfpVal t x)), (.fcvtN64, fun t rm x => toInt64 rm false (sfpVal t x)),
      (.fcvtFi, fun t rm x => fround (sfpType t) rm (ofInt x.toInt)),
      (.fcvtFn, fun t rm x => fround (sfpType t) rm (ofInt x.toNat))] :
      List ((SReg → SReg → Bool → Instr) × (Bool → Nat → Word → Nat × Nat))),
    ∀ (d a : SReg) (t : Bool) (s : State), s.breaksSpan (sMask a) (sMask d) = false →
      exec (r.1 d a t) s = .next (Cert.fpResult s (sMask a) d (r.2 t s.cur.frm (s.reg a)))) ∧
  (∀ r ∈ ([(.fma, false, false), (.fms, false, true), (.fnma, true, false), (.fnms, true, true)] :
      List ((SReg → SReg → SReg → SReg → Bool → Instr) × Bool × Bool)),
    ∀ (d a b c : SReg) (t : Bool) (s : State),
      s.breaksSpan (sMask a ||| sMask b ||| sMask c) (sMask d) = false →
      exec (r.1 d a b c t) s = .next (Cert.fpResult s (sMask a ||| sMask b ||| sMask c) d
        (fmaOf (sfpType t) s.cur.frm r.2.1 r.2.2 (sfpVal t (s.reg a)) (sfpVal t (s.reg b)) (sfpVal t (s.reg c)))))

/-! ## Scalar memory -/

/-- LD, LDA and C.LDSP of local storage (R123, R129, R131, R149): once the open convoy has ended, an aligned address is
translated, its bytes are loaded by the scalar agent (R94), and sd receives them extended; LDA is then an acquire (R99), and
of SYS scope in a capped function sets SCOPEDEM.ACQDEM (R103). A load of the local window (R80, R81): with no convoy
open and no store to its bytes that may still be missed, LD, LDA and C.LDSP from an aligned address below the window's
end return the bytes of the core's own scratchpad at that offset, extended, and change only sd and the pc. -/
def Obligations.ScalarLoads : Prop :=
  (∀ (d a : SReg) (w : Fin 8) (o : BitVec 11) (k : BitVec 6) (s u : State), endConvoy s = .ok () u →
    (∀ (p : Phys) (v time : Nat) (x y : State), w.val < 7 → (u.ea a o).toNat % widthBytes w = 0 →
      translate (u.ea a o).toNat 0 u = .ok p x → p.remote = none →
      loadPlace agScalar p (widthBytes w) x = .ok ⟨v, false, time⟩ y →
      exec (.ld d a w o) s = .next ((y.wr d (widthExt w v)).advance 4) ∧
      let dem := if p.sys = true ∧ y.capped = true then wordSet y.cur.scopedem 2 1 1 else y.cur.scopedem
      exec (.lda d a w o) s =
        .next (({ y with cur := { y.cur with scopedem := dem }.after 7 time }.wr d (widthExt w v)).advance 4)) ∧
    (∀ (p : Phys) (v time : Nat) (x y : State), (u.reg 2 + BitVec.ofNat 64 (8 * k.toNat)).toNat % 8 = 0 →
      translate (u.reg 2 + BitVec.ofNat 64 (8 * k.toNat)).toNat 0 u = .ok p x → p.remote = none →
      loadPlace agScalar p 8 x = .ok ⟨v, false, time⟩ y →
      exec (.cLdsp d k) s = .next ((y.wr d (BitVec.ofNat 64 v)).advance 2))) ∧
  ((∀ (d a : SReg) (w : Fin 8) (o : BitVec 11) (s : State) (k : Nat), w.val < 7 → s.cur.convoy = {} →
    Cert.windowKey s (s.ea a o).toNat (widthBytes w) k → s.disputed k (widthBytes w) = false →
    ∀ i ∈ ([.ld d a w o, .lda d a w o] : List Instr),
      ∃ t, exec i s = .next t ∧ t.cur.pc = s.cur.pc + 4 ∧
        t.reg d = (if d = 0 then 0 else widthExt w (readLE s.mem k (widthBytes w))) ∧
        t.mem = s.mem ∧ t.poisoned = s.poisoned ∧ sameBut d s t) ∧
  (∀ (d : SReg) (o : BitVec 6) (s : State) (k : Nat), s.cur.convoy = {} →
    Cert.windowKey s (s.reg 2 + BitVec.ofNat 64 (8 * o.toNat)).toNat 8 k → s.disputed k 8 = false →
      ∃ t, exec (.cLdsp d o) s = .next t ∧ t.cur.pc = s.cur.pc + 2 ∧
        t.reg d = (if d = 0 then 0 else BitVec.ofNat 64 (readLE s.mem k 8)) ∧
        t.mem = s.mem ∧ t.poisoned = s.poisoned ∧ sameBut d s t))

/-- ST, STL and C.STSP of local storage (R123, R129, R131, R149): an aligned address is translated, and the low bytes of the
register are stored at its key by the scalar agent; STL, once no posted request is outstanding (R97), is a release
before it. In the local window they complete whatever it holds. The bytes of a scalar store: ST of n bytes to local
storage in canonical form leaves every byte outside the n bytes from the key of its address as it was, and every
register as it was; where no earlier store to its bytes may still be missed, the n bytes are the low bytes of s[r], the
lowest first (R4). -/
def Obligations.ScalarStores : Prop :=
  ((∀ (r a : SReg) (w : Fin 8) (o : BitVec 11) (k : BitVec 6) (s u : State), endConvoy s = .ok () u →
    (∀ (p : Phys) (x : State), w.val < 4 → (u.ea a o).toNat % 2 ^ w.val = 0 →
      translate (u.ea a o).toNat 1 u = .ok p x → p.remote = none →
      let v := (u.reg r).toNat % 256 ^ 2 ^ w.val
      exec (.st r a w o) s = .next ((x.storePlace agScalar p (2 ^ w.val) v false).advance 4) ∧
      (Cert.noPosted x →
        let y := (x.release .chip).storePlace agScalar p (2 ^ w.val) v false
        let dem := if p.sys = true ∧ y.capped = true then wordSet y.cur.scopedem 1 1 1 else y.cur.scopedem
        exec (.stl r a w o) s = .next ({ y with cur := { y.cur with scopedem := dem } }.advance 4))) ∧
    (∀ (p : Phys) (x : State), (u.reg 2 + BitVec.ofNat 64 (8 * k.toNat)).toNat % 8 = 0 →
      translate (u.reg 2 + BitVec.ofNat 64 (8 * k.toNat)).toNat 1 u = .ok p x → p.remote = none →
      exec (.cStsp r k) s = .next ((x.storePlace agScalar p 8 (u.reg r).toNat false).advance 2))) ∧
  (∀ (r a : SReg) (w : Fin 8) (o : BitVec 11) (s : State) (key : Nat), s.cur.convoy = {} → w.val < 4 →
    Cert.inWindowAt s (s.ea a o).toNat (2 ^ w.val) key →
    let v := (s.reg r).toNat % 256 ^ 2 ^ w.val
    exec (.st r a w o) s = .next ((s.storeCur agScalar key (2 ^ w.val) v false false).advance 4) ∧
    (Cert.noPosted s →
      exec (.stl r a w o) s = .next (((s.release .chip).storeCur agScalar key (2 ^ w.val) v false false).advance 4))) ∧
  (∀ (r : SReg) (k : BitVec 6) (s : State) (key : Nat), s.cur.convoy = {} →
    Cert.inWindowAt s (s.reg 2 + BitVec.ofNat 64 (8 * k.toNat)).toNat 8 key →
    exec (.cStsp r k) s = .next ((s.storeCur agScalar key 8 (s.reg r).toNat false false).advance 2))) ∧
  (∀ (r a : SReg) (w : Fin 8) (o : BitVec 11) (s u x : State) (p : Phys), w.val < 4 → endConvoy s = .ok () u →
    (u.ea a o).toNat % 2 ^ w.val = 0 → translate (u.ea a o).toNat 1 u = .ok p x → p.remote = none → x.Canonical →
    ∃ t, exec (.st r a w o) s = .next t ∧ t.cur.pc = x.cur.pc + 4 ∧ t.Canonical ∧
      (x.disputed p.key (2 ^ w.val) = false →
        ∀ i, i < 2 ^ w.val → (memRead t.mem (p.key + i)).toNat = (u.reg r).toNat / 256 ^ i % 256) ∧
      sameBytesOutside x t p.key (2 ^ w.val) ∧ t.cur.regs = x.cur.regs ∧ t.cur.v = x.cur.v ∧
      t.cur.fflags = x.cur.fflags ∧ t.cur.estat = x.cur.estat ∧ t.counters = x.counters)

/-- The nine AMO instructions and CAS, which return the old value, sign-extended (R135, R136). What an AMO or a CAS does to
local storage (R89, R135, R136): with no convoy open, at an aligned clean place of the local window, and with no posted
request outstanding where it is a release (R97), it completes: sd receives the old value, sign-extended, the place the
operation's result, or for a CAS that compares equal the new value, and all else is as it was. So it is at any local
place without AQ and RL. The operations are those of Table 6-13. -/
def Obligations.ScalarAtomics : Prop :=
  ((∀ r ∈ ([(.amoSwap, 0), (.amoAdd, 1), (.amoAnd, 2), (.amoOr, 3), (.amoXor, 4), (.amoMin, 5), (.amoMax, 6), (.amoMinn, 7),
      (.amoMaxn, 8)] : List ((SReg → SReg → SReg → Fin 4 → Bool → Instr) × Nat)),
    ∀ (d a b : SReg) (o : Fin 4) (z : Bool) (s u x : State) (old : Nat), endConvoy s = .ok () u →
      let n := if z then 8 else 4
      let v := (u.reg b).toNat % 2 ^ (8 * n)
      scalarAtomic (u.reg a) n o.val (d != 0) r.2 (toBytes v n) (fun y => some (amoResult r.2 n y v)) u = .ok old x →
      exec (r.1 d a b o z) s = .next ((x.wr d (sextW old (if z then 64 else 32))).advance 4)) ∧
  (∀ (d a b c : SReg) (o : Fin 4) (z : Bool) (s u x : State) (old : Nat), endConvoy s = .ok () u →
    let n := if z then 8 else 4
    let v := (u.reg b).toNat % 2 ^ (8 * n)
    let new := (u.reg c).toNat % 2 ^ (8 * n)
    scalarAtomic (u.reg a) n o.val true 9 (toBytes v n ++ toBytes new n) (fun y => if y = v then some new else none) u =
      .ok old x →
    exec (.cas d a b c o z) s = .next ((x.wr d (sextW old (if z then 64 else 32))).advance 4))) ∧
  ((∀ r ∈ ([(.amoSwap, 0), (.amoAdd, 1), (.amoAnd, 2), (.amoOr, 3), (.amoXor, 4), (.amoMin, 5), (.amoMax, 6), (.amoMinn, 7),
      (.amoMaxn, 8)] : List ((SReg → SReg → SReg → Fin 4 → Bool → Instr) × Nat)),
    ∀ (d a b : SReg) (o : Fin 4) (z : Bool) (s : State) (k : Nat), s.cur.convoy = {} → s.Canonical →
      (2 ≤ o.val → Cert.noPosted s) →
      let n := if z then 8 else 4
      Cert.windowKey s (s.reg a).toNat n k →
      ∃ t, exec (r.1 d a b o z) s = .next t ∧ t.cur.pc = s.cur.pc + 4 ∧
        t.reg d = (if d = 0 then 0 else sextW (readLE s.mem k n) (8 * n)) ∧
        readLE t.mem k n = amoResult r.2 n (readLE s.mem k n) ((s.reg b).toNat % 2 ^ (8 * n)) % 256 ^ n ∧
        sameBytesOutside s t k n ∧ t.Canonical ∧ sameBut d s t) ∧
  (∀ (d a b c : SReg) (o : Fin 4) (z : Bool) (s : State) (k : Nat), s.cur.convoy = {} → s.Canonical →
    (2 ≤ o.val → Cert.noPosted s) →
    let n := if z then 8 else 4
    Cert.windowKey s (s.reg a).toNat n k →
    ∃ t, exec (.cas d a b c o z) s = .next t ∧ t.cur.pc = s.cur.pc + 4 ∧
      t.reg d = (if d = 0 then 0 else sextW (readLE s.mem k n) (8 * n)) ∧
      readLE t.mem k n = (if readLE s.mem k n = (s.reg b).toNat % 2 ^ (8 * n) then (s.reg c).toNat % 2 ^ (8 * n)
        else readLE s.mem k n) ∧
      sameBytesOutside s t k n ∧ t.Canonical ∧ sameBut d s t) ∧
  (∀ (va : Word) (n : Nat) (op v : Nat) (data : List Byte) (s x : State) (p : Phys), n = 4 ∨ n = 8 → va.toNat % n = 0 →
    v < 256 ^ n → translate va.toNat 2 s = .ok p x → p.remote = none → markedAny x.poisoned p.key n = false → x.Canonical →
    ∃ t, scalarAtomic va n 0 true op data (fun y => some (amoResult op n y v)) s = .ok (readLE x.mem p.key n) t ∧
      readLE t.mem p.key n = amoResult op n (readLE x.mem p.key n) v % 256 ^ n ∧
      sameBytesOutside x t p.key n ∧ t.cur.regs = x.cur.regs ∧ t.cur.pc = x.cur.pc) ∧
  (∀ n y v : Nat, y < 256 ^ n → v < 256 ^ n → 0 < n →
    amoResult 0 n y v = v ∧ amoResult 1 n y v = (y + v) % 256 ^ n ∧ amoResult 2 n y v = y &&& v ∧
    amoResult 3 n y v = y ||| v ∧ amoResult 4 n y v = y ^^^ v ∧ amoResult 7 n y v = min y v ∧
    amoResult 8 n y v = max y v ∧ (amoResult 5 n y v = y ∨ amoResult 5 n y v = v) ∧
    (amoResult 6 n y v = y ∨ amoResult 6 n y v = v)))

/-- An access that is not aligned to its size traps with MISALIGNED before it is translated, EADDR its address, EINFO 0 for
a load, 1 for a store, 2 for an atomic (R88, Table 6-7), and nothing is written. A virtual address of 2^56 or more traps
with ACCESS, reason 1, and one in the window hole beyond the window with ACCESS, reason 2 (R79, R80, Table 6-7),
whatever the access. -/
def Obligations.ScalarAccessTraps : Prop :=
  (∀ (d a b : SReg) (w : Fin 8) (o : BitVec 11) (q : Fin 4) (z : Bool) (s u : State), endConvoy s = .ok () u →
    (w.val < 7 → (u.ea a o).toNat % widthBytes w ≠ 0 →
      exec (.ld d a w o) s = .next (takeTrap u 4 (u.ea a o) 0) ∧ exec (.lda d a w o) s = .next (takeTrap u 4 (u.ea a o) 0)) ∧
    (w.val < 4 → (u.ea a o).toNat % 2 ^ w.val ≠ 0 →
      exec (.st d a w o) s = .next (takeTrap u 4 (u.ea a o) 1) ∧ exec (.stl d a w o) s = .next (takeTrap u 4 (u.ea a o) 1)) ∧
    ((u.reg a).toNat % (if z then 8 else 4) ≠ 0 →
      exec (.amoAdd d a b q z) s = .next (takeTrap u 4 (u.reg a) 2) ∧
      exec (.cas d a b b q z) s = .next (takeTrap u 4 (u.reg a) 2))) ∧
  (∀ (s : State) (va kind : Nat),
    (2 ^ 56 ≤ va → translate va kind s = .error (.trap 6 (BitVec.ofNat 64 va) 1) s) ∧
    (0x00FFFF0000000000 + 2 ^ 22 ≤ va → va < 2 ^ 56 → translate va kind s = .error (.trap 6 (BitVec.ofNat 64 va) 2) s))

/-! ## Vector members -/

/-- What a member that writes elements reads and writes: group d, operand a, group b, and d itself where it
accumulates. -/
def Sys2Proof.Cert.binUses (s : State) (c : Bool) (d : VReg) (a : Opnd) (b : VReg) (acc : Bool) : Uses :=
  { c := c, rV := a.vmask s.cur.group ||| regMask b.val s.cur.group ||| (if acc then regMask d.val s.cur.group else 0),
    wV := regMask d.val s.cur.group, sR := a.smask }
/-- The issuing shuttle once the elements `es` of group `d` have been written in order, each with its encoding, flags
and poison, and the flags by element, the last first; a poisoned element raises no flag (R195). -/
def Sys2Proof.Cert.written (sh : Shuttle) (d t : Nat) (es : List Nat) (f : Shuttle → Nat → Nat × Nat × Bool) :
    Shuttle × List (Nat × Nat) :=
  es.foldl (fun x e =>
    if (f x.1 e).2.2 then (x.1.putElem d t e (f x.1 e).1 true, x.2)
    else ((x.1.putElem d t e (f x.1 e).1 false).raiseV (f x.1 e).2.1, (e, (f x.1 e).2.1) :: x.2)) (sh, [])
/-- The machine after a member that writes the elements `es` of a group, as far as the convoy still performs them. -/
def Sys2Proof.Cert.memberWrote (ibits : Nat) (u : Uses) (d t k : Nat) (es : List Nat)
    (f : Shuttle → Nat → Nat × Nat × Bool) (s : State) : State :=
  endMember ibits u s.cur
    { k := k, code := t, base := d, wrote := s.cur.below es, flags := (Cert.written s.cur d t (s.cur.below es) f).2 }
    { s with cur := (Cert.written s.cur d t (s.cur.below es) f).1 }
/-- An element-wise function of x, y and the old element, with the poison of its operands. -/
def Sys2Proof.Cert.elementOf (F : Shuttle → Nat → Nat → Nat → Nat × Nat) (a : Option Opnd) (b : Option VReg) (d : VReg) (acc : Bool)
    (sh : Shuttle) (e : Nat) : Nat × Nat × Bool :=
  let x := a.elim (0, false) (·.get sh sh.ety e)
  let y := b.elim (0, false) fun b => sh.elemP b.val sh.ety e
  let r := F sh x.1 y.1 (sh.elem d.val sh.ety e)
  (r.1, r.2, x.2 || y.2 || (acc && sh.elemPois d.val sh.ety e))

/-- A vector member issues (in `s1 = s`) where none of its ILLEGAL checks holds, its features are accepted, it joins an open
convoy without a limit of Table 3-9 being broken, the vector queue is not another convoy's, and no copy interlocks with
its registers (R60, R62, R65, R36, R264); with its C bit it ends the open convoy first. The first limit of Table 3-9
that a member breaks traps with ILLEGAL_CONVOY, with the limit's number as reason and the number of members issued
(R62). -/
def Obligations.MemberIssues : Prop :=
  (∀ (u : Uses) (checks : List (Option Nat)) (feats : List Nat) (s e : State),
    (∀ x ∈ checks, x = none) → (∀ f ∈ feats, s.feature s.cur.place.part f = true) →
    (if u.c = true ∨ s.cur.convoy.isOpen = false then endConvoy s = .ok () e else e = s) →
    limitBroken e.cur.convoy u = none → e.queueTaken e.cur = false → e.interlocked e.cur u.rV u.wV = false →
    startMember 0 u checks feats s = .ok () e) ∧
  (∀ (u : Uses) (s : State) (checks : List (Option Nat)) (r : Nat), (∀ x ∈ checks, x = none) → s.cur.convoy.isOpen = true →
    u.c = false → limitBroken s.cur.convoy u = some r →
    (∃ b, startMember b u checks [] s = .error (.trap 2 (BitVec.ofNat 64 b) (BitVec.ofNat 64 (r * 2 ^ 60 + s.cur.convoy.count))) s) ∧
    (8 ≤ s.cur.convoy.count → r = 1) ∧
    (s.cur.convoy.count < 8 → u.load = true → 2 ≤ s.cur.convoy.loads → r = 2) ∧
    (s.cur.convoy.count < 8 → u.load = false → u.store = true → 1 ≤ s.cur.convoy.stores → r = 3) ∧
    (s.cur.convoy.count < 8 → u.load = false → u.store = false → u.cross = true → 1 ≤ s.cur.convoy.cross → r = 4))

/-- What every vector member leaves beside its effect (R60, R45): the convoy is open and holds one member more, the pc has
moved on by 4, and no scalar register, vector register, predicate, trap register, byte of memory or counter is other
than its effect left it. -/
def Obligations.MemberFrame : Prop :=
  ∀ (b : Nat) (u : Uses) (before : Shuttle) (tr : Trace) (s : State),
    let t := endMember b u before tr s
    t.cur.pc = s.cur.pc + 4 ∧ t.cur.convoy.isOpen = (!before.convoy.isOpen || s.cur.convoy.isOpen) ∧
    t.cur.convoy.count = (if before.convoy.isOpen then s.cur.convoy.count else 0) + 1 ∧
    t.cur.regs = s.cur.regs ∧ t.cur.v = s.cur.v ∧ t.cur.e = s.cur.e ∧ t.cur.p = s.cur.p ∧ t.cur.vflags = s.cur.vflags ∧
    t.cur.fflags = s.cur.fflags ∧ t.cur.priv = s.cur.priv ∧ t.cur.estat = s.cur.estat ∧ t.cur.epc = s.cur.epc ∧
    t.cur.vtype = s.cur.vtype ∧ t.cur.vl = s.cur.vl ∧ t.cur.vstart = s.cur.vstart ∧ t.cur.xstop = s.cur.xstop ∧
    t.mem = s.mem ∧ t.poisoned = s.poisoned ∧ t.counters = s.counters ∧ t.others = s.others

/-- The vector integer instructions in all their forms (R193, R197, R198), with VMERGE and VMOV: once the member issues,
each active element of vd receives the function of Table 9-2 of the operands, with its flags in VFLAGS. VADD_VV element
by element (R198, R153): with VTYPE.SAT at 0 and no fault met, every active element of the group below VLMAX holds the
sum modulo 2^w of the two elements before, every inactive one what it held (R154), and, where VL is not above VLMAX,
every register outside the group what it held. -/
def Obligations.VectorInteger : Prop :=
  ((∀ r ∈ ([(.vaddVv, .vaddVx, .vaddVi, true, false,
        fun t z x y _ => narrow t z (intVal t x + intVal t y)),
      (.vsubVv, .vsubVx, .vsubVi, true, false,
        fun t z x y _ => narrow t z (intVal t x - intVal t y)),
      (.vrsubVv, .vrsubVx, .vrsubVi, true, false,
        fun t z x y _ => narrow t z (intVal t y - intVal t x)),
      (.vmulVv, .vmulVx, .vmulVi, true, false,
        fun t z x y _ => narrow t z (intVal t x * intVal t y)),
      (.vmulhVv, .vmulhVx, .vmulhVi, true, false,
        fun t _ x y _ => (wrapTo (sext x (ebits t) * sext y (ebits t) / 2 ^ ebits t) (ebits t), 0)),
      (.vmulhnVv, .vmulhnVx, .vmulhnVi, true, false,
        fun t _ x y _ => (x * y / 2 ^ ebits t % 2 ^ ebits t, 0)),
      (.vmaddVv, .vmaddVx, .vmaddVi, true, true,
        fun t z x y d => narrow t z (intVal t x * intVal t y + intVal t d)),
      (.vdivVv, .vdivVx, .vdivVi, true, false,
        fun t _ x y _ => (if y = 0 then 2 ^ ebits t - 1 else wrapTo ((sext x (ebits t)).tdiv (sext y (ebits t))) (ebits t), if y = 0 then fDZ else 0)),
      (.vdivnVv, .vdivnVx, .vdivnVi, true, false,
        fun t _ x y _ => (if y = 0 then 2 ^ ebits t - 1 else x / y, if y = 0 then fDZ else 0)),
      (.vremVv, .vremVx, .vremVi, true, false,
        fun t _ x y _ => (if y = 0 then x else wrapTo ((sext x (ebits t)).tmod (sext y (ebits t))) (ebits t), if y = 0 then fDZ else 0)),
      (.vremnVv, .vremnVx, .vremnVi, true, false,
        fun _ _ x y _ => (if y = 0 then x else x % y, if y = 0 then fDZ else 0)),
      (.vandVv, .vandVx, .vandVi, true, false,
        fun t _ x y _ => ((x &&& y) % 2 ^ ebits t, 0)),
      (.vorVv, .vorVx, .vorVi, true, false,
        fun t _ x y _ => ((x ||| y) % 2 ^ ebits t, 0)),
      (.vxorVv, .vxorVx, .vxorVi, true, false,
        fun t _ x y _ => ((x ^^^ y) % 2 ^ ebits t, 0)),
      (.vshlVv, .vshlVx, .vshlVi, false, false,
        fun t _ x y _ => (y * 2 ^ (x % ebits t) % 2 ^ ebits t, 0)),
      (.vshrVv, .vshrVx, .vshrVi, false, false,
        fun t _ x y _ => (y / 2 ^ (x % ebits t), 0)),
      (.vsarVv, .vsarVx, .vsarVi, false, false,
        fun t _ x y _ => (wrapTo (sext y (ebits t) / 2 ^ (x % ebits t)) (ebits t), 0)),
      (.vminVv, .vminVx, .vminVi, true, false,
        fun t _ x y _ => (wrapTo (min (sext x (ebits t)) (sext y (ebits t))) (ebits t), 0)),
      (.vmaxVv, .vmaxVx, .vmaxVi, true, false,
        fun t _ x y _ => (wrapTo (max (sext x (ebits t)) (sext y (ebits t))) (ebits t), 0)),
      (.vminnVv, .vminnVx, .vminnVi, true, false,
        fun t _ x y _ => (min x y % 2 ^ ebits t, 0)),
      (.vmaxnVv, .vmaxnVx, .vmaxnVi, true, false,
        fun t _ x y _ => (max x y % 2 ^ ebits t, 0)),
      (.vsaddVv, .vsaddVx, .vsaddVi, true, false,
        fun t _ x y _ => satS (sext x (ebits t) + sext y (ebits t)) (ebits t)),
      (.vssubVv, .vssubVx, .vssubVi, true, false,
        fun t _ x y _ => satS (sext x (ebits t) - sext y (ebits t)) (ebits t)),
      (.vsaddnVv, .vsaddnVx, .vsaddnVi, true, false,
        fun t _ x y _ => satN ((x : Int) + (y : Int)) (ebits t)),
      (.vssubnVv, .vssubnVx, .vssubnVi, true, false,
        fun t _ x y _ => satN ((x : Int) - (y : Int)) (ebits t)),
      (.vabsdVv, .vabsdVx, .vabsdVi, true, false,
        fun t _ x y _ => ((intVal t x - intVal t y).natAbs % 2 ^ ebits t, 0))] :
      List ((Bool → PReg → VReg → VReg → VReg → Instr) × (Bool → PReg → VReg → SReg → VReg → Instr) ×
        (Bool → PReg → VReg → BitVec 5 → VReg → Instr) × Bool × Bool × (Nat → Bool → Nat → Nat → Nat → Nat × Nat))),
    ∀ (c : Bool) (p : PReg) (d a b : VReg) (x : SReg) (i : BitVec 5) (s s1 : State),
    ∀ q ∈ [(r.1 c p d a b, Opnd.v a), (r.2.1 c p d x b, .x x), (r.2.2.1 c p d i b, .i i r.2.2.2.1)],
      startMember 0 (Cert.binUses s c d q.2 b r.2.2.2.2.1) [typeBad s.cur vintType, groupBad s.cur d.val s.cur.group,
        q.2.bad s.cur, groupBad s.cur b.val s.cur.group] [] s = .ok () s1 →
      ∃ w, exec q.1 s = .next (Cert.memberWrote w (Cert.binUses s c d q.2 b r.2.2.2.2.1) d.val s.cur.ety
        (perGroup s.cur.ety) (s1.cur.active p.val)
        (Cert.elementOf (fun sh => r.2.2.2.2.2 sh.ety sh.sat) (some q.2) (some b) d r.2.2.2.2.1) s1)) ∧
  (∀ (c : Bool) (p : PReg) (d a b : VReg) (x : SReg) (i : BitVec 5) (s s1 : State),
    (∀ q ∈ [(Instr.vmovVv c p d a, Opnd.v a), (.vmovVx c p d x, .x x), (.vmovVi c p d i, .i i true)],
      ∀ u : Uses, u = { c := c, rV := q.2.vmask s.cur.group, wV := regMask d.val s.cur.group, sR := q.2.smask } →
      startMember 0 u [typeBad s.cur moveType, groupBad s.cur d.val s.cur.group, q.2.bad s.cur, none] [] s = .ok () s1 →
      ∃ w, exec q.1 s = .next (Cert.memberWrote w u d.val s.cur.ety (perGroup s.cur.ety) (s1.cur.active p.val)
        (Cert.elementOf (fun _ x _ _ => (x, 0)) (some q.2) none d false) s1)) ∧
    (∀ q ∈ [(Instr.vmergeVv c p d a b, Opnd.v a), (.vmergeVx c p d x b, .x x), (.vmergeVi c p d i b, .i i true)],
      startMember 0 (Cert.binUses s c d q.2 b false) [typeBad s.cur moveType, groupBad s.cur d.val s.cur.group,
        q.2.bad s.cur, groupBad s.cur b.val s.cur.group] [] s = .ok () s1 →
      ∃ w, exec q.1 s = .next (Cert.memberWrote w (Cert.binUses s c d q.2 b false) d.val s.cur.ety (perGroup s.cur.ety)
        s1.cur.elems (fun sh e => if sh.pbit p.val e then ((q.2.get sh sh.ety e).1, 0, (q.2.get sh sh.ety e).2)
          else (sh.elem b.val sh.ety e, 0, sh.elemPois b.val sh.ety e)) s1)))) ∧
  (∀ (c : Bool) (p : PReg) (d a b : VReg) (s s1 : State), s1.cur.convoy.fault = none → s1.cur.sat = false →
    startMember 0 (Cert.binUses s c d (.v a) b false) [typeBad s.cur vintType, groupBad s.cur d.val s.cur.group,
      groupBad s.cur a.val s.cur.group, groupBad s.cur b.val s.cur.group] [] s = .ok () s1 →
    ∃ t, exec (.vaddVv c p d a b) s = .next t ∧
      (∀ e, e < s1.cur.vlmax → t.cur.elem d.val s1.cur.ety e =
        if s1.cur.vstart.toNat ≤ e ∧ e < s1.cur.vl.toNat ∧ s1.cur.pbit p.val e = true then
          (s1.cur.elem a.val s1.cur.ety e + s1.cur.elem b.val s1.cur.ety e) % 2 ^ ebits s1.cur.ety
        else s1.cur.elem d.val s1.cur.ety e) ∧
      (s1.cur.vl.toNat ≤ s1.cur.vlmax → ∀ r, r < d.val ∨ d.val + s1.cur.group ≤ r → t.cur.vreg r = s1.cur.vreg r) ∧
      t.cur.regs = s1.cur.regs ∧ t.cur.p = s1.cur.p ∧ t.cur.e = s1.cur.e ∧ t.mem = s1.mem ∧ t.cur.vflags = s1.cur.vflags)

/-- The vector floating-point instructions and VCVT (R199 to R204, R171): once the member issues, each active element of vd
receives the result of the operation, rounded in VTYPE.RM, with its flags in VFLAGS; products of F64 elements take the
split factors of R167. -/
def Obligations.VectorFloatingPoint : Prop :=
  (∀ r ∈ ([(.vfaddVv, .vfaddVx, false, fun sh x y _ => fround sh.ety sh.rm (nadd sh.rm (fdecode sh.ety x) (fdecode sh.ety y))),
      (.vfsubVv, .vfsubVx, false, fun sh x y _ => fround sh.ety sh.rm (nadd sh.rm (fdecode sh.ety x) (fdecode sh.ety y).neg)),
      (.vfmulVv, .vfmulVx, false, fun sh x y _ => fround sh.ety sh.rm (nmul (sh.factor x) (sh.factor y))),
      (.vfdivVv, .vfdivVx, false, fun sh x y _ => divOf sh.ety sh.rm (fdecode sh.ety x) (fdecode sh.ety y)),
      (.vfminVv, .vfminVx, false, fun sh x y _ => minOf sh.ety sh.rm (fdecode sh.ety x) (fdecode sh.ety y)),
      (.vfmaxVv, .vfmaxVx, false, fun sh x y _ => maxOf sh.ety sh.rm (fdecode sh.ety x) (fdecode sh.ety y)),
      (.vfmaVv, .vfmaVx, true, fun sh x y d => fmaOf sh.ety sh.rm false false (sh.factor x) (sh.factor y) (fdecode sh.ety d)),
      (.vfmsVv, .vfmsVx, true, fun sh x y d => fmaOf sh.ety sh.rm false true (sh.factor x) (sh.factor y) (fdecode sh.ety d)),
      (.vfnmaVv, .vfnmaVx, true, fun sh x y d => fmaOf sh.ety sh.rm true false (sh.factor x) (sh.factor y) (fdecode sh.ety d))] :
      List ((Bool → PReg → VReg → VReg → VReg → Instr) × (Bool → PReg → VReg → SReg → VReg → Instr) × Bool ×
        (Shuttle → Nat → Nat → Nat → Nat × Nat))),
    ∀ (c : Bool) (p : PReg) (d a b : VReg) (x : SReg) (s s1 : State),
    ∀ q ∈ [(r.1 c p d a b, Opnd.v a), (r.2.1 c p d x b, .x x)],
      startMember 0 (Cert.binUses s c d q.2 b r.2.2.1) [typeBad s.cur vfpType, groupBad s.cur d.val s.cur.group,
        q.2.bad s.cur, groupBad s.cur b.val s.cur.group] [] s = .ok () s1 →
      ∃ w, exec q.1 s = .next (Cert.memberWrote w (Cert.binUses s c d q.2 b r.2.2.1) d.val s.cur.ety
        (perGroup s.cur.ety) (s1.cur.active p.val) (Cert.elementOf r.2.2.2 (some q.2) (some b) d r.2.2.1) s1)) ∧
  (∀ r ∈ ([(.vfsqrt, vfpType, fun sh y => fround sh.ety sh.rm (nsqrt (fdecode sh.ety y))),
      (.vfabs, vfpType, fun sh y => vfSign false sh 0 y 0), (.vfneg, vfpType, fun sh y => vfSign true sh 0 y 0),
      (.vfclass, vfpType, fun sh y => (fclass sh.ety y, 0)),
      (.vfrcp, isF32, fun sh y => vfTrans rcpSpecial rcpVal sh 0 y 0),
      (.vfrsq, isF32, fun sh y => vfTrans rsqSpecial (fun _ n d => rsqVal n d) sh 0 y 0),
      (.vfexp2, isF32, fun sh y => vfTrans exp2Special exp2Val sh 0 y 0),
      (.vflog2, isF32, fun sh y => vfTrans log2Special (fun _ n d => log2Val n d) sh 0 y 0)] :
      List ((Bool → PReg → VReg → VReg → Instr) × (Nat → Bool) × (Shuttle → Nat → Nat × Nat))),
    ∀ (c : Bool) (p : PReg) (d b : VReg) (s s1 : State) (u : Uses),
      u = { c := c, rV := regMask b.val s.cur.group, wV := regMask d.val s.cur.group } →
      startMember 0 u [typeBad s.cur r.2.1, groupBad s.cur d.val s.cur.group, none, groupBad s.cur b.val s.cur.group] [] s =
        .ok () s1 →
      ∃ w, exec (r.1 c p d b) s = .next (Cert.memberWrote w u d.val s.cur.ety (perGroup s.cur.ety) (s1.cur.active p.val)
        (fun sh e => ((r.2.2 sh (sh.elem b.val sh.ety e)).1, (r.2.2 sh (sh.elem b.val sh.ety e)).2,
          sh.elemPois b.val sh.ety e)) s1)) ∧
  (∀ (c : Bool) (p : PReg) (d b : VReg) (e : ECode) (o q g : Bool) (m : Fin 4) (s s1 : State) (u : Uses),
    u = { c := c, rV := regMask b.val (grpOf s.cur.vlen e.val s.cur.vlmax), wV := regMask d.val s.cur.group,
          rE := (if s.cur.scaled e.val then 2 ^ (b.val / 4) else 0) ||| (if s.cur.scaled s.cur.ety then 2 ^ (d.val / 4) else 0) } →
    startMember 0 u [unless2 (e.val != 0x0F), groupBad s.cur d.val s.cur.group,
      groupBad s.cur b.val (grpOf s.cur.vlen e.val s.cur.vlmax), scaleBad s.cur b.val e.val, scaleBad s.cur d.val s.cur.ety]
      ((if isQ e.val then [10] else []) ++ (if g then [17] else [])) s = .ok () s1 →
    ∃ w, exec (.vcvt c p d e b o q g m) s = .next (Cert.memberWrote w u d.val s.cur.ety (perGroup s.cur.ety)
      (s1.cur.active p.val) (fun sh i =>
        let sr := if g || sh.sr then some (srValue sh.vseed.toNat sh.strip.toNat sh.srem.toNat sh.position i) else none
        let r := convert e.val s.cur.ety { rm := if o then m.val else sh.rm, sr := sr, sat := q || sh.sat }
          (sh.unscale d.val i s.cur.ety (sh.val b.val i e.val).1).1
        (r.1, r.2, (sh.val b.val i e.val).2 || (sh.unscale d.val i s.cur.ety (sh.val b.val i e.val).1).2)) s1))

/-- VCMP and VCMPX (R206 to R208): once the member issues and no operand is poisoned, VCMP writes bit e of pd for each
active element, and VCMPX writes ones below the first element whose compare is true and zeros from it on, XSTOP the
element, or VL where there is none, and raises the flags of the compares up to it; unordered compares raise NV by Table
7-4. A poisoned operand of a compare is consumed (R195, R359): the elements before it are compared, nothing is written
from it on, and the convoy has met POISON_CONSUMED of consumer kind 4 at that element, which it takes when it ends
(R221); an element whose remote accesses have still to be made is judged once they have been. -/
def Obligations.VectorCompares : Prop :=
  ((∀ r ∈ ([(.vcmpEq, 0), (.vcmpNe, 1), (.vcmpLt, 2), (.vcmpLe, 3), (.vcmpGt, 4), (.vcmpGe, 5)] :
      List ((Bool → PReg → Bool → PReg → Fin 32 → VReg → Bool → Instr) × Nat)),
    ∀ (c : Bool) (p q : PReg) (z n : Bool) (a : Fin 32) (b : VReg) (s s1 : State) (u : Uses) (x : Opnd),
      x = (if z then .x a else .v a) →
      u = { c := c, rV := x.vmask s.cur.group ||| regMask b.val s.cur.group, wP := if q = 0 then 0 else 2 ^ q.val,
            sR := x.smask } →
      startMember 0 u [typeBad s.cur (cmpType n), x.bad s.cur, groupBad s.cur b.val s.cur.group] [] s = .ok () s1 →
      (∀ e ∈ s1.cur.below (s1.cur.active p.val), (x.get s1.cur s1.cur.ety e).2 = false ∧
        s1.cur.elemPois b.val s1.cur.ety e = false) →
      let k (e : Nat) := cmpEnc r.2 s1.cur.ety n (x.get s1.cur s1.cur.ety e).1 (s1.cur.elem b.val s1.cur.ety e)
      let es := s1.cur.below (s1.cur.active p.val)
      ∃ w, exec (r.1 c p z q a b n) s = .next (endMember w u s1.cur
        { k := perGroup s1.cur.ety, wrote := es, flags := es.map fun e => (e, (k e).2) }
        { s1 with cur := es.foldl (fun y e => (y.setPbit q.val e ((k e).1 == 1)).raiseV (k e).2) s1.cur })) ∧
  (∀ r ∈ ([(.vcmpxEq, 0), (.vcmpxNe, 1), (.vcmpxLt, 2), (.vcmpxLe, 3), (.vcmpxGt, 4), (.vcmpxGe, 5)] :
      List ((Bool → PReg → Bool → PReg → Fin 32 → VReg → Bool → Instr) × Nat)),
    ∀ (c : Bool) (p q : PReg) (z n : Bool) (a : Fin 32) (b : VReg) (s s1 : State) (u : Uses) (x : Opnd),
      x = (if z then .x a else .v a) →
      u = { c := c, cross := true, rV := x.vmask s.cur.group ||| regMask b.val s.cur.group,
            wP := if q = 0 then 0 else 2 ^ q.val, sR := x.smask } →
      startMember 0 u [typeBad s.cur (cmpType n), x.bad s.cur, groupBad s.cur b.val s.cur.group] [] s = .ok () s1 →
      (∀ e ∈ s1.cur.present p.val, (x.get s1.cur s1.cur.ety e).2 = false ∧ s1.cur.elemPois b.val s1.cur.ety e = false) →
      let k (e : Nat) := cmpEnc r.2 s1.cur.ety n (x.get s1.cur s1.cur.ety e).1 (s1.cur.elem b.val s1.cur.ety e)
      let es := s1.cur.present p.val
      let stop := (es.find? fun e => (k e).1 == 1).getD s1.cur.vl.toNat
      let fl := (es.filter fun e => decide (e ≤ stop)).foldl (fun m e => m ||| (k e).2) 0
      ∃ w, exec (r.1 c p z q a b n) s = .next (endMember w u s1.cur
        { k := perGroup s1.cur.ety, wrote := es, flags := [(s1.cur.vl.toNat - 1, fl)] }
        { s1 with cur := { (es.foldl (fun y e => y.setPbit q.val e (decide (e < stop))) s1.cur).raiseV fl with
            xstop := BitVec.ofNat 64 stop } }))) ∧
  (∀ (c : Bool) (p q : PReg) (n : Bool) (a b : VReg) (s s1 : State) (u : Uses) (e : Nat),
    u = { c := c, rV := regMask a.val s.cur.group ||| regMask b.val s.cur.group, wP := if q = 0 then 0 else 2 ^ q.val } →
    startMember 0 u [typeBad s.cur (cmpType n), groupBad s.cur a.val s.cur.group, groupBad s.cur b.val s.cur.group] [] s =
      .ok () s1 →
    s1.cur.convoy.fault = none → s1.cur.convoy.unsettled e = false →
    (s1.cur.active p.val).find? (fun e => s1.cur.elemPois a.val s1.cur.ety e || s1.cur.elemPois b.val s1.cur.ety e) = some e →
    ∃ t, exec (.vcmpEq c p false q a b n) s = .next t ∧
      t.cur.convoy.fault = some { elem := e, member := s1.cur.convoy.count, cause := 7, eaddr := 0, einfo := 4 } ∧
      (∀ i, e ≤ i → t.cur.pbit q.val i = s1.cur.pbit q.val i) ∧
      (∀ i r, r ≠ q.val → t.cur.pbit r i = s1.cur.pbit r i) ∧ t.cur.v = s1.cur.v ∧ t.cur.regs = s1.cur.regs ∧ t.mem = s1.mem)

/-- Predicate logic and first-set (R209, R210, R156): once the member issues, pd receives the function of its sources at the
active elements, PSBF, PSIF and PSOF at the present ones; PPOPC and PFIRST write a count, or the first index or all
ones, to sd. -/
def Obligations.PredicateLogic : Prop :=
  ∀ (c : Bool) (p d a b : PReg) (x : SReg) (s s1 : State),
  (∀ q ∈ ([(.pand c p d a b, 2 ^ a.val ||| 2 ^ b.val, fun sh e => sh.pbit a.val e && sh.pbit b.val e),
      (.por c p d a b, 2 ^ a.val ||| 2 ^ b.val, fun sh e => sh.pbit a.val e || sh.pbit b.val e),
      (.pxor c p d a b, 2 ^ a.val ||| 2 ^ b.val, fun sh e => sh.pbit a.val e != sh.pbit b.val e),
      (.pandn c p d a b, 2 ^ a.val ||| 2 ^ b.val, fun sh e => sh.pbit a.val e && !sh.pbit b.val e),
      (.pnot c p d b, 2 ^ b.val, fun sh e => !sh.pbit b.val e), (.pmov c p d b, 2 ^ b.val, fun sh e => sh.pbit b.val e),
      (.pset c p d, 0, fun _ _ => true)] : List (Instr × Nat × (Shuttle → Nat → Bool))),
    ∀ u : Uses, u = { c := c, rP := q.2.1, wP := if d = 0 then 0 else 2 ^ d.val } →
      startMember 0 u [] [] s = .ok () s1 →
      let es := s1.cur.below (s1.cur.active p.val)
      ∃ w, exec q.1 s = .next (endMember w u s1.cur
        { k := perGroup s1.cur.ety, wrote := es, flags := es.map fun e => (e, 0) }
        { s1 with cur := es.foldl (fun y e => (y.setPbit d.val e (q.2.2 s1.cur e)).raiseV 0) s1.cur })) ∧
  (let first := ((s1.cur.present p.val).find? fun e => s1.cur.pbit b.val e).getD s1.cur.vl.toNat
   (∀ q ∈ ([(.psbf c p d b, fun e => decide (e < first)), (.psif c p d b, fun e => decide (e ≤ first)),
       (.psof c p d b, fun e => e == first)] : List (Instr × (Nat → Bool))),
     ∀ u : Uses, u = { c := c, cross := true, rP := 2 ^ b.val, wP := if d = 0 then 0 else 2 ^ d.val } →
       startMember 0 u [] [] s = .ok () s1 →
       ∃ w, exec q.1 s = .next (endMember w u s1.cur { k := perGroup s1.cur.ety, wrote := s1.cur.present p.val }
         { s1 with cur := (s1.cur.present p.val).foldl (fun y e => y.setPbit d.val e (q.2 e)) s1.cur })) ∧
   (∀ u : Uses, u = { c := c, cross := true, rP := 2 ^ b.val, sW := sMask x } → startMember 0 u [] [] s = .ok () s1 →
     (∃ w, exec (.ppopc c p x b) s = .next (endMember w u s1.cur { k := perGroup s1.cur.ety }
       (s1.wr x (BitVec.ofNat 64 ((s1.cur.present p.val).filter fun e => s1.cur.pbit b.val e).length)))) ∧
     (∃ w, exec (.pfirst c p x b) s = .next (endMember w u s1.cur { k := perGroup s1.cur.ety }
       (s1.wr x (if first < s1.cur.vl.toNat then BitVec.ofNat 64 first else BitVec.allOnes 64))))))

/-- The reductions (R166, R211): once the member issues and no present element is poisoned, sd receives the result of the
tree, or of the sequence for VRSUM.O, over the present elements and the initial value of s[a], extended by the type. The
tree of R166 loses nothing: for integers that wrap, it is the sum of the present elements and the initial value modulo
2^w, whatever the number of elements and the guard; so is the sequence. -/
def Obligations.Reductions : Prop :=
  (∀ r ∈ ([(.vrsum, false, sumType, fun sh => opAdd sh.ety sh.rm sh.sat), (.vrsumO, true, sumType, fun sh => opAdd sh.ety sh.rm sh.sat),
      (.vrmax, false, sumType, fun sh => redMax sh.ety sh.rm), (.vrmin, false, sumType, fun sh => redMin sh.ety sh.rm),
      (.vrmaxn, false, isInt, fun _ x y => (max x y, 0)), (.vrminn, false, isInt, fun _ x y => (min x y, 0)),
      (.vrand, false, isInt, fun _ x y => (x &&& y, 0)), (.vror, false, isInt, fun _ x y => (x ||| y, 0)),
      (.vrxor, false, isInt, fun _ x y => (x ^^^ y, 0))] :
      List ((Bool → PReg → SReg → SReg → VReg → Instr) × Bool × (Nat → Bool) × (Shuttle → Nat → Nat → Nat × Nat))),
  ∀ (c : Bool) (p : PReg) (d a : SReg) (b : VReg) (s s1 : State) (u : Uses),
    u = { c := c, cross := true, rV := regMask b.val s.cur.group, sR := sMask a, sW := sMask d } →
    startMember 0 u [typeBad s.cur r.2.2.1, groupBad s.cur b.val s.cur.group] [] s = .ok () s1 →
    (∀ e ∈ s1.cur.present p.val, s1.cur.elemPois b.val s1.cur.ety e = false) →
    let xs := (List.range s1.cur.vl.toNat).map fun e =>
      if s1.cur.pbit p.val e then some (s1.cur.elem b.val s1.cur.ety e) else none
    let init := (s1.reg a).toNat % 2 ^ ebits s1.cur.ety
    let v := if r.2.1 then seqSum (r.2.2.2 s1.cur) init xs else treeSum (r.2.2.2 s1.cur) init xs
    let ext := if isSignedInt s1.cur.ety then sextW v.1 (ebits s1.cur.ety) else BitVec.ofNat 64 v.1
    ∃ w, exec (r.1 c p d a b) s = .next (endMember w u s1.cur
      { k := perGroup s1.cur.ety, flags := [(s1.cur.vl.toNat - 1, v.2)] }
      { s1 with cur := (s1.cur.wr d ext).raiseV v.2 })) ∧
  (∀ (t init : Nat) (rm : Nat) (xs : List (Option Nat)), isInt t = true → init < 2 ^ ebits t →
    (∀ x ∈ xs, ∀ v, x = some v → v < 2 ^ ebits t) →
    treeSum (opAdd t rm false) init xs = ((init + (xs.map (·.getD 0)).sum) % 2 ^ ebits t, 0) ∧
    seqSum (opAdd t rm false) init xs = ((init + (xs.map (·.getD 0)).sum) % 2 ^ ebits t, 0))

/-- The permutes and scans (R212): once the member issues, vd receives the elements that Table 9-10 gives, with their
poison; VSCAN's running value starts from s[a]; VMVS writes sd, VMVV one element. -/
def Obligations.Permutes : Prop :=
  ∀ (c : Bool) (p : PReg) (d a b : VReg) (x y : SReg) (s s1 : State),
  let t := s1.cur.ety
  let es := s1.cur.present p.val
  let vl := s1.cur.vl.toNat
  let el (n : VReg) (e : Nat) := s1.cur.elemP n.val t e
  (∀ q ∈ ([(.vslup c p d x b, permType, [b], sMask x, (es.filter fun e => decide ((s1.reg x).toNat ≤ e)).map fun e =>
        (e, el b (e - (s1.reg x).toNat))),
      (.vsldn c p d x b, permType, [b], sMask x, es.map fun e =>
        (e, if e + (s1.reg x).toNat < vl then el b (e + (s1.reg x).toNat) else (0, false))),
      (.vperm c p d a b, permType, [a, b], 0, es.map fun e =>
        (e, if s1.cur.elem a.val t e < vl then el b (s1.cur.elem a.val t e) else (0, false))),
      (.vcomp c p d b, permType, [b], 0, es.zipIdx.map fun i => (i.2, el b i.1)),
      (.vxpnd c p d b, permType, [b], 0, es.zipIdx.map fun i => (i.1, el b i.2)),
      (.viota c p d, isInt, [], 0, es.zipIdx.map fun i => (i.1, i.2 % 2 ^ ebits t, false))] :
      List (Instr × (Nat → Bool) × List VReg × Nat × List (Nat × Nat × Bool))),
    ∀ u : Uses, u = { c := c, cross := true, rV := q.2.2.1.foldl (fun m r => m ||| regMask r.val s.cur.group) 0,
                      wV := regMask d.val s.cur.group, sR := q.2.2.2.1 } →
    startMember 0 u ([typeBad s.cur q.2.1, groupBad s.cur d.val s.cur.group,
        unless2 ((u.rV &&& regMask d.val s.cur.group) == 0)] ++ q.2.2.1.map fun r => groupBad s.cur r.val s.cur.group) [] s =
      .ok () s1 →
    (∀ e ∈ es, q.1 = .vperm c p d a b → s1.cur.elemPois a.val t e = false) →
    ∃ w, exec q.1 s = .next (endMember w u s1.cur
      { k := perGroup t, code := t, base := d.val, wrote := q.2.2.2.2.map (·.1), flags := [(vl - 1, 0)] }
      { s1 with cur := (q.2.2.2.2.foldl (fun z i => z.putElem d.val t i.1 i.2.1 i.2.2) s1.cur).raiseV 0 })) ∧
  (∀ u : Uses, u = { c := c, cross := true, rV := regMask b.val s.cur.group, wV := regMask d.val s.cur.group, sR := sMask x } →
    startMember 0 u [typeBad s.cur sumType, groupBad s.cur d.val s.cur.group,
      unless2 ((regMask b.val s.cur.group &&& regMask d.val s.cur.group) == 0), groupBad s.cur b.val s.cur.group] [] s =
      .ok () s1 →
    let r := scanFrom (opAdd t s1.cur.rm s1.cur.sat) ((s1.reg x).toNat % 2 ^ ebits t) false (es.map fun e => (e, el b e))
    ∃ w, exec (.vscan c p d x b) s = .next (endMember w u s1.cur
      { k := perGroup t, code := t, base := d.val, wrote := r.1.map (·.1), flags := [(vl - 1, r.2)] }
      { s1 with cur := (r.1.foldl (fun z i => z.putElem d.val t i.1 i.2.1 i.2.2) s1.cur).raiseV r.2 })) ∧
  (∀ u : Uses, u = { c := c, cross := true, rV := regMask b.val s.cur.group, sR := sMask x, sW := sMask y } →
    startMember 0 u [typeBad s.cur permType, groupBad s.cur b.val s.cur.group] [] s = .ok () s1 →
    (s1.reg x).toNat < vl → s1.cur.elemPois b.val t (s1.reg x).toNat = false →
    ∃ w, exec (.vmvs c y x b) s = .next (endMember w u s1.cur { k := perGroup t }
      (s1.wr y (if isSignedInt t then sextW (el b (s1.reg x).toNat).1 (ebits t)
        else BitVec.ofNat 64 (el b (s1.reg x).toNat).1)))) ∧
  (∀ u : Uses, u = { c := c, cross := true, wV := regMask d.val s.cur.group, sR := sMask x ||| sMask y } →
    startMember 0 u [typeBad s.cur permType, groupBad s.cur d.val s.cur.group] [] s = .ok () s1 →
    let ws := if (s1.reg y).toNat < vl then [(s1.reg y).toNat] else []
    ∃ w, exec (.vmvv c d x y) s = .next (endMember w u s1.cur { k := perGroup t, code := t, base := d.val, wrote := ws }
      { s1 with cur := ws.foldl (fun z i => z.putElem d.val t i ((s1.reg x).toNat % 2 ^ ebits t) false) s1.cur }))

/-- The narrow-family instructions (R213, R214): VQADD to VQMAC and VQSHR write QFit of their result to each active element;
VQDOT writes the sum of products of each block of 32 to the I32 elements of vd. VSCL.FIT writes the fitted scale bytes
of vb's F32 elements, and VSCL.MOV the scale bytes of another scale register, all read before any is written (R172,
R173). -/
def Obligations.NarrowFamily : Prop :=
  ∀ (c : Bool) (p : PReg) (d a b : VReg) (s s1 : State),
  (∀ q ∈ ([(.vqadd c p d a b, false, fun sh e => (qVal sh a.val e + qVal sh b.val e, 0)),
      (.vqsub c p d a b, false, fun sh e => (qVal sh a.val e - qVal sh b.val e, 0)),
      (.vqmul c p d a b, false, fun sh e => (qVal sh a.val e * qVal sh b.val e, 0)),
      (.vqmac c p d a b, true, fun sh e => (qVal sh d.val e + qVal sh a.val e * qVal sh b.val e, 0)),
      (.vqshr c p d a b, false, fun sh e =>
        let r := roundInt sh.rm (decide (qVal sh b.val e < 0)) (qVal sh b.val e).natAbs (2 ^ sh.elem a.val sh.ety e)
        (r.1, if r.2 then fNX else 0))] : List (Instr × Bool × (Shuttle → Nat → Int × Nat))),
    ∀ u : Uses, u = { c := c, rV := regMask a.val s.cur.group ||| regMask b.val s.cur.group |||
        (if q.2.1 then regMask d.val s.cur.group else 0), wV := regMask d.val s.cur.group } →
    startMember 0 u [typeBad s.cur isQ, groupBad s.cur d.val s.cur.group, groupBad s.cur a.val s.cur.group,
      groupBad s.cur b.val s.cur.group] [10] s = .ok () s1 →
    ∃ w, exec q.1 s = .next (Cert.memberWrote w u d.val s.cur.ety (perGroup s.cur.ety) (s1.cur.active p.val)
      (fun sh e =>
        let r := q.2.2 sh e
        ((qfit sh.ety sh.sat r.1).1, (qfit sh.ety sh.sat r.1).2 ||| r.2,
          sh.elemPois a.val sh.ety e || sh.elemPois b.val sh.ety e || (q.2.1 && sh.elemPois d.val sh.ety e))) s1)) ∧
  (∀ u : Uses, u = { c := c, rV := regMask a.val s.cur.group ||| regMask b.val s.cur.group, wV := regMask d.val 1 } →
    startMember 0 u [typeBad s.cur isQ, groupBad s.cur d.val 1, groupBad s.cur a.val s.cur.group,
      groupBad s.cur b.val s.cur.group, unless2 ((u.rV &&& regMask d.val 1) == 0)] [10] s = .ok () s1 →
    s1.cur.convoy.fault = none → ∃ t, exec (.vqdot c p d a b) s = .next t ∧ t.cur.pc = s1.cur.pc + 4 ∧
      t.cur.regs = s1.cur.regs ∧ t.mem = s1.mem ∧
      ∀ j, ceilDiv s1.cur.vstart.toNat 32 ≤ j → j < ceilDiv s1.cur.vl.toNat 32 → j < perOf s1.cur.vlen 0x02 →
        t.cur.elem d.val 0x02 j = (narrow 0x02 s1.cur.sat ((((List.range 32).map (32 * j + ·)).filter fun e =>
          decide (e < s1.cur.vl.toNat) && s1.cur.pbit p.val e).map fun e =>
            qVal s1.cur a.val e * qVal s1.cur b.val e).sum).1) ∧
  (∀ (k j : EReg) (g : Nat), g = grpOf s.cur.vlen cF32 s.cur.vlmax →
    (∀ u : Uses, u = { c := c, cross := true, rV := regMask b.val g, wE := 2 ^ k.val } →
      startMember 0 u [unless2 (scalable s.cur.ety), scaleRegBad s.cur k, wideBad s.cur b.val g] [11] s = .ok () s1 →
      let js := List.range (ceilDiv s1.cur.vl.toNat 32)
      ∃ w, exec (.vsclFit c p k b) s = .next (endMember w u s1.cur
        { k := perGroup s1.cur.ety, code := 0x04, base := k.val, per := 32, wrote := js }
        { s1 with cur := js.foldl (fun y i => y.putScale k.val i (fitByte s1.cur p b i).1 (fitByte s1.cur p b i).2) s1.cur })) ∧
    (∀ u : Uses, u = { c := c, rE := 2 ^ j.val, wE := 2 ^ k.val } →
      startMember 0 u [scaleRegBad s.cur k, scaleRegBad s.cur j] [11] s = .ok () s1 → s1.cur.convoy.fault = none →
      (∀ i ∈ s1.cur.scaleBytes, 32 * i < 2 ^ 64) →
      ∃ w, exec (.vsclMov c k j) s = .next (endMember w u s1.cur
        { k := perGroup s1.cur.ety, code := 0x04, base := k.val, per := 32, wrote := s1.cur.scaleBytes }
        { s1 with cur := s1.cur.scaleBytes.foldl (fun y i =>
            y.putScale k.val i (s1.cur.scaleByte j.val i) (s1.cur.scalePois j.val i)) s1.cur })))

/-! ## Vector memory -/

/-- The bits of an element put together from its accesses, each with the bytes that it loaded; and whether one of them is
poisoned. -/
def Sys2Proof.Cert.gathered (val : Piece × Phys → Nat × Bool) : Probed → Nat × Bool
  | .good ps => ((ps.map fun q => (val q).1 / 2 ^ q.1.sb % 2 ^ q.1.w * 2 ^ q.1.se).sum, ps.any fun q => (val q).2)
  | _ => (0, false)
/-- The bytes of an access in storage, with their poison. -/
def Sys2Proof.Cert.stored (s : State) (q : Piece × Phys) : Nat × Bool := (readLE s.mem q.2.key q.1.n, markedAny s.poisoned q.2.key q.1.n)
/-- Every access of what a probe has found is of this chip's storage, chains behind no copy of the shuttle (R264), and no store
to its bytes may still be missed or waits in the open convoy. -/
def Sys2Proof.Cert.allLocal (s : State) (xs : List (Item × Probed)) : Prop :=
  ∀ x ∈ xs, ∃ ps, x.2 = .good ps ∧ ∀ q ∈ ps, q.2.remote = none ∧
    (q.2.win = true → s.cur.chained (q.1.va - windowBase) q.1.n = false) ∧ s.disputed q.2.key q.1.n = false ∧
    ∀ b ∈ s.cur.convoy.buffer, b.remote = none → b.key + b.n ≤ q.2.key ∨ q.2.key + q.1.n ≤ b.key

/-- The five forms of VLD, and VSCL.LD (R172, R174 to R184): once the member issues and its probe finds every element in
local storage, each active element of vd (each scale byte) receives the bits at its address, in element order, with the
poison of its bytes; the pc moves on by 4 and memory and every scalar register are unchanged. An element that faults in
the probe traps before the member has any effect (R216 to R219), with EINFO[63] set, the member's position, the probe
bit and the element: for a unit-stride VLD whose first active element is misaligned the cause is MISALIGNED, EADDR its
address. -/
def Obligations.VectorLoads : Prop :=
  (∀ (c : Bool) (p : PReg) (d : VReg) (a : SReg) (x : Fin 32) (n : Bool) (k : EReg) (s s1 s2 : State)
    (found : List (Item × Probed)),
    s2.cur.convoy.fault = none → s2.cur.requests = [] →
    let val := Cert.stored s2
    (∀ r ∈ ([(.vld c p d a n, .unit, false), (.vldS c p d a x n, .strided x, false), (.vldX c p d a x n, .indexed x, false),
        (.vldFf c p d a n, .unit, true), (.vldP c p d a x n, .plane x, false)] : List (Instr × Mode × Bool)),
      ∀ u : Uses, u = { c := c, load := true, rV := r.2.1.index s.cur, wV := regMask d.val s.cur.group,
                        index := r.2.1.index s.cur, sR := sMask a ||| r.2.1.smask } →
      startMember 0 u [unless2 (r.2.1.typeOk s.cur.ety), groupBad s.cur d.val s.cur.group, r.2.1.bad s.cur,
        unless2 ((regMask d.val s.cur.group &&& r.2.1.index s.cur) == 0)] r.2.1.feats s = .ok () s1 →
      probe 0 2 r.2.2 (candidates s1.cur c p) (r.2.1.hint s1.cur)
        (probed s1.cur (candidates s1.cur c p) p (r.2.1.item s1.cur (s1.reg a).toNat)) s1 = .ok (found, none) s2 →
      Cert.allLocal s2 (onlyActive s1.cur p found) →
      ∃ t, exec r.1 s = .next t ∧ t.cur.pc = s2.cur.pc + 4 ∧ t.mem = s2.mem ∧ t.cur.regs = s2.cur.regs ∧ t.cur.p = s2.cur.p ∧
        t.cur.vl = s2.cur.vl ∧
        t.cur.v = ((onlyActive s1.cur p found).foldl (fun sh y =>
          sh.putElem d.val s.cur.ety y.1.i (Cert.gathered val y.2).1 (Cert.gathered val y.2).2) s2.cur).v) ∧
    (∀ u : Uses, u = { c := c, load := true, wE := 2 ^ k.val, sR := sMask a } →
      startMember 0 u [scaleRegBad s.cur k] [11] s = .ok () s1 →
      probe 0 2 false false (scaleHint s1.cur) (s1.cur.scaleBytes.map (scaleItem (s1.reg a).toNat)) s1 =
        .ok (found, none) s2 →
      Cert.allLocal s2 found →
      ∃ t, exec (.vsclLd c k a) s = .next t ∧ t.cur.pc = s2.cur.pc + 4 ∧ t.mem = s2.mem ∧ t.cur.regs = s2.cur.regs ∧
        t.cur.v = s2.cur.v ∧
        t.cur.e = (found.foldl (fun sh y =>
          sh.putScale k.val y.1.i (Cert.gathered val y.2).1 (Cert.gathered val y.2).2) s2.cur).e)) ∧
  (∀ (c : Bool) (p : PReg) (d : VReg) (a : SReg) (n : Bool) (s s1 : State) (u : Uses) (e : Nat) (es : List Nat),
    u = { c := c, load := true, wV := regMask d.val s.cur.group, sR := sMask a } → 8 ≤ ebits s.cur.ety →
    isQ s.cur.ety = false →
    startMember 0 u [none, groupBad s.cur d.val s.cur.group, none, none] [] s = .ok () s1 →
    candidates s1.cur c p = false → s1.cur.active p.val = e :: es →
    let va := ((s1.reg a).toNat + e * (ebits s.cur.ety / 8)) % 2 ^ 64
    va % (ebits s.cur.ety / 8) ≠ 0 →
    ∃ v : State, exec (.vld c p d a n) s = .next (takeTrap v 4 (BitVec.ofNat 64 va)
        (BitVec.ofNat 64 (2 ^ 63 + s1.cur.convoy.count % 8 * 2 ^ 60 + 2 ^ 59 + e % 2 ^ 18 * 2 ^ 32))) ∧
      v.cur.v = s1.cur.v ∧ v.cur.regs = s1.cur.regs ∧ v.cur.convoy = s1.cur.convoy)

/-- The stores that an element leaves: for each of its accesses the place, the bytes, the bits of them that it writes, its
poison. -/
def Sys2Proof.Cert.left (v : Nat × Bool) (e : Nat) : Probed → List (Nat × Nat × Nat × Nat × Nat × Bool)
  | .good ps => ps.map fun q =>
    (e, q.2.key, q.1.n, v.1 / 2 ^ q.1.se % 2 ^ q.1.w * 2 ^ q.1.sb, (2 ^ q.1.w - 1) * 2 ^ q.1.sb, v.2)
  | _ => []

/-- The five forms of VST, and VSCL.ST (R172, R174 to R190, R220): once the member issues and its probe finds every element,
none of them poisoned, its convoy holds the element's bytes for the element's place, in element order, to be performed
when the element commits; memory and every register but the pc are unchanged. -/
def Obligations.VectorStores : Prop :=
  ∀ (c : Bool) (p : PReg) (d : VReg) (a : SReg) (x : Fin 32) (n : Bool) (k : EReg) (s s1 s2 : State)
    (found : List (Item × Probed)),
    s2.cur.convoy.fault = none →
    let kept (t : State) := t.cur.convoy.buffer.map fun b => (b.elem, b.key, b.n, b.v, b.mask, b.pois)
    let before := if s1.cur.convoy.isOpen then kept s2 else []
    (∀ r ∈ ([(.vst c p d a n, .unit), (.vstS c p d a x n, .strided x), (.vstX c p d a x n, .indexed x),
        (.vstXo c p d a x n, .indexed x), (.vstP c p d a x n, .plane x)] : List (Instr × Mode)),
      ∀ u : Uses, u = { c := c, store := true, rV := r.2.index s.cur ||| regMask d.val s.cur.group, index := r.2.index s.cur,
                        sR := sMask a ||| r.2.smask } →
      startMember 0 u [unless2 (r.2.typeOk s.cur.ety), groupBad s.cur d.val s.cur.group, r.2.bad s.cur] r.2.feats s =
        .ok () s1 →
      probe 1 2 false (candidates s1.cur c p) (r.2.hint s1.cur)
        (probed s1.cur (candidates s1.cur c p) p (r.2.item s1.cur (s1.reg a).toNat)) s1 = .ok (found, none) s2 →
      (∀ y ∈ onlyActive s1.cur p found, ∃ ps, y.2 = .good ps ∧ s2.cur.elemPois d.val s.cur.ety y.1.i = false) →
      ∃ t, exec r.1 s = .next t ∧ t.cur.pc = s2.cur.pc + 4 ∧ t.mem = s2.mem ∧ t.cur.regs = s2.cur.regs ∧
        t.cur.v = s2.cur.v ∧ t.cur.p = s2.cur.p ∧
        kept t = before ++ (onlyActive s1.cur p found).flatMap fun y =>
          Cert.left (s2.cur.elem d.val s.cur.ety y.1.i, false) y.1.e y.2) ∧
    (∀ u : Uses, u = { c := c, store := true, rE := 2 ^ k.val, sR := sMask a } →
      startMember 0 u [scaleRegBad s.cur k] [11] s = .ok () s1 →
      probe 1 2 false false (scaleHint s1.cur) (s1.cur.scaleBytes.map (scaleItem (s1.reg a).toNat)) s1 =
        .ok (found, none) s2 →
      (∀ y ∈ found, ∃ ps, y.2 = .good ps ∧ s2.cur.scalePois k.val y.1.i = false) →
      ∃ t, exec (.vsclSt c k a) s = .next t ∧ t.cur.pc = s2.cur.pc + 4 ∧ t.mem = s2.mem ∧ t.cur.regs = s2.cur.regs ∧
        t.cur.v = s2.cur.v ∧ t.cur.e = s2.cur.e ∧
        kept t = before ++ found.flatMap fun y => Cert.left (s2.cur.scaleByte k.val y.1.i, false) y.1.e y.2)

/-- The nine VAMOs (R191, R192, R220), with and without return: once the member issues and its probe finds every element,
clean and aligned, in this chip's storage, the member completes and storage is as it was; where the instruction returns,
vd receives the value before of each element whose place no other element's touches. Where it opens its convoy, the end
of the convoy performs each such element's operation at its place once, and every byte outside the places is unchanged.
-/
def Obligations.VectorAtomics : Prop :=
  ∀ q ∈ ([(.vamoSwap, 0), (.vamoAdd, 1), (.vamoAnd, 2), (.vamoOr, 3), (.vamoXor, 4), (.vamoMin, 5), (.vamoMax, 6),
      (.vamoMinn, 7), (.vamoMaxn, 8)] : List ((Bool → PReg → VReg → SReg → VReg → Bool → Instr) × Nat)),
  ∀ (c : Bool) (p : PReg) (d : VReg) (a : SReg) (b : VReg) (ret : Bool) (s s1 s2 : State) (u : Uses)
    (found : List (Item × Probed)) (at_ : Nat → Nat),
    let m := Mode.indexed b
    let w := ebits s.cur.ety / 8
    let dm := regMask d.val s.cur.group
    u = { c := c, load := true, store := true, rV := m.index s.cur ||| dm, wV := if ret then dm else 0,
          index := m.index s.cur, sR := sMask a } →
    startMember 0 u [unless2 (s.cur.ety == 0x02 || s.cur.ety == 0x03 || s.cur.ety == 0x06 || s.cur.ety == 0x07),
      groupBad s.cur d.val s.cur.group, m.bad s.cur, unless2 (!ret || (dm &&& m.index s.cur) == 0)] [] s = .ok () s1 →
    s1.cur.vl.toNat ≤ s1.cur.vlmax → (∀ e, s1.cur.elemPois d.val s.cur.ety e = false) →
    probe 2 6 false (candidates s1.cur c p) (m.hint s1.cur)
      (probed s1.cur (candidates s1.cur c p) p (m.item s1.cur (s1.reg a).toNat)) s1 = .ok (found, none) s2 →
    s2.cur.convoy.fault = none → s2.cur.requests = [] → s2.Canonical →
    (∀ x ∈ onlyActive s1.cur p found, ∃ pc ph, x.2 = .good [(pc, ph)] ∧ ph.remote = none ∧ ph.key = at_ x.1.e ∧
      (ph.win = true → s2.cur.chained (pc.va - windowBase) pc.n = false) ∧ markedAny s2.poisoned ph.key w = false) →
    let alone (x : Item × Probed) : Prop := ∀ y ∈ onlyActive s1.cur p found, y.1.e ≠ x.1.e →
      at_ y.1.e + w ≤ at_ x.1.e ∨ at_ x.1.e + w ≤ at_ y.1.e
    ∃ t, exec (q.1 c p d a b ret) s = .next t ∧ t.cur.pc = s2.cur.pc + 4 ∧ t.cur.regs = s2.cur.regs ∧ t.cur.p = s2.cur.p ∧
      t.mem = s2.mem ∧ t.poisoned = s2.poisoned ∧ (ret = false → t.cur.v = s2.cur.v) ∧
      (ret = true → ∀ x ∈ onlyActive s1.cur p found, alone x →
        t.cur.elem d.val s.cur.ety x.1.e = readLE s2.mem (at_ x.1.e) w) ∧
      (s1.cur.convoy.isOpen = false → s2.cur.posted = [] → s2.cur.convoy.wants = [] → s2.cur.again = none → ∃ v, endConvoy t = .ok () v ∧
        (∀ x ∈ onlyActive s1.cur p found, alone x → readLE v.mem (at_ x.1.e) w =
          amoResult q.2 w (readLE s2.mem (at_ x.1.e) w) (s1.cur.elem d.val s.cur.ety x.1.e) % 256 ^ w) ∧
        (∀ k, (∀ x ∈ onlyActive s1.cur p found, k < at_ x.1.e ∨ at_ x.1.e + w ≤ k) → memRead v.mem k = memRead s2.mem k))

/-! ## Vector configuration and context -/

/-- VSETL and VSETT (R155, R169, R170): a legal VTYPE value is set, VL is the least of the request (SREM for a = s0) and the
new VLMAX, and is written to sd; VSTART is 0; the pc moves on by 4; memory, other registers, vectors and predicates
stay. VSETB (R270): once the open convoy has ended, with the bobbin not idle and its prefix beyond s[b] by k elements,
VL becomes the least of VL and k and is written to sd, whatever the state of the bobbin where k is not 0; with k at 0 a
done bobbin gives 0, a failed one traps with BOBBIN, reason 3; an idle one always traps with reason 4. VCTX.SV and
VCTX.RS (R226): with no matrix instruction of the shuttle queued and no copy on its registers, the section at s[a], or
at CTXPTR + 1,024 for a = s0, is written, or read and becomes the home section; a misaligned one traps with MISALIGNED.
A section of the local window with no store in dispute is written, and read where it is clean and may be restored. -/
def Obligations.SetVectorLength : Prop :=
  (∀ (d a b : SReg) (i : BitVec 14) (s u : State), endConvoy s = .ok () u →
    ∀ r ∈ ([(.vsetl d a i, wordSet s.cur.vtype 0 14 i.toNat), (.vsett d a b, s.reg b)] : List (Instr × Word)),
      vtypeBad s s.cur.place.part r.2.toNat = none →
      ∃ t, exec r.1 s = .next t ∧ t.cur.vtype = r.2 ∧ t.cur.vstart = 0 ∧
        t.cur.vl = BitVec.ofNat 64 (min (if a = 0 then s.cur.srem else s.reg a).toNat t.cur.vlmax) ∧
        t.reg d = (if d = 0 then 0 else t.cur.vl) ∧ (∀ q, q ≠ d → t.reg q = u.reg q) ∧ t.cur.pc = u.cur.pc + 4 ∧
        t.mem = u.mem ∧ t.cur.v = u.cur.v ∧ t.cur.p = u.cur.p ∧ t.cur.vflags = u.cur.vflags) ∧
  (∀ (d : SReg) (n : Bob) (b : SReg) (s u : State), endConvoy s = .ok () u →
    let x := u.cur.bobbins[n]
    let k := 8 * (x.prefixLen - (u.reg b).toNat) / ebits u.cur.ety
    (x.st ≠ .idle → k ≠ 0 ∨ x.st = .done → ∃ t, exec (.vsetb d n b) s = .next t ∧
      t.cur.vl = BitVec.ofNat 64 (min u.cur.vl.toNat k) ∧ t.reg d = (if d = 0 then 0 else t.cur.vl) ∧
      (∀ q, q ≠ d → t.reg q = u.reg q) ∧ t.cur.pc = u.cur.pc + 4 ∧ t.mem = u.mem ∧ t.cur.vtype = u.cur.vtype) ∧
    (x.st = .failed → k = 0 → exec (.vsetb d n b) s =
      .next (takeTrap u 0xB 0 (BitVec.ofNat 64 (x.fcause * 2 ^ 16 + n.val * 2 ^ 8 + 3)))) ∧
    (x.st = .idle → exec (.vsetb d n b) s = .next (takeTrap u 0xB 0 (BitVec.ofNat 64 (n.val * 2 ^ 8 + 4))))) ∧
  ((∀ (a : SReg) (s u : State), endConvoy s = .ok () u →
    ((u.core u.cur.place.core).matQueue.contains u.cur.uid) = false → u.interlocked u.cur (2 ^ 32 - 1) (2 ^ 32 - 1) = false →
    let at_ := if a = 0 then u.cur.ctxptr + 1024 else u.reg a
    let route := if a = 0 then Route.gpa else .va
    (at_.toNat % 256 = 0 →
      (∀ t, saveVector route true 2 at_.toNat (u.cur.homeIsCtx == (a == 0) && u.cur.homeBase == at_) u = .ok () t →
        exec (.vctxSv a) s = .next (t.advance 4)) ∧
      (∀ t, (∀ bad : Nat × Nat → M Unit, restoreVector route 2 at_.toNat bad u = .ok () t) →
        exec (.vctxRs a) s = .next (({ t with cur := { t.cur with homeIsCtx := a == 0, homeBase := at_ } } : State).advance 4))) ∧
    (at_.toNat % 256 ≠ 0 → exec (.vctxSv a) s = .next (takeTrap u 4 at_ 1) ∧ exec (.vctxRs a) s = .next (takeTrap u 4 at_ 0))) ∧
  (∀ (a : SReg) (s : State), a ≠ 0 → s.cur.convoy = {} → s.Canonical →
    ((s.core s.cur.place.core).matQueue.contains s.cur.uid) = false → s.interlocked s.cur (2 ^ 32 - 1) (2 ^ 32 - 1) = false →
    let V := (s.reg a).toNat
    let n := 256 + 47 * s.cur.vlen
    let k := 2 ^ 52 + 2 ^ 22 * s.cur.place.core + (V - 0x00FFFF0000000000)
    V % 256 = 0 → 0x00FFFF0000000000 ≤ V → V + n ≤ 0x00FFFF0000000000 + 2 ^ 22 → s.disputed k n = false →
    (∀ i, i < 40 → (s.cur.sreg i).extent ≤ s.cur.vlen) →
    (∃ t, exec (.vctxSv a) s = .next t ∧ t.cur.pc = s.cur.pc + 4 ∧ t.cur.regs = s.cur.regs ∧ t.cur.v = s.cur.v ∧
      t.cur.e = s.cur.e ∧ t.cur.p = s.cur.p ∧ readLE t.mem k 8 = s.cur.vl.toNat ∧
      readLE t.mem (k + 8) 8 = s.cur.vtype.toNat ∧ readLE t.mem (k + 16) 8 = s.cur.vstart.toNat ∧ sameBytesOutside s t k n) ∧
    (sectionBad s (readLE s.mem k 64) (readLE s.mem (k + 64) 160) = none → markedAny s.poisoned k n = false →
      ∃ t, exec (.vctxRs a) s = .next t ∧ t.cur.pc = s.cur.pc + 4 ∧ t.cur.regs = s.cur.regs ∧ t.mem = s.mem ∧
        t.cur.vl.toNat = readLE s.mem k 8 ∧ t.cur.vtype.toNat = readLE s.mem (k + 8) 8 ∧
        t.cur.vstart.toNat = readLE s.mem (k + 16) 8 ∧ t.cur.hwemap = 0 ∧ t.cur.homeIsCtx = false ∧
        t.cur.homeBase = s.reg a)))

/-! ## The matrix unit -/

/-- MAT.ATT, MAT.DET and MAT.SHP (R231, R235 to R237), with feature 8 accepted and no tile operation of the shuttle queued:
a bad request answers 2 in bits [63:62], an array that another shuttle's attachment holds 1; MAT.DET clears the tiles; a
legal shape is set, its number of tiles written to sd and the tiles of an attached shuttle cleared. -/
def Obligations.MatrixAttachment : Prop :=
  ∀ (d a : SReg) (s u : State), s.feature s.cur.place.part 8 = true → endConvoy s = .ok () u →
    ((u.core u.cur.place.core).matQueue.contains u.cur.uid) = false →
    let q := (u.reg a).toNat
    let k := u.core u.cur.place.core
    (q = 0 ∨ 1024 < q ∨ q % 128 ≠ 0 →
      exec (.matAtt d a) s = .next ((u.wr d (BitVec.ofNat 64 (2 * 2 ^ 62))).advance 4)) ∧
    (q ≠ 0 → q ≤ 1024 → q % 128 = 0 → ∀ o, k.attached = some o → o ≠ u.cur.uid → u.cur.lentFrom ≠ some o →
      exec (.matAtt d a) s = .next ((u.wr d (BitVec.ofNat 64 (2 ^ 62))).advance 4)) ∧
    (q ≠ 0 → q ≤ 1024 → q % 128 = 0 → k.attached = none → k.claim = none →
      let k1 := if u.cur.attached then k else k.zeroTiles
      let since := if u.cur.status == .waiting .matrixGrant then k.matSince else u.clock
      let u1 := u.setCore u.cur.place.core { k1 with attached := some u.cur.uid, matReq := q, matSince := since }
      let u2 : State := { u1 with cur := { u.cur with attached := true, matReq := q } }
      let w := arrangeRows u2 (u.cur.place.core / 4)
      let rows := (w.loom (u.cur.place.core / 4)).rows (u.cur.place.core % 4)
      min q (w.fairShare (u.cur.place.core / 4)) ≤ rows →
      exec (.matAtt d a) s = .next ((w.wr d (BitVec.ofNat 64 rows)).advance 4)) ∧
    (u.cur.attached = false → exec .matDet s = .next (u.advance 4)) ∧
    (u.cur.attached = true →
      let w := detachCore u u.cur.place.core
      exec .matDet s = .next (({ w with cur := { w.cur with attached := false, matReq := 0 } } : State).advance 4)) ∧
    (shapeBad (u.reg a).toNat = false → ∃ t, exec (.matShp d a) s = .next t ∧ t.cur.mshape = shapeWord (u.reg a).toNat ∧
      t.reg d = (if d = 0 then 0 else BitVec.ofNat 64 (shapeTiles (u.reg a).toNat)) ∧ t.cur.pc = u.cur.pc + 4 ∧
      t.mem = u.mem ∧ (u.cur.attached = true → (t.core u.cur.place.core).tiles = Vector.replicate 4 {}))

/-- What a tile operation needs to issue (R230, R234, R238): its checks and features pass, the shuttle is attached, fewer than 16
operations are queued, no copy holds its registers. -/
def Sys2Proof.Cert.tileIssues (s u : State) (tl : TReg) (checks : List (Option Nat)) (feats : List Nat) (rV wV : Nat) : Prop :=
  (∀ x ∈ tileBad s.cur tl :: checks, x = none) ∧ (∀ f ∈ 8 :: feats, s.feature s.cur.place.part f = true) ∧
  endConvoy s = .ok () u ∧ u.cur.attached = true ∧ (u.core u.cur.place.core).matQueue.length < 16 ∧
  u.interlocked u.cur rV wV = false
/-- The machine after a tile operation whose effect left `v`: it stands in the core's matrix queue, the pc has moved on by
8. -/
def Sys2Proof.Cert.tileDone (core : Nat) (v : State) : State :=
  (v.setCore core { v.core core with matQueue := (v.core core).matQueue ++ [v.cur.uid] }).advance 8

/-- The tile operations that read and write registers and tiles (R241 to R247): MZERO clears a tile, MROW and MWROW move a
row, MOP and MOPS add the rank-1 product of two groups, under the guard, to a tile, its flags in VFLAGS. A tile
operation of a shuttle that is not attached traps with MATRIX_DETACHED, EINFO the tile and the core's rows (R230). An
outer product element by element (R241, R244): with the rows and the columns each named once, element (i, j) of the tile
receives T + x · y, rounded once, whatever the order in which the array performs the elements, and every element whose
row or column is not named keeps its value. -/
def Obligations.TileOperations : Prop :=
  (∀ (tl : TReg) (va vb : VReg) (sa : SReg) (p : PReg) (s u : State),
    let core := u.cur.place.core
    let m := s.cur.mshape.toNat
    let r := (s.reg sa).toNat
    let g := grpOf s.cur.vlen (accType m) (shapeCols m)
    let js := List.range (shapeCols m)
    (Cert.tileIssues s u tl [] [] 0 0 → exec (.mzero tl) s = .next (Cert.tileDone core (u.setTile tl {}))) ∧
    (Cert.tileIssues s u tl [unless2 (decide (r < shapeRows m)), groupBad s.cur va.val g] [] 0 (regMask va.val g) →
      u.cur.mshape = s.cur.mshape → 
      let sh := js.foldl (fun y j => y.putElem va.val (accType m) j ((u.tile tl).get m r j) ((u.tile tl).pois m r j)) u.cur
      exec (.mrow tl va sa) s = .next (Cert.tileDone core { u with cur := sh })) ∧
    (Cert.tileIssues s u tl [unless2 (decide (r < shapeRows m)), groupBad s.cur va.val g] [] (regMask va.val g) 0 →
      u.cur.mshape = s.cur.mshape → exec (.mwrow tl va sa) s = .next (Cert.tileDone core (u.setTile tl
        (js.foldl (fun T j => T.put m r j (u.cur.elem va.val (accType m) j) (u.cur.elemPois va.val (accType m) j))
          (u.tile tl))))) ∧
    (∀ (A B : ECode) (sc : Bool) (ea eb : EReg),
      let scaleOk (t : Nat) (k : EReg) : Option Nat :=
        if !sc then none
        else if !scalable t then (if k = 0 then none else some 3)
        else if s.cur.place.escl ≤ k.val then some 5 else none
      let ga := grpOf s.cur.vlen A.val s.cur.vl.toNat
      let gb := grpOf s.cur.vlen B.val (shapeCols m)
      Cert.tileIssues s u tl [unless2 (mopPair m A.val B.val sc), unless2 (decide (s.cur.vl.toNat ≤ shapeRows m)),
          scaleOk A.val ea, scaleOk B.val eb, groupBad s.cur va.val ga, groupBad s.cur vb.val gb]
        ((if isQ A.val || isQ B.val then [10] else []) ++ (if sc then [11] else []))
        (regMask va.val ga ||| regMask vb.val gb) 0 → u.cur.mshape = s.cur.mshape →
      let xs := ((List.range u.cur.vl.toNat).filter fun i => u.cur.pbit p.val i).map fun i => (i, mVal u.cur sc va.val i A.val ea.val)
      let w := outer m u.cur.sat xs (js.map fun j => (j, mVal u.cur sc vb.val j B.val eb.val)) (u.tile tl)
      let v : State := { u with cur := u.cur.raiseV w.2 }
      exec (.mop p tl va vb A B sc ea eb) s = .next (Cert.tileDone core (v.setTile tl w.1))) ∧
    (∀ (A B : ECode),
      let ga := grpOf s.cur.vlen cF64 s.cur.vl.toNat
      let gb := grpOf s.cur.vlen cF64 (shapeCols m)
      let split (n : VReg) (i : Nat) := (splitVal u.cur.sl (u.cur.elem n.val cF64 i), u.cur.elemPois n.val cF64 i)
      Cert.tileIssues s u tl [unless2 (shapeAcc m == 1), unless2 (decide (s.cur.vl.toNat ≤ shapeRows m)),
          groupBad s.cur va.val ga, groupBad s.cur vb.val gb] [9] (regMask va.val ga ||| regMask vb.val gb) 0 →
      u.cur.mshape = s.cur.mshape →
      let xs := ((List.range u.cur.vl.toNat).filter fun i => u.cur.pbit p.val i).map fun i => (i, split va i)
      let w := outer m u.cur.sat xs (js.map fun j => (j, split vb j)) (u.tile tl)
      let v : State := { u with cur := u.cur.raiseV w.2 }
      exec (.mops p tl va vb A B) s = .next (Cert.tileDone core (v.setTile tl w.1)))) ∧
  (∀ (tl : TReg) (s u : State), (tileBad s.cur tl = none) → s.feature s.cur.place.part 8 = true → endConvoy s = .ok () u →
    u.cur.attached = false →
    exec (.mzero tl) s = .next (takeTrap u 0xA 0 (BitVec.ofNat 64
      (tl.val + (u.loom (u.cur.place.core / 4)).rows (u.cur.place.core % 4) * 2 ^ 16)))) ∧
  (∀ (m : Nat) (sat : Bool) (xs ys : List (Nat × Machine.Num × Bool)) (t : Tile), (xs.map (·.1)).Nodup → (ys.map (·.1)).Nodup →
    (∀ y ∈ ys, y.1 < shapeCols m) →
    (∀ x ∈ xs, ∀ y ∈ ys, (outer m sat xs ys t).1.get m x.1 y.1 =
      (accumulate (accType m) sat (t.get m x.1 y.1) x.2.1 y.2.1).1 % 2 ^ (8 * accBytes m)) ∧
    (∀ i j, j < shapeCols m → ((∀ x ∈ xs, x.1 ≠ i) ∨ ∀ y ∈ ys, y.1 ≠ j) →
      (outer m sat xs ys t).1.get m i j = t.get m i j))

/-- MTLD and MTST (R246): once issued and with every access of the tile probed, MTLD sets each element to what its address
holds where no store to it may still be missed, and MTST leaves at each such address that no other element's touches the
element's bytes, every byte outside the tile's addresses being unchanged. Of a tile whose addresses are aligned and in
the local window both complete. -/
def Obligations.TileMemory : Prop :=
  ∀ (tl : TReg) (sa sb : SReg) (s u : State), Cert.tileIssues s u tl [] [] 0 0 →
    let core := u.cur.place.core
    let m := u.cur.mshape.toNat
    let n := accBytes m
    (∀ (x : State) (xs : List ((Nat × Nat × Nat) × Phys)),
      (tileProbe 0 n (tileAccesses m (u.reg sa) (u.reg sb)) u = .ok xs x → (∀ y ∈ xs, x.disputed y.2.key n = false) →
        exec (.mtld tl sa sb) s = .next (Cert.tileDone core (x.setTile tl (xs.foldl (fun T y =>
          T.put m y.1.1 y.1.2.1 (readLE x.mem y.2.key n) (markedAny x.poisoned y.2.key n)) (x.tile tl))))) ∧
      (tileProbe 1 n (tileAccesses m (u.reg sa) (u.reg sb)) u = .ok xs x → x.Canonical →
        (∀ y ∈ xs, (u.tile tl).pois m y.1.1 y.1.2.1 = false) →
        ∃ t, exec (.mtst tl sa sb) s = .next t ∧ t.cur.pc = u.cur.pc + 8 ∧ t.cur.regs = u.cur.regs ∧ t.cur.v = u.cur.v ∧
          (t.core core).tiles = (u.core core).tiles ∧
          (∀ y ∈ xs, x.disputed y.2.key n = false → (∀ z ∈ xs, z ≠ y → z.2.key + n ≤ y.2.key ∨ y.2.key + n ≤ z.2.key) →
            readLE t.mem y.2.key n = (u.tile tl).get m y.1.1 y.1.2.1) ∧
          (∀ k, (∀ y ∈ xs, k < y.2.key ∨ y.2.key + n ≤ k) → memRead t.mem k = memRead x.mem k))) ∧
    ((∀ y ∈ tileAccesses m (u.reg sa) (u.reg sb), y.2.2 % n = 0 ∧ 0x00FFFF0000000000 ≤ y.2.2 ∧
        y.2.2 < 0x00FFFF0000000000 + 2 ^ 22) →
      ∀ i ∈ ([.mtld tl sa sb, .mtst tl sa sb] : List Instr), ∃ t, exec i s = .next t ∧ t.cur.pc = u.cur.pc + 8)

/-! ## Copies and bobbins -/

/-- The eight forms of CPY (R250, R253, R255): once its checks pass, with room in the queue and no copy holding its
registers, the command joins the queue, its bobbin is busy, and the pc moves on; a command of length 0 is done at once
and adds 1 to its counter, where CPCTL.CEN is 1. Memory and the scalar registers are unchanged. The checks of a copy
(R253, Table 14-2): a busy or failed bobbin gives BOBBIN, reason 1; then a length or a fold that breaks the form's
limits reason 2; then its operands reason 2; a counter of another partition ACCESS, reason 6; where none of them holds,
the command captures the operands, CPCTL, the owner and the translation context. -/
def Obligations.CopyIssue : Prop :=
  (∀ (n : Bob) (a b c : SReg) (s u w : State) (cmd : Cmd),
    ∀ r ∈ ([(.cpyMs, 0), (.cpySm, 1), (.cpyMr, 2), (.cpyRm, 3), (.cpyRr, 4), (.cpyMm, 5), (.cpyGs, 6), (.cpyLz, 7)] :
      List ((Bob → SReg → SReg → SReg → Instr) × Nat)),
    let x : CopyIn := { form := r.2, a := s.reg a, b := s.reg b, c := s.reg c, fa := a.val, fb := b.val, fc := c.val }
    x.groupBad s.cur = none → s.feature s.cur.place.part 12 = true →
    (r.2 = 7 → s.feature s.cur.place.part 13 = true) → endConvoy s = .ok () u →
    buildCmd x n.val (some n.val) u = .ok cmd w → w.interlocked w.cur (x.regs w.cur).1 (x.regs w.cur).2 = false →
    w.copyQueued w.cur.place.core < 64 →
    ∃ t, exec (r.1 n a b c) s = .next t ∧ t.cur.pc = w.cur.pc + 4 ∧ t.cur.regs = w.cur.regs ∧ t.mem = w.mem ∧
      (cmd.len ≠ 0 →
        t.cmds = w.cmds ++ [{ cmd with key := w.nextKey, floor := (w.release (.loom (w.cur.place.core / 4))).now }] ∧ (t.cur.bobbins[n]).st = .busy ∧
        t.counters = w.counters) ∧
      (cmd.len = 0 → (t.cur.bobbins[n]).st = .done ∧ (cmd.cen = false → t.counters = w.counters ∧ t.cmds = w.cmds) ∧ (cmd.cen = true → t.counter cmd.ctr = w.counter cmd.ctr + 1)) ∧
      (t.cur.bobbins[n]).form = r.2 ∧ (t.cur.bobbins[n]).len = cmd.len ∧ (t.cur.bobbins[n]).written = 0 ∧
      (∀ q : Bob, q ≠ n → t.cur.bobbins[q] = w.cur.bobbins[q])) ∧
  (∀ (x : CopyIn) (n : Bob) (s : State), x.form ≠ 6 →
    let st := (s.cur.bobbins[n]).st
    (st = .busy ∨ st = .failed →
      buildCmd x n.val (some n.val) s = .error (.trap 0xB 0 (BitVec.ofNat 64 (n.val * 2 ^ 8 + 1))) s) ∧
    (st = .idle ∨ st = .done → x.lenBad s.cur = true ∨ x.foldBad s.cur = true ∨ x.operandBad s.cur [] = true →
      buildCmd x n.val (some n.val) s = .error (.trap 0xB 0 (BitVec.ofNat 64 (n.val * 2 ^ 8 + 2))) s) ∧
    (st = .idle ∨ st = .done → x.lenBad s.cur = false → x.foldBad s.cur = false → x.operandBad s.cur [] = false →
      (x.ranges s.cur []).all (fun r => !inHole r.1 || decide (r.1 + r.2 ≤ windowBase + spadBytes)) = true →
      (cpCen s.cur.cpctl = true → s.counterHolder (cpCtr s.cur.cpctl) = s.cur.place.part) →
      ∃ cmd, buildCmd x n.val (some n.val) s = .ok cmd s ∧ cmd.form = x.form ∧ cmd.a = x.a ∧ cmd.b = x.b ∧
        cmd.len = x.len s.cur ∧ cmd.owner = s.cur.owner ∧ cmd.core = s.cur.place.core ∧ cmd.uid = s.cur.uid ∧
        cmd.ctx = { part := s.cur.place.part, priv := s.cur.priv } ∧ cmd.fold = cpFold s.cur.cpctl ∧ cmd.st = .queued))

/-- BWAIT, BCHK, BREL and BSTAT (R266 to R269), with feature 12 accepted: BWAIT of a bobbin that is idle or done goes on, of
a failed one traps with its FCAUSE, reason 3, of a busy one waits; BCHK sets pd's bits to what has arrived; BREL waits
for a busy bobbin and idles any other; BSTAT writes the selected word. -/
def Obligations.BobbinInstructions : Prop :=
  ∀ (n : Bob) (d b : SReg) (q : PReg) (s u : State), s.feature s.cur.place.part 12 = true → endConvoy s = .ok () u →
    let x := u.cur.bobbins[n]
    let y := wantReturn u.closed u.cur.place.core
    (x.st = .done → exec (.bwait n) s =
      .next (({ y with cur := y.cur.after 7 x.at_ } : State).advance 4)) ∧
    (x.st = .idle → exec (.bwait n) s = .next (y.advance 4)) ∧
    (x.st = .failed → exec (.bwait n) s =
      .next (takeTrap y 0xB 0 (BitVec.ofNat 64 (x.fcause * 2 ^ 16 + n.val * 2 ^ 8 + 3)))) ∧
    (x.st = .busy → exec (.bwait n) s = .next { y with cur := y.cur.startWait (.bobbin n.val) }) ∧
    (x.st = .idle → exec (.bchk q n b) s = .next (takeTrap u 0xB 0 (BitVec.ofNat 64 (n.val * 2 ^ 8 + 4)))) ∧
    (x.st ≠ .idle → ∃ t, exec (.bchk q n b) s = .next t ∧ t.cur.pc = u.cur.pc + 4 ∧ t.mem = u.mem ∧
      t.cur.regs = u.cur.regs ∧ (∀ e, e < u.cur.vl.toNat → q ≠ 0 →
        t.cur.pbit q.val e = x.arrived (u.reg b).toNat (ebits u.cur.ety) e) ∧
      (∀ e r, r ≠ q.val ∨ u.cur.vl.toNat ≤ e → t.cur.pbit r e = u.cur.pbit r e)) ∧
    (x.st ≠ .busy → exec (.brel n) s = .next (({ u with cur := u.cur.setBob n.val {} } : State).advance 4)) ∧
    (x.st = .busy → exec (.brel n) s = .next { u with cur := u.cur.startWait (.arrival n.val (2 ^ 64)) }) ∧
    decode 4 (0xBB000002 + n.val * 2 ^ 14) = .ok (.brel n) ∧
    exec (.bstat d n b) s = .next ((u.wr d (x.word (u.reg b).toNat)).advance 4)

/-! ## Landing zones, counters, treadles, error queues, accounting -/

/-- The landing-zone instructions (R272 to R276), with feature 13 accepted, at the zone's own core: LZ.OPEN opens the lowest
free zone number with the next generation and answers its name, or 0 where all 16 are open; LZ.RESV of a local zone
answers its token or result code; LZ.WAIT, LZ.STAT, LZ.FREE and LZ.CLOSE act on a slot or zone that the shuttle owns. A
local reservation (R274): the lowest free slot for a name with ANY, or the named slot where it is free, is reserved for
the length; code 4 for a bad length, 3 for a closing or absent zone, 2 and 1 where no such slot is free. -/
def Obligations.LandingZones : Prop :=
  (∀ (d a b : SReg) (s u : State), s.feature s.cur.place.part 13 = true → endConvoy s = .ok () u →
    let core := u.cur.place.core
    let free := (List.range 16).find? fun i => !u.zones.any fun (z : Zone) => z.core == core && z.num == i
    (u.openBad (u.reg a) (u.reg b) = false → bit (u.reg b).toNat 16 = false →
      (free = none → exec (.lzOpen d a b) s = .next ((u.wr d 0).advance 4)) ∧
      (∀ i, free = some i → ∃ t z, exec (.lzOpen d a b) s = .next t ∧ t.zones = z :: u.zones ∧ z.core = core ∧ z.num = i ∧
        z.uid = u.cur.uid ∧ z.base = (u.reg a).toNat ∧ z.gen = tget 0 (u.core core).zoneGens i % 15 + 1 ∧
        z.slots = List.replicate ((u.reg b).toNat % 64 + 1) {} ∧
        t.reg d = (if d = 0 then 0 else zoneName u.chip core 0 z.gen i) ∧ t.cur.pc = u.cur.pc + 4 ∧ t.mem = u.mem)) ∧
    (u.openBad (u.reg a) (u.reg b) = true → exec (.lzOpen d a b) s = .next (takeTrap u 0xC (u.reg a) 1)) ∧
    (nameChip (u.reg a) = u.chip → u.loomHolder (nameCore (u.reg a) / 4) = u.cur.place.part →
      exec (.lzResv d a b) s = .next
        (((reserveSlot u (u.reg a) (u.reg b).toNat u.chip).2.wr d
          (reserveSlot u (u.reg a) (u.reg b).toNat u.chip).1).advance 4)) ∧
    (∀ z, localZone (u.reg a) u = .ok z u →
      let i := nameSlot (u.reg a)
      let y := wantReturn u.closed u.cur.place.core
      exec (.lzStat d a) s = .next ((u.wr d (z.slot i).status).advance 4) ∧
      ((z.slot i).st = .complete ∨ (z.slot i).st = .torn → exec (.lzWait d a) s =
        .next ((({ y with cur := y.cur.after 7 (z.slot i).at_ } : State).wr d (z.slot i).status).advance 4)) ∧
      ((z.slot i).st ≠ .reserved → exec (.lzFree a) s = .next ((u.setZone (z.setSlot i {})).advance 4)) ∧
      (u.landing z = false → exec (.lzClose a) s = .next ((u.dropZone z).advance 4)))) ∧
  (∀ (s : State) (n : Word) (len src : Nat),
    (s.zone n = none → reserveSlot s n len src = (3, s)) ∧
    ∀ z, s.zone n = some z → z.closing = false → (nameAny n = true ∨ nameSlot n < z.slots.length) →
      (len = 0 ∨ 2 ^ z.szlg < len → reserveSlot s n len src = (4, s)) ∧
      (0 < len → len ≤ 2 ^ z.szlg →
        (nameAny n = false → (z.slot (nameSlot n)).st ≠ .free → reserveSlot s n len src = (1, s)) ∧
        (nameAny n = true → (∀ i, i < z.slots.length → (z.slot i).st ≠ .free) → reserveSlot s n len src = (2, s)) ∧
        (∀ i, i < z.slots.length → (z.slot i).st = .free → (nameAny n = false → i = nameSlot n) →
          (nameAny n = true → ∀ j, j < i → (z.slot j).st ≠ .free) →
          reserveSlot s n len src = (zoneName s.chip z.core i z.gen z.num,
            s.setZone (z.setSlot i { st := .reserved, len := len, holder := src, arr := 0, claimed := 0 })))))

/-- CTR.RD, CTR.ADD, CTR.SET and CTR.WAIT of a counter of the shuttle's own partition (R294 to R297): with the open convoy
ended and, for ADD and SET, no posted request outstanding, sd receives the value before; ADD adds modulo 2^64, SET sets;
WAIT goes on where the counter has reached its threshold, and else waits for it. EQ.POP, EQ.CNT and FAB.QUIET (R298,
R299), with feature 15 accepted: EQ.POP writes word 0 or 1 of the head, by bit 0 of s[b], and removes the head by bit 1,
or writes 0 where the queue is empty; EQ.CNT writes the lost count and the length, and clears the lost count by bit 0;
FAB.QUIET, with no posted request outstanding, writes the length. -/
def Obligations.CounterInstructions : Prop :=
  (∀ (d a b : SReg) (s u : State) (i : Nat), endConvoy s = .ok () u → counterRef (u.reg a) u = .ok (i, none) u →
    exec (.ctrRd d a) s = .next ((({ u with cur := u.cur.sawCounter (u.ctrTime i) } : State).wr d (u.counter i)).advance 4) ∧
    (s.reg a = u.reg a → s.reg b = u.reg b → Cert.noPosted u →
      let saw (z : State) : State := { z with cur := z.cur.sawCounter z.now }
      let w := u.release .chip
      exec (.ctrAdd d a b) s = .next (((saw (counterSet w i (u.counter i + u.reg b))).wr d (u.counter i)).advance 4) ∧
      exec (.ctrSet d a b) s = .next (((saw (counterSet w i (u.reg b))).wr d (u.counter i)).advance 4)) ∧
    (let y := wantReturn u.closed u.cur.place.core
     ((u.reg b).toNat ≤ (u.counter i).toNat →
       exec (.ctrWait a b) s = .next (({ y with cur := (y.cur.after 7 (y.ctrTime i)).sawCounter (y.ctrTime i) } : State).advance 4)) ∧
     (u.cur.status = .ready → (u.counter i).toNat < (u.reg b).toNat → exec (.ctrWait a b) s =
       .next { y with cur := y.cur.startWait (.counter i (u.reg b).toNat false) }))) ∧
  (∀ (d b : SReg) (s u : State), s.feature s.cur.place.part 15 = true → endConvoy s = .ok () u →
    (u.cur.eq = [] → exec (.eqPop d b) s = .next ((u.wr d 0).advance 4)) ∧
    (∀ e rest, u.cur.eq = e :: rest → ∃ t, exec (.eqPop d b) s = .next t ∧
      t.reg d = (if d = 0 then 0 else if (u.reg b).toNat % 2 = 1 then e.2 else e.1) ∧
      t.cur.eq = (if (u.reg b).toNat / 2 % 2 = 1 then rest else e :: rest) ∧ t.cur.pc = u.cur.pc + 4 ∧ t.mem = u.mem ∧
      (∀ q, q ≠ d → t.reg q = u.reg q)) ∧
    (∃ t, exec (.eqCnt d b) s = .next t ∧ t.cur.lost = (if (u.reg b).toNat % 2 = 1 then 0 else u.cur.lost) ∧
      t.cur.eq = u.cur.eq ∧ t.cur.pc = u.cur.pc + 4 ∧
      t.reg d = (if d = 0 then 0 else BitVec.ofNat 64 (u.cur.lost * 2 ^ 16 + u.cur.eq.length))) ∧
    (u.cur.posted = [] → exec (.fabQuiet d) s = .next ((u.wr d (BitVec.ofNat 64 u.cur.eq.length)).advance 4)))

/-- TRDL.ARM, TRDL.X and TRDL.STAT (R300 to R305), with feature 14 accepted: a pair whose instruction may be captured posts
it in the lowest free entry of the partition and answers its number, and the pc passes both; with no free entry the
answer is all ones; TRDL.X frees an armed entry and answers 0, answers 1 while it fires, 2 for a failed one, which it
frees, and 3 for a free one; TRDL.STAT gives its status word, 0 for a free one. -/
def Obligations.TreadleInstructions : Prop :=
  ∀ (d a b : SReg) (s : State), s.feature s.cur.place.part 14 = true →
    (∀ (f u v : State) (len w ctr : Nat) (op : TOp), fetchFrom (s.cur.pc + 4) s = .ok (len, w) f →
      f.feature f.cur.place.part 14 = true → (capture s len w).illegal s = false → endConvoy f = .ok () u →
      localRef (s.reg a) u = .ok ctr u → (capture s len w).op u = .ok (some op) v →
      (v.freeTreadle v.cur.place.part = none →
        exec (.trdlArm d a b) s = .next ((v.wr d (BitVec.allOnes 64)).advance (4 + len))) ∧
      (∀ i, v.freeTreadle v.cur.place.part = some i → Cert.noPosted v → exec (.trdlArm d a b) s =
        .next (((postTreadle (v.release .chip) i ctr (s.reg b).toNat op).wr d (BitVec.ofNat 64 i)).advance (4 + len)))) ∧
    (∀ (u : State), endConvoy s = .ok () u → (u.reg a).toNat < 16384 → u.treadleHolder (u.reg a).toNat = u.cur.place.part →
      let t? := u.treadles.find? fun (t : Treadle) => t.idx == (u.reg a).toNat
      (t? = none → exec (.trdlX d a) s = .next ((u.wr d 3).advance 4) ∧ exec (.trdlStat d a) s = .next ((u.wr d 0).advance 4)) ∧
      (∀ t, t? = some t → exec (.trdlStat d a) s = .next ((u.wr d t.status).advance 4) ∧
        (t.st = .armed → exec (.trdlX d a) s = .next (((u.dropTreadle t.idx).wr d 0).advance 4)) ∧
        (t.st = .firing → exec (.trdlX d a) s = .next ((u.wr d 1).advance 4)) ∧
        (t.st = .failed → exec (.trdlX d a) s = .next (((u.dropTreadle t.idx).wr d 2).advance 4))))

/-- OWN.SET and the accounting reads without WAIT (R321 to R325): OWN.SET, at privilege S, sets an owner of the partition
and writes the owner before, or writes all ones; HARM.RD, DMX.RD, DMX.AGG and ENE.RD write what the latest broadcast
holds for an owner of the partition, or their refusal. -/
def Obligations.AccountingInstructions : Prop :=
  ∀ (d a b : SReg) (s u : State), endConvoy s = .ok () u →
    let v := (u.reg a).toNat
    (s.cur.priv = .s →
      (62 < v ∨ u.ownerOf u.cur.place.part v = false → exec (.ownSet d a) s = .next ((u.wr d (BitVec.allOnes 64)).advance 4)) ∧
      (v ≤ 62 → u.ownerOf u.cur.place.part v = true → ∃ t, exec (.ownSet d a) s = .next t ∧ t.cur.owner = v ∧
        t.reg d = (if d = 0 then 0 else BitVec.ofNat 64 u.cur.owner) ∧ t.cur.pc = u.cur.pc + 4 ∧ (∀ q, q ≠ d → t.reg q = u.reg q) ∧ t.mem = u.mem)) ∧
    (s.feature s.cur.place.part 16 = true → s.reg a = u.reg a → s.reg b = u.reg b → (u.reg b).toNat % 2 = 0 →
      (v < 64 → u.mine v = true →
        exec (.harmRd d a b) s = .next ((u.wr d (BitVec.ofInt 64 (tget 0 u.acct.hSeen v))).advance 4)) ∧
      (64 ≤ v ∨ u.mine v = false → exec (.harmRd d a b) s = .next ((u.wr d (BitVec.ofNat 64 (2 ^ 63))).advance 4)) ∧
      (∀ c, c < 64 → v % 256 < 64 → v = v % 64 + 256 * c → u.mine (v % 64) = true → u.mine c = true ∨ c = 63 →
        exec (.dmxRd d a b) s = .next ((u.wr d (BitVec.ofNat 64 (u.cell (v % 64) c))).advance 4)) ∧
      (∀ o (x : Bool), o < 64 → v = o + (if x then 65536 else 0) → u.mine o = true → exec (.dmxAgg d a b) s =
        .next ((u.wr d (BitVec.ofNat 64 ((((List.range 63).filter fun c => !u.mine c).map fun c =>
          if x then u.cell c o else u.cell o c).sum))).advance 4)) ∧
      (v < 64 → u.mine v = true → (u.reg b).toNat / 2 % 4 ≠ 3 → exec (.eneRd d a b) s =
        .next ((u.wr d (BitVec.ofNat 64 (tget 0 u.acct.energySeen (4 * v + (u.reg b).toNat / 2 % 4) / 2 ^ 28))).advance 4)) ∧
      (64 ≤ v ∨ u.mine v = false → exec (.eneRd d a b) s = .next ((u.wr d (BitVec.allOnes 64)).advance 4)))

/-! ## Events: scheduling, lanes, convoys -/

/-- A write to a launch window, placement, the end of a shuttle, a lend's handover, pre-emption and what asks for it (R23,
R26, R29, R30, R33, R43, R141). A host's record joins its class queue; a launch that fits starts its shuttle at ENTRY
with s4 = ARGS, which sees what was stored before; the dispatcher places once in a clock; an end that may take effect
frees the slot; a handover starts the child in its parent's slot; a pre-empted shuttle leaves its slot with its state
kept, at once or at the cut of its open convoy. -/
def Obligations.ShuttleEvents : Prop :=
  (∀ (fn off data : Nat) (s : State), fn ≤ 16 → off < 4096 →
    (off % 64 ≠ 0 ∨ s.boot.stage ≠ 2 → exec (.launchWindowWrite fn off 64 data) s =
      .next (feqPush s fn 1 0 0 (BitVec.ofNat 64 off) 0)) ∧
    (off % 64 = 0 → (s.func fn).needScrub = false → s.boot.stage = 2 →
      (parseLaunch s fn (data % 2 ^ 512) = none → exec (.launchWindowWrite fn off 64 data) s =
        .next (feqPush s fn 2 0 0 (BitVec.ofNat 64 off) 0)) ∧
      (∀ l, parseLaunch s fn (data % 2 ^ 512) = some l →
        (256 ≤ (s.part fn).inClass l.cls → exec (.launchWindowWrite fn off 64 data) s =
          .next (feqPush s fn 3 0 0 (BitVec.ofNat 64 l.cls) 0)) ∧
        ((s.part fn).inClass l.cls < 256 → ∃ t m, exec (.launchWindowWrite fn off 64 data) s = .next t ∧
          (t.part fn).queue = (s.part fn).queue ++ [m] ∧ m.entry = data % 2 ^ 56 ∧ m.cls = l.cls ∧
          m.launchId = ((s.part fn).accepts + 1) % 2 ^ 32 ∧ (t.func fn).launched = true ∧ t.cur = s.cur ∧ t.mem = s.mem)))) ∧
  (∀ (s : State) (c : Contender Candidate) (l : Launch) (core slot v off area : Nat),
    (s.arb 7 0).accounted s.clock = false → s.placeable = [c] → c.what = .launch l → l.weave = false →
    s.fit l = some (core, slot, v, off) → s.freeArea l.part = some area →
    ∃ t sh, exec .shuttlePlacement s = .next t ∧ sh ∈ t.others ∧ sh.status = .ready ∧ sh.pc = BitVec.ofNat 64 l.entry ∧
      sh.priv = .u ∧ sh.owner = l.owner ∧ sh.regs[4] = BitVec.ofNat 64 l.args ∧ sh.place.core = core ∧
      sh.place.slot = slot ∧ sh.place.vlenLog = v ∧ sh.place.spadOff = off ∧ (∀ i : Fin 3, s.now ≤ sh.views[i].floor) ∧
      t.mem = s.mem) ∧
  (∀ s : State, (s.arb 7 0).accounted s.clock = true → exec .shuttlePlacement s = .next s) ∧
  (∀ (s : State) (core slot : Nat) (sh : Shuttle), s.at core slot = some sh →
    let u := s.focus sh.uid
    (mayEnd u u.cur = true → exec (.shuttleEnd core slot) s = .next ((endShuttle u).backTo s.cur)) ∧
    exec (.lendHandover core slot) s = .next ((handover u).backTo s.cur) ∧
    ∀ b, exec (.preemption core slot b) s = .next (settleLends ((requestPreempt u b).backTo s.cur))) ∧
  (∀ s : State, s.cur.lentFrom = none → (endShuttle s).cur = s.cur.left) ∧
  (∀ (s s' : State) (l : Launch) (i thr area d : Nat), s.cur.status = .waiting (.counter i thr false) →
    s.cur.lend = some l → s.cur.attached = false → l.dadd ≠ 0 → l.done = i →
    thr ≤ (s.counter i + BitVec.ofNat 64 l.dadd).toNat → copyHolds s s.cur = false →
    (s.core s.cur.place.core).matQueue.contains s.cur.uid = false → s.freeArea l.part = some area →
    ((List.range (l.vlhi - l.vllo + 1)).find? fun d => decide ((l.vregs + l.escl) * 512 * 2 ^ (l.vlhi - d) ≤
      s.cur.sliceBytes + s.cur.lendBytes + s.vrfFree s.cur.place.core)) = some d →
    saveContext false (closeQueue s s.cur.place.core s.cur.uid) = .ok () s' →
    ∃ g x, x ∈ (handover s).others ∧ x.lentFrom = some s.cur.uid ∧ x.pc = BitVec.ofNat 64 l.entry ∧
      x.place.core = s.cur.place.core ∧ x.place.slot = s.cur.place.slot ∧
      g ∈ (handover s).away ∧ g.uid = s.cur.uid ∧ g.pc = s.cur.pc ∧ g.inPlace = true) ∧
  (∀ (s s' : State) (b : Nat), s.cur.live = true → s.cur.status ≠ .ending → s.cur.killed = none → s.heldUp s.cur = false →
    s.cur.requests = [] → s.cur.again = none → s.cur.lentFrom = none →
    (s.cur.convoy.isOpen = true → s.cur.status = .ready → requestPreempt s b =
      { s with cur := { s.cur with convoy := { s.cur.convoy with cut := some b } } }) ∧
    (s.cur.convoy.isOpen = false → s.cur.attached = false →
      saveContext (!staysInPlace s s.cur) (closeQueue s s.cur.place.core s.cur.uid) = .ok () s' →
      ∃ g, (requestPreempt s b).cur = s.cur.left ∧ (requestPreempt s b).away = g :: s'.away ∧ g.uid = s.cur.uid ∧
        g.pc = s.cur.pc ∧ g.regs = s.cur.regs ∧ g.inPlace = staysInPlace s s.cur)) ∧
  (∀ (s : State) (b : Nat), s.cur.live = true → s.cur.status ≠ .ending → s.cur.killed = none → s.cur.convoy.isOpen = false →
    s.cur.again = none → s.cur.lentFrom = none → s.heldUp s.cur = true →
    requestPreempt s b = { s with cur := { s.cur with stopping := some .tiles } }) ∧
  (∀ (s : State) (part key b : Nat) (l : Launch) (sh : Shuttle),
    s.starvedLaunch part key = some l → s.victim l = some sh → s.at sh.place.core sh.place.slot = some sh →
    exec (.preemptAfterFailToFit part key b) s =
      .next (settleLends ((requestPreempt (s.focus sh.uid) b).backTo s.cur)))

/-- The events of lanes and of the matrix array (R36 to R39, R231, R238): a hardware convoy closes after 64 clocks; a core
gives its clusters back; a core without one asks for the clusters of its VL, and the heddle grants free ones; a marked
core hands its highest cluster on; the only attached core below its request is offered the lowest free block, which it
takes at its next sweep boundary where it is busy (where that leaves it within its share, it keeps all of them); a richest holder above the fair share gives blocks to the core in
deficit; the head of a matrix queue leaves it. The events of waiting accesses and convoys (R130, R216, R218, R220,
R229): a shuttle parked on translations probes again once one is answered; one whose replies have come is ready; the next element
group of a full convoy without remote accesses commits, so that its stores leave the buffer, unless a store before it is not yet acknowledged, or what a
member has read no longer holds: then the convoy runs again from that element. -/
def Obligations.LaneEvents : Prop :=
  ((∀ (s : State) (core u : Nat), (s.core core).vqOwner = some u →
    (s.clock < (s.core core).vqSince + 64 → exec (.convoyCloseTimeout core) s = .next s) ∧
    ((s.core core).vqSince + 64 ≤ s.clock → (s.core core).laneReturn = false →
      (∀ c q, (s.core (4 * (core / 4) + c)).laneReq = some q → q.marked ≠ some (core % 4)) →
      ∃ t, exec (.convoyCloseTimeout core) s = .next t ∧ (t.core core).vqOwner = none ∧ t.cur = s.cur ∧ t.looms = s.looms)) ∧
  (∀ (s : State) (core : Nat), (s.core core).vqOwner = none → (s.core core).laneReturn = true →
    ∃ t, exec (.laneReturn core) s = .next t ∧ (t.loom (core / 4)).held (core % 4) = 0 ∧
      (t.core core).laneReturn = false ∧ t.cur = s.cur) ∧
  (∀ (s : State) (core slot : Nat) (sh : Shuttle), s.at core slot = some sh → (s.loom (core / 4)).held (core % 4) = 0 →
    (s.focus sh.uid).cur.convoy.isOpen = true → exec (.executeClusterRequest core slot) s =
      .next ((heddle (s.focus sh.uid) core
        (min 16 (ceilDiv (ceilDiv ((s.focus sh.uid).cur.vl.toNat * ebits (s.focus sh.uid).cur.ety) 256) 16))).backTo s.cur)) ∧
  (∀ (s : State) (core r : Nat), (s.core core).laneReq = none →
    ∃ q, ((heddle s core r).core core).laneReq = some q ∧ q.n = r ∧ q.owner = s.cur.owner ∧ q.since = s.clock ∧
      (heddle s core r).looms = s.looms) ∧
  (∀ (s : State) (n c : Nat) (q : LaneReq), (s.core (4 * n + c)).laneReq = some q → q.n ≠ 0 → (s.loom n).held c = 0 →
    (s.loom n).pool ≠ [] →
    ((serveCore s n c).loom n).held c = (((s.loom n).pool.take q.n).map fun k => 2 ^ k).sum ∧
      ((serveCore s n c).core (4 * n + c)).laneReq = none) ∧
  (∀ (s : State) (n v c : Nat) (q : LaneReq), v < 4 → c < 4 → (s.core (4 * n + c)).laneReq = some q → q.marked = some v →
    (∀ d p, d < 4 → d ≠ c → (s.core (4 * n + d)).laneReq = some p → p.marked ≠ some v) →
    (s.loom n).held v ≠ 0 → (s.loom n).held c = 0 →
    ∃ t, exec (.heddleReclaim (4 * n + v)) s = .next t ∧ (t.core (4 * n + c)).laneReq = none ∧
      (t.loom n).held c = 2 ^ Nat.log2 ((s.loom n).held v) ∧
      (t.loom n).held v + (t.loom n).held c = (s.loom n).held v) ∧
  (∀ (s : State) (loom c b : Nat) (bs : List Nat), loom < 40 → s.attachedCores loom = [c] → (s.loom loom).offers = b :: bs →
    (s.loom loom).coming c < (s.core (4 * loom + c)).matReq → ((s.core (4 * loom + c)).attached.bind s.byUid).isSome = true →
    let w := s.putArb (arbKey 5 loom) (s.arb 5 loom)
    let l := (s.loom loom).grants s.clock c
    (s.sweeping (4 * loom + c) = false → exec (.matrixBlockOffer loom) s =
      .next (w.setLoom loom (l.setBlocks c (tget 0 (s.loom loom).blocks c + 2 ^ b)))) ∧
    (s.sweeping (4 * loom + c) = true → exec (.matrixBlockOffer loom) s =
      .next (w.setLoom loom { l with pend := l.pend ++ [(b, c)] }))) ∧
  (∀ (s : State) (loom b c : Nat), loom < 40 → c < 4 → (s.loom loom).offers = [] → (s.loom loom).pend = [(b, c)] →
    s.markedHolder loom = none → 128 * popc (tget 0 (s.loom loom).blocks c ||| 2 ^ b) 8 ≤ s.fairShare loom →
    ∃ t, exec (.matrixBlockOffer loom) s = .next t ∧ (t.loom loom).pend = [] ∧
      tget 0 (t.loom loom).blocks c = tget 0 (s.loom loom).blocks c ||| 2 ^ b ∧ t.cur = s.cur) ∧
  (∀ (s : State) (loom c h : Nat), loom < 40 → (s.loom loom).offers = [] → (s.loom loom).pend = [] →
    let l := s.loom loom
    let F := s.fairShare loom
    let need (k : Nat) : Nat := min (s.core (4 * loom + k)).matReq F - l.rows k
    s.deficits loom = [c] → ((s.core (4 * loom + c)).attached.bind s.byUid).isSome = true → h < 4 → F < l.rows h →
    (∀ k, k < 4 → (l.rows k ≤ l.rows h) ∧ (k < h → l.rows k < l.rows h)) →
    ∃ t, exec (.matrixReclaim loom) s = .next t ∧ t.cur = s.cur ∧
      tget 0 (t.loom loom).blocks h = dropTops (tget 0 l.blocks h) (min (l.rows h - F) (need c) / 128) ∧
      tget 0 (t.loom loom).blocks c = tget 0 l.blocks c +
        (tget 0 l.blocks h - dropTops (tget 0 l.blocks h) (min (l.rows h - F) (need c) / 128))) ∧
  (∀ (s : State) (core u : Nat) (us : List Nat), (s.core core).matQueue = u :: us →
    ∃ t, exec (.tileOperationExecute core) s = .next t ∧ (t.core core).matQueue = us ∧
      (t.core core).tiles = (s.core core).tiles ∧ t.cur = s.cur ∧ t.mem = s.mem)) ∧
  ((∀ (s : State) (core slot : Nat) (sh : Shuttle), s.at core slot = some sh →
    let u := s.focus sh.uid
    let ready : State := State.backTo { u with cur := { u.cur with status := .ready } } s.cur
    (∀ ids leaves, u.cur.status = .waiting (.page ids leaves) → waitOver u u.cur (.page ids leaves) = true →
      exec (.convoyProbe core slot) s = .next ready ∧
      (u.cur.convoy.isOpen = false → exec (.loadDataReturn core slot) s = .next ready)) ∧
    (u.cur.status = .waiting .remote → u.cur.requests.all (fun q => q.reply != .waiting) = true →
      exec (.loadDataReturn core slot) s = .next ready) ∧
    (u.cur.convoy.isOpen = true → u.cur.convoy.count = 8 → u.cur.convoy.ordered = false → u.cur.convoy.fault = none →
      u.cur.convoy.wants = [] → (∀ x ∈ u.cur.convoy.buffer, x.remote = none) → 0 < u.cur.convoy.group →
      let b := min u.cur.vl.toNat (u.cur.convoy.committed + u.cur.convoy.group)
      (∀ w, commitTo u b = (.done, w) → exec (.elementGroupCommit core slot) s = .next (w.backTo s.cur) ∧
        (∀ x ∈ w.cur.convoy.buffer, b ≤ x.elem) ∧ w.cur.convoy.committed = max u.cur.convoy.committed b) ∧
      (∀ w, commitTo u b = (.waits, w) → exec (.elementGroupCommit core slot) s = .next (w.backTo s.cur)) ∧
      (∀ lo w, commitTo u b = (.redo lo, w) → exec (.elementGroupCommit core slot) s =
        .next ((runAgain w (max lo w.cur.convoy.committed) w.cur.sameAgain).backTo s.cur)))) ∧
  (∀ (s : State) (b : Nat), s.cur.convoy.reads = [] → s.cur.convoy.serial = false → s.cur.convoy.ordered = false →
    ∃ w, commitTo s b = (.done, w)) ∧
  (∀ (s : State) (b : Nat) (a : Again), (runAgain s b a).cur.status = .ready ∧
    (runAgain s b a).cur.pc = s.cur.convoy.firstPc ∧ (runAgain s b a).cur.vstart = BitVec.ofNat 64 b ∧
    (runAgain s b a).cur.convoy = {} ∧ (runAgain s b a).cur.again = some a))

/-! ## Events: copies, landing zones, treadles -/

/-- The events of a copy engine (R251, R252, R256, R258, R261, R262): once a clock the head that the arbiter prefers is probed and
runs, fails or parks, while the others wait on its account; the bytes of a running command without fold land at its
destination and advance its bobbin, as a release of its loom; a command whose bytes have all moved and whose earlier remote stores are
acknowledged is done, adds 1 to
its counter and frees its bobbin's state; the fabric may end a remote one. -/
def Obligations.CopyEvents : Prop :=
  (∀ (s : State) (loom : Nat) (w : Contender Cmd) (rest : List (Contender Cmd)),
    (s.arb 4 loom).accounted s.clock = false → ranked s (s.arb 4 loom) (s.copyContenders loom) = w :: rest →
    let u := startCmd s w.what
    exec (.copyCommandStart loom) s = .next (u.chargeClock (arbKey 4 loom)
      { (s.arb 4 loom).after u w (s.copyContenders loom) with holder := some (w.what.key, u.clock) }
      (rest.map fun c => (c.owner, w.what.blame.at_ u.clock)))) ∧
  (∀ (s : State) (loom : Nat), (s.arb 4 loom).accounted s.clock = true → exec (.copyCommandStart loom) s = .next s) ∧
  (∀ (s : State) (c : Cmd), c.form = 4 → s.rrBad c = true → startCmd s c = failTarget s c 9) ∧
  (∀ (s w : State) (c : Cmd) (r : Probe), ¬(c.form = 4 ∧ s.rrBad c = true) →
    probeFrom c.ctx c.core c.probeList { found := c.pins, missed := c.missed } s = (r, w) →
    (r.waits = true → startCmd s c = w.setCmd { c with pins := r.found, missed := r.missed, st := .parked }) ∧
    (∀ l, r.waits = false → r.leaf = some l →
      startCmd s c = w.setCmd { c with pins := r.found, missed := r.missed, st := .held l }) ∧
    (∀ q ea ei, r.waits = false → r.leaf = none → r.fault = some (q, ea, ei) → q ≠ cSOURCE →
      startCmd s c = failCmd w c (probeCause q ei) ea.toNat none) ∧
    (r.waits = false → r.leaf = none → r.fault = none →
      let b : Cmd := { c with st := .running, pins := r.found, missed := [], aim := ((w.aimOf c).map (·.uid)).getD 0 }
      ((∀ p ∈ b.peers w.chip, (w.path p).lost = false) → startCmd s c = (w.nextHead c).setCmd b) ∧
      (∀ p, (b.peers w.chip).find? (fun p => (w.path p).lost) = some p →
        startCmd s c = failRemote w c (w.lostCause p) 0 p))) ∧
  (∀ (s w : State) (loom key lo n rp v : Nat) (rd : List Byte) (c : Cmd),
    (s.cmds.find? fun c => c.key == key && c.st == .running && s.engineLoom c == loom) = some c →
    c.form ≠ 7 → c.fold = 0 → (c.strict = true → lo = trailingOnes c.moved) → 0 < n → lo + n ≤ c.len →
    bits c.moved lo n = 0 → c.whole lo n = true → c.readBytes lo n rd rp s = ((v, 0), w) →
    exec (.copyDataArrival loom key lo n rd rp) s =
      .next (c.arrived (c.putBytes lo n v 0 w).1 lo n 0 (c.putBytes lo n v 0 w).2)) ∧
  (∀ (s : State) (c : Cmd) (lo n fl : Nat) (runs : List Landing), c.form ≠ 7 →
    let t := c.arrived s lo n fl runs
    t.mem = s.mem ∧ t.counters = s.counters ∧
    (∀ x ∈ t.cmds, x.key = c.key → x.moved = c.moved ||| (2 ^ n - 1) * 2 ^ lo) ∧
    (∀ (i : Fin 4), c.bob = some i.val → c.uid = s.cur.uid →
      t.cur.bobbins[i].written = s.cur.bobbins[i].written ||| (2 ^ n - 1) * 2 ^ lo ∧
      t.cur.bobbins[i].fflg = s.cur.bobbins[i].fflg ||| fl ∧
      t.cur.bobbins[i].landings = s.cur.bobbins[i].landings ++ runs)) ∧
  (∀ (s : State) (loom key : Nat) (c : Cmd),
    (s.cmds.find? fun c => c.key == key && c.st == .running && s.engineLoom c == loom) = some c →
    c.moved = 2 ^ c.len - 1 → c.fold < 4 → s.unacked c.floor = false →
    ∃ t, exec (.copyDone loom key) s = .next t ∧
      (c.cen = false → t.cmds = s.cmds.filter (fun x => x.key != c.key) ∧ t.counters = s.counters) ∧
      (c.cen = true → t.counter c.ctr = s.counter c.ctr + 1) ∧ t.mem = s.mem) ∧
  (∀ (s : State) (loom key peer cause outcome : Nat) (c : Cmd),
    (s.cmds.find? fun c => c.key == key && c.st == .running && s.engineLoom c == loom && (c.peers s.chip).contains peer) =
      some c → 1 ≤ cause → cause ≤ 6 → c.trdl = none →
    exec (.copyFailed loom key ⟨peer, cause⟩ outcome) s =
      .next (recordFailure (onBob ((s.nextHead c).dropCmd c) c fun b => { b with st := .failed, fcause := 4, fva := 0 }) c.uid
        (eqHeader (if c.form = 7 then 7 else 6) cause outcome peer c.owner 0 0) c.a))

/-- The arrivals at a landing zone, the end of its closing, and the completion of a treadle (R274 to R276, R279, R302 to
R304): a reservation answers its token or code; an arrival for another tenant is refused with 6, one that the zone
refuses with its code, and the bytes of one that it accepts land in the slot, whose completion is a release; a closing
zone in which nothing lands is freed; a firing CTR.ADD adds, a firing ST stores, a firing AMO updates, and each frees
its entry. -/
def Obligations.ZoneEvents : Prop :=
  (∀ (s : State) (src tenant name len : Nat), (s.path src).arrived ≠ 0 → nameChip (BitVec.ofNat 64 name) = s.chip →
    let part := s.loomHolder (nameCore (BitVec.ofNat 64 name) / 4)
    (s.tenantOf part ≠ tenant → exec (.lzResvArrival src tenant name len) s =
      .next { takeArrival s src with fabric := { (takeArrival s src).fabric with reply := some (0, toBytes 6 8, 0) } }) ∧
    (s.tenantOf part = tenant →
      let w := chargeRemote (takeArrival s src) part
      ∃ t, exec (.lzResvArrival src tenant name len) s = .next t ∧
        t.zones = (reserveSlot w (BitVec.ofNat 64 name) len src).2.zones ∧
        t.fabric.reply = some (0, toBytes (reserveSlot w (BitVec.ofNat 64 name) len src).1.toNat 8, 0))) ∧
  (∀ (s : State) (src tenant token len cp rp : Nat) (rd : List Byte), (s.path src).arrived ≠ 0 →
    nameChip (BitVec.ofNat 64 token) = s.chip → rd.length ≤ len →
    let tok : Word := BitVec.ofNat 64 token
    let part := s.loomHolder (nameCore tok / 4)
    let x := exec (.lzArrival src tenant token len cp rd rp) s
    (s.tenantOf part ≠ tenant → x = .next (answer (takeArrival s src) 6 [] 0)) ∧
    (s.tenantOf part = tenant → ∀ q, acceptArrival s tok len src = .inl q → x = .next (answer (takeArrival s src) q [] 0)) ∧
    (s.tenantOf part = tenant → ∀ z, acceptArrival s tok len src = .inr z → rd ≠ [] → cpFold (BitVec.ofNat 64 cp) = 0 →
      let w := chargeRemote ((takeArrival s src).setZone z) part
      let c := arrivalCmd z.core (w.remoteOwner part) tok (BitVec.ofNat 64 cp) len w.now
      x = .next (answer (landed (c.putBytes 0 rd.length (rd.foldr (fun x acc => x.toNat + 256 * acc) 0) rp w).1
        tok rd.length (c.covers w)) 0 [] 0))) ∧
  (∀ (s : State) (src : Nat), (s.path src).arrived = 0 → ∀ tenant x len cp rd rp,
    exec (.lzResvArrival src tenant x len) s = .next s ∧ exec (.lzArrival src tenant x len cp rd rp) s = .next s) ∧
  (∀ (s : State) (tok : Word) (n : Nat) (z : Zone) (f : Store → Bool), s.zone tok = some z →
    (z.slot (nameSlot tok)).st = .reserved → (z.slot (nameSlot tok)).arr + n = (z.slot (nameSlot tok)).len → z.cen = false →
    let w := s.performed (fun r => r.hits (z.slotKey (nameSlot tok) 0) (2 ^ z.szlg) || f r) .chip
    landed s tok n f = w.setZone (z.setSlot (nameSlot tok)
      { z.slot (nameSlot tok) with arr := (z.slot (nameSlot tok)).len, st := .complete, at_ := w.now })) ∧
  (∀ (s : State) (core zone : Nat) (z : Zone),
    (s.zones.find? fun (z : Zone) => z.core == core && z.num == zone && z.closing) = some z →
    (s.landing z = true → exec (.lzCloseComplete core zone) s = .next s) ∧
    (s.landing z = false → (∀ sh, s.byUid z.uid = some sh → sh.status = .ending ∨ sh.status = .waiting (.zone zone)) →
      ∃ t, exec (.lzCloseComplete core zone) s = .next t ∧
        t.zones = s.zones.filter (fun x => !(x.core == z.core && x.num == z.num)) ∧ t.mem = s.mem)) ∧
  (∀ (s : State) (idx cause outcome : Nat) (ok : Bool) (t : Treadle),
    (s.treadles.find? fun (t : Treadle) => t.idx == idx && t.st == .firing) = some t →
    let mine (w : State) (p : Phys) : Prop := p.remote = none ∧ (p.win = true → w.loomHolder (t.core / 4) = t.part)
    (∀ ref v, t.op = .ctrAdd ref v → (ref.toNat / 2 ^ 40 % 2 = 0 ∨ ref.toNat / 2 ^ 32 % 256 = s.chip) →
      s.treadles.all (fun (x : Treadle) => !(x.st == .firing && x.ctr == t.ctr && decide (x.fired < t.fired))) = true →
      ∃ r, exec (.treadleComplete idx ok cause outcome) s = .next r ∧
        r.counter (ref.toNat % 65536) = s.counter (ref.toNat % 65536) + v) ∧
    (∀ n a v p w, t.op = .st n a v → xlate t.ctx t.core a.toNat 1 [] t.parked [] (0, 0) s = (.ok p, w) → mine w p →
      exec (.treadleComplete idx ok cause outcome) s =
        .next ((w.storeBy (trdlObs t.order) t.floor p.key n (v.toNat % 256 ^ n) false false).dropTreadle t.idx)) ∧
    (∀ op dbl a v p w, t.op = .amo op dbl a v → xlate t.ctx t.core a.toNat 2 [] t.parked [] (0, 0) s = (.ok p, w) →
      mine w p →
      let n := if dbl then 8 else 4
      let w := w.readNewest (trdlObs t.order) p.key n
      (w.load p.key n).2 = false →
      exec (.treadleComplete idx ok cause outcome) s =
        .next ((w.storeBy (trdlObs t.order) t.floor p.key n
          (amoResult op n (w.load p.key n).1 (v.toNat % 2 ^ (8 * n)) % 256 ^ n) false true).dropTreadle t.idx)))

/-! ## Events: translation and migration -/

/-- A response to a page request, and invalidations (R336, R337, R217): a response that names no queued request makes an
entry of cause 5; one that does removes its request, and what missed for it walks again after a positive answer and
faults after a negative one; an invalidation waits until no convoy or command in execution pins a translation that it
covers, and then no entry that it covers is held. -/
def Obligations.PageEvents : Prop :=
  (∀ (s : State) (fn v : Nat),
    (v / 2 ^ 17 ≠ 0 → exec (.pageResponseS1 fn v) s = .next (feqPush s fn 5 0 0 (BitVec.ofNat 64 v) 0) ∧
      (fn ≠ 16 → exec (.pageResponseS2 fn v) s = .next (feqPush s fn 5 0 0 (BitVec.ofNat 64 v) 0))) ∧
    (v < 2 ^ 16 → ∀ x ∈ [(1, Instr.pageResponseS1 fn v), (2, Instr.pageResponseS2 fn v)], (x.1 = 2 → fn ≠ 16) →
      ∀ r, ((s.func fn).reqs.find? fun r => r.id == v && r.queue == x.1 && r.queued) = some r →
      (∀ q ∈ (s.func fn).reqs, q.queued = true ∧ q.id < 65536) →
      ∃ t, exec x.2 s = .next t ∧ (t.func fn).reqs = (s.func fn).reqs.filter (fun x => x.key != r.key) ∧
        (∀ c ∈ t.cmds, ∀ m ∈ c.missed, ¬(m.fn = fn ∧ m.req = r.key)) ∧
        (∀ m ∈ t.cur.missed, ¬(m.fn = fn ∧ m.req = r.key)) ∧ t.mem = s.mem ∧ t.cur.regs = s.cur.regs) ∧
    (v < 2 ^ 16 → ∀ x ∈ [(1, Instr.pageResponseS1 fn (2 ^ 16 + v)), (2, Instr.pageResponseS2 fn (2 ^ 16 + v))],
      (x.1 = 2 → fn ≠ 16) → ∀ r, ((s.func fn).reqs.find? fun r => r.id == v && r.queue == x.1 && r.queued) = some r →
      (∀ q ∈ (s.func fn).reqs, q.queued = true ∧ q.id < 65536) →
      ∃ t, exec x.2 s = .next t ∧ (t.func fn).reqs = (s.func fn).reqs.filter (fun x => x.key != r.key) ∧
        (∀ c ∈ t.cmds, ∀ m ∈ c.missed, m.fn = fn → m.req = r.key → m.neg = true) ∧
        ∀ m ∈ t.cur.missed, m.fn = fn → m.req = r.key → m.neg = true)) ∧
  (∀ (s : State) (fn page : Nat) (g : Bool),
    let f := s.func fn
    exec (.inv1Page fn page g) s = .next (s.setFunc fn { f with invPending := f.invPending ++ [(1, page, g)] }) ∧
    exec (.inv1All fn g) s = .next (s.setFunc fn { f with invPending := f.invPending ++ [(2, 0, g)] }) ∧
    (fn ≠ 16 → exec (.inv2Page fn page g) s = .next (s.setFunc fn { f with invPending := f.invPending ++ [(3, page, g)] }) ∧
      exec (.inv2All fn g) s = .next (s.setFunc fn { f with invPending := f.invPending ++ [(4, 0, g)] }))) ∧
  (∀ (s : State) (fn : Nat), (s.func fn).invPending ≠ [] →
    ((∃ i ∈ (s.func fn).invPending, s.pinned fn i = true) → exec (.invalidationComplete fn) s = .next s) ∧
    ((∀ i ∈ (s.func fn).invPending, s.pinned fn i = false) →
      ∃ t, exec (.invalidationComplete fn) s = .next t ∧ (t.func fn).invPending = [] ∧
      (∀ h, h ∈ t.held ↔ h ∈ s.held ∧ ∀ i ∈ (s.func fn).invPending, h.covered fn i = false) ∧
      t.mem = s.mem))

/-- Migration and copy on write (R340 to R342, R365): a page-in that is accepted takes the partition's next free page and
sets MIG; a damped page is entered where it is; the host reads BUSY for a page that migrates and DAMPED for a damped
one; at the end of its copy the page stands at its destination and the leaf is rewritten, or, where the copy failed, MIG
clears; damping ends; a granule whose leaf has COW is logged in the bank, or, where that is full, a capture begins. -/
def Obligations.MigrationEvents : Prop :=
  (∀ (s : State) (part gpage k e : Nat), s.entry2 part gpage = (k, 0, e) → part ≠ 16 → readEntry 2 0 e = .pull 1 →
    e / 2 ^ 63 % 2 = 0 → s.migrating part gpage = false → s.hardwareMig part = true →
    (s.damped part gpage = true → exec (.migrationAccept part gpage) s =
      .next (wakeLeaf (s.putEntry k (setBits (withPull (setBit e 0 true) 0) 53 3 3)) part gpage)) ∧
    (s.damped part gpage = false → (s.part part).fpProd = (s.part part).fpCons → exec (.migrationAccept part gpage) s =
      .next (failPageIn s part gpage)) ∧
    (s.damped part gpage = false → (s.part part).fpProd ≠ (s.part part).fpCons → s.aheadOf part gpage = [] →
      ∃ t m, exec (.migrationAccept part gpage) s = .next t ∧ t.mig.active = s.mig.active ++ [m] ∧ m.part = part ∧
        m.gpage = gpage ∧ m.leaf = k ∧ m.src = e / 2 ^ 16 % 2 ^ 36 * 2 ^ 16 ∧
        m.dst = readLE s.mem (((s.part part).fpBase.toNat + 8 * (s.part part).fpCons) % 2 ^ 52) 8 % 2 ^ 36 * 2 ^ 16 ∧
        m.pull = none ∧ (t.part part).fpCons = ((s.part part).fpCons + 1) % 2 ^ 32 ∧
        t.mem = writeLE s.mem k (withMig e true) 8)) ∧
  (∀ (s : State) (part gpage ppn k level e : Nat), s.entry2 part gpage = (k, level, e) → part ≠ 16 →
    (e / 2 ^ 63 % 2 = 1 ∨ s.migrating part gpage = true → exec (.hostMigrationRequest part gpage ppn) s =
      .next { s with mig := { s.mig with status := 1 } }) ∧
    (e / 2 ^ 63 % 2 = 0 → s.migrating part gpage = false →
      (s.damped part gpage = true → exec (.hostMigrationRequest part gpage ppn) s =
        .next { s with mig := { s.mig with status := 2 } }) ∧
      (s.damped part gpage = false → readEntry 2 level e = .leaf → level = 0 → e % 2 = 1 →
        e / 2 ^ 16 % 2 ^ 36 * 2 ^ 16 / 2 ^ 44 = s.chip → e / 2 ^ 16 % 2 ^ 36 * 2 ^ 16 % 2 ^ 44 + 65536 ≤ hbmBytes →
        ppn < 2 ^ 36 → ppn * 2 ^ 16 / 2 ^ 44 = s.chip → 2 ^ 43 ≤ ppn * 2 ^ 16 % 2 ^ 44 →
        ∃ t m, exec (.hostMigrationRequest part gpage ppn) s = .next t ∧ t.mig.status = 0 ∧
          t.mig.active = s.mig.active ++ [m] ∧ m.host = true ∧ m.dst = ppn * 2 ^ 16 ∧ m.leaf = k))) ∧
  (∀ (s : State) (part gpage : Nat) (m : Migration),
    (s.mig.active.find? fun m => m.part == part && m.gpage == gpage) = some m →
    (∃ t, exec (.migrationCopyComplete part gpage false) s = .next t ∧
      t.mem = writeLE s.mem m.leaf (withMig (readLE s.mem m.leaf 8) false) 8 ∧
      t.mig.active = s.mig.active.filter fun x => !(x.part == m.part && x.gpage == m.gpage)) ∧
    (m.host = false → m.pull = none → ∃ t, exec (.migrationCopyComplete part gpage true) s = .next t ∧
      t.mig.active = (s.mig.active.filter fun x => !(x.part == part && x.gpage == gpage)) ∧
      t.mem = writeLE (copyRange s.mem m.src m.dst 65536) m.leaf
        (setBits (withPull (setBit (withMig (withPpn (readLE s.mem m.leaf 8) (m.dst / 65536)) false) 0 true) 0) 53 3 0) 8 ∧
      (part, gpage, s.clock + 2500000) ∈ t.mig.damped)) ∧
  (∀ (s : State) (part gpage : Nat), ∃ t, exec (.dampingExpiry part gpage) s = .next t ∧
    (∀ d, d ∈ t.mig.damped ↔ d ∈ s.mig.damped ∧ ¬(d.1 = part ∧ d.2.1 = gpage ∧ d.2.2 ≤ s.clock)) ∧ t.mem = s.mem) ∧
  (∀ (s : State) (part gpage k level e : Nat) (i : Image), s.entry2 part gpage = (k, level, e) →
    readEntry 2 level e = .leaf → e / 2 ^ 62 % 2 = 1 → s.logged part gpage = false → (s.part part).image = some i →
    (s.bankOk part = false → s.bankRoom part = false → exec (.cowGranuleCopy part gpage) s = .next s) ∧
    (s.bankOk part = true → s.bankRoom part = false → exec (.cowGranuleCopy part gpage) s =
      .next (s.setPart part { s.part part with capturing := true })) ∧
    (s.bankRoom part = true → ∃ t j, exec (.cowGranuleCopy part gpage) s = .next t ∧ (t.part part).image = some j ∧
      j.log = i.log ++ [(gpage, i.size + i.log.length)] ∧ (t.part part).ckUsed = i.log.length + 1))

/-! ## Events of the fabric -/

/-- Requests of other chips, replies and acknowledgements (R188, R278, R279, R281, R282, R292, R293): a request is performed
once for its accepted flits, and one whose tenant does not own what it names is refused; an admitted load, store, atomic
or counter operation is performed and answered, a packet at each address that it expands to; a reply reaches the waiting
request of its key; an acknowledgement ends a posted request, a failure records its entry. -/
def Obligations.RemoteEvents : Prop :=
  (∀ (s : State) (src tenant op size : Nat) (addrs : FarAddrs) (data cmp rp : List Nat),
    ((s.path src).arrived = 0 → exec (.remoteRequestArrival src tenant op addrs size data cmp rp) s = .next s) ∧
    (∀ base stride es, addrs = .strided base stride es → exec (.remoteRequestArrival src tenant op addrs size data cmp rp) s =
      exec (.remoteRequestArrival src tenant op
        (.listed (es.map fun e => base / 2 ^ 44 * 2 ^ 44 + (base + stride * e) % 2 ^ 44)) size data cmp rp) s)) ∧
  (∀ (s : State) (src tenant size : Nat) (as data cmp rp : List Nat), (s.path src).arrived ≠ 0 → as ≠ [] → size ≠ 0 →
    (∀ a ∈ as, a / 2 ^ 44 = s.chip ∧ a % 2 ^ 44 + size ≤ hbmBytes) →
    (∃ a ∈ as, ∃ h ∈ s.blockHolders (a % 2 ^ 44) size, s.tenantOf h ≠ tenant) → ∀ op ∈ [0, 1, 2, 16, 24],
    exec (.remoteRequestArrival src tenant op (.listed as) size data cmp rp) s = .next (answer (takeArrival s src) 4 [] 0)) ∧
  (∀ (s : State) (src tenant size a data cmp rp : Nat), (s.path src).arrived ≠ 0 → size ≠ 0 → a / 2 ^ 44 = s.chip →
    a % 2 ^ 44 + size ≤ hbmBytes → (∀ h ∈ s.blockHolders (a % 2 ^ 44) size, s.tenantOf h = tenant) →
    let x (op : Nat) := exec (.remoteRequestArrival src tenant op (.listed [a]) size [data] [cmp] [rp]) s
    (s.disputed a size = false → ∃ t, x 0 = .next t ∧ t.mem = s.mem ∧
      t.fabric.reply = some (0, toBytes (readLE s.mem a size) size, markMask s.poisoned a size)) ∧
    (cmp = 0 → Memory.wf s.mem = true → s.disputed a size = false → s.unlogged a size = [] → ∃ t, x 1 = .next t ∧ t.fabric.reply = some (0, [], 0) ∧
      ∀ k, memRead t.mem k = if a ≤ k ∧ k < a + size then BitVec.ofNat 8 (data / 256 ^ (k - a)) else memRead s.mem k) ∧
    (size = 4 ∨ size = 8 → a % size = 0 → markedAny s.poisoned a size = false → s.unlogged a size = [] →
      (∃ t, x 2 = .next t ∧ t.fabric.reply = some (0, toBytes (readLE s.mem a size) size, 0) ∧
        t.mem = if readLE s.mem a size = cmp then writeLE s.mem a (data % 256 ^ size) size else s.mem) ∧
      ∀ op, op < 9 → ∃ t, x (16 + op) = .next t ∧ t.fabric.reply = some (0, toBytes (readLE s.mem a size) size, 0) ∧
        t.mem = writeLE s.mem a (amoResult op size (readLE s.mem a size) (data % 256 ^ size) % 256 ^ size) size)) ∧
  (∀ (s : State) (src tenant i size : Nat) (data cmp rp : List Nat), (s.path src).arrived ≠ 0 → i < 65536 →
    let x (op : Nat) := exec (.remoteRequestArrival src tenant op (.listed [i]) size data cmp rp) s
    (s.tenantOf (s.counterHolder i) ≠ tenant → ∀ op ∈ [32, 33, 34], x op = .next (answer (takeArrival s src) 4 [] 0)) ∧
    (s.tenantOf (s.counterHolder i) = tenant →
      (∃ t, x 32 = .next t ∧ t.counters = s.counters ∧ t.fabric.reply = some (0, toBytes (s.counter i).toNat 8, 0)) ∧
      (∃ t, x 33 = .next t ∧ t.counter i = s.counter i + BitVec.ofNat 64 (data.headD 0) ∧
        t.fabric.reply = some (0, toBytes (s.counter i).toNat 8, 0)) ∧
      (∃ t, x 34 = .next t ∧ t.counter i = BitVec.ofNat 64 (data.headD 0) ∧
        t.fabric.reply = some (0, toBytes (s.counter i).toNat 8, 0)))) ∧
  (∀ (s : State) (core slot key pm cause outcome : Nat) (rd : List Byte) (sh : Shuttle), s.at core slot = some sh →
    exec (.remoteReply core slot key true rd pm cause outcome) s =
      .next (s.onUid sh.uid fun sh => { sh with requests := sh.requests.map fun q =>
        if q.key = key && q.sent && q.reply == .waiting && rd.length == q.size then { q with reply := .data rd pm } else q }) ∧
    (reported cause outcome = true → exec (.remoteReply core slot key false rd pm cause outcome) s =
      .next (s.onUid sh.uid fun sh => { sh with requests := sh.requests.map fun q =>
        if q.key = key && q.sent && q.reply == .waiting then { q with reply := .failed cause outcome } else q })) ∧
    (reported cause outcome = false → exec (.remoteReply core slot key false rd pm cause outcome) s = .next s)) ∧
  (∀ (s : State) (core slot key cause outcome : Nat) (sh : Shuttle) (p : Posted),
    ((s.resident ++ s.away).find? fun sh => sh.place.core == core && sh.place.slot == slot && sh.posted.any fun p => p.key == key) = some sh →
    (sh.posted.find? fun p => p.key == key) = some p →
    (p.sent = false → ∀ ok, exec (.remoteAck core slot key ok cause outcome) s = .next s) ∧
    (p.sent = true → exec (.remoteAck core slot key true cause outcome) s =
      .next (s.onUid sh.uid fun x => { x with posted := x.posted.filter fun q => q.key != key })) ∧
    (p.sent = true → reported cause outcome = true → exec (.remoteAck core slot key false cause outcome) s =
      .next (recordFailure (s.onUid sh.uid fun x => { x with
        posted := x.posted.filter fun q => q.key != key
        requests := x.requests.map fun q => if q.key = key ∧ q.addrs.isEmpty then { q with reply := .failed cause outcome } else q })
        sh.uid (eqHeader p.kind cause outcome p.peer p.owner 0 0) p.addr)))

/-- Flits (R285 to R290): the 2,048 bits of a flit give its fields back, and every switch chip's copy is DST; a path sends
new flits sealed under its key slot, of which the retry buffer keeps a copy, a key marker at the rekey threshold, an
idle flit where there is nothing to carry; it accepts the next flit in sequence that decodes, is for this chip and
authenticates, and discards others with a negative acknowledgement; it acknowledges at 128 flits or after 2,500 clocks;
it sends unacknowledged flits again after a negative acknowledgement, 25,000 clocks without progress, and
resynchronisation; the eighth such replay starts re-establishment. -/
def Obligations.FlitEvents : Prop :=
  (∀ f : Flit, f.typ < 256 → f.src < 256 → f.dst < 256 → f.kslot < 2 → f.seq < 2 ^ 32 → f.ackseq < 2 ^ 32 → f.blen < 256 →
    f.body < 2 ^ 1536 → f.tag < 2 ^ 128 → f.copies = copiesOf f.dst →
    f.word < 2 ^ 2048 ∧ Flit.ofWord f.word = f ∧ (∀ k, k < 36 → f.copy k = f.dst) ∧
    ∀ w k, w < 4 → k < 36 → bits (f.routeWord w) (2 * k) 2 = bits f.dst (2 * w) 2) ∧
  (∀ (s : State) (chip answers blen : Nat) (keys : List Nat) (p : Path), s.path chip = p → p.lost = false → p.reest = false →
    s.fabric.resync = false →
    let x := exec (.flitSend ⟨chip, keys, answers, blen⟩) s
    let iv := initVector s.chip chip p.kslot p.epoch (tget 0 p.inv p.kslot)
    (p.replaying = true → x = .next (s.setPath chip { p with replaying := false, wire := p.unacked.getLast? })) ∧
    (p.replaying = false → keys = [] → answers = 0 → p.keyed = true → tget 0 p.inv p.kslot < p.rekey → ∃ t f, x = .next t ∧
      (t.path chip).wire = some f ∧ f.typ = 0 ∧
      f.seq = p.dataSeq ∧ f.ackseq = p.accepted ∧ f.src = s.chip ∧ f.dst = chip ∧ f.copies = copiesOf chip ∧
      f.body = Config.flitCipher (tget 0 p.keys p.kslot) iv (Config.flitBody s.fresh) % 2 ^ 1536 ∧
      tget 0 (t.path chip).inv p.kslot = tget 0 p.inv p.kslot + 1 ∧
      (t.path chip).unacked = p.unacked ∧ (t.path chip).seq = p.seq ∧ (t.path chip).ackDue = 0) ∧
    (p.replaying = false → (keys ≠ [] ∨ answers ≠ 0) → p.keyed = true → s.bufferRoom p = true →
      (tget 0 p.inv p.kslot < p.rekey → keys.all (s.carries chip) = true → s.inOrder chip keys = true → answers ≤ p.owed →
        ∃ t f, x = .next t ∧
        (t.path chip).wire = some f ∧ f.typ = 1 ∧ f.seq = (p.seq + 1) % 2 ^ 32 ∧ f.ackseq = p.accepted ∧ f.kslot = p.kslot ∧
        f.src = s.chip ∧ f.dst = chip ∧ f.blen = blen ∧ f.copies = copiesOf chip ∧
        f.body = Config.flitCipher (tget 0 p.keys p.kslot) iv (Config.flitBody s.fresh) % 2 ^ 1536 ∧
        f.tag = Config.flitTag (tget 0 p.keys p.kslot) iv f.hdr f.body % 2 ^ 128 ∧
        (t.path chip).seq = (p.seq + 1) % 2 ^ 32 ∧ (t.path chip).unacked = p.unacked ++ [f] ∧ (t.path chip).ackDue = 0 ∧
        (t.path chip).owed = p.owed - answers ∧
        tget 0 (t.path chip).inv p.kslot = tget 0 p.inv p.kslot + 1 ∧ (t.path chip).kslot = p.kslot) ∧
      (p.rekey ≤ tget 0 p.inv p.kslot → p.spare = true → ∃ t f, x = .next t ∧ (t.path chip).wire = some f ∧ f.typ = 4 ∧
        (t.path chip).seq = (p.seq + 1) % 2 ^ 32 ∧ (t.path chip).kslot = 1 - p.kslot ∧ (t.path chip).rekeySince = none) ∧
      (p.rekey ≤ tget 0 p.inv p.kslot → p.spare = false →
        x = .next (s.setPath chip { p with rekeySince := some (p.rekeySince.getD s.clock) })))) ∧
  (∀ (s : State) (chip : Nat) (p : Path), s.path chip = p → p.lost = false → p.reest = false →
    (∀ seq i rest, p.unacked.findIdx? (·.seq == seq) = some i → p.unacked.drop (i + 1) = rest → rest ≠ [] →
      ∃ t, exec (.negativeAcknowledgement chip seq) s = .next t ∧ (t.path chip).unacked = rest ∧
        (t.path chip).replaying = true ∧ (t.path chip).replays = 1) ∧
    (p.unacked ≠ [] → p.progressAt + 25000 ≤ s.clock →
      (p.replays < 7 → exec (.retryTimeout chip) s =
        .next (s.setPath chip { p with replays := p.replays + 1, replaying := true, progressAt := s.clock })) ∧
      (7 ≤ p.replays → exec (.retryTimeout chip) s =
        .next (s.setPath chip { p with replays := 8, replaying := false, reest := true, reestSince := s.clock })))) ∧
  (∀ (s : State) (chip : Nat) (p : Path), s.path chip = p → p.lost = false →
    let speaks := p.reest = false ∧ s.fabric.resync = false ∧ p.keyed = true ∧ tget 0 p.inv p.kslot < p.rekey
    (speaks → (128 ≤ p.ackDue ∨ p.ackDue ≠ 0 ∧ p.ackSince + 2500 ≤ s.clock) → ∃ t f, exec (.acknowledgementTimer chip) s = .next t ∧
      (t.path chip).wire = some f ∧ f.typ = 2 ∧ f.ackseq = p.accepted ∧ (t.path chip).ackDue = 0) ∧
    (p.reest = true ∨ s.fabric.resync = true → exec (.acknowledgementTimer chip) s = .next s) ∧
    (p.ackDue < 128 → p.ackDue = 0 ∨ s.clock < p.ackSince + 2500 → exec (.acknowledgementTimer chip) s = .next s) ∧
    (p.reest = true → exec (.reestablishmentComplete chip) s =
      .next (s.setPath chip { p with reest := false, replays := 0, replaying := !p.unacked.isEmpty, progressAt := s.clock })) ∧
    (∀ hdr body tag n d a, let f := Flit.ofWord (flitBits hdr body tag)
      let x := exec (.flitReceive chip hdr body tag n d a) s
      (f.dst = s.chip → f.src = chip → f.typ = 1 ∨ f.typ = 4 → d = true → a = true →
        f.kslot = p.rxSlot → f.seq = (p.accepted + 1) % 2 ^ 32 → ∃ t, x = .next t ∧ (t.path chip).accepted = f.seq ∧
        (t.path chip).ackDue = p.ackDue + 1 ∧ (t.path chip).rxSlot = (if f.typ = 4 then 1 - p.rxSlot else p.rxSlot) ∧
        (t.path chip).arrived = (if f.typ = 1 then p.arrived + n else p.arrived)) ∧
      (speaks → d = false ∨ f.dst ≠ s.chip ∨ f.src ≠ chip ∨
          (a = true ∧ (f.typ = 1 ∨ f.typ = 4) ∧ (f.kslot ≠ p.rxSlot ∨ f.seq ≠ (p.accepted + 1) % 2 ^ 32)) → p.lastNak = none →
        ∃ t g, x = .next t ∧ (t.path chip).accepted = p.accepted ∧ (t.path chip).arrived = p.arrived ∧
          (t.path chip).lastNak = some (p.accepted, s.clock) ∧ (t.path chip).wire = some g ∧ g.typ = 3 ∧ g.ackseq = p.accepted) ∧
      (d = true → a = false → f.dst = s.chip → f.src = chip → p.authSeq = f.seq → 2 ≤ p.authFails →
        x = .next (losePath s chip false)))) ∧
  (∀ s : State, exec (.grantHashCompare true) s = .next s ∧
    exec (.grantHashCompare false) s = .next { s with fabric := { s.fabric with resync := true, resyncAt := s.clock } } ∧
    (s.fabric.resync = true → ∃ t, exec .resynchronisationComplete s = .next t ∧ t.fabric.resync = false ∧
      ∀ c, (s.path c).lost = false → (s.path c).unacked ≠ [] → (t.path c).replaying = true))

/-- The loss of a pair of paths and what leads to it, and keys (R287, R289 to R291, R388): a path not re-established in
2,500,000 clocks, one not rekeyed in 25,000,000, one with three erased links, and a chip declared lost, lose both paths,
whose operations end; fewer erased links only change the mode; an exchange in hardware mode loads both keys of a slot,
with the rekey threshold, and at bring-up opens the paths. -/
def Obligations.PathEvents : Prop :=
  (∀ (s : State) (chip : Nat) (peer : Bool),
    exec (.pathLost chip peer) s = .next (losePath s chip peer) ∧
    (s.inDomain chip = true → ((losePath s chip peer).path chip).lost = true) ∧
    ((s.path chip).lost = false → (s.path chip).reest = true → (s.path chip).reestSince + 2500000 ≤ s.clock →
      exec (.reestablishmentTimeout chip) s = .next (losePath s chip false)) ∧
    (∀ t, (s.path chip).rekeySince = some t → t + 25000000 ≤ s.clock →
      exec (.rekeyTimeout chip) s = .next (losePath s chip false)) ∧
    (chip < 144 → chip ≠ s.chip → ∀ dead own far,
      let w := State.setPath { s with fabric := { s.fabric with dead := dead, links := own } } chip { s.path chip with links := far }
      let n := popc (dead ||| own ||| far) 36
      w.pathMode chip = (if n = 0 then .normal else if n = 1 then .erased else if n = 2 then .doubleCheck else .down) ∧
      ((∀ e ∈ w.fabric.paths, w.pathMode e.1 ≠ .down) → exec (.linkFailure chip ⟨dead, own, far⟩) s = .next w) ∧
      (3 ≤ n → s.inDomain chip = true → ∃ t, exec (.linkFailure chip ⟨dead, own, far⟩) s = .next t ∧ (t.path chip).lost = true)) ∧
    (∀ ks rekey, bit (s.func 16).mode.toNat 4 = false → s.keySlotOk chip ks = true →
      exec (.pathKeyExchange chip ks none) s = .next (losePath s chip false) ∧
      (let p := s.path chip
        ∃ t, exec (.pathKeyExchange chip ks (some rekey)) s = .next t ∧ (t.path chip).lost = false ∧
          (t.path chip).rekey = rekey ∧ tget 0 (t.path chip).inv ks = 0 ∧ (t.path chip).gen = p.gen + 1 ∧
          (p.lost = false → tget 0 (t.path chip).keys ks = Config.pathKey s.chip chip p.epoch ks p.gen ∧
            tget 0 (t.path chip).keys (ks + 2) = Config.pathKey chip s.chip p.epoch ks p.gen ∧
            (t.path chip).kslot = p.kslot ∧ ks ∈ (t.path chip).fresh) ∧
          (p.lost = true → (t.path chip).kslot = 0 ∧ (t.path chip).fresh = [] ∧ (t.path chip).seq = 0 ∧
            (t.path chip).epoch = (if s.inDomain chip then (p.epoch + 1) % 2 ^ 15 else p.epoch)))))

/-! ## Events: accounting, failures, checkpoints -/

/-- One clock of an arbiter, the settlement period and the rate limit (R309 to R319, R326 to R328, R352): the contenders
that wait are charged to the blame tag of the request that holds the output, or was just granted it, for 4 clocks at an
L2 slice port and 16 at a pseudo-channel, on their own account where their partition's rate limit withholds them; one
charge of two owners moves one unit of harm; a tag moves one arbiter in a clock; a period's end clamps the balances and
clears the arbiters' deltas; the broadcast publishes them; a bucket gains RATE up to its size once in 256 clocks. -/
def Obligations.AccountingEvents : Prop :=
  (∀ (s : State) (key hold : Nat) (arrivals : List Arrival) (stall : Option (Option Nat)),
    let kind := key % 8
    let as := arrivals.filter (s.mayArrive kind (key / 8))
    let w := as.foldl State.launchFlight s
    let b := as.foldl (Arb.arrive kind (key / 8) s.clock) ((s.arbOf key).refreshed s.clock)
    let cs := (b.waiting.filter (w.eligible kind b)).map Waiter.contender
    let x := exec (.arbiterGrant key arrivals ⟨hold, stall⟩) s
    ((s.arbOf key).accounted s.clock = true → x = .next s) ∧
    ((s.arbOf key).accounted s.clock = false → (b.holder ≠ none ∨ stall ≠ none ∨ cs = []) → ∃ t, x = .next t ∧
      t.arbOf key = { b.chargeAll (b.waiting.map fun c => (c.owner, w.culprit kind b stall c)) with clocks := s.clock + 1 } ∧
      t.cur = s.cur ∧ t.mem = s.mem) ∧
    ((s.arbOf key).accounted s.clock = false → b.holder = none → stall = none → ∀ g rest, ranked w b cs = g :: rest →
      let d := b.granted w kind hold g.what cs
      ∃ t, x = .next t ∧
        t.arbOf key = { d.chargeAll (d.waiting.map fun c => (c.owner, w.culprit kind d none c)) with clocks := s.clock + 1 } ∧
        t.cur = s.cur ∧ t.mem = s.mem)) ∧
  (∀ (s : State) (a : Arb) (w : Waiter) (cs : List (Contender Waiter)) (hold : Nat),
    (a.granted s 0 hold w cs).holder = some (w.id, s.clock + 3) ∧ (a.granted s 1 hold w cs).holder = some (w.id, s.clock + 15) ∧
    (a.granted s 2 hold w cs).holder = some (w.id, s.clock + hold) ∧
    ∀ kind, (a.granted s kind hold w cs).waiting = a.waiting.filter fun x => x.id != w.id) ∧
  (∀ (s : State) (kind id until_ : Nat) (a : Arb) (stall : Option (Option Nat)) (w : Waiter),
    (s.withheld w = true → s.culprit kind a stall w = w.owner) ∧
    (s.withheld w = false → kind = 3 → s.injectable w.input = false → s.culprit kind a stall w = 63) ∧
    (s.withheld w = false → (kind = 3 → s.injectable w.input = true) → a.holder = some (id, until_) →
      s.culprit kind a stall w = s.tagOf id 63)) ∧
  (∀ (s : State) (id owner other c : Nat), let t := s.setTag id owner c
    t.tagOf id other = s.tagOf id owner ∧ State.tagOf { t with clock := s.clock + 1 } id other = c) ∧
  (∀ (a : Arb) (v c : Nat), v ≠ c → v < 64 → c < 64 →
    let b := a.chargeAll [(v, c)]
    tget 0 b.inc (64 * v + c) = tget 0 a.inc (64 * v + c) + 1 ∧ tget 0 b.delta v = tget 0 a.delta v + 1 ∧
    tget 0 b.delta c = tget 0 a.delta c - 1 ∧ ∀ o, o ≠ v → o ≠ c → tget 0 b.delta o = tget 0 a.delta o) ∧
  (∀ s : State, s.acct.periods = s.acct.broadcasts → 4096 * (s.acct.periods + 1) ≤ s.clock →
    ∃ t, exec .settlementPeriodEnd s = .next t ∧ t.acct.periods = s.acct.periods + 1 ∧
      (∀ e ∈ t.arbs, e.2.delta = [] ∧ e.2.inc = []) ∧ (∀ e ∈ t.acct.h, -65536 ≤ e.2 ∧ e.2 ≤ 65536) ∧
      t.acct.hSeen = s.acct.hSeen ∧ t.cur = s.cur ∧ t.mem = s.mem) ∧
  (∀ s : State, s.acct.broadcasts < s.acct.periods → 4096 * (s.acct.broadcasts + 1) + 256 ≤ s.clock →
    ∃ t, exec .settlementBroadcast s = .next t ∧ t.acct.hSeen = s.acct.h ∧ t.acct.dmSeen = s.acct.dm ∧
      t.acct.energySeen = s.acct.energy ∧ (∀ o, o ≠ 63 → tget 0 t.acct.entSeen o = tget 0 s.acct.ent o) ∧
      (∀ e ∈ t.arbs, e.2.closed = []) ∧ t.acct.broadcasts = s.acct.broadcasts + 1 ∧ t.cur = s.cur ∧ t.mem = s.mem) ∧
  (∀ (s : State) (n : Nat), let p := s.part n
    (s.clock / 256 = p.refills + 1 → exec (.rateBucketRefill n) s =
      .next (s.setPart n { p with tokens := min p.bucket (p.tokens + p.rate), refills := s.clock / 256 })) ∧
    (s.clock / 256 ≤ p.refills → exec (.rateBucketRefill n) s = .next s))

/-- Failing lanes, struck state, captures and rollback (R360 to R368): a lane's mismatch stops the convoy at its group and
retires the lane; a first mismatch of a sweep is repeated; a struck memory word is poisoned; a unit's error is reported;
struck state of a partition rolls it back or ends it; the period starts a capture; a capture of a quiet partition makes
the other bank current with COW set; a rollback restores the image and gives every shuttle ROLLBACK_NOTICE. -/
def Obligations.FailureEvents : Prop :=
  (∀ (s : State) (core slot lane k : Nat), (s.core core).matQueue ≠ [] → bit (s.loom (core / 4)).arrayFailed (core % 4) = false →
    exec (.laneResidueMismatch core slot lane k true) s = .next (s.setLoom (core / 4)
      { s.loom (core / 4) with arrayFailed := setBits (s.loom (core / 4)).arrayFailed (core % 4) 1 1 })) ∧
  (∀ (s : State) (core slot lane k i : Nat) (sh : Shuttle), s.boot.stage ≠ 1 → s.at core slot = some sh →
    s.failing sh lane k = some i → sh.convoy.isOpen = true → sh.convoy.committed ≤ k → k < sh.vl.toNat →
    sh.convoy.unsettled k = false → (∀ f, sh.convoy.fault = some f → k < f.elem) →
    exec (.laneResidueMismatch core slot lane k false) s =
      let u := s.focus sh.uid
      let f : Pending := { elem := k, member := i, cause := cLANE, eaddr := 0, einfo := 0 }
      .next (retireLane ((strikeCut { u with cur := u.cur.meet f } f).backTo s.cur) (core / 4) lane)) ∧
  (∀ (s : State) (core slot lane k : Nat), s.boot.stage = 1 →
    exec (.laneResidueMismatch core slot lane k false) s = .next (retireLane s (core / 4) lane)) ∧
  (∀ (s w : State) (b e : Nat) (k : State → State), prepare s b e = .nothing w →
    cutAt s b e k = k { restoreAt w b with cur := (restoreAt w b).cur.cutOff } ∧
    (restoreAt w b).cur.vstart = BitVec.ofNat 64 b ∧
    (restoreAt w b).cur.pc = w.cur.convoy.firstPc ∧ (restoreAt w b).cur.convoy = {} ∧ (restoreAt w b).mem = w.mem) ∧
  (∀ (s : State) (loom lane : Nat), (s.loom loom).retired.contains lane = false →
    4 ≤ ((List.range 16).filter ({ s.loom loom with retired := lane :: (s.loom loom).retired } : Loom).inService).length →
    ((retireLane s loom lane).loom loom).retired = lane :: (s.loom loom).retired) ∧
  (∀ (s : State) (a b : Nat), exec (.uncorrectableError 0 a b) s = .next s ∧
    (s.imageHolder a = none → s.areaHolder a = none →
      exec (.uncorrectableError 1 a b) s = .next { s with poisoned := sAdd s.poisoned (a / 8) }) ∧
    (∀ n, s.imageHolder a = some n → exec (.uncorrectableError 1 a b) s = .next (tenantLost s n)) ∧
    (∀ n, s.imageHolder a = none → s.areaHolder a = some n → exec (.uncorrectableError 1 a b) s = .next (strikePart s n)) ∧
    (a ≤ 16 → exec (.uncorrectableError 4 a b) s = .next (if s.ckEnabled a = true ∧ (s.part a).image.isSome = true then rollback s a
      else tenantLost s a)) ∧
    (b = 1 ∨ b = 2 → exec (.uncorrectableError 6 a b) s = .next (feqPush s 16 12 0 0 (BitVec.ofNat 64 b) 0)) ∧
    exec (.uncorrectableError 6 a 3) s = .next (feqPush s 16 12 0 0 3 (BitVec.ofNat 64 (a % 65536)))) ∧
  (∀ (s : State) (n : Nat), s.ckEnabled n = true → (s.part n).ckPer ≠ 0 → (s.part n).capturing = false →
    (s.part n).lastCapture + 2500 * (s.part n).ckPer ≤ s.clock →
    exec (.checkpointPeriod n) s = .next (s.setPart n { s.part n with capturing := true })) ∧
  (∀ (s w : State) (n : Nat), (s.part n).capturing = true → s.ckEnabled n = true → s.quiet n = true →
    captureShuttles ((s.resident.filter fun sh => sh.live && sh.place.part == n).map (·.uid)) s = (true, w) →
    w.quiet n = true → ∃ t i, exec (.checkpointCapture n) s = .next t ∧ (t.part n).image = some i ∧ i.log = [] ∧
      i.seq = (w.part n).ckSeq + 1 ∧ (t.part n).ckSeq = (w.part n).ckSeq + 1 ∧ (t.part n).ckBank = 1 - (w.part n).ckBank ∧
      (t.part n).capturing = false ∧ i.base = (w.part n).bankBase (1 - (w.part n).ckBank) ∧ i.size = w.imgSize n ∧
      i.counters = w.counters.filter (fun e => decide ((w.part n).cbase ≤ e.1 ∧ e.1 < (w.part n).cbase + (w.part n).ccount))) ∧
  (∀ (s : State) (n : Nat) (i : Image), s.ckEnabled n = true → (s.part n).image = some i →
    (∀ sh ∈ i.shuttles, sh.inPlace = true → s.loomHolder (sh.place.core / 4) = n) → (∀ x ∈ i.treadles, x.due = false) →
    ∃ t, exec (.rollback n) s = .next t ∧ (t.part n).image = some i ∧ (t.part n).queue = i.queue ∧
      ∀ sh ∈ i.shuttles, ∃ x ∈ t.away, x.uid = sh.uid ∧ x.pc = sh.pc ∧ x.regs = sh.regs ∧
        x.estat.toNat / 128 % 2 = 1 ∧ x.prbSeq = BitVec.ofNat 64 i.seq)

/-! ## Events of the host -/

/-- What the host writes to a function (R346 to R349, R353, R357, R382): a reset of a virtual function ends its partition; a
read of FEQSTAT clears the lost count; MODE and FEATACC stand once a launch has been accepted; a watch already met
raises its vector at once; a vector that is due and unmasked sends its message; the bases and the entitlements are set;
a host write through CXL.mem stores to HBM. -/
def Obligations.FunctionEvents : Prop :=
  (∀ (s : State) (fn : Nat), fn ≠ 16 → ∃ t, exec (.functionLevelReset fn) s = .next t ∧
    (∀ sh ∈ t.cur :: (t.others ++ t.away), sh.live = true → sh.place.part ≠ fn) ∧ (∀ c ∈ t.cmds, c.ctx.part ≠ fn) ∧
    (∀ x ∈ t.treadles, x.part ≠ fn) ∧ (t.part fn).queue = [] ∧ (t.part fn).image = none ∧ (t.func fn).mode = 0 ∧
    (t.func fn).s1root = 0 ∧ (t.func fn).feqWrite = 0 ∧ (t.func fn).featLo = (s.func fn).featLo ∧
    (t.func fn).launched = false) ∧
  (∀ (s : State) (fn v : Nat), exec (.feqstatRead fn) s = .next (s.setFunc fn { s.func fn with feqLost := 0 }) ∧
    (fn ≠ 16 → (s.func fn).launched = true → exec (.modeWrite fn v) s = .next s ∧
      ∀ hi, exec (.feataccWrite fn hi v) s = .next s) ∧
    ((s.func fn).launched = false → ∃ t, exec (.modeWrite fn v) s = .next t ∧ (t.func fn).mode = BitVec.ofNat 64 (v % 64) ∧
      (fn ≠ 16 → t.boot = s.boot)) ∧
    (fn ≠ 16 → (s.func fn).launched = false → exec (.feataccWrite fn false v) s =
      .next (s.setFunc fn { s.func fn with featLo := BitVec.ofNat 64 v &&& (s.func 16).featLo })) ∧
    ((s.func 16).launched = false → ∃ t, exec (.feataccWrite 16 false v) s = .next t ∧
      (t.func 16).featLo = BitVec.ofNat 64 v &&& 0x3FF1F)) ∧
  (∀ (s : State) (fn idx v : Nat), v < 2 ^ 54 →
    (s.counterHolder (v % 65536) ≠ fn → exec (.watchWrite fn idx v) s = .next s) ∧
    (s.counterHolder (v % 65536) = fn →
      exec (.watchWrite fn idx v) s = .next (s.setFunc fn { s.func fn with watch := tput (s.func fn).watch idx (BitVec.ofNat 64 v) }) ∧
      (v / 2 ^ 16 % 2 ^ 32 ≤ (s.counter (v % 65536)).toNat → exec (.watchWrite fn idx (v + 2 ^ 63)) s =
        .next (raiseVec (s.setFunc fn { s.func fn with watch := tput (s.func fn).watch idx (BitVec.ofNat 64 v) }) fn (v / 2 ^ 48))))) ∧
  (∀ (s : State) (fn vec : Nat), s.vectorDue fn vec = true → (s.func fn).masked vec = false →
    let f := s.func fn
    let late := f.recent vec s.clock
    let left := if late < tget 0 f.msixPend vec then late else 0
    ∃ t, exec (.coalesceTimer fn vec) s = .next t ∧ tget 0 (t.func fn).msixPend vec = left ∧
      (t.func fn).msixSent = f.msixSent + 1 ∧ t.cur = s.cur ∧ t.mem = s.mem) ∧
  (∀ (s : State) (fn vec : Nat), ∃ t, exec (.msixUnmask fn vec) s = .next t ∧ (t.func fn).masked vec = false ∧
    (s.vectorDue fn vec = true → ((s.func fn).recent vec s.clock = 0 → tget 0 (t.func fn).msixPend vec = 0) ∧
      (t.func fn).msixSent = (s.func fn).msixSent + 1) ∧
    (s.vectorDue fn vec = false → (t.func fn).msixPend = (s.func fn).msixPend ∧ (t.func fn).msixSent = (s.func fn).msixSent)) ∧
  (∀ (s : State) (bar fn off size v : Nat), bar ≠ 0 ∨ 0x1000 ≤ off → size ≠ 8 ∨ off % 8 ≠ 0 →
    exec (.registerWrite bar fn ⟨off, size⟩ v) s = .next s) ∧
  (∀ (s : State) (fn v : Nat),
    exec (.registerWrite 0 fn ⟨0x1000, 8⟩ v) s = .next (s.setFunc fn { s.func fn with feqBase := BitVec.ofNat 64 (v / 32768 * 32768) }) ∧
    exec (.registerWrite 0 fn ⟨0x1030, 8⟩ v) s = .next (s.setFunc fn { s.func fn with s1root := BitVec.ofNat 64 v }) ∧
    (s.boot.stage0 = true → (∀ o, o < 63 → exec (.registerWrite 2 fn ⟨0x8000 + 8 * o, 8⟩ v) s =
        .next { s with acct := { s.acct with ent := tput s.acct.ent o (v % 65536) } }) ∧
      (∀ n, n < 16 → exec (.registerWrite 2 fn ⟨0x10040 + 0x1000 * n, 8⟩ v) s =
        .next (s.setPart n { s.part n with ctxBase := BitVec.ofNat 64 (v / 256 * 256) }))) ∧
    (s.boot.stage0 = false → ∀ at_, exec (.registerWrite 2 fn at_ v) s = .next s)) ∧
  (∀ (s : State) (n v : Nat), n < 16 → s.boot.stage0 = true → ∀ fn, ∃ t,
    exec (.registerWrite 2 fn ⟨0x10020 + 0x1000 * n, 8⟩ v) s = .next t ∧ ∀ o, o < 63 →
      (bit (t.part n).owners o = true ↔ bit v o = true ∧ ∀ k, k < 16 → k ≠ n → bit (s.part k).owners o = false)) ∧
  (∀ (s : State) (a n v : Nat), let k := s.chip * 2 ^ 44 + a
    (bit (s.func 16).featLo.toNat 1 = false ∨ n = 0 → ∀ wr, exec (.hostCxlMemAccess wr a n v) s = .next s) ∧
    (bit (s.func 16).featLo.toNat 1 = true → 0 < n →
      (s.unlogged k n = [] → exec (.hostCxlMemAccess true a n v) s =
        .next ((s.storeBy hostObs s.now k n v false false).performed (fun r => r.src == hostSrc && r.hits k n) .chip)) ∧
      ∃ t, exec (.hostCxlMemAccess false a n v) s = .next t ∧ t.mem = s.mem ∧ t.cur = s.cur))

/-- Regions of a partition (R351, R354, R355): LOOMS and PCGS add clean regions that no other partition holds, slices that
meet no other are set, other writes are refused with QSTAT 2; IDENT is set but for tenant 0xFFF; a release starts with
QSTAT 1, is refused for the last loom or group, and, once nothing names what leaves, ends with QSTAT 3 and the region's
scrub; a scrub zeroes its region and leaves it clean. -/
def Obligations.RegionEvents : Prop :=
  (∀ (s : State) (n v : Nat), n < 16 →
    let p := s.part n
    let no := s.setPart n { p with qstat := 2 }
    (s.boot.stage = 2 → maskOk s n p.looms v 0 40 s.loomHolder = true →
      exec (.loomsWrite n v) s = .next (s.setPart n { p with looms := v % 2 ^ 40 })) ∧
    (s.boot.stage ≠ 2 → exec (.loomsWrite n v) s = .next no ∧ exec (.pcgsWrite n v) s = .next no ∧
      exec (.csliceWrite n v) s = .next no ∧ exec (.tsliceWrite n v) s = .next no) ∧
    (s.boot.stage = 2 → maskOk s n p.pcgs v 64 48 s.groupHolder = true →
      exec (.pcgsWrite n v) s = .next (s.setPart n { p with pcgs := v % 2 ^ 48 })) ∧
    (s.boot.stage = 2 → sliceOk s n 65536 p.cbase p.ccount (v % 2 ^ 16) (v / 2 ^ 32 % 2 ^ 16) (fun q => (q.cbase, q.ccount)) = true →
      exec (.csliceWrite n v) s = .next (s.setPart n { p with cbase := v % 2 ^ 16, ccount := v / 2 ^ 32 % 2 ^ 16 })) ∧
    (s.boot.stage = 2 → sliceOk s n 16384 p.tbase p.tcount (v % 2 ^ 14) (v / 2 ^ 32 % 2 ^ 14) (fun q => (q.tbase, q.tcount)) = true →
      exec (.tsliceWrite n v) s = .next (s.setPart n { p with tbase := v % 2 ^ 14, tcount := v / 2 ^ 32 % 2 ^ 14 })) ∧
    (v % 2 ^ 12 = 0xFFF → exec (.identWrite n v) s = .next no) ∧
    (v % 2 ^ 12 ≠ 0xFFF → exec (.identWrite n v) s =
      .next (s.setPart n { p with tenant := v % 2 ^ 12, remoteOwner := v / 2 ^ 16 % 2 ^ 6, cap := v / 2 ^ 24 % 2 == 1 }))) ∧
  (∀ (s : State) (n r : Nat), n < 16 → (s.part n).release = none →
    (r < 40 → bit (s.part n).looms r = true → popc (s.part n).looms 40 ≠ 1 → ∀ x ∈ [Instr.release n r, .force n r],
      ∃ t, exec x s = .next t ∧ (t.part n).qstat = 1 ∧ (t.part n).release = some (r, 0)) ∧
    (r < 40 → bit (s.part n).looms r = false ∨ popc (s.part n).looms 40 = 1 → ∀ x ∈ [Instr.release n r, .force n r],
      exec x s = .next (s.setPart n { s.part n with qstat := 2 })) ∧
    (64 ≤ r → r < 112 → bit (s.part n).pcgs (r - 64) = true → popc (s.part n).pcgs 48 ≠ 1 →
      exec (.release n r) s =
        .next (s.setPart n { s.part n with qstat := 1, zonesSeen := 0, release := some (r, 0), forced := false })) ∧
    ((s.part n).tcount ≠ 0 → ∃ t, exec (.force n 129) s = .next t ∧ (t.part n).release = some (129, 0) ∧
      ∀ x ∈ t.treadles, x.st = .armed → ¬((s.part n).tbase ≤ x.idx ∧ x.idx < (s.part n).tbase + (s.part n).tcount))) ∧
  (∀ (s : State) (n r count : Nat), (s.part n).release = some (r, count) → (s.part n).withdrawing = [] →
    (40 ≤ r → r < 112 → s.mapsGroup n (r - 64) = false → ∃ t, exec (.releaseComplete n) s = .next t ∧
      (t.part n).pcgs = (s.part n).pcgs - 2 ^ (r - 64) ∧ (t.part n).qstat = 3 ∧ (t.part n).release = none ∧
      (t.scrub r).st ≠ .clean ∧ (t.scrub r).last = n) ∧
    (r = 128 → 0 < count → count ≤ (s.part n).ccount →
      s.namesCounter n ((s.part n).cbase + (s.part n).ccount - count) ((s.part n).cbase + (s.part n).ccount) = false →
      ∃ t, exec (.releaseComplete n) s = .next t ∧ (t.part n).ccount = (s.part n).ccount - count ∧ (t.part n).qstat = 3 ∧
        ∀ e ∈ t.counters, ¬((s.part n).cbase + (s.part n).ccount - count ≤ e.1 ∧ e.1 < (s.part n).cbase + (s.part n).ccount)) ∧
    (r = 129 → 0 < count → count ≤ (s.part n).tcount →
      (∀ x ∈ s.treadles, (s.part n).tbase + (s.part n).tcount - count ≤ x.idx → x.idx < (s.part n).tbase + (s.part n).tcount →
        (s.part n).forced = true ∧ x.st ≠ .firing) →
      ∃ t, exec (.releaseComplete n) s = .next t ∧ (t.part n).tcount = (s.part n).tcount - count ∧ (t.part n).qstat = 3)) ∧
  (∀ (s : State) (r : Nat),
    ((s.scrub r).st = .pending → bit (s.func 16).mode.toNat 3 = true → s.boot.stage = 2 → 40 ≤ r ∨ (s.loom r).passed = true →
      exec (.scrubGo r) s = .next { s with scrubs := tput s.scrubs r { s.scrub r with st := .scrubbing, prog := 0 } }) ∧
    ((s.scrub r).st = .scrubbing → ∃ t, exec (.scrubComplete r) s = .next t ∧ (t.scrub r).st = .clean ∧
      (40 ≤ r → ∀ a, s.chip * 2 ^ 44 + (r - 64) * 12000000000 ≤ a → a < s.chip * 2 ^ 44 + (r - 64) * 12000000000 + 12000000000 →
        memRead t.mem a = 0)))

/-! ## Power, start-up and the mailbox -/

/-- Budgets, leases, sensors and droop (R372 to R377): PWRCAP and PWRFLOOR are clamped to 500 to 3,400 W; a lease with a new
SEQ is taken in hardware mode, and its expiry is reported; the caps of the looms are set; samples with no sensor voted
out join the histories and set the sensor caps; a droop installs the signature, and its cap lapses. -/
def Obligations.PowerEvents : Prop :=
  (∀ (s : State) (v : Nat),
    exec (.pwrcapWrite v) s = .next { s with power := { s.power with cap := max 500 (min 3400 (v % 65536)) } } ∧
    exec (.pwrfloorWrite v) s = .next { s with power := { s.power with floor := max 500 (min 3400 (v % 65536)) } }) ∧
  (∀ (s : State) (n : Nat), s.boot.stage0 = true → s.boot.stage ≠ 3 → bit (s.func 16).mode.toNat 5 = false → n ≤ 4096 →
    let d := s.mailbox.data % 2 ^ (8 * n)
    s.power.lastSeq < d % 2 ^ 64 → ∃ t, exec (.lease (3 + n * 2 ^ 16)) s = .next t ∧ t.power.lastSeq = d % 2 ^ 64 ∧
      t.power.budget = max 500 (min 3400 (d / 2 ^ 64 % 2 ^ 16)) ∧ t.power.expiry = s.clock + 2500 * (d / 2 ^ 80 % 2 ^ 32) ∧
      t.power.leased = true ∧ t.mailbox.st = 2) ∧
  (∀ s : State, s.power.leased = true → s.power.expiry ≤ s.clock → bit (s.func 16).mode.toNat 5 = false →
    exec .leaseExpiry s = .next (feqPush { s with power := { s.power with leased := false } } 16 14 0 0
      (BitVec.ofNat 64 s.power.lastSeq) 0)) ∧
  (∀ (s : State) (caps : List Nat), ∃ t, exec (.budgetUpdate caps) s = .next t ∧
    (∀ l, l < caps.length → (t.loom l).budgetCap = caps.getD l 0) ∧ t.cur = s.cur ∧ t.mem = s.mem) ∧
  (∀ (s : State) (th cu : List Int), (∀ l, l < 40 → voteOut s 0 l th = false ∧ voteOut s 1 l cu = false) →
    ∃ t, exec (.sensorSample th cu) s = .next t ∧ t.cur = s.cur ∧ t.mem = s.mem ∧
      ∀ l, l < 40 → (t.loom l).thermHist = (th.getD l 0 :: (s.loom l).thermHist).take 64 ∧
        (t.loom l).currHist = (cu.getD l 0 :: (s.loom l).currHist).take 64 ∧ 16 ≤ (t.loom l).sensorCap ∧
        (t.loom l).sensorCap ≤ 256) ∧
  (∀ (s : State) (l : Nat), (∃ t e, exec (.droopDetect l) s = .next t ∧ (t.loom l).droop.head? = some e ∧ e.2 = s.clock ∧
      (t.loom l).droop.length ≤ 64) ∧
    ((s.loom l).droopUntil ≤ s.clock → exec (.droopCapExpiry l) s = .next (s.setLoom l { s.loom l with droopCap := 256 })) ∧
    (s.clock < (s.loom l).droopUntil → exec (.droopCapExpiry l) s = .next (s.setLoom l (s.loom l))))

/-- Start-up (R379 to R381): power-good starts stage 0; its end takes the image of slot A, or of slot B, that verifies and
is not below the fused minimum, and raises that, or enters recovery; a loom passes in stage 1; the end of stage 1 begins
stage 2; a device reset ends every shuttle and keeps storage and the fused minimum. -/
def Obligations.StartUp : Prop :=
  (∀ (s : State) (a b : Bool) (va vb : Nat), s.boot.powered = false → exec (.powerGood a b va vb) s =
    .next { s with clock := 0, acct := { s.acct with periods := 0, broadcasts := 0 }, boot := { s.boot with powered := true, okA := a, okB := b, verA := va, verB := vb } }) ∧
  (∀ s : State, s.boot.powered = true → s.boot.stage0 = false →
    ∃ t, exec .stage0Complete s = .next t ∧ t.boot.stage0 = true ∧
      (s.boot.okA = true → s.boot.fuse ≤ s.boot.verA → t.boot.stage = 0 ∧ t.boot.image = 0 ∧ t.boot.fuse = s.boot.verA) ∧
      (s.boot.okA = false ∨ s.boot.verA < s.boot.fuse → s.boot.okB = true → s.boot.fuse ≤ s.boot.verB →
        t.boot.stage = 0 ∧ t.boot.image = 1 ∧ t.boot.fuse = s.boot.verB) ∧
      (s.boot.okA = false ∨ s.boot.verA < s.boot.fuse → s.boot.okB = false ∨ s.boot.verB < s.boot.fuse →
        t.boot.stage = 3 ∧ t.boot.image = 2 ∧ t.boot.fuse = s.boot.fuse)) ∧
  (∀ (s : State) (l c : Nat), s.boot.stage = 1 →
    exec (.loomPass l) s = .next (s.setLoom l { s.loom l with passed := true, droop := [] }) ∧
    ∃ t, exec (.stage1Complete c) s = .next t ∧ t.boot.stage = 2 ∧ t.power.coef = c % 2 ^ 48 ∧ t.cur = s.cur) ∧
  (∀ s : State, ∃ t, exec .deviceReset s = .next t ∧ t.cur = {} ∧ t.others = [] ∧ t.away = [] ∧ t.counters = [] ∧
    t.cores = [] ∧ t.funcs = [] ∧ t.parts = [] ∧ t.treadles = [] ∧ t.boot.stage = 0 ∧ t.boot.stage0 = false ∧
    t.boot.fuse = s.boot.fuse ∧ t.power = {} ∧ (s.boot.chip = 0 → t.mem = s.mem ∧ t.poisoned = s.poisoned))

/-- The commands of the mailbox (R383 to R389): an offered, well-formed one is performed and leaves state 2, any other
leaves state 3 with error 1. -/
def Obligations.MailboxCommands : Prop :=
  ∀ (s : State) (n : Nat), s.boot.stage0 = true → n ≤ 4096 →
    let d := s.mailbox.data % 2 ^ (8 * n)
    let chain : Mailbox := { st := 2, err := 0, outLen := min 4096 Config.identityChainLen, data := Config.identityChain % 2 ^ (8 * min 4096 Config.identityChainLen) }
    exec (.ident 1) s = .next { s with mailbox := chain } ∧
    (s.boot.stage ≠ 3 → ∃ t, exec (.quote 2) s = .next t ∧ t.mailbox.st = 2 ∧ t.mailbox.outLen = 264 ∧
      t.mailbox.data % 2 ^ 384 = s.boot.m0 % 2 ^ 384 ∧ t.mailbox.data / 2 ^ 1152 % 2 ^ 64 = s.bootstat.toNat ∧ t.cur = s.cur) ∧
    (∀ key dst ks, s.boot.stage = 1 ∨ s.boot.stage = 2 → bit (s.func 16).mode.toNat 4 = true → s.chip < 256 → dst < 256 →
      dst ≠ s.chip → ks < 2 → key < 2 ^ 256 → (s.path dst).lost = false → s.keySlotOk dst ks = true → n = 35 →
      s.mailbox.data = s.chip + 2 ^ 8 * dst + 2 ^ 16 * ks + 2 ^ 24 * key →
      ∃ t, exec (.keyload (4 + n * 2 ^ 16)) s = .next t ∧ tget 0 (t.path dst).keys ks = key ∧ tget 0 (t.path dst).inv ks = 0 ∧
        t.mailbox.st = 2) ∧
    let over_ : Mailbox := { s.mailbox with st := 2, err := 0, outLen := 0 }
    exec (.fwload (5 + 2 ^ 8 + n * 2 ^ 16)) s = .next { s with boot := { s.boot with fw := some (n, d) }, mailbox := over_ } ∧
    (∀ len acc, s.boot.fw = some (len, acc) → len + n ≤ 2 ^ 25 → 8 ≤ len + n → (acc + 2 ^ (8 * len) * d) % 2 ^ 64 = len + n →
      exec (.fwload (5 + 2 ^ 9 + n * 2 ^ 16)) s =
        .next { s with boot := { s.boot with fw := none, staged := some (acc + 2 ^ (8 * len) * d) }, mailbox := over_ }) ∧
    (s.boot.stage = 0 → s.boot.gate = false → d % 256 = s.boot.chip → d % 256 < 144 → d / 256 % 2 ^ 128 ≠ 0 →
      let open_ : Boot := { s.boot with domain := d / 256 % 2 ^ 128, alone := false, gate := true, stage := 1 }
      exec (.domain (6 + n * 2 ^ 16)) s = .next { s with boot := open_, mailbox := over_ }) ∧
    (∀ v, s.offers (v % 256) = false ∨ mbValid v = false →
      exec (.mbcmdDiscarded v) s = .next { s with mailbox := { s.mailbox with st := 3, err := 1, outLen := 0 } })

/-! ## Encoding and the step -/

/-- The worked encodings of the spec and words of other families, written out field by field, decode to the instructions
that they stand for (R48 to R59); a reserved major, a PMAJOR above 6 and compressed operation 15 decode to none, with
REASON 1, and the issue of such bits traps with ILLEGAL, EADDR the bits, the REASON in EINFO[63:60] (R64, R65). -/
def Obligations.SampleWordsDecode : Prop :=
  decode 4 0b10000010001000000000000000010000 = .ok (.addi 4 0 16) ∧
  decode 4 0b10101111101100100000100001100000 = .ok (.vfaddVv true 3 4 2 3) ∧
  decode 2 0b0000000100010000 = .ok (.cAddi 4 16) ∧
  decode 8 0xC208000000000000 = .ok (.mzero 2) ∧
  decode 4 0b10010000000010001011111111111111 = .ok (.beq 1 2 0x3FFF) ∧
  decode 4 0b10001100001110100011000000001000 = .ok (.ld 7 8 6 8) ∧
  decode 4 0b10011101000010010000010000000101 = .ok (.crw 1 4 0x101) ∧
  decode 4 0b10111010000010000100001000111000 = .bad 2 ∧
  decode 4 0b10111010000010001000011001000101 = .ok (.cpyMm 1 2 3 4) ∧
  (∀ w ∈ [0x00, 0x22, 0x23, 0x24, 0x25, 0x26, 0x27, 0x3F], ∀ k, k < 2 ^ 24 → decode 4 (2 ^ 31 + w * 2 ^ 24 + k) = .bad 1) ∧
  (∀ m k, 6 < m → m < 64 → k < 2 ^ 56 → decode 8 (3 * 2 ^ 62 + m * 2 ^ 56 + k) = .bad 1) ∧
  (∀ k, k < 2 ^ 11 → decode 2 (15 * 2 ^ 11 + k) = .bad 1) ∧
  (∀ (len b r : Nat) (s : State), exec (.illegalEncoding len b r) s =
    .next (takeTrap s 1 (BitVec.ofNat 64 b) (BitVec.ofNat 64 (r * 2 ^ 60))))

/-- Decoding gives back every well-formed instruction from its bits, with every operand at every value (R48 to R59). -/
def Obligations.DecodeOfEncode : Prop :=
  ∀ i : Instr, i.wf = true → i.hasEncoding = true → decode (instrLen i) (encode i) = .ok i

/-- A step with no event due runs the instruction that the bytes at the current shuttle's pc decode to, and then passes the
turn on; bits that are no instruction run as ILLEGAL_ENCODING; a fault of the fetch traps first (R34, R48, R64, R66); a
convoy that runs again runs what was fetched at first. A shuttle whose pre-emption or double trap is under way goes on with
that. An event that is due takes effect instead, and one that names nothing changes nothing. A fetch reads the parcels
where the pc translates to, the first at the lowest address. -/
def Obligations.StepRunsDecoded : Prop :=
  (∀ s : State, s.struck = [] → s.agenda = [] → s.cur.live = true → asyncReady s.cur = false → canIssue s s.cur = true →
    let after := onNext (afterIssue s.cur.place.core s.cur.place.slot)
    (s.cur.killed = none → s.cur.stops = false → s.cur.again = none →
      (∀ (u : State) (len w : Nat), fetchFrom s.cur.pc s = .ok (len, w) u →
        let kept := onNext (State.keepSpan ⟨s.cur.pc, len, w⟩)
        (∀ i, decode len w = .ok i → step s = after (kept (exec i u))) ∧
        (∀ r, decode len w = .bad r → step s = after (kept (exec (.illegalEncoding len w r) u)))) ∧
      (∀ (u : State) (c : Nat) (ea ei : Word), fetchFrom s.cur.pc s = .error (.trap c ea ei) u →
        step s = after (.next (takeTrap u c ea ei)))) ∧
    (s.cur.killed = none → s.cur.stops = false → ∀ a x, s.cur.again = some a →
      (s.cur.span.find? fun x => x.pc == s.cur.pc) = some x → ∀ i, decode x.len x.bits = .ok i → step s = after (exec i s)) ∧
    (s.cur.killed = none → s.cur.stops = true → step s = after (.next (preempt s))) ∧
    (∀ c, s.cur.killed = some c → step s = after (.next (doubleTrap s c)))) ∧
  (∀ s : State, s.struck = [] → s.agenda = [] → s.cur.live = true → asyncReady s.cur = true →
    step s = exec .asyncTrapEntry s) ∧
  (∀ (s : State) (i : Instr) (rest : List Instr), s.struck = [] → s.agenda = i :: rest →
    (i.hasEncoding = false → i.wf = true → step s = onNext settleLends (exec i { s with agenda := rest })) ∧
    (i.hasEncoding = true ∨ i.wf = false → step s = .next { s with agenda := rest })) ∧
  (∀ s : State, s.struck ≠ [] → step s = .next (strikeAll s)) ∧
  (∀ (s u v : State) (p q : Nat), fetchParcel s.cur.pc s = .ok p u → fetchParcel (s.cur.pc + 2) u = .ok q v →
    (p / 2 ^ 14 % 4 < 2 → fetchFrom s.cur.pc s = .ok (2, p) u) ∧
    (p / 2 ^ 14 % 4 = 2 → fetchFrom s.cur.pc s = .ok (4, p * 65536 + q) v)) ∧
  (∀ (x : Spanned) (s : State), ∃ sp, s.keepSpan x = { s with cur := { s.cur with span := sp } }) ∧
  (∀ (s u : State) (va : Word) (p : Phys), translate va.toNat 3 s = .ok p u → p.remote = none → u.disputed p.key 2 = false →
    markedAny u.poisoned p.key 2 = false → fetchParcel va s = .ok (readLE u.mem p.key 2) u)

/-! ## Reset and invariants -/

/-- What a cold reset leaves (R6, R107, R356, R379): no shuttle and no command anywhere, counters zero, PWRCAP 3,400 and
PWRFLOOR 1,800, the stage 0, every region pending; a shuttle's ESTAT has AIE at 1 alone. Memory, which the spec gives no
value, reads 0 (the model's own choice, log entry 1), and storage is in its canonical form. -/
def Obligations.ResetState : Prop :=
  State.reset.Canonical ∧ (∀ k, memRead State.reset.mem k = 0) ∧ State.reset.cur.live = false ∧
  State.reset.others = [] ∧ State.reset.away = [] ∧ State.reset.cmds = [] ∧ (∀ i, State.reset.counter i = 0) ∧
  State.reset.power.cap = 3400 ∧ State.reset.power.floor = 1800 ∧ State.reset.boot.stage = 0 ∧
  (∀ r, (State.reset.scrub r).st = .pending) ∧ State.reset.cur.estat = 2 ∧ (∀ r : SReg, State.reset.reg r = 0)

/-- Whatever a step does, storage keeps its canonical form: keys and poison marks (R358) strictly rising, nothing listed
that an unlisted byte would read as (0, the model's own choice, log entry 1); so that equal storage is equal data. -/
def Obligations.StepKeepsCanonical : Prop :=
  ∀ s t : State, s.Canonical → step s = .next t → t.Canonical
end

