-- ==== Sys2Proof/Laws/Decode.lean ====
section
/-!
SUPPORT. Sys2Proof/Laws/Decode.lean: what the decoder does with the bits of one major, and when a field holds an operand.
-/
namespace Sys2Proof

theorem r5_of {w lo : Nat} {d : Fin 32} (h : w / 2 ^ lo % 32 = d.val) : r5 w lo = d := Fin.ext h
theorem r3_of {w lo : Nat} {d : Fin 8} (h : w / 2 ^ lo % 8 = d.val) : r3 w lo = d := Fin.ext h
theorem r2_of {w lo : Nat} {d : Fin 4} (h : w / 2 ^ lo % 4 = d.val) : r2 w lo = d := Fin.ext h
theorem im_of {n w lo : Nat} {d : BitVec n} (h : w / 2 ^ lo % 2 ^ n = d.toNat) : im n w lo = d := BitVec.eq_of_toNat_eq h
theorem bitAt_of {w lo : Nat} {b : Bool} (h : w / 2 ^ lo % 2 = b.toNat) : bitAt w lo = b := by
  cases b <;> simp_all [bitAt, fld]
theorem fld_r5 {w lo : Nat} {d : Fin 32} (h : r5 w lo = d) : fld w lo 5 = d.val := congrArg Fin.val h
theorem fld_r3 {w lo : Nat} {d : Fin 8} (h : r3 w lo = d) : fld w lo 3 = d.val := congrArg Fin.val h
theorem fld_r2 {w lo : Nat} {d : Fin 4} (h : r2 w lo = d) : fld w lo 2 = d.val := congrArg Fin.val h
theorem fld_im {n w lo : Nat} {d : BitVec n} (h : im n w lo = d) : fld w lo n = d.toNat := congrArg BitVec.toNat h
theorem unused_of {z : Nat} {i : Instr} (h : z = 0) : unused z i = .ok i := if_pos h
theorem listed_of {ok : Bool} {r : Dec} (h : ok = true) : listed ok r = r := if_pos h
theorem writesRg_of {w : Nat} {i : Instr} (h : fld w 6 5 ≠ 0) : writesRg w (.ok i) = .ok i := if_neg h

theorem decode32_1 {w : Nat} (h : fld w 24 6 = 1) : decode 4 w = decSalu w := by
  show decode32 w = _; unfold decode32; rw [h]; try rfl
theorem decode32_2 {w : Nat} (h : fld w 24 6 = 2) : decode 4 w = .ok (.addi (r5 w 19) (r5 w 14) (im 14 w 0)) := by
  show decode32 w = _; unfold decode32; rw [h]; try rfl
theorem decode32_3 {w : Nat} (h : fld w 24 6 = 3) : decode 4 w = .ok (.andi (r5 w 19) (r5 w 14) (im 14 w 0)) := by
  show decode32 w = _; unfold decode32; rw [h]; try rfl
theorem decode32_4 {w : Nat} (h : fld w 24 6 = 4) : decode 4 w = .ok (.ori (r5 w 19) (r5 w 14) (im 14 w 0)) := by
  show decode32 w = _; unfold decode32; rw [h]; try rfl
theorem decode32_5 {w : Nat} (h : fld w 24 6 = 5) : decode 4 w = .ok (.xori (r5 w 19) (r5 w 14) (im 14 w 0)) := by
  show decode32 w = _; unfold decode32; rw [h]; try rfl
theorem decode32_6 {w : Nat} (h : fld w 24 6 = 6) : decode 4 w = decShifti w := by
  show decode32 w = _; unfold decode32; rw [h]; try rfl
theorem decode32_7 {w : Nat} (h : fld w 24 6 = 7) : decode 4 w = .ok (.slti (r5 w 19) (r5 w 14) (im 14 w 0)) := by
  show decode32 w = _; unfold decode32; rw [h]; try rfl
theorem decode32_8 {w : Nat} (h : fld w 24 6 = 8) : decode 4 w = .ok (.sltni (r5 w 19) (r5 w 14) (im 14 w 0)) := by
  show decode32 w = _; unfold decode32; rw [h]; try rfl
theorem decode32_9 {w : Nat} (h : fld w 24 6 = 9) : decode 4 w = .ok (.lui (r5 w 19) (im 19 w 0)) := by
  show decode32 w = _; unfold decode32; rw [h]; try rfl
theorem decode32_10 {w : Nat} (h : fld w 24 6 = 10) : decode 4 w = .ok (.adpc (r5 w 19) (im 19 w 0)) := by
  show decode32 w = _; unfold decode32; rw [h]; try rfl
theorem decode32_11 {w : Nat} (h : fld w 24 6 = 11) : decode 4 w = decBfld w := by
  show decode32 w = _; unfold decode32; rw [h]; try rfl
theorem decode32_12 {w : Nat} (h : fld w 24 6 = 12) : decode 4 w = listed (loadWidth (fld w 11 3)) (.ok (.ld (r5 w 19) (r5 w 14) (r3 w 11) (im 11 w 0))) := by
  show decode32 w = _; unfold decode32; rw [h]; try rfl
theorem decode32_13 {w : Nat} (h : fld w 24 6 = 13) : decode 4 w = listed (storeWidth (fld w 11 3)) (.ok (.st (r5 w 19) (r5 w 14) (r3 w 11) (im 11 w 0))) := by
  show decode32 w = _; unfold decode32; rw [h]; try rfl
theorem decode32_14 {w : Nat} (h : fld w 24 6 = 14) : decode 4 w = listed (acqWidth (fld w 11 3)) (.ok (.lda (r5 w 19) (r5 w 14) (r3 w 11) (im 11 w 0))) := by
  show decode32 w = _; unfold decode32; rw [h]; try rfl
theorem decode32_15 {w : Nat} (h : fld w 24 6 = 15) : decode 4 w = listed (relWidth (fld w 11 3)) (.ok (.stl (r5 w 19) (r5 w 14) (r3 w 11) (im 11 w 0))) := by
  show decode32 w = _; unfold decode32; rw [h]; try rfl
theorem decode32_16 {w : Nat} (h : fld w 24 6 = 16) : decode 4 w = .ok (.beq (r5 w 19) (r5 w 14) (im 14 w 0)) := by
  show decode32 w = _; unfold decode32; rw [h]; try rfl
theorem decode32_17 {w : Nat} (h : fld w 24 6 = 17) : decode 4 w = .ok (.bne (r5 w 19) (r5 w 14) (im 14 w 0)) := by
  show decode32 w = _; unfold decode32; rw [h]; try rfl
theorem decode32_18 {w : Nat} (h : fld w 24 6 = 18) : decode 4 w = .ok (.blt (r5 w 19) (r5 w 14) (im 14 w 0)) := by
  show decode32 w = _; unfold decode32; rw [h]; try rfl
theorem decode32_19 {w : Nat} (h : fld w 24 6 = 19) : decode 4 w = .ok (.bge (r5 w 19) (r5 w 14) (im 14 w 0)) := by
  show decode32 w = _; unfold decode32; rw [h]; try rfl
theorem decode32_20 {w : Nat} (h : fld w 24 6 = 20) : decode 4 w = .ok (.bltn (r5 w 19) (r5 w 14) (im 14 w 0)) := by
  show decode32 w = _; unfold decode32; rw [h]; try rfl
theorem decode32_21 {w : Nat} (h : fld w 24 6 = 21) : decode 4 w = .ok (.bgen (r5 w 19) (r5 w 14) (im 14 w 0)) := by
  show decode32 w = _; unfold decode32; rw [h]; try rfl
theorem decode32_22 {w : Nat} (h : fld w 24 6 = 22) : decode 4 w = .ok (.jmp (im 24 w 0)) := by
  show decode32 w = _; unfold decode32; rw [h]; try rfl
theorem decode32_23 {w : Nat} (h : fld w 24 6 = 23) : decode 4 w = .ok (.call (im 24 w 0)) := by
  show decode32 w = _; unfold decode32; rw [h]; try rfl
theorem decode32_24 {w : Nat} (h : fld w 24 6 = 24) : decode 4 w = decJreg w := by
  show decode32 w = _; unfold decode32; rw [h]; try rfl
theorem decode32_25 {w : Nat} (h : fld w 24 6 = 25) : decode 4 w = decAmo w := by
  show decode32 w = _; unfold decode32; rw [h]; try rfl
theorem decode32_26 {w : Nat} (h : fld w 24 6 = 26) : decode 4 w = unused (fld w 3 1) (.cas (r5 w 19) (r5 w 14) (r5 w 9) (r5 w 4) (r2 w 1) (bitAt w 0)) := by
  show decode32 w = _; unfold decode32; rw [h]; try rfl
theorem decode32_27 {w : Nat} (h : fld w 24 6 = 27) : decode 4 w = listed (decide (fld w 2 3 ≤ 4)) (unused (fld w 9 15 + fld w 5 4) (.fence (r3 w 2) (r2 w 0))) := by
  show decode32 w = _; unfold decode32; rw [h]; try rfl
theorem decode32_28 {w : Nat} (h : fld w 24 6 = 28) : decode 4 w = decSys w := by
  show decode32 w = _; unfold decode32; rw [h]; try rfl
theorem decode32_29 {w : Nat} (h : fld w 24 6 = 29) : decode 4 w = decCreg w := by
  show decode32 w = _; unfold decode32; rw [h]; try rfl
theorem decode32_30 {w : Nat} (h : fld w 24 6 = 30) : decode 4 w = .ok (.snext (im 24 w 0)) := by
  show decode32 w = _; unfold decode32; rw [h]; try rfl
theorem decode32_31 {w : Nat} (h : fld w 24 6 = 31) : decode 4 w = decLaunch w := by
  show decode32 w = _; unfold decode32; rw [h]; try rfl
theorem decode32_32 {w : Nat} (h : fld w 24 6 = 32) : decode 4 w = decSfp w := by
  show decode32 w = _; unfold decode32; rw [h]; try rfl
theorem decode32_33 {w : Nat} (h : fld w 24 6 = 33) : decode 4 w = decSfma w := by
  show decode32 w = _; unfold decode32; rw [h]; try rfl
theorem decode32_40 {w : Nat} (h : fld w 24 6 = 40) : decode 4 w = .ok (.vsetl (r5 w 19) (r5 w 14) (im 14 w 0)) := by
  show decode32 w = _; unfold decode32; rw [h]; try rfl
theorem decode32_41 {w : Nat} (h : fld w 24 6 = 41) : decode 4 w = decVld w := by
  show decode32 w = _; unfold decode32; rw [h]; try rfl
theorem decode32_42 {w : Nat} (h : fld w 24 6 = 42) : decode 4 w = decVst w := by
  show decode32 w = _; unfold decode32; rw [h]; try rfl
theorem decode32_43 {w : Nat} (h : fld w 24 6 = 43) : decode 4 w = decVamo w := by
  show decode32 w = _; unfold decode32; rw [h]; try rfl
theorem decode32_44 {w : Nat} (h : fld w 24 6 = 44) : decode 4 w = decVintVV w := by
  show decode32 w = _; unfold decode32; rw [h]; try rfl
theorem decode32_45 {w : Nat} (h : fld w 24 6 = 45) : decode 4 w = decVintVX w := by
  show decode32 w = _; unfold decode32; rw [h]; try rfl
theorem decode32_46 {w : Nat} (h : fld w 24 6 = 46) : decode 4 w = decVintVI w := by
  show decode32 w = _; unfold decode32; rw [h]; try rfl
theorem decode32_47 {w : Nat} (h : fld w 24 6 = 47) : decode 4 w = decVfpVV w := by
  show decode32 w = _; unfold decode32; rw [h]; try rfl
theorem decode32_48 {w : Nat} (h : fld w 24 6 = 48) : decode 4 w = decVfpVX w := by
  show decode32 w = _; unfold decode32; rw [h]; try rfl
theorem decode32_49 {w : Nat} (h : fld w 24 6 = 49) : decode 4 w = decVcmp w := by
  show decode32 w = _; unfold decode32; rw [h]; try rfl
theorem decode32_50 {w : Nat} (h : fld w 24 6 = 50) : decode 4 w = decVpred w := by
  show decode32 w = _; unfold decode32; rw [h]; try rfl
theorem decode32_51 {w : Nat} (h : fld w 24 6 = 51) : decode 4 w = decVred w := by
  show decode32 w = _; unfold decode32; rw [h]; try rfl
theorem decode32_52 {w : Nat} (h : fld w 24 6 = 52) : decode 4 w = decVpermx w := by
  show decode32 w = _; unfold decode32; rw [h]; try rfl
theorem decode32_53 {w : Nat} (h : fld w 24 6 = 53) : decode 4 w = listed (decide (fld w 10 5 ≠ 15)) (unused (if bitAt w 4 then 0 else fld w 0 2) (.vcvt (bitAt w 23) (r3 w 20) (r5 w 15) (r5 w 10) (r5 w 5) (bitAt w 4) (bitAt w 3) (bitAt w 2) (r2 w 0))) := by
  show decode32 w = _; unfold decode32; rw [h]; try rfl
theorem decode32_54 {w : Nat} (h : fld w 24 6 = 54) : decode 4 w = decVq w := by
  show decode32 w = _; unfold decode32; rw [h]; try rfl
theorem decode32_55 {w : Nat} (h : fld w 24 6 = 55) : decode 4 w = decVscl w := by
  show decode32 w = _; unfold decode32; rw [h]; try rfl
theorem decode32_56 {w : Nat} (h : fld w 24 6 = 56) : decode 4 w = decVmisc w := by
  show decode32 w = _; unfold decode32; rw [h]; try rfl
theorem decode32_57 {w : Nat} (h : fld w 24 6 = 57) : decode 4 w = decMat w := by
  show decode32 w = _; unfold decode32; rw [h]; try rfl
theorem decode32_58 {w : Nat} (h : fld w 24 6 = 58) : decode 4 w = decCpy w := by
  show decode32 w = _; unfold decode32; rw [h]; try rfl
theorem decode32_59 {w : Nat} (h : fld w 24 6 = 59) : decode 4 w = decBob w := by
  show decode32 w = _; unfold decode32; rw [h]; try rfl
theorem decode32_60 {w : Nat} (h : fld w 24 6 = 60) : decode 4 w = decLz w := by
  show decode32 w = _; unfold decode32; rw [h]; try rfl
theorem decode32_61 {w : Nat} (h : fld w 24 6 = 61) : decode 4 w = decEvt w := by
  show decode32 w = _; unfold decode32; rw [h]; try rfl
theorem decode32_62 {w : Nat} (h : fld w 24 6 = 62) : decode 4 w = decAcct w := by
  show decode32 w = _; unfold decode32; rw [h]; try rfl
theorem decode16_0 {w : Nat} (h : fld w 11 4 = 0) : decode 2 w = writesRg w (.ok (.cAddi (r5 w 6) (im 6 w 0))) := by
  show decode16 w = _; unfold decode16; rw [h]; try rfl
theorem decode16_1 {w : Nat} (h : fld w 11 4 = 1) : decode 2 w = writesRg w (.ok (.cLi (r5 w 6) (im 6 w 0))) := by
  show decode16 w = _; unfold decode16; rw [h]; try rfl
theorem decode16_2 {w : Nat} (h : fld w 11 4 = 2) : decode 2 w = writesRg w (unused (fld w 5 1) (.cMov (r5 w 6) (r5 w 0))) := by
  show decode16 w = _; unfold decode16; rw [h]; try rfl
theorem decode16_3 {w : Nat} (h : fld w 11 4 = 3) : decode 2 w = writesRg w (unused (fld w 5 1) (.cAdd (r5 w 6) (r5 w 0))) := by
  show decode16 w = _; unfold decode16; rw [h]; try rfl
theorem decode16_4 {w : Nat} (h : fld w 11 4 = 4) : decode 2 w = writesRg w (unused (fld w 5 1) (.cSub (r5 w 6) (r5 w 0))) := by
  show decode16 w = _; unfold decode16; rw [h]; try rfl
theorem decode16_5 {w : Nat} (h : fld w 11 4 = 5) : decode 2 w = writesRg w (unused (fld w 5 1) (.cAnd (r5 w 6) (r5 w 0))) := by
  show decode16 w = _; unfold decode16; rw [h]; try rfl
theorem decode16_6 {w : Nat} (h : fld w 11 4 = 6) : decode 2 w = writesRg w (.ok (.cShli (r5 w 6) (im 6 w 0))) := by
  show decode16 w = _; unfold decode16; rw [h]; try rfl
theorem decode16_7 {w : Nat} (h : fld w 11 4 = 7) : decode 2 w = writesRg w (.ok (.cShri (r5 w 6) (im 6 w 0))) := by
  show decode16 w = _; unfold decode16; rw [h]; try rfl
theorem decode16_8 {w : Nat} (h : fld w 11 4 = 8) : decode 2 w = writesRg w (.ok (.cLdsp (r5 w 6) (im 6 w 0))) := by
  show decode16 w = _; unfold decode16; rw [h]; try rfl
theorem decode16_9 {w : Nat} (h : fld w 11 4 = 9) : decode 2 w = .ok (.cStsp (r5 w 6) (im 6 w 0)) := by
  show decode16 w = _; unfold decode16; rw [h]; try rfl
theorem decode16_10 {w : Nat} (h : fld w 11 4 = 10) : decode 2 w = .ok (.cBeqz (r5 w 6) (im 6 w 0)) := by
  show decode16 w = _; unfold decode16; rw [h]; try rfl
theorem decode16_11 {w : Nat} (h : fld w 11 4 = 11) : decode 2 w = .ok (.cBnez (r5 w 6) (im 6 w 0)) := by
  show decode16 w = _; unfold decode16; rw [h]; try rfl
theorem decode16_12 {w : Nat} (h : fld w 11 4 = 12) : decode 2 w = .ok (.cJ (im 11 w 0)) := by
  show decode16 w = _; unfold decode16; rw [h]; try rfl
theorem decode16_13 {w : Nat} (h : fld w 11 4 = 13) : decode 2 w = unused (fld w 0 6) (.cJr (r5 w 6)) := by
  show decode16 w = _; unfold decode16; rw [h]; try rfl
theorem decode16_14 {w : Nat} (h : fld w 11 4 = 14) : decode 2 w = unused (fld w 0 11) (.cNop) := by
  show decode16 w = _; unfold decode16; rw [h]; try rfl
theorem decode64_0 {w : Nat} (h : fld w 56 6 = 0) : decode 8 w = listed (mopType (fld w 27 5) && mopType (fld w 22 5)) (unused (fld w 0 15 + fld w 32 8 + fld w 55 1 + (if bitAt w 21 then 0 else fld w 15 6)) (.mop (r3 w 52) (r2 w 50) (r5 w 45) (r5 w 40) (r5 w 27) (r5 w 22) (bitAt w 21) (r3 w 18) (r3 w 15))) := by
  show decode64 w = _; unfold decode64; rw [h]; try rfl
theorem decode64_1 {w : Nat} (h : fld w 56 6 = 1) : decode 8 w = listed (fld w 27 5 == 14 && fld w 22 5 == 14) (unused (fld w 0 22 + fld w 32 8 + fld w 55 1) (.mops (r3 w 52) (r2 w 50) (r5 w 45) (r5 w 40) (r5 w 27) (r5 w 22))) := by
  show decode64 w = _; unfold decode64; rw [h]; try rfl
theorem decode64_2 {w : Nat} (h : fld w 56 6 = 2) : decode 8 w = unused (fld w 0 50 + fld w 52 4) (.mzero (r2 w 50)) := by
  show decode64 w = _; unfold decode64; rw [h]; try rfl
theorem decode64_3 {w : Nat} (h : fld w 56 6 = 3) : decode 8 w = unused (fld w 0 10 + fld w 15 20 + fld w 40 10 + fld w 52 4) (.mtld (r2 w 50) (r5 w 35) (r5 w 10)) := by
  show decode64 w = _; unfold decode64; rw [h]; try rfl
theorem decode64_4 {w : Nat} (h : fld w 56 6 = 4) : decode 8 w = unused (fld w 0 10 + fld w 15 20 + fld w 40 10 + fld w 52 4) (.mtst (r2 w 50) (r5 w 35) (r5 w 10)) := by
  show decode64 w = _; unfold decode64; rw [h]; try rfl
theorem decode64_5 {w : Nat} (h : fld w 56 6 = 5) : decode 8 w = unused (fld w 0 35 + fld w 40 5 + fld w 52 4) (.mrow (r2 w 50) (r5 w 45) (r5 w 35)) := by
  show decode64 w = _; unfold decode64; rw [h]; try rfl
theorem decode64_6 {w : Nat} (h : fld w 56 6 = 6) : decode 8 w = unused (fld w 0 35 + fld w 40 5 + fld w 52 4) (.mwrow (r2 w 50) (r5 w 45) (r5 w 35)) := by
  show decode64 w = _; unfold decode64; rw [h]; try rfl
theorem decSalu_0 {w : Nat} (h0 : fld w 0 9 = 0) : decSalu w = .ok (.add (r5 w 19) (r5 w 14) (r5 w 9)) := by
  unfold decSalu; rw [h0]; try rfl
theorem decSalu_1 {w : Nat} (h0 : fld w 0 9 = 1) : decSalu w = .ok (.sub (r5 w 19) (r5 w 14) (r5 w 9)) := by
  unfold decSalu; rw [h0]; try rfl
theorem decSalu_2 {w : Nat} (h0 : fld w 0 9 = 2) : decSalu w = .ok (.and (r5 w 19) (r5 w 14) (r5 w 9)) := by
  unfold decSalu; rw [h0]; try rfl
theorem decSalu_3 {w : Nat} (h0 : fld w 0 9 = 3) : decSalu w = .ok (.or (r5 w 19) (r5 w 14) (r5 w 9)) := by
  unfold decSalu; rw [h0]; try rfl
theorem decSalu_4 {w : Nat} (h0 : fld w 0 9 = 4) : decSalu w = .ok (.xor (r5 w 19) (r5 w 14) (r5 w 9)) := by
  unfold decSalu; rw [h0]; try rfl
theorem decSalu_5 {w : Nat} (h0 : fld w 0 9 = 5) : decSalu w = .ok (.andn (r5 w 19) (r5 w 14) (r5 w 9)) := by
  unfold decSalu; rw [h0]; try rfl
theorem decSalu_6 {w : Nat} (h0 : fld w 0 9 = 6) : decSalu w = .ok (.orn (r5 w 19) (r5 w 14) (r5 w 9)) := by
  unfold decSalu; rw [h0]; try rfl
theorem decSalu_7 {w : Nat} (h0 : fld w 0 9 = 7) : decSalu w = .ok (.shl (r5 w 19) (r5 w 14) (r5 w 9)) := by
  unfold decSalu; rw [h0]; try rfl
theorem decSalu_8 {w : Nat} (h0 : fld w 0 9 = 8) : decSalu w = .ok (.shr (r5 w 19) (r5 w 14) (r5 w 9)) := by
  unfold decSalu; rw [h0]; try rfl
theorem decSalu_9 {w : Nat} (h0 : fld w 0 9 = 9) : decSalu w = .ok (.sar (r5 w 19) (r5 w 14) (r5 w 9)) := by
  unfold decSalu; rw [h0]; try rfl
theorem decSalu_10 {w : Nat} (h0 : fld w 0 9 = 10) : decSalu w = .ok (.rol (r5 w 19) (r5 w 14) (r5 w 9)) := by
  unfold decSalu; rw [h0]; try rfl
theorem decSalu_11 {w : Nat} (h0 : fld w 0 9 = 11) : decSalu w = .ok (.ror (r5 w 19) (r5 w 14) (r5 w 9)) := by
  unfold decSalu; rw [h0]; try rfl
theorem decSalu_12 {w : Nat} (h0 : fld w 0 9 = 12) : decSalu w = .ok (.slt (r5 w 19) (r5 w 14) (r5 w 9)) := by
  unfold decSalu; rw [h0]; try rfl
theorem decSalu_13 {w : Nat} (h0 : fld w 0 9 = 13) : decSalu w = .ok (.sltn (r5 w 19) (r5 w 14) (r5 w 9)) := by
  unfold decSalu; rw [h0]; try rfl
theorem decSalu_14 {w : Nat} (h0 : fld w 0 9 = 14) : decSalu w = .ok (.min (r5 w 19) (r5 w 14) (r5 w 9)) := by
  unfold decSalu; rw [h0]; try rfl
theorem decSalu_15 {w : Nat} (h0 : fld w 0 9 = 15) : decSalu w = .ok (.max (r5 w 19) (r5 w 14) (r5 w 9)) := by
  unfold decSalu; rw [h0]; try rfl
theorem decSalu_16 {w : Nat} (h0 : fld w 0 9 = 16) : decSalu w = .ok (.minn (r5 w 19) (r5 w 14) (r5 w 9)) := by
  unfold decSalu; rw [h0]; try rfl
theorem decSalu_17 {w : Nat} (h0 : fld w 0 9 = 17) : decSalu w = .ok (.maxn (r5 w 19) (r5 w 14) (r5 w 9)) := by
  unfold decSalu; rw [h0]; try rfl
theorem decSalu_18 {w : Nat} (h0 : fld w 0 9 = 18) : decSalu w = .ok (.mul (r5 w 19) (r5 w 14) (r5 w 9)) := by
  unfold decSalu; rw [h0]; try rfl
theorem decSalu_19 {w : Nat} (h0 : fld w 0 9 = 19) : decSalu w = .ok (.mulh (r5 w 19) (r5 w 14) (r5 w 9)) := by
  unfold decSalu; rw [h0]; try rfl
theorem decSalu_20 {w : Nat} (h0 : fld w 0 9 = 20) : decSalu w = .ok (.mulhn (r5 w 19) (r5 w 14) (r5 w 9)) := by
  unfold decSalu; rw [h0]; try rfl
theorem decSalu_21 {w : Nat} (h0 : fld w 0 9 = 21) : decSalu w = .ok (.div (r5 w 19) (r5 w 14) (r5 w 9)) := by
  unfold decSalu; rw [h0]; try rfl
theorem decSalu_22 {w : Nat} (h0 : fld w 0 9 = 22) : decSalu w = .ok (.divn (r5 w 19) (r5 w 14) (r5 w 9)) := by
  unfold decSalu; rw [h0]; try rfl
theorem decSalu_23 {w : Nat} (h0 : fld w 0 9 = 23) : decSalu w = .ok (.rem (r5 w 19) (r5 w 14) (r5 w 9)) := by
  unfold decSalu; rw [h0]; try rfl
theorem decSalu_24 {w : Nat} (h0 : fld w 0 9 = 24) : decSalu w = .ok (.remn (r5 w 19) (r5 w 14) (r5 w 9)) := by
  unfold decSalu; rw [h0]; try rfl
theorem decSalu_25 {w : Nat} (h0 : fld w 0 9 = 25) : decSalu w = unused (fld w 9 5) (.clz (r5 w 19) (r5 w 14)) := by
  unfold decSalu; rw [h0]; try rfl
theorem decSalu_26 {w : Nat} (h0 : fld w 0 9 = 26) : decSalu w = unused (fld w 9 5) (.ctz (r5 w 19) (r5 w 14)) := by
  unfold decSalu; rw [h0]; try rfl
theorem decSalu_27 {w : Nat} (h0 : fld w 0 9 = 27) : decSalu w = unused (fld w 9 5) (.popc (r5 w 19) (r5 w 14)) := by
  unfold decSalu; rw [h0]; try rfl
theorem decSalu_28 {w : Nat} (h0 : fld w 0 9 = 28) : decSalu w = .ok (.sext (r5 w 19) (r5 w 14) (r5 w 9)) := by
  unfold decSalu; rw [h0]; try rfl
theorem decShifti_0 {w : Nat} (h0 : fld w 12 2 = 0) : decShifti w = unused (fld w 6 6) (.shli (r5 w 19) (r5 w 14) (im 6 w 0)) := by
  unfold decShifti; rw [h0]; try rfl
theorem decShifti_1 {w : Nat} (h0 : fld w 12 2 = 1) : decShifti w = unused (fld w 6 6) (.shri (r5 w 19) (r5 w 14) (im 6 w 0)) := by
  unfold decShifti; rw [h0]; try rfl
theorem decShifti_2 {w : Nat} (h0 : fld w 12 2 = 2) : decShifti w = unused (fld w 6 6) (.sari (r5 w 19) (r5 w 14) (im 6 w 0)) := by
  unfold decShifti; rw [h0]; try rfl
theorem decBfld_0 {w : Nat} (h0 : fld w 12 2 = 0) : decBfld w = listed (decide (fld w 6 6 + fld w 0 6 + 1 ≤ 64)) (.ok (.bext (r5 w 19) (r5 w 14) (im 6 w 6) (im 6 w 0))) := by
  unfold decBfld; rw [h0]; try rfl
theorem decBfld_1 {w : Nat} (h0 : fld w 12 2 = 1) : decBfld w = listed (decide (fld w 6 6 + fld w 0 6 + 1 ≤ 64)) (.ok (.bextS (r5 w 19) (r5 w 14) (im 6 w 6) (im 6 w 0))) := by
  unfold decBfld; rw [h0]; try rfl
theorem decBfld_2 {w : Nat} (h0 : fld w 12 2 = 2) : decBfld w = listed (decide (fld w 6 6 + fld w 0 6 + 1 ≤ 64)) (.ok (.bins (r5 w 19) (r5 w 14) (im 6 w 6) (im 6 w 0))) := by
  unfold decBfld; rw [h0]; try rfl
theorem decJreg_0 {w : Nat} (h0 : fld w 0 9 = 0) : decJreg w = unused (fld w 9 5 + fld w 19 5) (.jr (r5 w 14)) := by
  unfold decJreg; rw [h0]; try rfl
theorem decJreg_1 {w : Nat} (h0 : fld w 0 9 = 1) : decJreg w = unused (fld w 9 5) (.callr (r5 w 19) (r5 w 14)) := by
  unfold decJreg; rw [h0]; try rfl
theorem decAmo_0 {w : Nat} (h0 : fld w 0 4 = 0) : decAmo w = unused (fld w 7 2) (.amoSwap (r5 w 19) (r5 w 14) (r5 w 9) (r2 w 5) (bitAt w 4)) := by
  unfold decAmo; rw [h0]; try rfl
theorem decAmo_1 {w : Nat} (h0 : fld w 0 4 = 1) : decAmo w = unused (fld w 7 2) (.amoAdd (r5 w 19) (r5 w 14) (r5 w 9) (r2 w 5) (bitAt w 4)) := by
  unfold decAmo; rw [h0]; try rfl
theorem decAmo_2 {w : Nat} (h0 : fld w 0 4 = 2) : decAmo w = unused (fld w 7 2) (.amoAnd (r5 w 19) (r5 w 14) (r5 w 9) (r2 w 5) (bitAt w 4)) := by
  unfold decAmo; rw [h0]; try rfl
theorem decAmo_3 {w : Nat} (h0 : fld w 0 4 = 3) : decAmo w = unused (fld w 7 2) (.amoOr (r5 w 19) (r5 w 14) (r5 w 9) (r2 w 5) (bitAt w 4)) := by
  unfold decAmo; rw [h0]; try rfl
theorem decAmo_4 {w : Nat} (h0 : fld w 0 4 = 4) : decAmo w = unused (fld w 7 2) (.amoXor (r5 w 19) (r5 w 14) (r5 w 9) (r2 w 5) (bitAt w 4)) := by
  unfold decAmo; rw [h0]; try rfl
theorem decAmo_5 {w : Nat} (h0 : fld w 0 4 = 5) : decAmo w = unused (fld w 7 2) (.amoMin (r5 w 19) (r5 w 14) (r5 w 9) (r2 w 5) (bitAt w 4)) := by
  unfold decAmo; rw [h0]; try rfl
theorem decAmo_6 {w : Nat} (h0 : fld w 0 4 = 6) : decAmo w = unused (fld w 7 2) (.amoMax (r5 w 19) (r5 w 14) (r5 w 9) (r2 w 5) (bitAt w 4)) := by
  unfold decAmo; rw [h0]; try rfl
theorem decAmo_7 {w : Nat} (h0 : fld w 0 4 = 7) : decAmo w = unused (fld w 7 2) (.amoMinn (r5 w 19) (r5 w 14) (r5 w 9) (r2 w 5) (bitAt w 4)) := by
  unfold decAmo; rw [h0]; try rfl
theorem decAmo_8 {w : Nat} (h0 : fld w 0 4 = 8) : decAmo w = unused (fld w 7 2) (.amoMaxn (r5 w 19) (r5 w 14) (r5 w 9) (r2 w 5) (bitAt w 4)) := by
  unfold decAmo; rw [h0]; try rfl
theorem decSys_0 {w : Nat} (h0 : fld w 0 9 = 0) : decSys w = unused (fld w 9 5 + fld w 19 5) (.trap (r5 w 14)) := by
  unfold decSys; rw [h0]; try rfl
theorem decSys_1 {w : Nat} (h0 : fld w 0 9 = 1) : decSys w = unused (fld w 9 15) (.rett) := by
  unfold decSys; rw [h0]; try rfl
theorem decSys_2 {w : Nat} (h0 : fld w 0 9 = 2) : decSys w = unused (fld w 9 10) (.ckpt (r5 w 19)) := by
  unfold decSys; rw [h0]; try rfl
theorem decSys_3 {w : Nat} (h0 : fld w 0 9 = 3) : decSys w = unused (fld w 9 15) (.exit) := by
  unfold decSys; rw [h0]; try rfl
theorem decSys_4 {w : Nat} (h0 : fld w 0 9 = 4) : decSys w = unused (fld w 9 15) (.yield) := by
  unfold decSys; rw [h0]; try rfl
theorem decSys_5 {w : Nat} (h0 : fld w 0 9 = 5) : decSys w = unused (fld w 9 5 + fld w 19 5) (.sloop (r5 w 14)) := by
  unfold decSys; rw [h0]; try rfl
theorem decCreg_0 {w : Nat} (h0 : fld w 0 2 = 0) : decCreg w = listed (cregMapped (fld w 2 12)) (unused (fld w 14 5) (.crr (r5 w 19) (im 12 w 2))) := by
  unfold decCreg; rw [h0]; try rfl
theorem decCreg_1 {w : Nat} (h0 : fld w 0 2 = 1) : decCreg w = listed (cregMapped (fld w 2 12)) (.ok (.crw (r5 w 19) (r5 w 14) (im 12 w 2))) := by
  unfold decCreg; rw [h0]; try rfl
theorem decCreg_2 {w : Nat} (h0 : fld w 0 2 = 2) : decCreg w = listed (cregMapped (fld w 2 12)) (.ok (.crs (r5 w 19) (r5 w 14) (im 12 w 2))) := by
  unfold decCreg; rw [h0]; try rfl
theorem decCreg_3 {w : Nat} (h0 : fld w 0 2 = 3) : decCreg w = listed (cregMapped (fld w 2 12)) (.ok (.crc (r5 w 19) (r5 w 14) (im 12 w 2))) := by
  unfold decCreg; rw [h0]; try rfl
theorem decLaunch_0 {w : Nat} (h0 : fld w 0 1 = 0) : decLaunch w = unused (fld w 1 13) (.launch (r5 w 19) (r5 w 14)) := by
  unfold decLaunch; rw [h0]; try rfl
theorem decLaunch_1 {w : Nat} (h0 : fld w 0 1 = 1) : decLaunch w = unused (fld w 1 13) (.launchLend (r5 w 19) (r5 w 14)) := by
  unfold decLaunch; rw [h0]; try rfl
theorem decSfp_0 {w : Nat} (h0 : fld w 0 7 = 0) : decSfp w = listed (!bitAt w 8) (.ok (.fadd (r5 w 19) (r5 w 14) (r5 w 9) (bitAt w 7))) := by
  unfold decSfp; rw [h0]; try rfl
theorem decSfp_1 {w : Nat} (h0 : fld w 0 7 = 1) : decSfp w = listed (!bitAt w 8) (.ok (.fsub (r5 w 19) (r5 w 14) (r5 w 9) (bitAt w 7))) := by
  unfold decSfp; rw [h0]; try rfl
theorem decSfp_2 {w : Nat} (h0 : fld w 0 7 = 2) : decSfp w = listed (!bitAt w 8) (.ok (.fmul (r5 w 19) (r5 w 14) (r5 w 9) (bitAt w 7))) := by
  unfold decSfp; rw [h0]; try rfl
theorem decSfp_3 {w : Nat} (h0 : fld w 0 7 = 3) : decSfp w = listed (!bitAt w 8) (.ok (.fdiv (r5 w 19) (r5 w 14) (r5 w 9) (bitAt w 7))) := by
  unfold decSfp; rw [h0]; try rfl
theorem decSfp_4 {w : Nat} (h0 : fld w 0 7 = 4) : decSfp w = listed (!bitAt w 8) (unused (fld w 8 6) (.fsqrt (r5 w 19) (r5 w 14) (bitAt w 7))) := by
  unfold decSfp; rw [h0]; try rfl
theorem decSfp_5 {w : Nat} (h0 : fld w 0 7 = 5) : decSfp w = listed (!bitAt w 8) (.ok (.fmin (r5 w 19) (r5 w 14) (r5 w 9) (bitAt w 7))) := by
  unfold decSfp; rw [h0]; try rfl
theorem decSfp_6 {w : Nat} (h0 : fld w 0 7 = 6) : decSfp w = listed (!bitAt w 8) (.ok (.fmax (r5 w 19) (r5 w 14) (r5 w 9) (bitAt w 7))) := by
  unfold decSfp; rw [h0]; try rfl
theorem decSfp_7 {w : Nat} (h0 : fld w 0 7 = 7) : decSfp w = listed (!bitAt w 8) (.ok (.fcmpEq (r5 w 19) (r5 w 14) (r5 w 9) (bitAt w 7))) := by
  unfold decSfp; rw [h0]; try rfl
theorem decSfp_8 {w : Nat} (h0 : fld w 0 7 = 8) : decSfp w = listed (!bitAt w 8) (.ok (.fcmpLt (r5 w 19) (r5 w 14) (r5 w 9) (bitAt w 7))) := by
  unfold decSfp; rw [h0]; try rfl
theorem decSfp_9 {w : Nat} (h0 : fld w 0 7 = 9) : decSfp w = listed (!bitAt w 8) (.ok (.fcmpLe (r5 w 19) (r5 w 14) (r5 w 9) (bitAt w 7))) := by
  unfold decSfp; rw [h0]; try rfl
theorem decSfp_10 {w : Nat} (h0 : fld w 0 7 = 10) : decSfp w = listed (!bitAt w 8) (unused (fld w 8 6) (.fclass (r5 w 19) (r5 w 14) (bitAt w 7))) := by
  unfold decSfp; rw [h0]; try rfl
theorem decSfp_11 {w : Nat} (h0 : fld w 0 7 = 11) : decSfp w = listed (!bitAt w 8) (unused (fld w 8 6) (.fcvtF (r5 w 19) (r5 w 14) (bitAt w 7))) := by
  unfold decSfp; rw [h0]; try rfl
theorem decSfp_12 {w : Nat} (h0 : fld w 0 7 = 12) : decSfp w = listed (!bitAt w 8) (unused (fld w 8 6) (.fcvtI64 (r5 w 19) (r5 w 14) (bitAt w 7))) := by
  unfold decSfp; rw [h0]; try rfl
theorem decSfp_13 {w : Nat} (h0 : fld w 0 7 = 13) : decSfp w = listed (!bitAt w 8) (unused (fld w 8 6) (.fcvtN64 (r5 w 19) (r5 w 14) (bitAt w 7))) := by
  unfold decSfp; rw [h0]; try rfl
theorem decSfp_14 {w : Nat} (h0 : fld w 0 7 = 14) : decSfp w = listed (!bitAt w 8) (unused (fld w 8 6) (.fcvtFi (r5 w 19) (r5 w 14) (bitAt w 7))) := by
  unfold decSfp; rw [h0]; try rfl
theorem decSfp_15 {w : Nat} (h0 : fld w 0 7 = 15) : decSfp w = listed (!bitAt w 8) (unused (fld w 8 6) (.fcvtFn (r5 w 19) (r5 w 14) (bitAt w 7))) := by
  unfold decSfp; rw [h0]; try rfl
theorem decSfma_0 {w : Nat} (h0 : fld w 0 2 = 0) : decSfma w = unused (fld w 3 1) (.fma (r5 w 19) (r5 w 14) (r5 w 9) (r5 w 4) (bitAt w 2)) := by
  unfold decSfma; rw [h0]; try rfl
theorem decSfma_1 {w : Nat} (h0 : fld w 0 2 = 1) : decSfma w = unused (fld w 3 1) (.fms (r5 w 19) (r5 w 14) (r5 w 9) (r5 w 4) (bitAt w 2)) := by
  unfold decSfma; rw [h0]; try rfl
theorem decSfma_2 {w : Nat} (h0 : fld w 0 2 = 2) : decSfma w = unused (fld w 3 1) (.fnma (r5 w 19) (r5 w 14) (r5 w 9) (r5 w 4) (bitAt w 2)) := by
  unfold decSfma; rw [h0]; try rfl
theorem decSfma_3 {w : Nat} (h0 : fld w 0 2 = 3) : decSfma w = unused (fld w 3 1) (.fnms (r5 w 19) (r5 w 14) (r5 w 9) (r5 w 4) (bitAt w 2)) := by
  unfold decSfma; rw [h0]; try rfl
theorem decVld_0 {w : Nat} (h0 : fld w 0 3 = 0) : decVld w = unused (fld w 4 6) (.vld (bitAt w 23) (r3 w 20) (r5 w 15) (r5 w 10) (bitAt w 3)) := by
  unfold decVld; rw [h0]; try rfl
theorem decVld_1 {w : Nat} (h0 : fld w 0 3 = 1) : decVld w = unused (fld w 4 1) (.vldS (bitAt w 23) (r3 w 20) (r5 w 15) (r5 w 10) (r5 w 5) (bitAt w 3)) := by
  unfold decVld; rw [h0]; try rfl
theorem decVld_2 {w : Nat} (h0 : fld w 0 3 = 2) : decVld w = unused (fld w 4 1) (.vldX (bitAt w 23) (r3 w 20) (r5 w 15) (r5 w 10) (r5 w 5) (bitAt w 3)) := by
  unfold decVld; rw [h0]; try rfl
theorem decVld_3 {w : Nat} (h0 : fld w 0 3 = 3) : decVld w = unused (fld w 4 6) (.vldFf (bitAt w 23) (r3 w 20) (r5 w 15) (r5 w 10) (bitAt w 3)) := by
  unfold decVld; rw [h0]; try rfl
theorem decVld_4 {w : Nat} (h0 : fld w 0 3 = 4) : decVld w = unused (fld w 4 1) (.vldP (bitAt w 23) (r3 w 20) (r5 w 15) (r5 w 10) (r5 w 5) (bitAt w 3)) := by
  unfold decVld; rw [h0]; try rfl
theorem decVst_0 {w : Nat} (h0 : fld w 0 3 = 0) : decVst w = unused (fld w 4 6) (.vst (bitAt w 23) (r3 w 20) (r5 w 15) (r5 w 10) (bitAt w 3)) := by
  unfold decVst; rw [h0]; try rfl
theorem decVst_1 {w : Nat} (h0 : fld w 0 3 = 1) : decVst w = unused (fld w 4 1) (.vstS (bitAt w 23) (r3 w 20) (r5 w 15) (r5 w 10) (r5 w 5) (bitAt w 3)) := by
  unfold decVst; rw [h0]; try rfl
theorem decVst_2 {w : Nat} (h0 : fld w 0 3 = 2) : decVst w = unused (fld w 4 1) (.vstX (bitAt w 23) (r3 w 20) (r5 w 15) (r5 w 10) (r5 w 5) (bitAt w 3)) := by
  unfold decVst; rw [h0]; try rfl
theorem decVst_3 {w : Nat} (h0 : fld w 0 3 = 3) : decVst w = unused (fld w 4 1) (.vstXo (bitAt w 23) (r3 w 20) (r5 w 15) (r5 w 10) (r5 w 5) (bitAt w 3)) := by
  unfold decVst; rw [h0]; try rfl
theorem decVst_4 {w : Nat} (h0 : fld w 0 3 = 4) : decVst w = unused (fld w 4 1) (.vstP (bitAt w 23) (r3 w 20) (r5 w 15) (r5 w 10) (r5 w 5) (bitAt w 3)) := by
  unfold decVst; rw [h0]; try rfl
theorem decVamo_0 {w : Nat} (h0 : fld w 0 4 = 0) : decVamo w = .ok (.vamoSwap (bitAt w 23) (r3 w 20) (r5 w 15) (r5 w 10) (r5 w 5) (bitAt w 4)) := by
  unfold decVamo; rw [h0]; try rfl
theorem decVamo_1 {w : Nat} (h0 : fld w 0 4 = 1) : decVamo w = .ok (.vamoAdd (bitAt w 23) (r3 w 20) (r5 w 15) (r5 w 10) (r5 w 5) (bitAt w 4)) := by
  unfold decVamo; rw [h0]; try rfl
theorem decVamo_2 {w : Nat} (h0 : fld w 0 4 = 2) : decVamo w = .ok (.vamoAnd (bitAt w 23) (r3 w 20) (r5 w 15) (r5 w 10) (r5 w 5) (bitAt w 4)) := by
  unfold decVamo; rw [h0]; try rfl
theorem decVamo_3 {w : Nat} (h0 : fld w 0 4 = 3) : decVamo w = .ok (.vamoOr (bitAt w 23) (r3 w 20) (r5 w 15) (r5 w 10) (r5 w 5) (bitAt w 4)) := by
  unfold decVamo; rw [h0]; try rfl
theorem decVamo_4 {w : Nat} (h0 : fld w 0 4 = 4) : decVamo w = .ok (.vamoXor (bitAt w 23) (r3 w 20) (r5 w 15) (r5 w 10) (r5 w 5) (bitAt w 4)) := by
  unfold decVamo; rw [h0]; try rfl
theorem decVamo_5 {w : Nat} (h0 : fld w 0 4 = 5) : decVamo w = .ok (.vamoMin (bitAt w 23) (r3 w 20) (r5 w 15) (r5 w 10) (r5 w 5) (bitAt w 4)) := by
  unfold decVamo; rw [h0]; try rfl
theorem decVamo_6 {w : Nat} (h0 : fld w 0 4 = 6) : decVamo w = .ok (.vamoMax (bitAt w 23) (r3 w 20) (r5 w 15) (r5 w 10) (r5 w 5) (bitAt w 4)) := by
  unfold decVamo; rw [h0]; try rfl
theorem decVamo_7 {w : Nat} (h0 : fld w 0 4 = 7) : decVamo w = .ok (.vamoMinn (bitAt w 23) (r3 w 20) (r5 w 15) (r5 w 10) (r5 w 5) (bitAt w 4)) := by
  unfold decVamo; rw [h0]; try rfl
theorem decVamo_8 {w : Nat} (h0 : fld w 0 4 = 8) : decVamo w = .ok (.vamoMaxn (bitAt w 23) (r3 w 20) (r5 w 15) (r5 w 10) (r5 w 5) (bitAt w 4)) := by
  unfold decVamo; rw [h0]; try rfl
theorem decVintVV_0 {w : Nat} (h0 : fld w 0 5 = 0) : decVintVV w = .ok (.vaddVv (bitAt w 23) (r3 w 20) (r5 w 15) (r5 w 10) (r5 w 5)) := by
  unfold decVintVV; rw [h0]; try rfl
theorem decVintVV_1 {w : Nat} (h0 : fld w 0 5 = 1) : decVintVV w = .ok (.vsubVv (bitAt w 23) (r3 w 20) (r5 w 15) (r5 w 10) (r5 w 5)) := by
  unfold decVintVV; rw [h0]; try rfl
theorem decVintVV_2 {w : Nat} (h0 : fld w 0 5 = 2) : decVintVV w = .ok (.vrsubVv (bitAt w 23) (r3 w 20) (r5 w 15) (r5 w 10) (r5 w 5)) := by
  unfold decVintVV; rw [h0]; try rfl
theorem decVintVV_3 {w : Nat} (h0 : fld w 0 5 = 3) : decVintVV w = .ok (.vmulVv (bitAt w 23) (r3 w 20) (r5 w 15) (r5 w 10) (r5 w 5)) := by
  unfold decVintVV; rw [h0]; try rfl
theorem decVintVV_4 {w : Nat} (h0 : fld w 0 5 = 4) : decVintVV w = .ok (.vmulhVv (bitAt w 23) (r3 w 20) (r5 w 15) (r5 w 10) (r5 w 5)) := by
  unfold decVintVV; rw [h0]; try rfl
theorem decVintVV_5 {w : Nat} (h0 : fld w 0 5 = 5) : decVintVV w = .ok (.vmulhnVv (bitAt w 23) (r3 w 20) (r5 w 15) (r5 w 10) (r5 w 5)) := by
  unfold decVintVV; rw [h0]; try rfl
theorem decVintVV_6 {w : Nat} (h0 : fld w 0 5 = 6) : decVintVV w = .ok (.vmaddVv (bitAt w 23) (r3 w 20) (r5 w 15) (r5 w 10) (r5 w 5)) := by
  unfold decVintVV; rw [h0]; try rfl
theorem decVintVV_7 {w : Nat} (h0 : fld w 0 5 = 7) : decVintVV w = .ok (.vdivVv (bitAt w 23) (r3 w 20) (r5 w 15) (r5 w 10) (r5 w 5)) := by
  unfold decVintVV; rw [h0]; try rfl
theorem decVintVV_8 {w : Nat} (h0 : fld w 0 5 = 8) : decVintVV w = .ok (.vdivnVv (bitAt w 23) (r3 w 20) (r5 w 15) (r5 w 10) (r5 w 5)) := by
  unfold decVintVV; rw [h0]; try rfl
theorem decVintVV_9 {w : Nat} (h0 : fld w 0 5 = 9) : decVintVV w = .ok (.vremVv (bitAt w 23) (r3 w 20) (r5 w 15) (r5 w 10) (r5 w 5)) := by
  unfold decVintVV; rw [h0]; try rfl
theorem decVintVV_10 {w : Nat} (h0 : fld w 0 5 = 10) : decVintVV w = .ok (.vremnVv (bitAt w 23) (r3 w 20) (r5 w 15) (r5 w 10) (r5 w 5)) := by
  unfold decVintVV; rw [h0]; try rfl
theorem decVintVV_11 {w : Nat} (h0 : fld w 0 5 = 11) : decVintVV w = .ok (.vandVv (bitAt w 23) (r3 w 20) (r5 w 15) (r5 w 10) (r5 w 5)) := by
  unfold decVintVV; rw [h0]; try rfl
theorem decVintVV_12 {w : Nat} (h0 : fld w 0 5 = 12) : decVintVV w = .ok (.vorVv (bitAt w 23) (r3 w 20) (r5 w 15) (r5 w 10) (r5 w 5)) := by
  unfold decVintVV; rw [h0]; try rfl
theorem decVintVV_13 {w : Nat} (h0 : fld w 0 5 = 13) : decVintVV w = .ok (.vxorVv (bitAt w 23) (r3 w 20) (r5 w 15) (r5 w 10) (r5 w 5)) := by
  unfold decVintVV; rw [h0]; try rfl
theorem decVintVV_14 {w : Nat} (h0 : fld w 0 5 = 14) : decVintVV w = .ok (.vshlVv (bitAt w 23) (r3 w 20) (r5 w 15) (r5 w 10) (r5 w 5)) := by
  unfold decVintVV; rw [h0]; try rfl
theorem decVintVV_15 {w : Nat} (h0 : fld w 0 5 = 15) : decVintVV w = .ok (.vshrVv (bitAt w 23) (r3 w 20) (r5 w 15) (r5 w 10) (r5 w 5)) := by
  unfold decVintVV; rw [h0]; try rfl
theorem decVintVV_16 {w : Nat} (h0 : fld w 0 5 = 16) : decVintVV w = .ok (.vsarVv (bitAt w 23) (r3 w 20) (r5 w 15) (r5 w 10) (r5 w 5)) := by
  unfold decVintVV; rw [h0]; try rfl
theorem decVintVV_17 {w : Nat} (h0 : fld w 0 5 = 17) : decVintVV w = .ok (.vminVv (bitAt w 23) (r3 w 20) (r5 w 15) (r5 w 10) (r5 w 5)) := by
  unfold decVintVV; rw [h0]; try rfl
theorem decVintVV_18 {w : Nat} (h0 : fld w 0 5 = 18) : decVintVV w = .ok (.vmaxVv (bitAt w 23) (r3 w 20) (r5 w 15) (r5 w 10) (r5 w 5)) := by
  unfold decVintVV; rw [h0]; try rfl
theorem decVintVV_19 {w : Nat} (h0 : fld w 0 5 = 19) : decVintVV w = .ok (.vminnVv (bitAt w 23) (r3 w 20) (r5 w 15) (r5 w 10) (r5 w 5)) := by
  unfold decVintVV; rw [h0]; try rfl
theorem decVintVV_20 {w : Nat} (h0 : fld w 0 5 = 20) : decVintVV w = .ok (.vmaxnVv (bitAt w 23) (r3 w 20) (r5 w 15) (r5 w 10) (r5 w 5)) := by
  unfold decVintVV; rw [h0]; try rfl
theorem decVintVV_21 {w : Nat} (h0 : fld w 0 5 = 21) : decVintVV w = .ok (.vsaddVv (bitAt w 23) (r3 w 20) (r5 w 15) (r5 w 10) (r5 w 5)) := by
  unfold decVintVV; rw [h0]; try rfl
theorem decVintVV_22 {w : Nat} (h0 : fld w 0 5 = 22) : decVintVV w = .ok (.vssubVv (bitAt w 23) (r3 w 20) (r5 w 15) (r5 w 10) (r5 w 5)) := by
  unfold decVintVV; rw [h0]; try rfl
theorem decVintVV_23 {w : Nat} (h0 : fld w 0 5 = 23) : decVintVV w = .ok (.vsaddnVv (bitAt w 23) (r3 w 20) (r5 w 15) (r5 w 10) (r5 w 5)) := by
  unfold decVintVV; rw [h0]; try rfl
theorem decVintVV_24 {w : Nat} (h0 : fld w 0 5 = 24) : decVintVV w = .ok (.vssubnVv (bitAt w 23) (r3 w 20) (r5 w 15) (r5 w 10) (r5 w 5)) := by
  unfold decVintVV; rw [h0]; try rfl
theorem decVintVV_25 {w : Nat} (h0 : fld w 0 5 = 25) : decVintVV w = .ok (.vabsdVv (bitAt w 23) (r3 w 20) (r5 w 15) (r5 w 10) (r5 w 5)) := by
  unfold decVintVV; rw [h0]; try rfl
theorem decVintVV_26 {w : Nat} (h0 : fld w 0 5 = 26) : decVintVV w = .ok (.vmergeVv (bitAt w 23) (r3 w 20) (r5 w 15) (r5 w 10) (r5 w 5)) := by
  unfold decVintVV; rw [h0]; try rfl
theorem decVintVV_27 {w : Nat} (h0 : fld w 0 5 = 27) : decVintVV w = unused (fld w 5 5) (.vmovVv (bitAt w 23) (r3 w 20) (r5 w 15) (r5 w 10)) := by
  unfold decVintVV; rw [h0]; try rfl
theorem decVintVX_0 {w : Nat} (h0 : fld w 0 5 = 0) : decVintVX w = .ok (.vaddVx (bitAt w 23) (r3 w 20) (r5 w 15) (r5 w 10) (r5 w 5)) := by
  unfold decVintVX; rw [h0]; try rfl
theorem decVintVX_1 {w : Nat} (h0 : fld w 0 5 = 1) : decVintVX w = .ok (.vsubVx (bitAt w 23) (r3 w 20) (r5 w 15) (r5 w 10) (r5 w 5)) := by
  unfold decVintVX; rw [h0]; try rfl
theorem decVintVX_2 {w : Nat} (h0 : fld w 0 5 = 2) : decVintVX w = .ok (.vrsubVx (bitAt w 23) (r3 w 20) (r5 w 15) (r5 w 10) (r5 w 5)) := by
  unfold decVintVX; rw [h0]; try rfl
theorem decVintVX_3 {w : Nat} (h0 : fld w 0 5 = 3) : decVintVX w = .ok (.vmulVx (bitAt w 23) (r3 w 20) (r5 w 15) (r5 w 10) (r5 w 5)) := by
  unfold decVintVX; rw [h0]; try rfl
theorem decVintVX_4 {w : Nat} (h0 : fld w 0 5 = 4) : decVintVX w = .ok (.vmulhVx (bitAt w 23) (r3 w 20) (r5 w 15) (r5 w 10) (r5 w 5)) := by
  unfold decVintVX; rw [h0]; try rfl
theorem decVintVX_5 {w : Nat} (h0 : fld w 0 5 = 5) : decVintVX w = .ok (.vmulhnVx (bitAt w 23) (r3 w 20) (r5 w 15) (r5 w 10) (r5 w 5)) := by
  unfold decVintVX; rw [h0]; try rfl
theorem decVintVX_6 {w : Nat} (h0 : fld w 0 5 = 6) : decVintVX w = .ok (.vmaddVx (bitAt w 23) (r3 w 20) (r5 w 15) (r5 w 10) (r5 w 5)) := by
  unfold decVintVX; rw [h0]; try rfl
theorem decVintVX_7 {w : Nat} (h0 : fld w 0 5 = 7) : decVintVX w = .ok (.vdivVx (bitAt w 23) (r3 w 20) (r5 w 15) (r5 w 10) (r5 w 5)) := by
  unfold decVintVX; rw [h0]; try rfl
theorem decVintVX_8 {w : Nat} (h0 : fld w 0 5 = 8) : decVintVX w = .ok (.vdivnVx (bitAt w 23) (r3 w 20) (r5 w 15) (r5 w 10) (r5 w 5)) := by
  unfold decVintVX; rw [h0]; try rfl
theorem decVintVX_9 {w : Nat} (h0 : fld w 0 5 = 9) : decVintVX w = .ok (.vremVx (bitAt w 23) (r3 w 20) (r5 w 15) (r5 w 10) (r5 w 5)) := by
  unfold decVintVX; rw [h0]; try rfl
theorem decVintVX_10 {w : Nat} (h0 : fld w 0 5 = 10) : decVintVX w = .ok (.vremnVx (bitAt w 23) (r3 w 20) (r5 w 15) (r5 w 10) (r5 w 5)) := by
  unfold decVintVX; rw [h0]; try rfl
theorem decVintVX_11 {w : Nat} (h0 : fld w 0 5 = 11) : decVintVX w = .ok (.vandVx (bitAt w 23) (r3 w 20) (r5 w 15) (r5 w 10) (r5 w 5)) := by
  unfold decVintVX; rw [h0]; try rfl
theorem decVintVX_12 {w : Nat} (h0 : fld w 0 5 = 12) : decVintVX w = .ok (.vorVx (bitAt w 23) (r3 w 20) (r5 w 15) (r5 w 10) (r5 w 5)) := by
  unfold decVintVX; rw [h0]; try rfl
theorem decVintVX_13 {w : Nat} (h0 : fld w 0 5 = 13) : decVintVX w = .ok (.vxorVx (bitAt w 23) (r3 w 20) (r5 w 15) (r5 w 10) (r5 w 5)) := by
  unfold decVintVX; rw [h0]; try rfl
theorem decVintVX_14 {w : Nat} (h0 : fld w 0 5 = 14) : decVintVX w = .ok (.vshlVx (bitAt w 23) (r3 w 20) (r5 w 15) (r5 w 10) (r5 w 5)) := by
  unfold decVintVX; rw [h0]; try rfl
theorem decVintVX_15 {w : Nat} (h0 : fld w 0 5 = 15) : decVintVX w = .ok (.vshrVx (bitAt w 23) (r3 w 20) (r5 w 15) (r5 w 10) (r5 w 5)) := by
  unfold decVintVX; rw [h0]; try rfl
theorem decVintVX_16 {w : Nat} (h0 : fld w 0 5 = 16) : decVintVX w = .ok (.vsarVx (bitAt w 23) (r3 w 20) (r5 w 15) (r5 w 10) (r5 w 5)) := by
  unfold decVintVX; rw [h0]; try rfl
theorem decVintVX_17 {w : Nat} (h0 : fld w 0 5 = 17) : decVintVX w = .ok (.vminVx (bitAt w 23) (r3 w 20) (r5 w 15) (r5 w 10) (r5 w 5)) := by
  unfold decVintVX; rw [h0]; try rfl
theorem decVintVX_18 {w : Nat} (h0 : fld w 0 5 = 18) : decVintVX w = .ok (.vmaxVx (bitAt w 23) (r3 w 20) (r5 w 15) (r5 w 10) (r5 w 5)) := by
  unfold decVintVX; rw [h0]; try rfl
theorem decVintVX_19 {w : Nat} (h0 : fld w 0 5 = 19) : decVintVX w = .ok (.vminnVx (bitAt w 23) (r3 w 20) (r5 w 15) (r5 w 10) (r5 w 5)) := by
  unfold decVintVX; rw [h0]; try rfl
theorem decVintVX_20 {w : Nat} (h0 : fld w 0 5 = 20) : decVintVX w = .ok (.vmaxnVx (bitAt w 23) (r3 w 20) (r5 w 15) (r5 w 10) (r5 w 5)) := by
  unfold decVintVX; rw [h0]; try rfl
theorem decVintVX_21 {w : Nat} (h0 : fld w 0 5 = 21) : decVintVX w = .ok (.vsaddVx (bitAt w 23) (r3 w 20) (r5 w 15) (r5 w 10) (r5 w 5)) := by
  unfold decVintVX; rw [h0]; try rfl
theorem decVintVX_22 {w : Nat} (h0 : fld w 0 5 = 22) : decVintVX w = .ok (.vssubVx (bitAt w 23) (r3 w 20) (r5 w 15) (r5 w 10) (r5 w 5)) := by
  unfold decVintVX; rw [h0]; try rfl
theorem decVintVX_23 {w : Nat} (h0 : fld w 0 5 = 23) : decVintVX w = .ok (.vsaddnVx (bitAt w 23) (r3 w 20) (r5 w 15) (r5 w 10) (r5 w 5)) := by
  unfold decVintVX; rw [h0]; try rfl
theorem decVintVX_24 {w : Nat} (h0 : fld w 0 5 = 24) : decVintVX w = .ok (.vssubnVx (bitAt w 23) (r3 w 20) (r5 w 15) (r5 w 10) (r5 w 5)) := by
  unfold decVintVX; rw [h0]; try rfl
theorem decVintVX_25 {w : Nat} (h0 : fld w 0 5 = 25) : decVintVX w = .ok (.vabsdVx (bitAt w 23) (r3 w 20) (r5 w 15) (r5 w 10) (r5 w 5)) := by
  unfold decVintVX; rw [h0]; try rfl
theorem decVintVX_26 {w : Nat} (h0 : fld w 0 5 = 26) : decVintVX w = .ok (.vmergeVx (bitAt w 23) (r3 w 20) (r5 w 15) (r5 w 10) (r5 w 5)) := by
  unfold decVintVX; rw [h0]; try rfl
theorem decVintVX_27 {w : Nat} (h0 : fld w 0 5 = 27) : decVintVX w = unused (fld w 5 5) (.vmovVx (bitAt w 23) (r3 w 20) (r5 w 15) (r5 w 10)) := by
  unfold decVintVX; rw [h0]; try rfl
theorem decVintVI_0 {w : Nat} (h0 : fld w 0 5 = 0) : decVintVI w = .ok (.vaddVi (bitAt w 23) (r3 w 20) (r5 w 15) (im 5 w 10) (r5 w 5)) := by
  unfold decVintVI; rw [h0]; try rfl
theorem decVintVI_1 {w : Nat} (h0 : fld w 0 5 = 1) : decVintVI w = .ok (.vsubVi (bitAt w 23) (r3 w 20) (r5 w 15) (im 5 w 10) (r5 w 5)) := by
  unfold decVintVI; rw [h0]; try rfl
theorem decVintVI_2 {w : Nat} (h0 : fld w 0 5 = 2) : decVintVI w = .ok (.vrsubVi (bitAt w 23) (r3 w 20) (r5 w 15) (im 5 w 10) (r5 w 5)) := by
  unfold decVintVI; rw [h0]; try rfl
theorem decVintVI_3 {w : Nat} (h0 : fld w 0 5 = 3) : decVintVI w = .ok (.vmulVi (bitAt w 23) (r3 w 20) (r5 w 15) (im 5 w 10) (r5 w 5)) := by
  unfold decVintVI; rw [h0]; try rfl
theorem decVintVI_4 {w : Nat} (h0 : fld w 0 5 = 4) : decVintVI w = .ok (.vmulhVi (bitAt w 23) (r3 w 20) (r5 w 15) (im 5 w 10) (r5 w 5)) := by
  unfold decVintVI; rw [h0]; try rfl
theorem decVintVI_5 {w : Nat} (h0 : fld w 0 5 = 5) : decVintVI w = .ok (.vmulhnVi (bitAt w 23) (r3 w 20) (r5 w 15) (im 5 w 10) (r5 w 5)) := by
  unfold decVintVI; rw [h0]; try rfl
theorem decVintVI_6 {w : Nat} (h0 : fld w 0 5 = 6) : decVintVI w = .ok (.vmaddVi (bitAt w 23) (r3 w 20) (r5 w 15) (im 5 w 10) (r5 w 5)) := by
  unfold decVintVI; rw [h0]; try rfl
theorem decVintVI_7 {w : Nat} (h0 : fld w 0 5 = 7) : decVintVI w = .ok (.vdivVi (bitAt w 23) (r3 w 20) (r5 w 15) (im 5 w 10) (r5 w 5)) := by
  unfold decVintVI; rw [h0]; try rfl
theorem decVintVI_8 {w : Nat} (h0 : fld w 0 5 = 8) : decVintVI w = .ok (.vdivnVi (bitAt w 23) (r3 w 20) (r5 w 15) (im 5 w 10) (r5 w 5)) := by
  unfold decVintVI; rw [h0]; try rfl
theorem decVintVI_9 {w : Nat} (h0 : fld w 0 5 = 9) : decVintVI w = .ok (.vremVi (bitAt w 23) (r3 w 20) (r5 w 15) (im 5 w 10) (r5 w 5)) := by
  unfold decVintVI; rw [h0]; try rfl
theorem decVintVI_10 {w : Nat} (h0 : fld w 0 5 = 10) : decVintVI w = .ok (.vremnVi (bitAt w 23) (r3 w 20) (r5 w 15) (im 5 w 10) (r5 w 5)) := by
  unfold decVintVI; rw [h0]; try rfl
theorem decVintVI_11 {w : Nat} (h0 : fld w 0 5 = 11) : decVintVI w = .ok (.vandVi (bitAt w 23) (r3 w 20) (r5 w 15) (im 5 w 10) (r5 w 5)) := by
  unfold decVintVI; rw [h0]; try rfl
theorem decVintVI_12 {w : Nat} (h0 : fld w 0 5 = 12) : decVintVI w = .ok (.vorVi (bitAt w 23) (r3 w 20) (r5 w 15) (im 5 w 10) (r5 w 5)) := by
  unfold decVintVI; rw [h0]; try rfl
theorem decVintVI_13 {w : Nat} (h0 : fld w 0 5 = 13) : decVintVI w = .ok (.vxorVi (bitAt w 23) (r3 w 20) (r5 w 15) (im 5 w 10) (r5 w 5)) := by
  unfold decVintVI; rw [h0]; try rfl
theorem decVintVI_14 {w : Nat} (h0 : fld w 0 5 = 14) : decVintVI w = .ok (.vshlVi (bitAt w 23) (r3 w 20) (r5 w 15) (im 5 w 10) (r5 w 5)) := by
  unfold decVintVI; rw [h0]; try rfl
theorem decVintVI_15 {w : Nat} (h0 : fld w 0 5 = 15) : decVintVI w = .ok (.vshrVi (bitAt w 23) (r3 w 20) (r5 w 15) (im 5 w 10) (r5 w 5)) := by
  unfold decVintVI; rw [h0]; try rfl
theorem decVintVI_16 {w : Nat} (h0 : fld w 0 5 = 16) : decVintVI w = .ok (.vsarVi (bitAt w 23) (r3 w 20) (r5 w 15) (im 5 w 10) (r5 w 5)) := by
  unfold decVintVI; rw [h0]; try rfl
theorem decVintVI_17 {w : Nat} (h0 : fld w 0 5 = 17) : decVintVI w = .ok (.vminVi (bitAt w 23) (r3 w 20) (r5 w 15) (im 5 w 10) (r5 w 5)) := by
  unfold decVintVI; rw [h0]; try rfl
theorem decVintVI_18 {w : Nat} (h0 : fld w 0 5 = 18) : decVintVI w = .ok (.vmaxVi (bitAt w 23) (r3 w 20) (r5 w 15) (im 5 w 10) (r5 w 5)) := by
  unfold decVintVI; rw [h0]; try rfl
theorem decVintVI_19 {w : Nat} (h0 : fld w 0 5 = 19) : decVintVI w = .ok (.vminnVi (bitAt w 23) (r3 w 20) (r5 w 15) (im 5 w 10) (r5 w 5)) := by
  unfold decVintVI; rw [h0]; try rfl
theorem decVintVI_20 {w : Nat} (h0 : fld w 0 5 = 20) : decVintVI w = .ok (.vmaxnVi (bitAt w 23) (r3 w 20) (r5 w 15) (im 5 w 10) (r5 w 5)) := by
  unfold decVintVI; rw [h0]; try rfl
theorem decVintVI_21 {w : Nat} (h0 : fld w 0 5 = 21) : decVintVI w = .ok (.vsaddVi (bitAt w 23) (r3 w 20) (r5 w 15) (im 5 w 10) (r5 w 5)) := by
  unfold decVintVI; rw [h0]; try rfl
theorem decVintVI_22 {w : Nat} (h0 : fld w 0 5 = 22) : decVintVI w = .ok (.vssubVi (bitAt w 23) (r3 w 20) (r5 w 15) (im 5 w 10) (r5 w 5)) := by
  unfold decVintVI; rw [h0]; try rfl
theorem decVintVI_23 {w : Nat} (h0 : fld w 0 5 = 23) : decVintVI w = .ok (.vsaddnVi (bitAt w 23) (r3 w 20) (r5 w 15) (im 5 w 10) (r5 w 5)) := by
  unfold decVintVI; rw [h0]; try rfl
theorem decVintVI_24 {w : Nat} (h0 : fld w 0 5 = 24) : decVintVI w = .ok (.vssubnVi (bitAt w 23) (r3 w 20) (r5 w 15) (im 5 w 10) (r5 w 5)) := by
  unfold decVintVI; rw [h0]; try rfl
theorem decVintVI_25 {w : Nat} (h0 : fld w 0 5 = 25) : decVintVI w = .ok (.vabsdVi (bitAt w 23) (r3 w 20) (r5 w 15) (im 5 w 10) (r5 w 5)) := by
  unfold decVintVI; rw [h0]; try rfl
theorem decVintVI_26 {w : Nat} (h0 : fld w 0 5 = 26) : decVintVI w = .ok (.vmergeVi (bitAt w 23) (r3 w 20) (r5 w 15) (im 5 w 10) (r5 w 5)) := by
  unfold decVintVI; rw [h0]; try rfl
theorem decVintVI_27 {w : Nat} (h0 : fld w 0 5 = 27) : decVintVI w = unused (fld w 5 5) (.vmovVi (bitAt w 23) (r3 w 20) (r5 w 15) (im 5 w 10)) := by
  unfold decVintVI; rw [h0]; try rfl
theorem decVfpVV_0 {w : Nat} (h0 : fld w 0 5 = 0) : decVfpVV w = .ok (.vfaddVv (bitAt w 23) (r3 w 20) (r5 w 15) (r5 w 10) (r5 w 5)) := by
  unfold decVfpVV; rw [h0]; try rfl
theorem decVfpVV_1 {w : Nat} (h0 : fld w 0 5 = 1) : decVfpVV w = .ok (.vfsubVv (bitAt w 23) (r3 w 20) (r5 w 15) (r5 w 10) (r5 w 5)) := by
  unfold decVfpVV; rw [h0]; try rfl
theorem decVfpVV_2 {w : Nat} (h0 : fld w 0 5 = 2) : decVfpVV w = .ok (.vfmulVv (bitAt w 23) (r3 w 20) (r5 w 15) (r5 w 10) (r5 w 5)) := by
  unfold decVfpVV; rw [h0]; try rfl
theorem decVfpVV_3 {w : Nat} (h0 : fld w 0 5 = 3) : decVfpVV w = .ok (.vfdivVv (bitAt w 23) (r3 w 20) (r5 w 15) (r5 w 10) (r5 w 5)) := by
  unfold decVfpVV; rw [h0]; try rfl
theorem decVfpVV_4 {w : Nat} (h0 : fld w 0 5 = 4) : decVfpVV w = unused (fld w 10 5) (.vfsqrt (bitAt w 23) (r3 w 20) (r5 w 15) (r5 w 5)) := by
  unfold decVfpVV; rw [h0]; try rfl
theorem decVfpVV_5 {w : Nat} (h0 : fld w 0 5 = 5) : decVfpVV w = .ok (.vfmaVv (bitAt w 23) (r3 w 20) (r5 w 15) (r5 w 10) (r5 w 5)) := by
  unfold decVfpVV; rw [h0]; try rfl
theorem decVfpVV_6 {w : Nat} (h0 : fld w 0 5 = 6) : decVfpVV w = .ok (.vfmsVv (bitAt w 23) (r3 w 20) (r5 w 15) (r5 w 10) (r5 w 5)) := by
  unfold decVfpVV; rw [h0]; try rfl
theorem decVfpVV_7 {w : Nat} (h0 : fld w 0 5 = 7) : decVfpVV w = .ok (.vfnmaVv (bitAt w 23) (r3 w 20) (r5 w 15) (r5 w 10) (r5 w 5)) := by
  unfold decVfpVV; rw [h0]; try rfl
theorem decVfpVV_8 {w : Nat} (h0 : fld w 0 5 = 8) : decVfpVV w = .ok (.vfminVv (bitAt w 23) (r3 w 20) (r5 w 15) (r5 w 10) (r5 w 5)) := by
  unfold decVfpVV; rw [h0]; try rfl
theorem decVfpVV_9 {w : Nat} (h0 : fld w 0 5 = 9) : decVfpVV w = .ok (.vfmaxVv (bitAt w 23) (r3 w 20) (r5 w 15) (r5 w 10) (r5 w 5)) := by
  unfold decVfpVV; rw [h0]; try rfl
theorem decVfpVV_10 {w : Nat} (h0 : fld w 0 5 = 10) : decVfpVV w = unused (fld w 10 5) (.vfabs (bitAt w 23) (r3 w 20) (r5 w 15) (r5 w 5)) := by
  unfold decVfpVV; rw [h0]; try rfl
theorem decVfpVV_11 {w : Nat} (h0 : fld w 0 5 = 11) : decVfpVV w = unused (fld w 10 5) (.vfneg (bitAt w 23) (r3 w 20) (r5 w 15) (r5 w 5)) := by
  unfold decVfpVV; rw [h0]; try rfl
theorem decVfpVV_12 {w : Nat} (h0 : fld w 0 5 = 12) : decVfpVV w = unused (fld w 10 5) (.vfrcp (bitAt w 23) (r3 w 20) (r5 w 15) (r5 w 5)) := by
  unfold decVfpVV; rw [h0]; try rfl
theorem decVfpVV_13 {w : Nat} (h0 : fld w 0 5 = 13) : decVfpVV w = unused (fld w 10 5) (.vfrsq (bitAt w 23) (r3 w 20) (r5 w 15) (r5 w 5)) := by
  unfold decVfpVV; rw [h0]; try rfl
theorem decVfpVV_14 {w : Nat} (h0 : fld w 0 5 = 14) : decVfpVV w = unused (fld w 10 5) (.vfexp2 (bitAt w 23) (r3 w 20) (r5 w 15) (r5 w 5)) := by
  unfold decVfpVV; rw [h0]; try rfl
theorem decVfpVV_15 {w : Nat} (h0 : fld w 0 5 = 15) : decVfpVV w = unused (fld w 10 5) (.vflog2 (bitAt w 23) (r3 w 20) (r5 w 15) (r5 w 5)) := by
  unfold decVfpVV; rw [h0]; try rfl
theorem decVfpVV_16 {w : Nat} (h0 : fld w 0 5 = 16) : decVfpVV w = unused (fld w 10 5) (.vfclass (bitAt w 23) (r3 w 20) (r5 w 15) (r5 w 5)) := by
  unfold decVfpVV; rw [h0]; try rfl
theorem decVfpVX_0 {w : Nat} (h0 : fld w 0 5 = 0) : decVfpVX w = .ok (.vfaddVx (bitAt w 23) (r3 w 20) (r5 w 15) (r5 w 10) (r5 w 5)) := by
  unfold decVfpVX; rw [h0]; try rfl
theorem decVfpVX_1 {w : Nat} (h0 : fld w 0 5 = 1) : decVfpVX w = .ok (.vfsubVx (bitAt w 23) (r3 w 20) (r5 w 15) (r5 w 10) (r5 w 5)) := by
  unfold decVfpVX; rw [h0]; try rfl
theorem decVfpVX_2 {w : Nat} (h0 : fld w 0 5 = 2) : decVfpVX w = .ok (.vfmulVx (bitAt w 23) (r3 w 20) (r5 w 15) (r5 w 10) (r5 w 5)) := by
  unfold decVfpVX; rw [h0]; try rfl
theorem decVfpVX_3 {w : Nat} (h0 : fld w 0 5 = 3) : decVfpVX w = .ok (.vfdivVx (bitAt w 23) (r3 w 20) (r5 w 15) (r5 w 10) (r5 w 5)) := by
  unfold decVfpVX; rw [h0]; try rfl
theorem decVfpVX_5 {w : Nat} (h0 : fld w 0 5 = 5) : decVfpVX w = .ok (.vfmaVx (bitAt w 23) (r3 w 20) (r5 w 15) (r5 w 10) (r5 w 5)) := by
  unfold decVfpVX; rw [h0]; try rfl
theorem decVfpVX_6 {w : Nat} (h0 : fld w 0 5 = 6) : decVfpVX w = .ok (.vfmsVx (bitAt w 23) (r3 w 20) (r5 w 15) (r5 w 10) (r5 w 5)) := by
  unfold decVfpVX; rw [h0]; try rfl
theorem decVfpVX_7 {w : Nat} (h0 : fld w 0 5 = 7) : decVfpVX w = .ok (.vfnmaVx (bitAt w 23) (r3 w 20) (r5 w 15) (r5 w 10) (r5 w 5)) := by
  unfold decVfpVX; rw [h0]; try rfl
theorem decVfpVX_8 {w : Nat} (h0 : fld w 0 5 = 8) : decVfpVX w = .ok (.vfminVx (bitAt w 23) (r3 w 20) (r5 w 15) (r5 w 10) (r5 w 5)) := by
  unfold decVfpVX; rw [h0]; try rfl
theorem decVfpVX_9 {w : Nat} (h0 : fld w 0 5 = 9) : decVfpVX w = .ok (.vfmaxVx (bitAt w 23) (r3 w 20) (r5 w 15) (r5 w 10) (r5 w 5)) := by
  unfold decVfpVX; rw [h0]; try rfl
theorem decVcmp_0_0 {w : Nat} (h0 : fld w 4 1 = 0) (h1 : fld w 0 3 = 0) : decVcmp w = unused (fld w 18 1) (.vcmpEq (bitAt w 23) (r3 w 20) (bitAt w 19) (r3 w 15) (r5 w 10) (r5 w 5) (bitAt w 3)) := by
  unfold decVcmp; rw [h0, h1]; try rfl
theorem decVcmp_0_1 {w : Nat} (h0 : fld w 4 1 = 0) (h1 : fld w 0 3 = 1) : decVcmp w = unused (fld w 18 1) (.vcmpNe (bitAt w 23) (r3 w 20) (bitAt w 19) (r3 w 15) (r5 w 10) (r5 w 5) (bitAt w 3)) := by
  unfold decVcmp; rw [h0, h1]; try rfl
theorem decVcmp_0_2 {w : Nat} (h0 : fld w 4 1 = 0) (h1 : fld w 0 3 = 2) : decVcmp w = unused (fld w 18 1) (.vcmpLt (bitAt w 23) (r3 w 20) (bitAt w 19) (r3 w 15) (r5 w 10) (r5 w 5) (bitAt w 3)) := by
  unfold decVcmp; rw [h0, h1]; try rfl
theorem decVcmp_0_3 {w : Nat} (h0 : fld w 4 1 = 0) (h1 : fld w 0 3 = 3) : decVcmp w = unused (fld w 18 1) (.vcmpLe (bitAt w 23) (r3 w 20) (bitAt w 19) (r3 w 15) (r5 w 10) (r5 w 5) (bitAt w 3)) := by
  unfold decVcmp; rw [h0, h1]; try rfl
theorem decVcmp_0_4 {w : Nat} (h0 : fld w 4 1 = 0) (h1 : fld w 0 3 = 4) : decVcmp w = unused (fld w 18 1) (.vcmpGt (bitAt w 23) (r3 w 20) (bitAt w 19) (r3 w 15) (r5 w 10) (r5 w 5) (bitAt w 3)) := by
  unfold decVcmp; rw [h0, h1]; try rfl
theorem decVcmp_0_5 {w : Nat} (h0 : fld w 4 1 = 0) (h1 : fld w 0 3 = 5) : decVcmp w = unused (fld w 18 1) (.vcmpGe (bitAt w 23) (r3 w 20) (bitAt w 19) (r3 w 15) (r5 w 10) (r5 w 5) (bitAt w 3)) := by
  unfold decVcmp; rw [h0, h1]; try rfl
theorem decVcmp_1_0 {w : Nat} (h0 : fld w 4 1 = 1) (h1 : fld w 0 3 = 0) : decVcmp w = unused (fld w 18 1) (.vcmpxEq (bitAt w 23) (r3 w 20) (bitAt w 19) (r3 w 15) (r5 w 10) (r5 w 5) (bitAt w 3)) := by
  unfold decVcmp; rw [h0, h1]; try rfl
theorem decVcmp_1_1 {w : Nat} (h0 : fld w 4 1 = 1) (h1 : fld w 0 3 = 1) : decVcmp w = unused (fld w 18 1) (.vcmpxNe (bitAt w 23) (r3 w 20) (bitAt w 19) (r3 w 15) (r5 w 10) (r5 w 5) (bitAt w 3)) := by
  unfold decVcmp; rw [h0, h1]; try rfl
theorem decVcmp_1_2 {w : Nat} (h0 : fld w 4 1 = 1) (h1 : fld w 0 3 = 2) : decVcmp w = unused (fld w 18 1) (.vcmpxLt (bitAt w 23) (r3 w 20) (bitAt w 19) (r3 w 15) (r5 w 10) (r5 w 5) (bitAt w 3)) := by
  unfold decVcmp; rw [h0, h1]; try rfl
theorem decVcmp_1_3 {w : Nat} (h0 : fld w 4 1 = 1) (h1 : fld w 0 3 = 3) : decVcmp w = unused (fld w 18 1) (.vcmpxLe (bitAt w 23) (r3 w 20) (bitAt w 19) (r3 w 15) (r5 w 10) (r5 w 5) (bitAt w 3)) := by
  unfold decVcmp; rw [h0, h1]; try rfl
theorem decVcmp_1_4 {w : Nat} (h0 : fld w 4 1 = 1) (h1 : fld w 0 3 = 4) : decVcmp w = unused (fld w 18 1) (.vcmpxGt (bitAt w 23) (r3 w 20) (bitAt w 19) (r3 w 15) (r5 w 10) (r5 w 5) (bitAt w 3)) := by
  unfold decVcmp; rw [h0, h1]; try rfl
theorem decVcmp_1_5 {w : Nat} (h0 : fld w 4 1 = 1) (h1 : fld w 0 3 = 5) : decVcmp w = unused (fld w 18 1) (.vcmpxGe (bitAt w 23) (r3 w 20) (bitAt w 19) (r3 w 15) (r5 w 10) (r5 w 5) (bitAt w 3)) := by
  unfold decVcmp; rw [h0, h1]; try rfl
theorem decVpred_0 {w : Nat} (h0 : fld w 0 5 = 0) : decVpred w = unused (fld w 8 2 + fld w 13 2 + fld w 18 2) (.pand (bitAt w 23) (r3 w 20) (r3 w 15) (r3 w 10) (r3 w 5)) := by
  unfold decVpred; rw [h0]; try rfl
theorem decVpred_1 {w : Nat} (h0 : fld w 0 5 = 1) : decVpred w = unused (fld w 8 2 + fld w 13 2 + fld w 18 2) (.por (bitAt w 23) (r3 w 20) (r3 w 15) (r3 w 10) (r3 w 5)) := by
  unfold decVpred; rw [h0]; try rfl
theorem decVpred_2 {w : Nat} (h0 : fld w 0 5 = 2) : decVpred w = unused (fld w 8 2 + fld w 13 2 + fld w 18 2) (.pxor (bitAt w 23) (r3 w 20) (r3 w 15) (r3 w 10) (r3 w 5)) := by
  unfold decVpred; rw [h0]; try rfl
theorem decVpred_3 {w : Nat} (h0 : fld w 0 5 = 3) : decVpred w = unused (fld w 8 2 + fld w 13 2 + fld w 18 2) (.pandn (bitAt w 23) (r3 w 20) (r3 w 15) (r3 w 10) (r3 w 5)) := by
  unfold decVpred; rw [h0]; try rfl
theorem decVpred_4 {w : Nat} (h0 : fld w 0 5 = 4) : decVpred w = unused (fld w 8 7 + fld w 18 2) (.pnot (bitAt w 23) (r3 w 20) (r3 w 15) (r3 w 5)) := by
  unfold decVpred; rw [h0]; try rfl
theorem decVpred_5 {w : Nat} (h0 : fld w 0 5 = 5) : decVpred w = unused (fld w 8 7 + fld w 18 2) (.pmov (bitAt w 23) (r3 w 20) (r3 w 15) (r3 w 5)) := by
  unfold decVpred; rw [h0]; try rfl
theorem decVpred_6 {w : Nat} (h0 : fld w 0 5 = 6) : decVpred w = unused (fld w 5 10 + fld w 18 2) (.pset (bitAt w 23) (r3 w 20) (r3 w 15)) := by
  unfold decVpred; rw [h0]; try rfl
theorem decVpred_7 {w : Nat} (h0 : fld w 0 5 = 7) : decVpred w = unused (fld w 8 7 + fld w 18 2) (.psbf (bitAt w 23) (r3 w 20) (r3 w 15) (r3 w 5)) := by
  unfold decVpred; rw [h0]; try rfl
theorem decVpred_8 {w : Nat} (h0 : fld w 0 5 = 8) : decVpred w = unused (fld w 8 7 + fld w 18 2) (.psif (bitAt w 23) (r3 w 20) (r3 w 15) (r3 w 5)) := by
  unfold decVpred; rw [h0]; try rfl
theorem decVpred_9 {w : Nat} (h0 : fld w 0 5 = 9) : decVpred w = unused (fld w 8 7 + fld w 18 2) (.psof (bitAt w 23) (r3 w 20) (r3 w 15) (r3 w 5)) := by
  unfold decVpred; rw [h0]; try rfl
theorem decVpred_10 {w : Nat} (h0 : fld w 0 5 = 10) : decVpred w = unused (fld w 8 7) (.ppopc (bitAt w 23) (r3 w 20) (r5 w 15) (r3 w 5)) := by
  unfold decVpred; rw [h0]; try rfl
theorem decVpred_11 {w : Nat} (h0 : fld w 0 5 = 11) : decVpred w = unused (fld w 8 7) (.pfirst (bitAt w 23) (r3 w 20) (r5 w 15) (r3 w 5)) := by
  unfold decVpred; rw [h0]; try rfl
theorem decVred_0 {w : Nat} (h0 : fld w 0 5 = 0) : decVred w = .ok (.vrsum (bitAt w 23) (r3 w 20) (r5 w 15) (r5 w 10) (r5 w 5)) := by
  unfold decVred; rw [h0]; try rfl
theorem decVred_1 {w : Nat} (h0 : fld w 0 5 = 1) : decVred w = .ok (.vrsumO (bitAt w 23) (r3 w 20) (r5 w 15) (r5 w 10) (r5 w 5)) := by
  unfold decVred; rw [h0]; try rfl
theorem decVred_2 {w : Nat} (h0 : fld w 0 5 = 2) : decVred w = .ok (.vrmax (bitAt w 23) (r3 w 20) (r5 w 15) (r5 w 10) (r5 w 5)) := by
  unfold decVred; rw [h0]; try rfl
theorem decVred_3 {w : Nat} (h0 : fld w 0 5 = 3) : decVred w = .ok (.vrmin (bitAt w 23) (r3 w 20) (r5 w 15) (r5 w 10) (r5 w 5)) := by
  unfold decVred; rw [h0]; try rfl
theorem decVred_4 {w : Nat} (h0 : fld w 0 5 = 4) : decVred w = .ok (.vrmaxn (bitAt w 23) (r3 w 20) (r5 w 15) (r5 w 10) (r5 w 5)) := by
  unfold decVred; rw [h0]; try rfl
theorem decVred_5 {w : Nat} (h0 : fld w 0 5 = 5) : decVred w = .ok (.vrminn (bitAt w 23) (r3 w 20) (r5 w 15) (r5 w 10) (r5 w 5)) := by
  unfold decVred; rw [h0]; try rfl
theorem decVred_6 {w : Nat} (h0 : fld w 0 5 = 6) : decVred w = .ok (.vrand (bitAt w 23) (r3 w 20) (r5 w 15) (r5 w 10) (r5 w 5)) := by
  unfold decVred; rw [h0]; try rfl
theorem decVred_7 {w : Nat} (h0 : fld w 0 5 = 7) : decVred w = .ok (.vror (bitAt w 23) (r3 w 20) (r5 w 15) (r5 w 10) (r5 w 5)) := by
  unfold decVred; rw [h0]; try rfl
theorem decVred_8 {w : Nat} (h0 : fld w 0 5 = 8) : decVred w = .ok (.vrxor (bitAt w 23) (r3 w 20) (r5 w 15) (r5 w 10) (r5 w 5)) := by
  unfold decVred; rw [h0]; try rfl
theorem decVpermx_0 {w : Nat} (h0 : fld w 0 5 = 0) : decVpermx w = .ok (.vslup (bitAt w 23) (r3 w 20) (r5 w 15) (r5 w 10) (r5 w 5)) := by
  unfold decVpermx; rw [h0]; try rfl
theorem decVpermx_1 {w : Nat} (h0 : fld w 0 5 = 1) : decVpermx w = .ok (.vsldn (bitAt w 23) (r3 w 20) (r5 w 15) (r5 w 10) (r5 w 5)) := by
  unfold decVpermx; rw [h0]; try rfl
theorem decVpermx_2 {w : Nat} (h0 : fld w 0 5 = 2) : decVpermx w = .ok (.vperm (bitAt w 23) (r3 w 20) (r5 w 15) (r5 w 10) (r5 w 5)) := by
  unfold decVpermx; rw [h0]; try rfl
theorem decVpermx_3 {w : Nat} (h0 : fld w 0 5 = 3) : decVpermx w = unused (fld w 10 5) (.vcomp (bitAt w 23) (r3 w 20) (r5 w 15) (r5 w 5)) := by
  unfold decVpermx; rw [h0]; try rfl
theorem decVpermx_4 {w : Nat} (h0 : fld w 0 5 = 4) : decVpermx w = unused (fld w 10 5) (.vxpnd (bitAt w 23) (r3 w 20) (r5 w 15) (r5 w 5)) := by
  unfold decVpermx; rw [h0]; try rfl
theorem decVpermx_5 {w : Nat} (h0 : fld w 0 5 = 5) : decVpermx w = unused (fld w 20 3) (.vmvs (bitAt w 23) (r5 w 15) (r5 w 10) (r5 w 5)) := by
  unfold decVpermx; rw [h0]; try rfl
theorem decVpermx_6 {w : Nat} (h0 : fld w 0 5 = 6) : decVpermx w = unused (fld w 20 3) (.vmvv (bitAt w 23) (r5 w 15) (r5 w 10) (r5 w 5)) := by
  unfold decVpermx; rw [h0]; try rfl
theorem decVpermx_7 {w : Nat} (h0 : fld w 0 5 = 7) : decVpermx w = unused (fld w 5 10) (.viota (bitAt w 23) (r3 w 20) (r5 w 15)) := by
  unfold decVpermx; rw [h0]; try rfl
theorem decVpermx_8 {w : Nat} (h0 : fld w 0 5 = 8) : decVpermx w = .ok (.vscan (bitAt w 23) (r3 w 20) (r5 w 15) (r5 w 10) (r5 w 5)) := by
  unfold decVpermx; rw [h0]; try rfl
theorem decVq_0 {w : Nat} (h0 : fld w 0 5 = 0) : decVq w = .ok (.vqadd (bitAt w 23) (r3 w 20) (r5 w 15) (r5 w 10) (r5 w 5)) := by
  unfold decVq; rw [h0]; try rfl
theorem decVq_1 {w : Nat} (h0 : fld w 0 5 = 1) : decVq w = .ok (.vqsub (bitAt w 23) (r3 w 20) (r5 w 15) (r5 w 10) (r5 w 5)) := by
  unfold decVq; rw [h0]; try rfl
theorem decVq_2 {w : Nat} (h0 : fld w 0 5 = 2) : decVq w = .ok (.vqmul (bitAt w 23) (r3 w 20) (r5 w 15) (r5 w 10) (r5 w 5)) := by
  unfold decVq; rw [h0]; try rfl
theorem decVq_3 {w : Nat} (h0 : fld w 0 5 = 3) : decVq w = .ok (.vqmac (bitAt w 23) (r3 w 20) (r5 w 15) (r5 w 10) (r5 w 5)) := by
  unfold decVq; rw [h0]; try rfl
theorem decVq_4 {w : Nat} (h0 : fld w 0 5 = 4) : decVq w = .ok (.vqdot (bitAt w 23) (r3 w 20) (r5 w 15) (r5 w 10) (r5 w 5)) := by
  unfold decVq; rw [h0]; try rfl
theorem decVq_5 {w : Nat} (h0 : fld w 0 5 = 5) : decVq w = .ok (.vqshr (bitAt w 23) (r3 w 20) (r5 w 15) (r5 w 10) (r5 w 5)) := by
  unfold decVq; rw [h0]; try rfl
theorem decVscl_0 {w : Nat} (h0 : fld w 0 5 = 0) : decVscl w = unused (fld w 5 5 + fld w 18 5) (.vsclLd (bitAt w 23) (r3 w 15) (r5 w 10)) := by
  unfold decVscl; rw [h0]; try rfl
theorem decVscl_1 {w : Nat} (h0 : fld w 0 5 = 1) : decVscl w = unused (fld w 5 5 + fld w 18 5) (.vsclSt (bitAt w 23) (r3 w 15) (r5 w 10)) := by
  unfold decVscl; rw [h0]; try rfl
theorem decVscl_2 {w : Nat} (h0 : fld w 0 5 = 2) : decVscl w = unused (fld w 10 5 + fld w 18 2) (.vsclFit (bitAt w 23) (r3 w 20) (r3 w 15) (r5 w 5)) := by
  unfold decVscl; rw [h0]; try rfl
theorem decVscl_3 {w : Nat} (h0 : fld w 0 5 = 3) : decVscl w = unused (fld w 8 7 + fld w 18 5) (.vsclMov (bitAt w 23) (r3 w 15) (r3 w 5)) := by
  unfold decVscl; rw [h0]; try rfl
theorem decVmisc_0 {w : Nat} (h0 : fld w 0 9 = 0) : decVmisc w = .ok (.vsett (r5 w 19) (r5 w 14) (r5 w 9)) := by
  unfold decVmisc; rw [h0]; try rfl
theorem decVmisc_1 {w : Nat} (h0 : fld w 0 9 = 1) : decVmisc w = .ok (.vsetb (r5 w 19) (r5 w 14) (r5 w 9)) := by
  unfold decVmisc; rw [h0]; try rfl
theorem decVmisc_2 {w : Nat} (h0 : fld w 0 9 = 2) : decVmisc w = unused (fld w 9 5 + fld w 19 5) (.vctxSv (r5 w 14)) := by
  unfold decVmisc; rw [h0]; try rfl
theorem decVmisc_3 {w : Nat} (h0 : fld w 0 9 = 3) : decVmisc w = unused (fld w 9 5 + fld w 19 5) (.vctxRs (r5 w 14)) := by
  unfold decVmisc; rw [h0]; try rfl
theorem decMat_0 {w : Nat} (h0 : fld w 0 9 = 0) : decMat w = unused (fld w 9 5) (.matAtt (r5 w 19) (r5 w 14)) := by
  unfold decMat; rw [h0]; try rfl
theorem decMat_1 {w : Nat} (h0 : fld w 0 9 = 1) : decMat w = unused (fld w 9 15) (.matDet) := by
  unfold decMat; rw [h0]; try rfl
theorem decMat_2 {w : Nat} (h0 : fld w 0 9 = 2) : decMat w = unused (fld w 9 5) (.matShp (r5 w 19) (r5 w 14)) := by
  unfold decMat; rw [h0]; try rfl
theorem decCpy_0 {w : Nat} (h0 : fld w 0 4 = 0) : decCpy w = .ok (.cpyMs (r5 w 19) (r5 w 14) (r5 w 9) (r5 w 4)) := by
  unfold decCpy; rw [h0]; try rfl
theorem decCpy_1 {w : Nat} (h0 : fld w 0 4 = 1) : decCpy w = .ok (.cpySm (r5 w 19) (r5 w 14) (r5 w 9) (r5 w 4)) := by
  unfold decCpy; rw [h0]; try rfl
theorem decCpy_2 {w : Nat} (h0 : fld w 0 4 = 2) : decCpy w = .ok (.cpyMr (r5 w 19) (r5 w 14) (r5 w 9) (r5 w 4)) := by
  unfold decCpy; rw [h0]; try rfl
theorem decCpy_3 {w : Nat} (h0 : fld w 0 4 = 3) : decCpy w = .ok (.cpyRm (r5 w 19) (r5 w 14) (r5 w 9) (r5 w 4)) := by
  unfold decCpy; rw [h0]; try rfl
theorem decCpy_4 {w : Nat} (h0 : fld w 0 4 = 4) : decCpy w = .ok (.cpyRr (r5 w 19) (r5 w 14) (r5 w 9) (r5 w 4)) := by
  unfold decCpy; rw [h0]; try rfl
theorem decCpy_5 {w : Nat} (h0 : fld w 0 4 = 5) : decCpy w = .ok (.cpyMm (r5 w 19) (r5 w 14) (r5 w 9) (r5 w 4)) := by
  unfold decCpy; rw [h0]; try rfl
theorem decCpy_6 {w : Nat} (h0 : fld w 0 4 = 6) : decCpy w = .ok (.cpyGs (r5 w 19) (r5 w 14) (r5 w 9) (r5 w 4)) := by
  unfold decCpy; rw [h0]; try rfl
theorem decCpy_7 {w : Nat} (h0 : fld w 0 4 = 7) : decCpy w = .ok (.cpyLz (r5 w 19) (r5 w 14) (r5 w 9) (r5 w 4)) := by
  unfold decCpy; rw [h0]; try rfl
theorem decBob_0 {w : Nat} (h0 : fld w 0 9 = 0) : decBob w = unused (fld w 9 5 + fld w 19 5) (.bwait (r5 w 14)) := by
  unfold decBob; rw [h0]; try rfl
theorem decBob_1 {w : Nat} (h0 : fld w 0 9 = 1) : decBob w = unused (fld w 22 2) (.bchk (r3 w 19) (r5 w 14) (r5 w 9)) := by
  unfold decBob; rw [h0]; try rfl
theorem decBob_2 {w : Nat} (h0 : fld w 0 9 = 2) : decBob w = unused (fld w 9 5 + fld w 19 5) (.brel (r5 w 14)) := by
  unfold decBob; rw [h0]; try rfl
theorem decBob_3 {w : Nat} (h0 : fld w 0 9 = 3) : decBob w = .ok (.bstat (r5 w 19) (r5 w 14) (r5 w 9)) := by
  unfold decBob; rw [h0]; try rfl
theorem decLz_0 {w : Nat} (h0 : fld w 0 9 = 0) : decLz w = .ok (.lzOpen (r5 w 19) (r5 w 14) (r5 w 9)) := by
  unfold decLz; rw [h0]; try rfl
theorem decLz_1 {w : Nat} (h0 : fld w 0 9 = 1) : decLz w = unused (fld w 9 5 + fld w 19 5) (.lzClose (r5 w 14)) := by
  unfold decLz; rw [h0]; try rfl
theorem decLz_2 {w : Nat} (h0 : fld w 0 9 = 2) : decLz w = .ok (.lzResv (r5 w 19) (r5 w 14) (r5 w 9)) := by
  unfold decLz; rw [h0]; try rfl
theorem decLz_3 {w : Nat} (h0 : fld w 0 9 = 3) : decLz w = unused (fld w 9 5) (.lzWait (r5 w 19) (r5 w 14)) := by
  unfold decLz; rw [h0]; try rfl
theorem decLz_4 {w : Nat} (h0 : fld w 0 9 = 4) : decLz w = unused (fld w 9 5 + fld w 19 5) (.lzFree (r5 w 14)) := by
  unfold decLz; rw [h0]; try rfl
theorem decLz_5 {w : Nat} (h0 : fld w 0 9 = 5) : decLz w = unused (fld w 9 5) (.lzStat (r5 w 19) (r5 w 14)) := by
  unfold decLz; rw [h0]; try rfl
theorem decEvt_0 {w : Nat} (h0 : fld w 0 9 = 0) : decEvt w = .ok (.ctrAdd (r5 w 19) (r5 w 14) (r5 w 9)) := by
  unfold decEvt; rw [h0]; try rfl
theorem decEvt_1 {w : Nat} (h0 : fld w 0 9 = 1) : decEvt w = unused (fld w 9 5) (.ctrRd (r5 w 19) (r5 w 14)) := by
  unfold decEvt; rw [h0]; try rfl
theorem decEvt_2 {w : Nat} (h0 : fld w 0 9 = 2) : decEvt w = .ok (.ctrSet (r5 w 19) (r5 w 14) (r5 w 9)) := by
  unfold decEvt; rw [h0]; try rfl
theorem decEvt_3 {w : Nat} (h0 : fld w 0 9 = 3) : decEvt w = unused (fld w 19 5) (.ctrWait (r5 w 14) (r5 w 9)) := by
  unfold decEvt; rw [h0]; try rfl
theorem decEvt_4 {w : Nat} (h0 : fld w 0 9 = 4) : decEvt w = .ok (.trdlArm (r5 w 19) (r5 w 14) (r5 w 9)) := by
  unfold decEvt; rw [h0]; try rfl
theorem decEvt_5 {w : Nat} (h0 : fld w 0 9 = 5) : decEvt w = unused (fld w 9 5) (.trdlX (r5 w 19) (r5 w 14)) := by
  unfold decEvt; rw [h0]; try rfl
theorem decEvt_6 {w : Nat} (h0 : fld w 0 9 = 6) : decEvt w = unused (fld w 9 5) (.trdlStat (r5 w 19) (r5 w 14)) := by
  unfold decEvt; rw [h0]; try rfl
theorem decEvt_7 {w : Nat} (h0 : fld w 0 9 = 7) : decEvt w = unused (fld w 14 5) (.eqPop (r5 w 19) (r5 w 9)) := by
  unfold decEvt; rw [h0]; try rfl
theorem decEvt_8 {w : Nat} (h0 : fld w 0 9 = 8) : decEvt w = unused (fld w 14 5) (.eqCnt (r5 w 19) (r5 w 9)) := by
  unfold decEvt; rw [h0]; try rfl
theorem decEvt_9 {w : Nat} (h0 : fld w 0 9 = 9) : decEvt w = unused (fld w 9 10) (.fabQuiet (r5 w 19)) := by
  unfold decEvt; rw [h0]; try rfl
theorem decAcct_0 {w : Nat} (h0 : fld w 0 9 = 0) : decAcct w = unused (fld w 9 5) (.ownSet (r5 w 19) (r5 w 14)) := by
  unfold decAcct; rw [h0]; try rfl
theorem decAcct_1 {w : Nat} (h0 : fld w 0 9 = 1) : decAcct w = .ok (.harmRd (r5 w 19) (r5 w 14) (r5 w 9)) := by
  unfold decAcct; rw [h0]; try rfl
theorem decAcct_2 {w : Nat} (h0 : fld w 0 9 = 2) : decAcct w = .ok (.dmxRd (r5 w 19) (r5 w 14) (r5 w 9)) := by
  unfold decAcct; rw [h0]; try rfl
theorem decAcct_3 {w : Nat} (h0 : fld w 0 9 = 3) : decAcct w = .ok (.dmxAgg (r5 w 19) (r5 w 14) (r5 w 9)) := by
  unfold decAcct; rw [h0]; try rfl
theorem decAcct_4 {w : Nat} (h0 : fld w 0 9 = 4) : decAcct w = .ok (.eneRd (r5 w 19) (r5 w 14) (r5 w 9)) := by
  unfold decAcct; rw [h0]; try rfl
theorem shape0 {k0 k1 : Nat} (x0 x1 x2 : Fin 32) {w : Nat} (hk0 : k0 < 2 ^ 8) (hk1 : k1 < 2 ^ 9)
    (e : w = k0 * 2 ^ 24 + x0.val * 2 ^ 19 + x1.val * 2 ^ 14 + x2.val * 2 ^ 9 + k1) :
    w / 2 ^ 24 % 2 ^ 8 = k0 ∧ w / 2 ^ 0 % 2 ^ 9 = k1 ∧ r5 w 19 = x0 ∧ r5 w 14 = x1 ∧ r5 w 9 = x2 := by
  have hx0 := x0.isLt; have hx1 := x1.isLt; have hx2 := x2.isLt
  exact ⟨by omega, by omega, r5_of (by omega), r5_of (by omega), r5_of (by omega)⟩
theorem shape1 {k0 k1 : Nat} (x0 x1 : Fin 32) {w : Nat} (hk0 : k0 < 2 ^ 8) (hk1 : k1 < 2 ^ 14)
    (e : w = k0 * 2 ^ 24 + x0.val * 2 ^ 19 + x1.val * 2 ^ 14 + k1) :
    w / 2 ^ 24 % 2 ^ 8 = k0 ∧ w / 2 ^ 0 % 2 ^ 14 = k1 ∧ r5 w 19 = x0 ∧ r5 w 14 = x1 := by
  have hx0 := x0.isLt; have hx1 := x1.isLt
  exact ⟨by omega, by omega, r5_of (by omega), r5_of (by omega)⟩
theorem shape2 {k0 : Nat} (x0 x1 : Fin 32) (x2 : BitVec 14) {w : Nat} (hk0 : k0 < 2 ^ 8)
    (e : w = k0 * 2 ^ 24 + x0.val * 2 ^ 19 + x1.val * 2 ^ 14 + x2.toNat) :
    w / 2 ^ 24 % 2 ^ 8 = k0 ∧ r5 w 19 = x0 ∧ r5 w 14 = x1 ∧ im 14 w 0 = x2 := by
  have hx0 := x0.isLt; have hx1 := x1.isLt; have hx2 := x2.isLt
  exact ⟨by omega, r5_of (by omega), r5_of (by omega), im_of (by omega)⟩
theorem shape3 {k0 k1 : Nat} (x0 x1 : Fin 32) (x2 : BitVec 6) {w : Nat} (hk0 : k0 < 2 ^ 8) (hk1 : k1 < 2 ^ 8)
    (e : w = k0 * 2 ^ 24 + x0.val * 2 ^ 19 + x1.val * 2 ^ 14 + k1 * 2 ^ 6 + x2.toNat) :
    w / 2 ^ 24 % 2 ^ 8 = k0 ∧ w / 2 ^ 6 % 2 ^ 8 = k1 ∧ r5 w 19 = x0 ∧ r5 w 14 = x1 ∧ im 6 w 0 = x2 := by
  have hx0 := x0.isLt; have hx1 := x1.isLt; have hx2 := x2.isLt
  exact ⟨by omega, by omega, r5_of (by omega), r5_of (by omega), im_of (by omega)⟩
theorem shape4 {k0 : Nat} (x0 : Fin 32) (x1 : BitVec 19) {w : Nat} (hk0 : k0 < 2 ^ 8)
    (e : w = k0 * 2 ^ 24 + x0.val * 2 ^ 19 + x1.toNat) :
    w / 2 ^ 24 % 2 ^ 8 = k0 ∧ r5 w 19 = x0 ∧ im 19 w 0 = x1 := by
  have hx0 := x0.isLt; have hx1 := x1.isLt
  exact ⟨by omega, r5_of (by omega), im_of (by omega)⟩
theorem shape5 {k0 k1 : Nat} (x0 x1 : Fin 32) (x2 x3 : BitVec 6) {w : Nat} (hk0 : k0 < 2 ^ 8) (hk1 : k1 < 2 ^ 2)
    (e : w = k0 * 2 ^ 24 + x0.val * 2 ^ 19 + x1.val * 2 ^ 14 + k1 * 2 ^ 12 + x2.toNat * 2 ^ 6 + x3.toNat) :
    w / 2 ^ 24 % 2 ^ 8 = k0 ∧ w / 2 ^ 12 % 2 ^ 2 = k1 ∧ r5 w 19 = x0 ∧ r5 w 14 = x1 ∧ im 6 w 6 = x2 ∧ im 6 w 0 = x3 := by
  have hx0 := x0.isLt; have hx1 := x1.isLt; have hx2 := x2.isLt; have hx3 := x3.isLt
  exact ⟨by omega, by omega, r5_of (by omega), r5_of (by omega), im_of (by omega), im_of (by omega)⟩
theorem shape6 {k0 : Nat} (x0 x1 : Fin 32) (x2 : Fin 8) (x3 : BitVec 11) {w : Nat} (hk0 : k0 < 2 ^ 8)
    (e : w = k0 * 2 ^ 24 + x0.val * 2 ^ 19 + x1.val * 2 ^ 14 + x2.val * 2 ^ 11 + x3.toNat) :
    w / 2 ^ 24 % 2 ^ 8 = k0 ∧ r5 w 19 = x0 ∧ r5 w 14 = x1 ∧ r3 w 11 = x2 ∧ im 11 w 0 = x3 := by
  have hx0 := x0.isLt; have hx1 := x1.isLt; have hx2 := x2.isLt; have hx3 := x3.isLt
  exact ⟨by omega, r5_of (by omega), r5_of (by omega), r3_of (by omega), im_of (by omega)⟩
theorem shape7 {k0 : Nat} (x0 : BitVec 24) {w : Nat} (hk0 : k0 < 2 ^ 8)
    (e : w = k0 * 2 ^ 24 + x0.toNat) :
    w / 2 ^ 24 % 2 ^ 8 = k0 ∧ im 24 w 0 = x0 := by
  have hx0 := x0.isLt
  exact ⟨by omega, im_of (by omega)⟩
theorem shape8 {k0 k1 : Nat} (x0 : Fin 32) {w : Nat} (hk0 : k0 < 2 ^ 13) (hk1 : k1 < 2 ^ 14)
    (e : w = k0 * 2 ^ 19 + x0.val * 2 ^ 14 + k1) :
    w / 2 ^ 19 % 2 ^ 13 = k0 ∧ w / 2 ^ 0 % 2 ^ 14 = k1 ∧ r5 w 14 = x0 := by
  have hx0 := x0.isLt
  exact ⟨by omega, by omega, r5_of (by omega)⟩
theorem shape9 {k0 k1 k2 : Nat} (x0 x1 x2 : Fin 32) (x3 : Fin 4) (x4 : Bool) {w : Nat} (hk0 : k0 < 2 ^ 8) (hk1 : k1 < 2 ^ 2) (hk2 : k2 < 2 ^ 4)
    (e : w = k0 * 2 ^ 24 + x0.val * 2 ^ 19 + x1.val * 2 ^ 14 + x2.val * 2 ^ 9 + k1 * 2 ^ 7 + x3.val * 2 ^ 5 + x4.toNat * 2 ^ 4 + k2) :
    w / 2 ^ 24 % 2 ^ 8 = k0 ∧ w / 2 ^ 7 % 2 ^ 2 = k1 ∧ w / 2 ^ 0 % 2 ^ 4 = k2 ∧ r5 w 19 = x0 ∧ r5 w 14 = x1 ∧ r5 w 9 = x2 ∧ r2 w 5 = x3 ∧ bitAt w 4 = x4 := by
  have hx0 := x0.isLt; have hx1 := x1.isLt; have hx2 := x2.isLt; have hx3 := x3.isLt; have hx4 := x4.toNat_lt
  exact ⟨by omega, by omega, by omega, r5_of (by omega), r5_of (by omega), r5_of (by omega), r2_of (by omega), bitAt_of (by omega)⟩
theorem shape10 {k0 k1 : Nat} (x0 x1 x2 x3 : Fin 32) (x4 : Fin 4) (x5 : Bool) {w : Nat} (hk0 : k0 < 2 ^ 8) (hk1 : k1 < 2 ^ 1)
    (e : w = k0 * 2 ^ 24 + x0.val * 2 ^ 19 + x1.val * 2 ^ 14 + x2.val * 2 ^ 9 + x3.val * 2 ^ 4 + k1 * 2 ^ 3 + x4.val * 2 ^ 1 + x5.toNat) :
    w / 2 ^ 24 % 2 ^ 8 = k0 ∧ w / 2 ^ 3 % 2 ^ 1 = k1 ∧ r5 w 19 = x0 ∧ r5 w 14 = x1 ∧ r5 w 9 = x2 ∧ r5 w 4 = x3 ∧ r2 w 1 = x4 ∧ bitAt w 0 = x5 := by
  have hx0 := x0.isLt; have hx1 := x1.isLt; have hx2 := x2.isLt; have hx3 := x3.isLt; have hx4 := x4.isLt; have hx5 := x5.toNat_lt
  exact ⟨by omega, by omega, r5_of (by omega), r5_of (by omega), r5_of (by omega), r5_of (by omega), r2_of (by omega), bitAt_of (by omega)⟩
theorem shape11 {k0 : Nat} (x0 : Fin 8) (x1 : Fin 4) {w : Nat} (hk0 : k0 < 2 ^ 27)
    (e : w = k0 * 2 ^ 5 + x0.val * 2 ^ 2 + x1.val) :
    w / 2 ^ 5 % 2 ^ 27 = k0 ∧ r3 w 2 = x0 ∧ r2 w 0 = x1 := by
  have hx0 := x0.isLt; have hx1 := x1.isLt
  exact ⟨by omega, r3_of (by omega), r2_of (by omega)⟩
theorem shape12 {k0 : Nat} {w : Nat} (hk0 : k0 < 2 ^ 32)
    (e : w = k0) :
    w / 2 ^ 0 % 2 ^ 32 = k0 := by
  exact by omega
theorem shape13 {k0 k1 : Nat} (x0 : Fin 32) {w : Nat} (hk0 : k0 < 2 ^ 8) (hk1 : k1 < 2 ^ 19)
    (e : w = k0 * 2 ^ 24 + x0.val * 2 ^ 19 + k1) :
    w / 2 ^ 24 % 2 ^ 8 = k0 ∧ w / 2 ^ 0 % 2 ^ 19 = k1 ∧ r5 w 19 = x0 := by
  have hx0 := x0.isLt
  exact ⟨by omega, by omega, r5_of (by omega)⟩
theorem shape14 {k0 k1 k2 : Nat} (x0 : Fin 32) (x1 : BitVec 12) {w : Nat} (hk0 : k0 < 2 ^ 8) (hk1 : k1 < 2 ^ 5) (hk2 : k2 < 2 ^ 2)
    (e : w = k0 * 2 ^ 24 + x0.val * 2 ^ 19 + k1 * 2 ^ 14 + x1.toNat * 2 ^ 2 + k2) :
    w / 2 ^ 24 % 2 ^ 8 = k0 ∧ w / 2 ^ 14 % 2 ^ 5 = k1 ∧ w / 2 ^ 0 % 2 ^ 2 = k2 ∧ r5 w 19 = x0 ∧ im 12 w 2 = x1 := by
  have hx0 := x0.isLt; have hx1 := x1.isLt
  exact ⟨by omega, by omega, by omega, r5_of (by omega), im_of (by omega)⟩
theorem shape15 {k0 k1 : Nat} (x0 x1 : Fin 32) (x2 : BitVec 12) {w : Nat} (hk0 : k0 < 2 ^ 8) (hk1 : k1 < 2 ^ 2)
    (e : w = k0 * 2 ^ 24 + x0.val * 2 ^ 19 + x1.val * 2 ^ 14 + x2.toNat * 2 ^ 2 + k1) :
    w / 2 ^ 24 % 2 ^ 8 = k0 ∧ w / 2 ^ 0 % 2 ^ 2 = k1 ∧ r5 w 19 = x0 ∧ r5 w 14 = x1 ∧ im 12 w 2 = x2 := by
  have hx0 := x0.isLt; have hx1 := x1.isLt; have hx2 := x2.isLt
  exact ⟨by omega, by omega, r5_of (by omega), r5_of (by omega), im_of (by omega)⟩
theorem shape16 {k0 k1 k2 : Nat} (x0 x1 x2 : Fin 32) (x3 : Bool) {w : Nat} (hk0 : k0 < 2 ^ 8) (hk1 : k1 < 2 ^ 1) (hk2 : k2 < 2 ^ 7)
    (e : w = k0 * 2 ^ 24 + x0.val * 2 ^ 19 + x1.val * 2 ^ 14 + x2.val * 2 ^ 9 + k1 * 2 ^ 8 + x3.toNat * 2 ^ 7 + k2) :
    w / 2 ^ 24 % 2 ^ 8 = k0 ∧ w / 2 ^ 8 % 2 ^ 1 = k1 ∧ w / 2 ^ 0 % 2 ^ 7 = k2 ∧ r5 w 19 = x0 ∧ r5 w 14 = x1 ∧ r5 w 9 = x2 ∧ bitAt w 7 = x3 := by
  have hx0 := x0.isLt; have hx1 := x1.isLt; have hx2 := x2.isLt; have hx3 := x3.toNat_lt
  exact ⟨by omega, by omega, by omega, r5_of (by omega), r5_of (by omega), r5_of (by omega), bitAt_of (by omega)⟩
theorem shape17 {k0 k1 k2 : Nat} (x0 x1 : Fin 32) (x2 : Bool) {w : Nat} (hk0 : k0 < 2 ^ 8) (hk1 : k1 < 2 ^ 6) (hk2 : k2 < 2 ^ 7)
    (e : w = k0 * 2 ^ 24 + x0.val * 2 ^ 19 + x1.val * 2 ^ 14 + k1 * 2 ^ 8 + x2.toNat * 2 ^ 7 + k2) :
    w / 2 ^ 24 % 2 ^ 8 = k0 ∧ w / 2 ^ 8 % 2 ^ 6 = k1 ∧ w / 2 ^ 0 % 2 ^ 7 = k2 ∧ r5 w 19 = x0 ∧ r5 w 14 = x1 ∧ bitAt w 7 = x2 := by
  have hx0 := x0.isLt; have hx1 := x1.isLt; have hx2 := x2.toNat_lt
  exact ⟨by omega, by omega, by omega, r5_of (by omega), r5_of (by omega), bitAt_of (by omega)⟩
theorem shape18 {k0 k1 k2 : Nat} (x0 x1 x2 x3 : Fin 32) (x4 : Bool) {w : Nat} (hk0 : k0 < 2 ^ 8) (hk1 : k1 < 2 ^ 1) (hk2 : k2 < 2 ^ 2)
    (e : w = k0 * 2 ^ 24 + x0.val * 2 ^ 19 + x1.val * 2 ^ 14 + x2.val * 2 ^ 9 + x3.val * 2 ^ 4 + k1 * 2 ^ 3 + x4.toNat * 2 ^ 2 + k2) :
    w / 2 ^ 24 % 2 ^ 8 = k0 ∧ w / 2 ^ 3 % 2 ^ 1 = k1 ∧ w / 2 ^ 0 % 2 ^ 2 = k2 ∧ r5 w 19 = x0 ∧ r5 w 14 = x1 ∧ r5 w 9 = x2 ∧ r5 w 4 = x3 ∧ bitAt w 2 = x4 := by
  have hx0 := x0.isLt; have hx1 := x1.isLt; have hx2 := x2.isLt; have hx3 := x3.isLt; have hx4 := x4.toNat_lt
  exact ⟨by omega, by omega, by omega, r5_of (by omega), r5_of (by omega), r5_of (by omega), r5_of (by omega), bitAt_of (by omega)⟩
theorem shape19 {k0 k1 k2 : Nat} (x0 : Bool) (x1 : Fin 8) (x2 x3 : Fin 32) (x4 : Bool) {w : Nat} (hk0 : k0 < 2 ^ 8) (hk1 : k1 < 2 ^ 6) (hk2 : k2 < 2 ^ 3)
    (e : w = k0 * 2 ^ 24 + x0.toNat * 2 ^ 23 + x1.val * 2 ^ 20 + x2.val * 2 ^ 15 + x3.val * 2 ^ 10 + k1 * 2 ^ 4 + x4.toNat * 2 ^ 3 + k2) :
    w / 2 ^ 24 % 2 ^ 8 = k0 ∧ w / 2 ^ 4 % 2 ^ 6 = k1 ∧ w / 2 ^ 0 % 2 ^ 3 = k2 ∧ bitAt w 23 = x0 ∧ r3 w 20 = x1 ∧ r5 w 15 = x2 ∧ r5 w 10 = x3 ∧ bitAt w 3 = x4 := by
  have hx0 := x0.toNat_lt; have hx1 := x1.isLt; have hx2 := x2.isLt; have hx3 := x3.isLt; have hx4 := x4.toNat_lt
  exact ⟨by omega, by omega, by omega, bitAt_of (by omega), r3_of (by omega), r5_of (by omega), r5_of (by omega), bitAt_of (by omega)⟩
theorem shape20 {k0 k1 k2 : Nat} (x0 : Bool) (x1 : Fin 8) (x2 x3 x4 : Fin 32) (x5 : Bool) {w : Nat} (hk0 : k0 < 2 ^ 8) (hk1 : k1 < 2 ^ 1) (hk2 : k2 < 2 ^ 3)
    (e : w = k0 * 2 ^ 24 + x0.toNat * 2 ^ 23 + x1.val * 2 ^ 20 + x2.val * 2 ^ 15 + x3.val * 2 ^ 10 + x4.val * 2 ^ 5 + k1 * 2 ^ 4 + x5.toNat * 2 ^ 3 + k2) :
    w / 2 ^ 24 % 2 ^ 8 = k0 ∧ w / 2 ^ 4 % 2 ^ 1 = k1 ∧ w / 2 ^ 0 % 2 ^ 3 = k2 ∧ bitAt w 23 = x0 ∧ r3 w 20 = x1 ∧ r5 w 15 = x2 ∧ r5 w 10 = x3 ∧ r5 w 5 = x4 ∧ bitAt w 3 = x5 := by
  have hx0 := x0.toNat_lt; have hx1 := x1.isLt; have hx2 := x2.isLt; have hx3 := x3.isLt; have hx4 := x4.isLt; have hx5 := x5.toNat_lt
  exact ⟨by omega, by omega, by omega, bitAt_of (by omega), r3_of (by omega), r5_of (by omega), r5_of (by omega), r5_of (by omega), bitAt_of (by omega)⟩
theorem shape21 {k0 k1 : Nat} (x0 : Bool) (x1 : Fin 8) (x2 x3 x4 : Fin 32) (x5 : Bool) {w : Nat} (hk0 : k0 < 2 ^ 8) (hk1 : k1 < 2 ^ 4)
    (e : w = k0 * 2 ^ 24 + x0.toNat * 2 ^ 23 + x1.val * 2 ^ 20 + x2.val * 2 ^ 15 + x3.val * 2 ^ 10 + x4.val * 2 ^ 5 + x5.toNat * 2 ^ 4 + k1) :
    w / 2 ^ 24 % 2 ^ 8 = k0 ∧ w / 2 ^ 0 % 2 ^ 4 = k1 ∧ bitAt w 23 = x0 ∧ r3 w 20 = x1 ∧ r5 w 15 = x2 ∧ r5 w 10 = x3 ∧ r5 w 5 = x4 ∧ bitAt w 4 = x5 := by
  have hx0 := x0.toNat_lt; have hx1 := x1.isLt; have hx2 := x2.isLt; have hx3 := x3.isLt; have hx4 := x4.isLt; have hx5 := x5.toNat_lt
  exact ⟨by omega, by omega, bitAt_of (by omega), r3_of (by omega), r5_of (by omega), r5_of (by omega), r5_of (by omega), bitAt_of (by omega)⟩
theorem shape22 {k0 k1 : Nat} (x0 : Bool) (x1 : Fin 8) (x2 x3 x4 : Fin 32) {w : Nat} (hk0 : k0 < 2 ^ 8) (hk1 : k1 < 2 ^ 5)
    (e : w = k0 * 2 ^ 24 + x0.toNat * 2 ^ 23 + x1.val * 2 ^ 20 + x2.val * 2 ^ 15 + x3.val * 2 ^ 10 + x4.val * 2 ^ 5 + k1) :
    w / 2 ^ 24 % 2 ^ 8 = k0 ∧ w / 2 ^ 0 % 2 ^ 5 = k1 ∧ bitAt w 23 = x0 ∧ r3 w 20 = x1 ∧ r5 w 15 = x2 ∧ r5 w 10 = x3 ∧ r5 w 5 = x4 := by
  have hx0 := x0.toNat_lt; have hx1 := x1.isLt; have hx2 := x2.isLt; have hx3 := x3.isLt; have hx4 := x4.isLt
  exact ⟨by omega, by omega, bitAt_of (by omega), r3_of (by omega), r5_of (by omega), r5_of (by omega), r5_of (by omega)⟩
theorem shape23 {k0 k1 : Nat} (x0 : Bool) (x1 : Fin 8) (x2 : Fin 32) (x3 : BitVec 5) (x4 : Fin 32) {w : Nat} (hk0 : k0 < 2 ^ 8) (hk1 : k1 < 2 ^ 5)
    (e : w = k0 * 2 ^ 24 + x0.toNat * 2 ^ 23 + x1.val * 2 ^ 20 + x2.val * 2 ^ 15 + x3.toNat * 2 ^ 10 + x4.val * 2 ^ 5 + k1) :
    w / 2 ^ 24 % 2 ^ 8 = k0 ∧ w / 2 ^ 0 % 2 ^ 5 = k1 ∧ bitAt w 23 = x0 ∧ r3 w 20 = x1 ∧ r5 w 15 = x2 ∧ im 5 w 10 = x3 ∧ r5 w 5 = x4 := by
  have hx0 := x0.toNat_lt; have hx1 := x1.isLt; have hx2 := x2.isLt; have hx3 := x3.isLt; have hx4 := x4.isLt
  exact ⟨by omega, by omega, bitAt_of (by omega), r3_of (by omega), r5_of (by omega), im_of (by omega), r5_of (by omega)⟩
theorem shape24 {k0 k1 : Nat} (x0 : Bool) (x1 : Fin 8) (x2 x3 : Fin 32) {w : Nat} (hk0 : k0 < 2 ^ 8) (hk1 : k1 < 2 ^ 10)
    (e : w = k0 * 2 ^ 24 + x0.toNat * 2 ^ 23 + x1.val * 2 ^ 20 + x2.val * 2 ^ 15 + x3.val * 2 ^ 10 + k1) :
    w / 2 ^ 24 % 2 ^ 8 = k0 ∧ w / 2 ^ 0 % 2 ^ 10 = k1 ∧ bitAt w 23 = x0 ∧ r3 w 20 = x1 ∧ r5 w 15 = x2 ∧ r5 w 10 = x3 := by
  have hx0 := x0.toNat_lt; have hx1 := x1.isLt; have hx2 := x2.isLt; have hx3 := x3.isLt
  exact ⟨by omega, by omega, bitAt_of (by omega), r3_of (by omega), r5_of (by omega), r5_of (by omega)⟩
theorem shape25 {k0 k1 : Nat} (x0 : Bool) (x1 : Fin 8) (x2 : Fin 32) (x3 : BitVec 5) {w : Nat} (hk0 : k0 < 2 ^ 8) (hk1 : k1 < 2 ^ 10)
    (e : w = k0 * 2 ^ 24 + x0.toNat * 2 ^ 23 + x1.val * 2 ^ 20 + x2.val * 2 ^ 15 + x3.toNat * 2 ^ 10 + k1) :
    w / 2 ^ 24 % 2 ^ 8 = k0 ∧ w / 2 ^ 0 % 2 ^ 10 = k1 ∧ bitAt w 23 = x0 ∧ r3 w 20 = x1 ∧ r5 w 15 = x2 ∧ im 5 w 10 = x3 := by
  have hx0 := x0.toNat_lt; have hx1 := x1.isLt; have hx2 := x2.isLt; have hx3 := x3.isLt
  exact ⟨by omega, by omega, bitAt_of (by omega), r3_of (by omega), r5_of (by omega), im_of (by omega)⟩
theorem shape26 {k0 k1 k2 : Nat} (x0 : Bool) (x1 : Fin 8) (x2 x3 : Fin 32) {w : Nat} (hk0 : k0 < 2 ^ 8) (hk1 : k1 < 2 ^ 5) (hk2 : k2 < 2 ^ 5)
    (e : w = k0 * 2 ^ 24 + x0.toNat * 2 ^ 23 + x1.val * 2 ^ 20 + x2.val * 2 ^ 15 + k1 * 2 ^ 10 + x3.val * 2 ^ 5 + k2) :
    w / 2 ^ 24 % 2 ^ 8 = k0 ∧ w / 2 ^ 10 % 2 ^ 5 = k1 ∧ w / 2 ^ 0 % 2 ^ 5 = k2 ∧ bitAt w 23 = x0 ∧ r3 w 20 = x1 ∧ r5 w 15 = x2 ∧ r5 w 5 = x3 := by
  have hx0 := x0.toNat_lt; have hx1 := x1.isLt; have hx2 := x2.isLt; have hx3 := x3.isLt
  exact ⟨by omega, by omega, by omega, bitAt_of (by omega), r3_of (by omega), r5_of (by omega), r5_of (by omega)⟩
theorem shape27 {k0 k1 k2 k3 : Nat} (x0 : Bool) (x1 : Fin 8) (x2 : Bool) (x3 : Fin 8) (x4 x5 : Fin 32) (x6 : Bool) {w : Nat} (hk0 : k0 < 2 ^ 8) (hk1 : k1 < 2 ^ 1) (hk2 : k2 < 2 ^ 1) (hk3 : k3 < 2 ^ 3)
    (e : w = k0 * 2 ^ 24 + x0.toNat * 2 ^ 23 + x1.val * 2 ^ 20 + x2.toNat * 2 ^ 19 + k1 * 2 ^ 18 + x3.val * 2 ^ 15 + x4.val * 2 ^ 10 + x5.val * 2 ^ 5 + k2 * 2 ^ 4 + x6.toNat * 2 ^ 3 + k3) :
    w / 2 ^ 24 % 2 ^ 8 = k0 ∧ w / 2 ^ 18 % 2 ^ 1 = k1 ∧ w / 2 ^ 4 % 2 ^ 1 = k2 ∧ w / 2 ^ 0 % 2 ^ 3 = k3 ∧ bitAt w 23 = x0 ∧ r3 w 20 = x1 ∧ bitAt w 19 = x2 ∧ r3 w 15 = x3 ∧ r5 w 10 = x4 ∧ r5 w 5 = x5 ∧ bitAt w 3 = x6 := by
  have hx0 := x0.toNat_lt; have hx1 := x1.isLt; have hx2 := x2.toNat_lt; have hx3 := x3.isLt; have hx4 := x4.isLt; have hx5 := x5.isLt; have hx6 := x6.toNat_lt
  exact ⟨by omega, by omega, by omega, by omega, bitAt_of (by omega), r3_of (by omega), bitAt_of (by omega), r3_of (by omega), r5_of (by omega), r5_of (by omega), bitAt_of (by omega)⟩
theorem shape28 {k0 k1 k2 k3 k4 : Nat} (x0 : Bool) (x1 x2 x3 x4 : Fin 8) {w : Nat} (hk0 : k0 < 2 ^ 8) (hk1 : k1 < 2 ^ 2) (hk2 : k2 < 2 ^ 2) (hk3 : k3 < 2 ^ 2) (hk4 : k4 < 2 ^ 5)
    (e : w = k0 * 2 ^ 24 + x0.toNat * 2 ^ 23 + x1.val * 2 ^ 20 + k1 * 2 ^ 18 + x2.val * 2 ^ 15 + k2 * 2 ^ 13 + x3.val * 2 ^ 10 + k3 * 2 ^ 8 + x4.val * 2 ^ 5 + k4) :
    w / 2 ^ 24 % 2 ^ 8 = k0 ∧ w / 2 ^ 18 % 2 ^ 2 = k1 ∧ w / 2 ^ 13 % 2 ^ 2 = k2 ∧ w / 2 ^ 8 % 2 ^ 2 = k3 ∧ w / 2 ^ 0 % 2 ^ 5 = k4 ∧ bitAt w 23 = x0 ∧ r3 w 20 = x1 ∧ r3 w 15 = x2 ∧ r3 w 10 = x3 ∧ r3 w 5 = x4 := by
  have hx0 := x0.toNat_lt; have hx1 := x1.isLt; have hx2 := x2.isLt; have hx3 := x3.isLt; have hx4 := x4.isLt
  exact ⟨by omega, by omega, by omega, by omega, by omega, bitAt_of (by omega), r3_of (by omega), r3_of (by omega), r3_of (by omega), r3_of (by omega)⟩
theorem shape29 {k0 k1 k2 k3 : Nat} (x0 : Bool) (x1 x2 x3 : Fin 8) {w : Nat} (hk0 : k0 < 2 ^ 8) (hk1 : k1 < 2 ^ 2) (hk2 : k2 < 2 ^ 7) (hk3 : k3 < 2 ^ 5)
    (e : w = k0 * 2 ^ 24 + x0.toNat * 2 ^ 23 + x1.val * 2 ^ 20 + k1 * 2 ^ 18 + x2.val * 2 ^ 15 + k2 * 2 ^ 8 + x3.val * 2 ^ 5 + k3) :
    w / 2 ^ 24 % 2 ^ 8 = k0 ∧ w / 2 ^ 18 % 2 ^ 2 = k1 ∧ w / 2 ^ 8 % 2 ^ 7 = k2 ∧ w / 2 ^ 0 % 2 ^ 5 = k3 ∧ bitAt w 23 = x0 ∧ r3 w 20 = x1 ∧ r3 w 15 = x2 ∧ r3 w 5 = x3 := by
  have hx0 := x0.toNat_lt; have hx1 := x1.isLt; have hx2 := x2.isLt; have hx3 := x3.isLt
  exact ⟨by omega, by omega, by omega, by omega, bitAt_of (by omega), r3_of (by omega), r3_of (by omega), r3_of (by omega)⟩
theorem shape30 {k0 k1 k2 : Nat} (x0 : Bool) (x1 x2 : Fin 8) {w : Nat} (hk0 : k0 < 2 ^ 8) (hk1 : k1 < 2 ^ 2) (hk2 : k2 < 2 ^ 15)
    (e : w = k0 * 2 ^ 24 + x0.toNat * 2 ^ 23 + x1.val * 2 ^ 20 + k1 * 2 ^ 18 + x2.val * 2 ^ 15 + k2) :
    w / 2 ^ 24 % 2 ^ 8 = k0 ∧ w / 2 ^ 18 % 2 ^ 2 = k1 ∧ w / 2 ^ 0 % 2 ^ 15 = k2 ∧ bitAt w 23 = x0 ∧ r3 w 20 = x1 ∧ r3 w 15 = x2 := by
  have hx0 := x0.toNat_lt; have hx1 := x1.isLt; have hx2 := x2.isLt
  exact ⟨by omega, by omega, by omega, bitAt_of (by omega), r3_of (by omega), r3_of (by omega)⟩
theorem shape31 {k0 k1 k2 : Nat} (x0 : Bool) (x1 : Fin 8) (x2 : Fin 32) (x3 : Fin 8) {w : Nat} (hk0 : k0 < 2 ^ 8) (hk1 : k1 < 2 ^ 7) (hk2 : k2 < 2 ^ 5)
    (e : w = k0 * 2 ^ 24 + x0.toNat * 2 ^ 23 + x1.val * 2 ^ 20 + x2.val * 2 ^ 15 + k1 * 2 ^ 8 + x3.val * 2 ^ 5 + k2) :
    w / 2 ^ 24 % 2 ^ 8 = k0 ∧ w / 2 ^ 8 % 2 ^ 7 = k1 ∧ w / 2 ^ 0 % 2 ^ 5 = k2 ∧ bitAt w 23 = x0 ∧ r3 w 20 = x1 ∧ r5 w 15 = x2 ∧ r3 w 5 = x3 := by
  have hx0 := x0.toNat_lt; have hx1 := x1.isLt; have hx2 := x2.isLt; have hx3 := x3.isLt
  exact ⟨by omega, by omega, by omega, bitAt_of (by omega), r3_of (by omega), r5_of (by omega), r3_of (by omega)⟩
theorem shape32 {k0 k1 k2 : Nat} (x0 : Bool) (x1 x2 x3 : Fin 32) {w : Nat} (hk0 : k0 < 2 ^ 8) (hk1 : k1 < 2 ^ 3) (hk2 : k2 < 2 ^ 5)
    (e : w = k0 * 2 ^ 24 + x0.toNat * 2 ^ 23 + k1 * 2 ^ 20 + x1.val * 2 ^ 15 + x2.val * 2 ^ 10 + x3.val * 2 ^ 5 + k2) :
    w / 2 ^ 24 % 2 ^ 8 = k0 ∧ w / 2 ^ 20 % 2 ^ 3 = k1 ∧ w / 2 ^ 0 % 2 ^ 5 = k2 ∧ bitAt w 23 = x0 ∧ r5 w 15 = x1 ∧ r5 w 10 = x2 ∧ r5 w 5 = x3 := by
  have hx0 := x0.toNat_lt; have hx1 := x1.isLt; have hx2 := x2.isLt; have hx3 := x3.isLt
  exact ⟨by omega, by omega, by omega, bitAt_of (by omega), r5_of (by omega), r5_of (by omega), r5_of (by omega)⟩
theorem shape33 {k0 k1 : Nat} (x0 : Bool) (x1 : Fin 8) (x2 : Fin 32) {w : Nat} (hk0 : k0 < 2 ^ 8) (hk1 : k1 < 2 ^ 15)
    (e : w = k0 * 2 ^ 24 + x0.toNat * 2 ^ 23 + x1.val * 2 ^ 20 + x2.val * 2 ^ 15 + k1) :
    w / 2 ^ 24 % 2 ^ 8 = k0 ∧ w / 2 ^ 0 % 2 ^ 15 = k1 ∧ bitAt w 23 = x0 ∧ r3 w 20 = x1 ∧ r5 w 15 = x2 := by
  have hx0 := x0.toNat_lt; have hx1 := x1.isLt; have hx2 := x2.isLt
  exact ⟨by omega, by omega, bitAt_of (by omega), r3_of (by omega), r5_of (by omega)⟩
theorem shape34 {k0 : Nat} (x0 : Bool) (x1 : Fin 8) (x2 x3 x4 : Fin 32) (x5 x6 x7 : Bool) (x8 : Fin 4) {w : Nat} (hk0 : k0 < 2 ^ 8)
    (e : w = k0 * 2 ^ 24 + x0.toNat * 2 ^ 23 + x1.val * 2 ^ 20 + x2.val * 2 ^ 15 + x3.val * 2 ^ 10 + x4.val * 2 ^ 5 + x5.toNat * 2 ^ 4 + x6.toNat * 2 ^ 3 + x7.toNat * 2 ^ 2 + x8.val) :
    w / 2 ^ 24 % 2 ^ 8 = k0 ∧ bitAt w 23 = x0 ∧ r3 w 20 = x1 ∧ r5 w 15 = x2 ∧ r5 w 10 = x3 ∧ r5 w 5 = x4 ∧ bitAt w 4 = x5 ∧ bitAt w 3 = x6 ∧ bitAt w 2 = x7 ∧ r2 w 0 = x8 := by
  have hx0 := x0.toNat_lt; have hx1 := x1.isLt; have hx2 := x2.isLt; have hx3 := x3.isLt; have hx4 := x4.isLt; have hx5 := x5.toNat_lt; have hx6 := x6.toNat_lt; have hx7 := x7.toNat_lt; have hx8 := x8.isLt
  exact ⟨by omega, bitAt_of (by omega), r3_of (by omega), r5_of (by omega), r5_of (by omega), r5_of (by omega), bitAt_of (by omega), bitAt_of (by omega), bitAt_of (by omega), r2_of (by omega)⟩
theorem shape35 {k0 k1 k2 : Nat} (x0 : Bool) (x1 : Fin 8) (x2 : Fin 32) {w : Nat} (hk0 : k0 < 2 ^ 8) (hk1 : k1 < 2 ^ 5) (hk2 : k2 < 2 ^ 10)
    (e : w = k0 * 2 ^ 24 + x0.toNat * 2 ^ 23 + k1 * 2 ^ 18 + x1.val * 2 ^ 15 + x2.val * 2 ^ 10 + k2) :
    w / 2 ^ 24 % 2 ^ 8 = k0 ∧ w / 2 ^ 18 % 2 ^ 5 = k1 ∧ w / 2 ^ 0 % 2 ^ 10 = k2 ∧ bitAt w 23 = x0 ∧ r3 w 15 = x1 ∧ r5 w 10 = x2 := by
  have hx0 := x0.toNat_lt; have hx1 := x1.isLt; have hx2 := x2.isLt
  exact ⟨by omega, by omega, by omega, bitAt_of (by omega), r3_of (by omega), r5_of (by omega)⟩
theorem shape36 {k0 k1 k2 k3 : Nat} (x0 : Bool) (x1 x2 : Fin 8) (x3 : Fin 32) {w : Nat} (hk0 : k0 < 2 ^ 8) (hk1 : k1 < 2 ^ 2) (hk2 : k2 < 2 ^ 5) (hk3 : k3 < 2 ^ 5)
    (e : w = k0 * 2 ^ 24 + x0.toNat * 2 ^ 23 + x1.val * 2 ^ 20 + k1 * 2 ^ 18 + x2.val * 2 ^ 15 + k2 * 2 ^ 10 + x3.val * 2 ^ 5 + k3) :
    w / 2 ^ 24 % 2 ^ 8 = k0 ∧ w / 2 ^ 18 % 2 ^ 2 = k1 ∧ w / 2 ^ 10 % 2 ^ 5 = k2 ∧ w / 2 ^ 0 % 2 ^ 5 = k3 ∧ bitAt w 23 = x0 ∧ r3 w 20 = x1 ∧ r3 w 15 = x2 ∧ r5 w 5 = x3 := by
  have hx0 := x0.toNat_lt; have hx1 := x1.isLt; have hx2 := x2.isLt; have hx3 := x3.isLt
  exact ⟨by omega, by omega, by omega, by omega, bitAt_of (by omega), r3_of (by omega), r3_of (by omega), r5_of (by omega)⟩
theorem shape37 {k0 k1 k2 k3 : Nat} (x0 : Bool) (x1 x2 : Fin 8) {w : Nat} (hk0 : k0 < 2 ^ 8) (hk1 : k1 < 2 ^ 5) (hk2 : k2 < 2 ^ 7) (hk3 : k3 < 2 ^ 5)
    (e : w = k0 * 2 ^ 24 + x0.toNat * 2 ^ 23 + k1 * 2 ^ 18 + x1.val * 2 ^ 15 + k2 * 2 ^ 8 + x2.val * 2 ^ 5 + k3) :
    w / 2 ^ 24 % 2 ^ 8 = k0 ∧ w / 2 ^ 18 % 2 ^ 5 = k1 ∧ w / 2 ^ 8 % 2 ^ 7 = k2 ∧ w / 2 ^ 0 % 2 ^ 5 = k3 ∧ bitAt w 23 = x0 ∧ r3 w 15 = x1 ∧ r3 w 5 = x2 := by
  have hx0 := x0.toNat_lt; have hx1 := x1.isLt; have hx2 := x2.isLt
  exact ⟨by omega, by omega, by omega, by omega, bitAt_of (by omega), r3_of (by omega), r3_of (by omega)⟩
theorem shape38 {k0 k1 : Nat} (x0 x1 x2 x3 : Fin 32) {w : Nat} (hk0 : k0 < 2 ^ 8) (hk1 : k1 < 2 ^ 4)
    (e : w = k0 * 2 ^ 24 + x0.val * 2 ^ 19 + x1.val * 2 ^ 14 + x2.val * 2 ^ 9 + x3.val * 2 ^ 4 + k1) :
    w / 2 ^ 24 % 2 ^ 8 = k0 ∧ w / 2 ^ 0 % 2 ^ 4 = k1 ∧ r5 w 19 = x0 ∧ r5 w 14 = x1 ∧ r5 w 9 = x2 ∧ r5 w 4 = x3 := by
  have hx0 := x0.isLt; have hx1 := x1.isLt; have hx2 := x2.isLt; have hx3 := x3.isLt
  exact ⟨by omega, by omega, r5_of (by omega), r5_of (by omega), r5_of (by omega), r5_of (by omega)⟩
theorem shape39 {k0 k1 : Nat} (x0 : Fin 8) (x1 x2 : Fin 32) {w : Nat} (hk0 : k0 < 2 ^ 10) (hk1 : k1 < 2 ^ 9)
    (e : w = k0 * 2 ^ 22 + x0.val * 2 ^ 19 + x1.val * 2 ^ 14 + x2.val * 2 ^ 9 + k1) :
    w / 2 ^ 22 % 2 ^ 10 = k0 ∧ w / 2 ^ 0 % 2 ^ 9 = k1 ∧ r3 w 19 = x0 ∧ r5 w 14 = x1 ∧ r5 w 9 = x2 := by
  have hx0 := x0.isLt; have hx1 := x1.isLt; have hx2 := x2.isLt
  exact ⟨by omega, by omega, r3_of (by omega), r5_of (by omega), r5_of (by omega)⟩
theorem shape40 {k0 k1 : Nat} (x0 x1 : Fin 32) {w : Nat} (hk0 : k0 < 2 ^ 13) (hk1 : k1 < 2 ^ 9)
    (e : w = k0 * 2 ^ 19 + x0.val * 2 ^ 14 + x1.val * 2 ^ 9 + k1) :
    w / 2 ^ 19 % 2 ^ 13 = k0 ∧ w / 2 ^ 0 % 2 ^ 9 = k1 ∧ r5 w 14 = x0 ∧ r5 w 9 = x1 := by
  have hx0 := x0.isLt; have hx1 := x1.isLt
  exact ⟨by omega, by omega, r5_of (by omega), r5_of (by omega)⟩
theorem shape41 {k0 k1 k2 : Nat} (x0 x1 : Fin 32) {w : Nat} (hk0 : k0 < 2 ^ 8) (hk1 : k1 < 2 ^ 5) (hk2 : k2 < 2 ^ 9)
    (e : w = k0 * 2 ^ 24 + x0.val * 2 ^ 19 + k1 * 2 ^ 14 + x1.val * 2 ^ 9 + k2) :
    w / 2 ^ 24 % 2 ^ 8 = k0 ∧ w / 2 ^ 14 % 2 ^ 5 = k1 ∧ w / 2 ^ 0 % 2 ^ 9 = k2 ∧ r5 w 19 = x0 ∧ r5 w 9 = x1 := by
  have hx0 := x0.isLt; have hx1 := x1.isLt
  exact ⟨by omega, by omega, by omega, r5_of (by omega), r5_of (by omega)⟩
theorem shape42 {k0 k1 k2 : Nat} (x0 : Fin 8) (x1 : Fin 4) (x2 x3 x4 x5 : Fin 32) (x6 : Bool) (x7 x8 : Fin 8) {w : Nat} (hk0 : k0 < 2 ^ 9) (hk1 : k1 < 2 ^ 8) (hk2 : k2 < 2 ^ 15)
    (e : w = k0 * 2 ^ 55 + x0.val * 2 ^ 52 + x1.val * 2 ^ 50 + x2.val * 2 ^ 45 + x3.val * 2 ^ 40 + k1 * 2 ^ 32 + x4.val * 2 ^ 27 + x5.val * 2 ^ 22 + x6.toNat * 2 ^ 21 + x7.val * 2 ^ 18 + x8.val * 2 ^ 15 + k2) :
    w / 2 ^ 55 % 2 ^ 9 = k0 ∧ w / 2 ^ 32 % 2 ^ 8 = k1 ∧ w / 2 ^ 0 % 2 ^ 15 = k2 ∧ r3 w 52 = x0 ∧ r2 w 50 = x1 ∧ r5 w 45 = x2 ∧ r5 w 40 = x3 ∧ r5 w 27 = x4 ∧ r5 w 22 = x5 ∧ bitAt w 21 = x6 ∧ r3 w 18 = x7 ∧ r3 w 15 = x8 := by
  have hx0 := x0.isLt; have hx1 := x1.isLt; have hx2 := x2.isLt; have hx3 := x3.isLt; have hx4 := x4.isLt; have hx5 := x5.isLt; have hx6 := x6.toNat_lt; have hx7 := x7.isLt; have hx8 := x8.isLt
  exact ⟨by omega, by omega, by omega, r3_of (by omega), r2_of (by omega), r5_of (by omega), r5_of (by omega), r5_of (by omega), r5_of (by omega), bitAt_of (by omega), r3_of (by omega), r3_of (by omega)⟩
theorem shape43 {k0 k1 k2 : Nat} (x0 : Fin 8) (x1 : Fin 4) (x2 x3 x4 x5 : Fin 32) {w : Nat} (hk0 : k0 < 2 ^ 9) (hk1 : k1 < 2 ^ 8) (hk2 : k2 < 2 ^ 22)
    (e : w = k0 * 2 ^ 55 + x0.val * 2 ^ 52 + x1.val * 2 ^ 50 + x2.val * 2 ^ 45 + x3.val * 2 ^ 40 + k1 * 2 ^ 32 + x4.val * 2 ^ 27 + x5.val * 2 ^ 22 + k2) :
    w / 2 ^ 55 % 2 ^ 9 = k0 ∧ w / 2 ^ 32 % 2 ^ 8 = k1 ∧ w / 2 ^ 0 % 2 ^ 22 = k2 ∧ r3 w 52 = x0 ∧ r2 w 50 = x1 ∧ r5 w 45 = x2 ∧ r5 w 40 = x3 ∧ r5 w 27 = x4 ∧ r5 w 22 = x5 := by
  have hx0 := x0.isLt; have hx1 := x1.isLt; have hx2 := x2.isLt; have hx3 := x3.isLt; have hx4 := x4.isLt; have hx5 := x5.isLt
  exact ⟨by omega, by omega, by omega, r3_of (by omega), r2_of (by omega), r5_of (by omega), r5_of (by omega), r5_of (by omega), r5_of (by omega)⟩
theorem shape44 {k0 k1 : Nat} (x0 : Fin 4) {w : Nat} (hk0 : k0 < 2 ^ 12) (hk1 : k1 < 2 ^ 50)
    (e : w = k0 * 2 ^ 52 + x0.val * 2 ^ 50 + k1) :
    w / 2 ^ 52 % 2 ^ 12 = k0 ∧ w / 2 ^ 0 % 2 ^ 50 = k1 ∧ r2 w 50 = x0 := by
  have hx0 := x0.isLt
  exact ⟨by omega, by omega, r2_of (by omega)⟩
theorem shape45 {k0 k1 k2 k3 : Nat} (x0 : Fin 4) (x1 x2 : Fin 32) {w : Nat} (hk0 : k0 < 2 ^ 12) (hk1 : k1 < 2 ^ 10) (hk2 : k2 < 2 ^ 20) (hk3 : k3 < 2 ^ 10)
    (e : w = k0 * 2 ^ 52 + x0.val * 2 ^ 50 + k1 * 2 ^ 40 + x1.val * 2 ^ 35 + k2 * 2 ^ 15 + x2.val * 2 ^ 10 + k3) :
    w / 2 ^ 52 % 2 ^ 12 = k0 ∧ w / 2 ^ 40 % 2 ^ 10 = k1 ∧ w / 2 ^ 15 % 2 ^ 20 = k2 ∧ w / 2 ^ 0 % 2 ^ 10 = k3 ∧ r2 w 50 = x0 ∧ r5 w 35 = x1 ∧ r5 w 10 = x2 := by
  have hx0 := x0.isLt; have hx1 := x1.isLt; have hx2 := x2.isLt
  exact ⟨by omega, by omega, by omega, by omega, r2_of (by omega), r5_of (by omega), r5_of (by omega)⟩
theorem shape46 {k0 k1 k2 : Nat} (x0 : Fin 4) (x1 x2 : Fin 32) {w : Nat} (hk0 : k0 < 2 ^ 12) (hk1 : k1 < 2 ^ 5) (hk2 : k2 < 2 ^ 35)
    (e : w = k0 * 2 ^ 52 + x0.val * 2 ^ 50 + x1.val * 2 ^ 45 + k1 * 2 ^ 40 + x2.val * 2 ^ 35 + k2) :
    w / 2 ^ 52 % 2 ^ 12 = k0 ∧ w / 2 ^ 40 % 2 ^ 5 = k1 ∧ w / 2 ^ 0 % 2 ^ 35 = k2 ∧ r2 w 50 = x0 ∧ r5 w 45 = x1 ∧ r5 w 35 = x2 := by
  have hx0 := x0.isLt; have hx1 := x1.isLt; have hx2 := x2.isLt
  exact ⟨by omega, by omega, by omega, r2_of (by omega), r5_of (by omega), r5_of (by omega)⟩
theorem shape47 {k0 : Nat} (x0 : Fin 32) (x1 : BitVec 6) {w : Nat} (hk0 : k0 < 2 ^ 5)
    (e : w = k0 * 2 ^ 11 + x0.val * 2 ^ 6 + x1.toNat) :
    w / 2 ^ 11 % 2 ^ 5 = k0 ∧ r5 w 6 = x0 ∧ im 6 w 0 = x1 := by
  have hx0 := x0.isLt; have hx1 := x1.isLt
  exact ⟨by omega, r5_of (by omega), im_of (by omega)⟩
theorem shape48 {k0 k1 : Nat} (x0 x1 : Fin 32) {w : Nat} (hk0 : k0 < 2 ^ 5) (hk1 : k1 < 2 ^ 1)
    (e : w = k0 * 2 ^ 11 + x0.val * 2 ^ 6 + k1 * 2 ^ 5 + x1.val) :
    w / 2 ^ 11 % 2 ^ 5 = k0 ∧ w / 2 ^ 5 % 2 ^ 1 = k1 ∧ r5 w 6 = x0 ∧ r5 w 0 = x1 := by
  have hx0 := x0.isLt; have hx1 := x1.isLt
  exact ⟨by omega, by omega, r5_of (by omega), r5_of (by omega)⟩
theorem shape49 {k0 : Nat} (x0 : BitVec 11) {w : Nat} (hk0 : k0 < 2 ^ 5)
    (e : w = k0 * 2 ^ 11 + x0.toNat) :
    w / 2 ^ 11 % 2 ^ 5 = k0 ∧ im 11 w 0 = x0 := by
  have hx0 := x0.isLt
  exact ⟨by omega, im_of (by omega)⟩
theorem shape50 {k0 k1 : Nat} (x0 : Fin 32) {w : Nat} (hk0 : k0 < 2 ^ 5) (hk1 : k1 < 2 ^ 6)
    (e : w = k0 * 2 ^ 11 + x0.val * 2 ^ 6 + k1) :
    w / 2 ^ 11 % 2 ^ 5 = k0 ∧ w / 2 ^ 0 % 2 ^ 6 = k1 ∧ r5 w 6 = x0 := by
  have hx0 := x0.isLt
  exact ⟨by omega, by omega, r5_of (by omega)⟩
theorem shape51 {k0 : Nat} {w : Nat} (hk0 : k0 < 2 ^ 16)
    (e : w = k0) :
    w / 2 ^ 0 % 2 ^ 16 = k0 := by
  exact by omega

end Sys2Proof
end

