-- ==== Sys2Proof/Laws/State.lean ====
section
/-!
SUPPORT. Sys2Proof/Laws/State.lean: what each update of the machine's parts leaves of every other field and register.
-/
namespace Sys2Proof.Machine

/-! ### setPart -/

@[simp] theorem State.cur_setPart (s : State) (n : Nat) (p : Part) : (s.setPart n p).cur = s.cur := rfl
@[simp] theorem State.others_setPart (s : State) (n : Nat) (p : Part) : (s.setPart n p).others = s.others := rfl
@[simp] theorem State.away_setPart (s : State) (n : Nat) (p : Part) : (s.setPart n p).away = s.away := rfl
@[simp] theorem State.mem_setPart (s : State) (n : Nat) (p : Part) : (s.setPart n p).mem = s.mem := rfl
@[simp] theorem State.poisoned_setPart (s : State) (n : Nat) (p : Part) : (s.setPart n p).poisoned = s.poisoned := rfl
@[simp] theorem State.stores_setPart (s : State) (n : Nat) (p : Part) : (s.setPart n p).stores = s.stores := rfl
@[simp] theorem State.now_setPart (s : State) (n : Nat) (p : Part) : (s.setPart n p).now = s.now := rfl
@[simp] theorem State.ctrAt_setPart (s : State) (n : Nat) (p : Part) : (s.setPart n p).ctrAt = s.ctrAt := rfl
@[simp] theorem State.counters_setPart (s : State) (n : Nat) (p : Part) : (s.setPart n p).counters = s.counters := rfl
@[simp] theorem State.cores_setPart (s : State) (n : Nat) (p : Part) : (s.setPart n p).cores = s.cores := rfl
@[simp] theorem State.looms_setPart (s : State) (n : Nat) (p : Part) : (s.setPart n p).looms = s.looms := rfl
@[simp] theorem State.cmds_setPart (s : State) (n : Nat) (p : Part) : (s.setPart n p).cmds = s.cmds := rfl
@[simp] theorem State.zones_setPart (s : State) (n : Nat) (p : Part) : (s.setPart n p).zones = s.zones := rfl
@[simp] theorem State.treadles_setPart (s : State) (n : Nat) (p : Part) : (s.setPart n p).treadles = s.treadles := rfl
@[simp] theorem State.tracks_setPart (s : State) (n : Nat) (p : Part) : (s.setPart n p).tracks = s.tracks := rfl
@[simp] theorem State.rooms_setPart (s : State) (n : Nat) (p : Part) : (s.setPart n p).rooms = s.rooms := rfl
@[simp] theorem State.funcs_setPart (s : State) (n : Nat) (p : Part) : (s.setPart n p).funcs = s.funcs := rfl
@[simp] theorem State.held_setPart (s : State) (n : Nat) (p : Part) : (s.setPart n p).held = s.held := rfl
@[simp] theorem State.mig_setPart (s : State) (n : Nat) (p : Part) : (s.setPart n p).mig = s.mig := rfl
@[simp] theorem State.arbs_setPart (s : State) (n : Nat) (p : Part) : (s.setPart n p).arbs = s.arbs := rfl
@[simp] theorem State.flights_setPart (s : State) (n : Nat) (p : Part) : (s.setPart n p).flights = s.flights := rfl
@[simp] theorem State.acct_setPart (s : State) (n : Nat) (p : Part) : (s.setPart n p).acct = s.acct := rfl
@[simp] theorem State.fabric_setPart (s : State) (n : Nat) (p : Part) : (s.setPart n p).fabric = s.fabric := rfl
@[simp] theorem State.power_setPart (s : State) (n : Nat) (p : Part) : (s.setPart n p).power = s.power := rfl
@[simp] theorem State.boot_setPart (s : State) (n : Nat) (p : Part) : (s.setPart n p).boot = s.boot := rfl
@[simp] theorem State.mailbox_setPart (s : State) (n : Nat) (p : Part) : (s.setPart n p).mailbox = s.mailbox := rfl
@[simp] theorem State.scrubs_setPart (s : State) (n : Nat) (p : Part) : (s.setPart n p).scrubs = s.scrubs := rfl
@[simp] theorem State.clock_setPart (s : State) (n : Nat) (p : Part) : (s.setPart n p).clock = s.clock := rfl
@[simp] theorem State.nextKey_setPart (s : State) (n : Nat) (p : Part) : (s.setPart n p).nextKey = s.nextKey := rfl
@[simp] theorem State.fresh_setPart (s : State) (n : Nat) (p : Part) : (s.setPart n p).fresh = s.fresh := rfl
@[simp] theorem State.struck_setPart (s : State) (n : Nat) (p : Part) : (s.setPart n p).struck = s.struck := rfl
@[simp] theorem State.agenda_setPart (s : State) (n : Nat) (p : Part) : (s.setPart n p).agenda = s.agenda := rfl
@[simp] theorem State.func_setPart (s : State) (n : Nat) (p : Part) (m : Nat) : (s.setPart n p).func m = s.func m := rfl
@[simp] theorem State.core_setPart (s : State) (n : Nat) (p : Part) (m : Nat) : (s.setPart n p).core m = s.core m := rfl
@[simp] theorem State.loom_setPart (s : State) (n : Nat) (p : Part) (m : Nat) : (s.setPart n p).loom m = s.loom m := rfl
@[simp] theorem State.path_setPart (s : State) (n : Nat) (p : Part) (m : Nat) : (s.setPart n p).path m = s.path m := rfl
@[simp] theorem State.counter_setPart (s : State) (n : Nat) (p : Part) (m : Nat) : (s.setPart n p).counter m = s.counter m := rfl
@[simp] theorem State.scrub_setPart (s : State) (n : Nat) (p : Part) (m : Nat) : (s.setPart n p).scrub m = s.scrub m := rfl

/-! ### setFunc -/

@[simp] theorem State.cur_setFunc (s : State) (n : Nat) (f : Func) : (s.setFunc n f).cur = s.cur := rfl
@[simp] theorem State.others_setFunc (s : State) (n : Nat) (f : Func) : (s.setFunc n f).others = s.others := rfl
@[simp] theorem State.away_setFunc (s : State) (n : Nat) (f : Func) : (s.setFunc n f).away = s.away := rfl
@[simp] theorem State.mem_setFunc (s : State) (n : Nat) (f : Func) : (s.setFunc n f).mem = s.mem := rfl
@[simp] theorem State.poisoned_setFunc (s : State) (n : Nat) (f : Func) : (s.setFunc n f).poisoned = s.poisoned := rfl
@[simp] theorem State.stores_setFunc (s : State) (n : Nat) (f : Func) : (s.setFunc n f).stores = s.stores := rfl
@[simp] theorem State.now_setFunc (s : State) (n : Nat) (f : Func) : (s.setFunc n f).now = s.now := rfl
@[simp] theorem State.ctrAt_setFunc (s : State) (n : Nat) (f : Func) : (s.setFunc n f).ctrAt = s.ctrAt := rfl
@[simp] theorem State.counters_setFunc (s : State) (n : Nat) (f : Func) : (s.setFunc n f).counters = s.counters := rfl
@[simp] theorem State.cores_setFunc (s : State) (n : Nat) (f : Func) : (s.setFunc n f).cores = s.cores := rfl
@[simp] theorem State.looms_setFunc (s : State) (n : Nat) (f : Func) : (s.setFunc n f).looms = s.looms := rfl
@[simp] theorem State.cmds_setFunc (s : State) (n : Nat) (f : Func) : (s.setFunc n f).cmds = s.cmds := rfl
@[simp] theorem State.zones_setFunc (s : State) (n : Nat) (f : Func) : (s.setFunc n f).zones = s.zones := rfl
@[simp] theorem State.treadles_setFunc (s : State) (n : Nat) (f : Func) : (s.setFunc n f).treadles = s.treadles := rfl
@[simp] theorem State.tracks_setFunc (s : State) (n : Nat) (f : Func) : (s.setFunc n f).tracks = s.tracks := rfl
@[simp] theorem State.rooms_setFunc (s : State) (n : Nat) (f : Func) : (s.setFunc n f).rooms = s.rooms := rfl
@[simp] theorem State.parts_setFunc (s : State) (n : Nat) (f : Func) : (s.setFunc n f).parts = s.parts := rfl
@[simp] theorem State.held_setFunc (s : State) (n : Nat) (f : Func) : (s.setFunc n f).held = s.held := rfl
@[simp] theorem State.mig_setFunc (s : State) (n : Nat) (f : Func) : (s.setFunc n f).mig = s.mig := rfl
@[simp] theorem State.arbs_setFunc (s : State) (n : Nat) (f : Func) : (s.setFunc n f).arbs = s.arbs := rfl
@[simp] theorem State.flights_setFunc (s : State) (n : Nat) (f : Func) : (s.setFunc n f).flights = s.flights := rfl
@[simp] theorem State.acct_setFunc (s : State) (n : Nat) (f : Func) : (s.setFunc n f).acct = s.acct := rfl
@[simp] theorem State.fabric_setFunc (s : State) (n : Nat) (f : Func) : (s.setFunc n f).fabric = s.fabric := rfl
@[simp] theorem State.power_setFunc (s : State) (n : Nat) (f : Func) : (s.setFunc n f).power = s.power := rfl
@[simp] theorem State.boot_setFunc (s : State) (n : Nat) (f : Func) : (s.setFunc n f).boot = s.boot := rfl
@[simp] theorem State.mailbox_setFunc (s : State) (n : Nat) (f : Func) : (s.setFunc n f).mailbox = s.mailbox := rfl
@[simp] theorem State.scrubs_setFunc (s : State) (n : Nat) (f : Func) : (s.setFunc n f).scrubs = s.scrubs := rfl
@[simp] theorem State.clock_setFunc (s : State) (n : Nat) (f : Func) : (s.setFunc n f).clock = s.clock := rfl
@[simp] theorem State.nextKey_setFunc (s : State) (n : Nat) (f : Func) : (s.setFunc n f).nextKey = s.nextKey := rfl
@[simp] theorem State.fresh_setFunc (s : State) (n : Nat) (f : Func) : (s.setFunc n f).fresh = s.fresh := rfl
@[simp] theorem State.struck_setFunc (s : State) (n : Nat) (f : Func) : (s.setFunc n f).struck = s.struck := rfl
@[simp] theorem State.agenda_setFunc (s : State) (n : Nat) (f : Func) : (s.setFunc n f).agenda = s.agenda := rfl
@[simp] theorem State.part_setFunc (s : State) (n : Nat) (f : Func) (m : Nat) : (s.setFunc n f).part m = s.part m := rfl
@[simp] theorem State.core_setFunc (s : State) (n : Nat) (f : Func) (m : Nat) : (s.setFunc n f).core m = s.core m := rfl
@[simp] theorem State.loom_setFunc (s : State) (n : Nat) (f : Func) (m : Nat) : (s.setFunc n f).loom m = s.loom m := rfl
@[simp] theorem State.path_setFunc (s : State) (n : Nat) (f : Func) (m : Nat) : (s.setFunc n f).path m = s.path m := rfl
@[simp] theorem State.counter_setFunc (s : State) (n : Nat) (f : Func) (m : Nat) : (s.setFunc n f).counter m = s.counter m := rfl
@[simp] theorem State.scrub_setFunc (s : State) (n : Nat) (f : Func) (m : Nat) : (s.setFunc n f).scrub m = s.scrub m := rfl

/-! ### setCore -/

@[simp] theorem State.cur_setCore (s : State) (n : Nat) (c : Core) : (s.setCore n c).cur = s.cur := rfl
@[simp] theorem State.others_setCore (s : State) (n : Nat) (c : Core) : (s.setCore n c).others = s.others := rfl
@[simp] theorem State.away_setCore (s : State) (n : Nat) (c : Core) : (s.setCore n c).away = s.away := rfl
@[simp] theorem State.mem_setCore (s : State) (n : Nat) (c : Core) : (s.setCore n c).mem = s.mem := rfl
@[simp] theorem State.poisoned_setCore (s : State) (n : Nat) (c : Core) : (s.setCore n c).poisoned = s.poisoned := rfl
@[simp] theorem State.stores_setCore (s : State) (n : Nat) (c : Core) : (s.setCore n c).stores = s.stores := rfl
@[simp] theorem State.now_setCore (s : State) (n : Nat) (c : Core) : (s.setCore n c).now = s.now := rfl
@[simp] theorem State.ctrAt_setCore (s : State) (n : Nat) (c : Core) : (s.setCore n c).ctrAt = s.ctrAt := rfl
@[simp] theorem State.counters_setCore (s : State) (n : Nat) (c : Core) : (s.setCore n c).counters = s.counters := rfl
@[simp] theorem State.looms_setCore (s : State) (n : Nat) (c : Core) : (s.setCore n c).looms = s.looms := rfl
@[simp] theorem State.cmds_setCore (s : State) (n : Nat) (c : Core) : (s.setCore n c).cmds = s.cmds := rfl
@[simp] theorem State.zones_setCore (s : State) (n : Nat) (c : Core) : (s.setCore n c).zones = s.zones := rfl
@[simp] theorem State.treadles_setCore (s : State) (n : Nat) (c : Core) : (s.setCore n c).treadles = s.treadles := rfl
@[simp] theorem State.tracks_setCore (s : State) (n : Nat) (c : Core) : (s.setCore n c).tracks = s.tracks := rfl
@[simp] theorem State.rooms_setCore (s : State) (n : Nat) (c : Core) : (s.setCore n c).rooms = s.rooms := rfl
@[simp] theorem State.funcs_setCore (s : State) (n : Nat) (c : Core) : (s.setCore n c).funcs = s.funcs := rfl
@[simp] theorem State.parts_setCore (s : State) (n : Nat) (c : Core) : (s.setCore n c).parts = s.parts := rfl
@[simp] theorem State.held_setCore (s : State) (n : Nat) (c : Core) : (s.setCore n c).held = s.held := rfl
@[simp] theorem State.mig_setCore (s : State) (n : Nat) (c : Core) : (s.setCore n c).mig = s.mig := rfl
@[simp] theorem State.arbs_setCore (s : State) (n : Nat) (c : Core) : (s.setCore n c).arbs = s.arbs := rfl
@[simp] theorem State.flights_setCore (s : State) (n : Nat) (c : Core) : (s.setCore n c).flights = s.flights := rfl
@[simp] theorem State.acct_setCore (s : State) (n : Nat) (c : Core) : (s.setCore n c).acct = s.acct := rfl
@[simp] theorem State.fabric_setCore (s : State) (n : Nat) (c : Core) : (s.setCore n c).fabric = s.fabric := rfl
@[simp] theorem State.power_setCore (s : State) (n : Nat) (c : Core) : (s.setCore n c).power = s.power := rfl
@[simp] theorem State.boot_setCore (s : State) (n : Nat) (c : Core) : (s.setCore n c).boot = s.boot := rfl
@[simp] theorem State.mailbox_setCore (s : State) (n : Nat) (c : Core) : (s.setCore n c).mailbox = s.mailbox := rfl
@[simp] theorem State.scrubs_setCore (s : State) (n : Nat) (c : Core) : (s.setCore n c).scrubs = s.scrubs := rfl
@[simp] theorem State.clock_setCore (s : State) (n : Nat) (c : Core) : (s.setCore n c).clock = s.clock := rfl
@[simp] theorem State.nextKey_setCore (s : State) (n : Nat) (c : Core) : (s.setCore n c).nextKey = s.nextKey := rfl
@[simp] theorem State.fresh_setCore (s : State) (n : Nat) (c : Core) : (s.setCore n c).fresh = s.fresh := rfl
@[simp] theorem State.struck_setCore (s : State) (n : Nat) (c : Core) : (s.setCore n c).struck = s.struck := rfl
@[simp] theorem State.agenda_setCore (s : State) (n : Nat) (c : Core) : (s.setCore n c).agenda = s.agenda := rfl
@[simp] theorem State.part_setCore (s : State) (n : Nat) (c : Core) (m : Nat) : (s.setCore n c).part m = s.part m := rfl
@[simp] theorem State.func_setCore (s : State) (n : Nat) (c : Core) (m : Nat) : (s.setCore n c).func m = s.func m := rfl
@[simp] theorem State.loom_setCore (s : State) (n : Nat) (c : Core) (m : Nat) : (s.setCore n c).loom m = s.loom m := rfl
@[simp] theorem State.path_setCore (s : State) (n : Nat) (c : Core) (m : Nat) : (s.setCore n c).path m = s.path m := rfl
@[simp] theorem State.counter_setCore (s : State) (n : Nat) (c : Core) (m : Nat) : (s.setCore n c).counter m = s.counter m := rfl
@[simp] theorem State.scrub_setCore (s : State) (n : Nat) (c : Core) (m : Nat) : (s.setCore n c).scrub m = s.scrub m := rfl

/-! ### setLoom -/

@[simp] theorem State.cur_setLoom (s : State) (n : Nat) (l : Loom) : (s.setLoom n l).cur = s.cur := rfl
@[simp] theorem State.others_setLoom (s : State) (n : Nat) (l : Loom) : (s.setLoom n l).others = s.others := rfl
@[simp] theorem State.away_setLoom (s : State) (n : Nat) (l : Loom) : (s.setLoom n l).away = s.away := rfl
@[simp] theorem State.mem_setLoom (s : State) (n : Nat) (l : Loom) : (s.setLoom n l).mem = s.mem := rfl
@[simp] theorem State.poisoned_setLoom (s : State) (n : Nat) (l : Loom) : (s.setLoom n l).poisoned = s.poisoned := rfl
@[simp] theorem State.stores_setLoom (s : State) (n : Nat) (l : Loom) : (s.setLoom n l).stores = s.stores := rfl
@[simp] theorem State.now_setLoom (s : State) (n : Nat) (l : Loom) : (s.setLoom n l).now = s.now := rfl
@[simp] theorem State.ctrAt_setLoom (s : State) (n : Nat) (l : Loom) : (s.setLoom n l).ctrAt = s.ctrAt := rfl
@[simp] theorem State.counters_setLoom (s : State) (n : Nat) (l : Loom) : (s.setLoom n l).counters = s.counters := rfl
@[simp] theorem State.cores_setLoom (s : State) (n : Nat) (l : Loom) : (s.setLoom n l).cores = s.cores := rfl
@[simp] theorem State.cmds_setLoom (s : State) (n : Nat) (l : Loom) : (s.setLoom n l).cmds = s.cmds := rfl
@[simp] theorem State.zones_setLoom (s : State) (n : Nat) (l : Loom) : (s.setLoom n l).zones = s.zones := rfl
@[simp] theorem State.treadles_setLoom (s : State) (n : Nat) (l : Loom) : (s.setLoom n l).treadles = s.treadles := rfl
@[simp] theorem State.tracks_setLoom (s : State) (n : Nat) (l : Loom) : (s.setLoom n l).tracks = s.tracks := rfl
@[simp] theorem State.rooms_setLoom (s : State) (n : Nat) (l : Loom) : (s.setLoom n l).rooms = s.rooms := rfl
@[simp] theorem State.funcs_setLoom (s : State) (n : Nat) (l : Loom) : (s.setLoom n l).funcs = s.funcs := rfl
@[simp] theorem State.parts_setLoom (s : State) (n : Nat) (l : Loom) : (s.setLoom n l).parts = s.parts := rfl
@[simp] theorem State.held_setLoom (s : State) (n : Nat) (l : Loom) : (s.setLoom n l).held = s.held := rfl
@[simp] theorem State.mig_setLoom (s : State) (n : Nat) (l : Loom) : (s.setLoom n l).mig = s.mig := rfl
@[simp] theorem State.arbs_setLoom (s : State) (n : Nat) (l : Loom) : (s.setLoom n l).arbs = s.arbs := rfl
@[simp] theorem State.flights_setLoom (s : State) (n : Nat) (l : Loom) : (s.setLoom n l).flights = s.flights := rfl
@[simp] theorem State.acct_setLoom (s : State) (n : Nat) (l : Loom) : (s.setLoom n l).acct = s.acct := rfl
@[simp] theorem State.fabric_setLoom (s : State) (n : Nat) (l : Loom) : (s.setLoom n l).fabric = s.fabric := rfl
@[simp] theorem State.power_setLoom (s : State) (n : Nat) (l : Loom) : (s.setLoom n l).power = s.power := rfl
@[simp] theorem State.boot_setLoom (s : State) (n : Nat) (l : Loom) : (s.setLoom n l).boot = s.boot := rfl
@[simp] theorem State.mailbox_setLoom (s : State) (n : Nat) (l : Loom) : (s.setLoom n l).mailbox = s.mailbox := rfl
@[simp] theorem State.scrubs_setLoom (s : State) (n : Nat) (l : Loom) : (s.setLoom n l).scrubs = s.scrubs := rfl
@[simp] theorem State.clock_setLoom (s : State) (n : Nat) (l : Loom) : (s.setLoom n l).clock = s.clock := rfl
@[simp] theorem State.nextKey_setLoom (s : State) (n : Nat) (l : Loom) : (s.setLoom n l).nextKey = s.nextKey := rfl
@[simp] theorem State.fresh_setLoom (s : State) (n : Nat) (l : Loom) : (s.setLoom n l).fresh = s.fresh := rfl
@[simp] theorem State.struck_setLoom (s : State) (n : Nat) (l : Loom) : (s.setLoom n l).struck = s.struck := rfl
@[simp] theorem State.agenda_setLoom (s : State) (n : Nat) (l : Loom) : (s.setLoom n l).agenda = s.agenda := rfl
@[simp] theorem State.part_setLoom (s : State) (n : Nat) (l : Loom) (m : Nat) : (s.setLoom n l).part m = s.part m := rfl
@[simp] theorem State.func_setLoom (s : State) (n : Nat) (l : Loom) (m : Nat) : (s.setLoom n l).func m = s.func m := rfl
@[simp] theorem State.core_setLoom (s : State) (n : Nat) (l : Loom) (m : Nat) : (s.setLoom n l).core m = s.core m := rfl
@[simp] theorem State.path_setLoom (s : State) (n : Nat) (l : Loom) (m : Nat) : (s.setLoom n l).path m = s.path m := rfl
@[simp] theorem State.counter_setLoom (s : State) (n : Nat) (l : Loom) (m : Nat) : (s.setLoom n l).counter m = s.counter m := rfl
@[simp] theorem State.scrub_setLoom (s : State) (n : Nat) (l : Loom) (m : Nat) : (s.setLoom n l).scrub m = s.scrub m := rfl

/-! ### setPath -/

@[simp] theorem State.cur_setPath (s : State) (n : Nat) (p : Path) : (s.setPath n p).cur = s.cur := rfl
@[simp] theorem State.others_setPath (s : State) (n : Nat) (p : Path) : (s.setPath n p).others = s.others := rfl
@[simp] theorem State.away_setPath (s : State) (n : Nat) (p : Path) : (s.setPath n p).away = s.away := rfl
@[simp] theorem State.mem_setPath (s : State) (n : Nat) (p : Path) : (s.setPath n p).mem = s.mem := rfl
@[simp] theorem State.poisoned_setPath (s : State) (n : Nat) (p : Path) : (s.setPath n p).poisoned = s.poisoned := rfl
@[simp] theorem State.stores_setPath (s : State) (n : Nat) (p : Path) : (s.setPath n p).stores = s.stores := rfl
@[simp] theorem State.now_setPath (s : State) (n : Nat) (p : Path) : (s.setPath n p).now = s.now := rfl
@[simp] theorem State.ctrAt_setPath (s : State) (n : Nat) (p : Path) : (s.setPath n p).ctrAt = s.ctrAt := rfl
@[simp] theorem State.counters_setPath (s : State) (n : Nat) (p : Path) : (s.setPath n p).counters = s.counters := rfl
@[simp] theorem State.cores_setPath (s : State) (n : Nat) (p : Path) : (s.setPath n p).cores = s.cores := rfl
@[simp] theorem State.looms_setPath (s : State) (n : Nat) (p : Path) : (s.setPath n p).looms = s.looms := rfl
@[simp] theorem State.cmds_setPath (s : State) (n : Nat) (p : Path) : (s.setPath n p).cmds = s.cmds := rfl
@[simp] theorem State.zones_setPath (s : State) (n : Nat) (p : Path) : (s.setPath n p).zones = s.zones := rfl
@[simp] theorem State.treadles_setPath (s : State) (n : Nat) (p : Path) : (s.setPath n p).treadles = s.treadles := rfl
@[simp] theorem State.tracks_setPath (s : State) (n : Nat) (p : Path) : (s.setPath n p).tracks = s.tracks := rfl
@[simp] theorem State.rooms_setPath (s : State) (n : Nat) (p : Path) : (s.setPath n p).rooms = s.rooms := rfl
@[simp] theorem State.funcs_setPath (s : State) (n : Nat) (p : Path) : (s.setPath n p).funcs = s.funcs := rfl
@[simp] theorem State.parts_setPath (s : State) (n : Nat) (p : Path) : (s.setPath n p).parts = s.parts := rfl
@[simp] theorem State.held_setPath (s : State) (n : Nat) (p : Path) : (s.setPath n p).held = s.held := rfl
@[simp] theorem State.mig_setPath (s : State) (n : Nat) (p : Path) : (s.setPath n p).mig = s.mig := rfl
@[simp] theorem State.arbs_setPath (s : State) (n : Nat) (p : Path) : (s.setPath n p).arbs = s.arbs := rfl
@[simp] theorem State.flights_setPath (s : State) (n : Nat) (p : Path) : (s.setPath n p).flights = s.flights := rfl
@[simp] theorem State.acct_setPath (s : State) (n : Nat) (p : Path) : (s.setPath n p).acct = s.acct := rfl
@[simp] theorem State.power_setPath (s : State) (n : Nat) (p : Path) : (s.setPath n p).power = s.power := rfl
@[simp] theorem State.boot_setPath (s : State) (n : Nat) (p : Path) : (s.setPath n p).boot = s.boot := rfl
@[simp] theorem State.mailbox_setPath (s : State) (n : Nat) (p : Path) : (s.setPath n p).mailbox = s.mailbox := rfl
@[simp] theorem State.scrubs_setPath (s : State) (n : Nat) (p : Path) : (s.setPath n p).scrubs = s.scrubs := rfl
@[simp] theorem State.clock_setPath (s : State) (n : Nat) (p : Path) : (s.setPath n p).clock = s.clock := rfl
@[simp] theorem State.nextKey_setPath (s : State) (n : Nat) (p : Path) : (s.setPath n p).nextKey = s.nextKey := rfl
@[simp] theorem State.fresh_setPath (s : State) (n : Nat) (p : Path) : (s.setPath n p).fresh = s.fresh := rfl
@[simp] theorem State.struck_setPath (s : State) (n : Nat) (p : Path) : (s.setPath n p).struck = s.struck := rfl
@[simp] theorem State.agenda_setPath (s : State) (n : Nat) (p : Path) : (s.setPath n p).agenda = s.agenda := rfl
@[simp] theorem State.part_setPath (s : State) (n : Nat) (p : Path) (m : Nat) : (s.setPath n p).part m = s.part m := rfl
@[simp] theorem State.func_setPath (s : State) (n : Nat) (p : Path) (m : Nat) : (s.setPath n p).func m = s.func m := rfl
@[simp] theorem State.core_setPath (s : State) (n : Nat) (p : Path) (m : Nat) : (s.setPath n p).core m = s.core m := rfl
@[simp] theorem State.loom_setPath (s : State) (n : Nat) (p : Path) (m : Nat) : (s.setPath n p).loom m = s.loom m := rfl
@[simp] theorem State.counter_setPath (s : State) (n : Nat) (p : Path) (m : Nat) : (s.setPath n p).counter m = s.counter m := rfl
@[simp] theorem State.scrub_setPath (s : State) (n : Nat) (p : Path) (m : Nat) : (s.setPath n p).scrub m = s.scrub m := rfl

/-! ### setZone -/

@[simp] theorem State.cur_setZone (s : State) (z : Zone) : (s.setZone z).cur = s.cur := rfl
@[simp] theorem State.others_setZone (s : State) (z : Zone) : (s.setZone z).others = s.others := rfl
@[simp] theorem State.away_setZone (s : State) (z : Zone) : (s.setZone z).away = s.away := rfl
@[simp] theorem State.mem_setZone (s : State) (z : Zone) : (s.setZone z).mem = s.mem := rfl
@[simp] theorem State.poisoned_setZone (s : State) (z : Zone) : (s.setZone z).poisoned = s.poisoned := rfl
@[simp] theorem State.stores_setZone (s : State) (z : Zone) : (s.setZone z).stores = s.stores := rfl
@[simp] theorem State.now_setZone (s : State) (z : Zone) : (s.setZone z).now = s.now := rfl
@[simp] theorem State.ctrAt_setZone (s : State) (z : Zone) : (s.setZone z).ctrAt = s.ctrAt := rfl
@[simp] theorem State.counters_setZone (s : State) (z : Zone) : (s.setZone z).counters = s.counters := rfl
@[simp] theorem State.cores_setZone (s : State) (z : Zone) : (s.setZone z).cores = s.cores := rfl
@[simp] theorem State.looms_setZone (s : State) (z : Zone) : (s.setZone z).looms = s.looms := rfl
@[simp] theorem State.cmds_setZone (s : State) (z : Zone) : (s.setZone z).cmds = s.cmds := rfl
@[simp] theorem State.treadles_setZone (s : State) (z : Zone) : (s.setZone z).treadles = s.treadles := rfl
@[simp] theorem State.tracks_setZone (s : State) (z : Zone) : (s.setZone z).tracks = s.tracks := rfl
@[simp] theorem State.rooms_setZone (s : State) (z : Zone) : (s.setZone z).rooms = s.rooms := rfl
@[simp] theorem State.funcs_setZone (s : State) (z : Zone) : (s.setZone z).funcs = s.funcs := rfl
@[simp] theorem State.parts_setZone (s : State) (z : Zone) : (s.setZone z).parts = s.parts := rfl
@[simp] theorem State.held_setZone (s : State) (z : Zone) : (s.setZone z).held = s.held := rfl
@[simp] theorem State.mig_setZone (s : State) (z : Zone) : (s.setZone z).mig = s.mig := rfl
@[simp] theorem State.arbs_setZone (s : State) (z : Zone) : (s.setZone z).arbs = s.arbs := rfl
@[simp] theorem State.flights_setZone (s : State) (z : Zone) : (s.setZone z).flights = s.flights := rfl
@[simp] theorem State.acct_setZone (s : State) (z : Zone) : (s.setZone z).acct = s.acct := rfl
@[simp] theorem State.fabric_setZone (s : State) (z : Zone) : (s.setZone z).fabric = s.fabric := rfl
@[simp] theorem State.power_setZone (s : State) (z : Zone) : (s.setZone z).power = s.power := rfl
@[simp] theorem State.boot_setZone (s : State) (z : Zone) : (s.setZone z).boot = s.boot := rfl
@[simp] theorem State.mailbox_setZone (s : State) (z : Zone) : (s.setZone z).mailbox = s.mailbox := rfl
@[simp] theorem State.scrubs_setZone (s : State) (z : Zone) : (s.setZone z).scrubs = s.scrubs := rfl
@[simp] theorem State.clock_setZone (s : State) (z : Zone) : (s.setZone z).clock = s.clock := rfl
@[simp] theorem State.nextKey_setZone (s : State) (z : Zone) : (s.setZone z).nextKey = s.nextKey := rfl
@[simp] theorem State.fresh_setZone (s : State) (z : Zone) : (s.setZone z).fresh = s.fresh := rfl
@[simp] theorem State.struck_setZone (s : State) (z : Zone) : (s.setZone z).struck = s.struck := rfl
@[simp] theorem State.agenda_setZone (s : State) (z : Zone) : (s.setZone z).agenda = s.agenda := rfl
@[simp] theorem State.part_setZone (s : State) (z : Zone) (m : Nat) : (s.setZone z).part m = s.part m := rfl
@[simp] theorem State.func_setZone (s : State) (z : Zone) (m : Nat) : (s.setZone z).func m = s.func m := rfl
@[simp] theorem State.core_setZone (s : State) (z : Zone) (m : Nat) : (s.setZone z).core m = s.core m := rfl
@[simp] theorem State.loom_setZone (s : State) (z : Zone) (m : Nat) : (s.setZone z).loom m = s.loom m := rfl
@[simp] theorem State.path_setZone (s : State) (z : Zone) (m : Nat) : (s.setZone z).path m = s.path m := rfl
@[simp] theorem State.counter_setZone (s : State) (z : Zone) (m : Nat) : (s.setZone z).counter m = s.counter m := rfl
@[simp] theorem State.scrub_setZone (s : State) (z : Zone) (m : Nat) : (s.setZone z).scrub m = s.scrub m := rfl

/-! ### poke -/

@[simp] theorem State.cur_poke (s : State) (k n v : Nat) (b : Bool) : (s.poke k n v b).cur = s.cur := rfl
@[simp] theorem State.others_poke (s : State) (k n v : Nat) (b : Bool) : (s.poke k n v b).others = s.others := rfl
@[simp] theorem State.away_poke (s : State) (k n v : Nat) (b : Bool) : (s.poke k n v b).away = s.away := rfl
@[simp] theorem State.stores_poke (s : State) (k n v : Nat) (b : Bool) : (s.poke k n v b).stores = s.stores := rfl
@[simp] theorem State.now_poke (s : State) (k n v : Nat) (b : Bool) : (s.poke k n v b).now = s.now := rfl
@[simp] theorem State.ctrAt_poke (s : State) (k n v : Nat) (b : Bool) : (s.poke k n v b).ctrAt = s.ctrAt := rfl
@[simp] theorem State.counters_poke (s : State) (k n v : Nat) (b : Bool) : (s.poke k n v b).counters = s.counters := rfl
@[simp] theorem State.cores_poke (s : State) (k n v : Nat) (b : Bool) : (s.poke k n v b).cores = s.cores := rfl
@[simp] theorem State.looms_poke (s : State) (k n v : Nat) (b : Bool) : (s.poke k n v b).looms = s.looms := rfl
@[simp] theorem State.cmds_poke (s : State) (k n v : Nat) (b : Bool) : (s.poke k n v b).cmds = s.cmds := rfl
@[simp] theorem State.zones_poke (s : State) (k n v : Nat) (b : Bool) : (s.poke k n v b).zones = s.zones := rfl
@[simp] theorem State.treadles_poke (s : State) (k n v : Nat) (b : Bool) : (s.poke k n v b).treadles = s.treadles := rfl
@[simp] theorem State.tracks_poke (s : State) (k n v : Nat) (b : Bool) : (s.poke k n v b).tracks = s.tracks := rfl
@[simp] theorem State.rooms_poke (s : State) (k n v : Nat) (b : Bool) : (s.poke k n v b).rooms = s.rooms := rfl
@[simp] theorem State.funcs_poke (s : State) (k n v : Nat) (b : Bool) : (s.poke k n v b).funcs = s.funcs := rfl
@[simp] theorem State.parts_poke (s : State) (k n v : Nat) (b : Bool) : (s.poke k n v b).parts = s.parts := rfl
@[simp] theorem State.held_poke (s : State) (k n v : Nat) (b : Bool) : (s.poke k n v b).held = s.held := rfl
@[simp] theorem State.mig_poke (s : State) (k n v : Nat) (b : Bool) : (s.poke k n v b).mig = s.mig := rfl
@[simp] theorem State.arbs_poke (s : State) (k n v : Nat) (b : Bool) : (s.poke k n v b).arbs = s.arbs := rfl
@[simp] theorem State.flights_poke (s : State) (k n v : Nat) (b : Bool) : (s.poke k n v b).flights = s.flights := rfl
@[simp] theorem State.acct_poke (s : State) (k n v : Nat) (b : Bool) : (s.poke k n v b).acct = s.acct := rfl
@[simp] theorem State.fabric_poke (s : State) (k n v : Nat) (b : Bool) : (s.poke k n v b).fabric = s.fabric := rfl
@[simp] theorem State.power_poke (s : State) (k n v : Nat) (b : Bool) : (s.poke k n v b).power = s.power := rfl
@[simp] theorem State.boot_poke (s : State) (k n v : Nat) (b : Bool) : (s.poke k n v b).boot = s.boot := rfl
@[simp] theorem State.mailbox_poke (s : State) (k n v : Nat) (b : Bool) : (s.poke k n v b).mailbox = s.mailbox := rfl
@[simp] theorem State.scrubs_poke (s : State) (k n v : Nat) (b : Bool) : (s.poke k n v b).scrubs = s.scrubs := rfl
@[simp] theorem State.clock_poke (s : State) (k n v : Nat) (b : Bool) : (s.poke k n v b).clock = s.clock := rfl
@[simp] theorem State.nextKey_poke (s : State) (k n v : Nat) (b : Bool) : (s.poke k n v b).nextKey = s.nextKey := rfl
@[simp] theorem State.fresh_poke (s : State) (k n v : Nat) (b : Bool) : (s.poke k n v b).fresh = s.fresh := rfl
@[simp] theorem State.struck_poke (s : State) (k n v : Nat) (b : Bool) : (s.poke k n v b).struck = s.struck := rfl
@[simp] theorem State.agenda_poke (s : State) (k n v : Nat) (b : Bool) : (s.poke k n v b).agenda = s.agenda := rfl
@[simp] theorem State.part_poke (s : State) (k n v : Nat) (b : Bool) (m : Nat) : (s.poke k n v b).part m = s.part m := rfl
@[simp] theorem State.func_poke (s : State) (k n v : Nat) (b : Bool) (m : Nat) : (s.poke k n v b).func m = s.func m := rfl
@[simp] theorem State.core_poke (s : State) (k n v : Nat) (b : Bool) (m : Nat) : (s.poke k n v b).core m = s.core m := rfl
@[simp] theorem State.loom_poke (s : State) (k n v : Nat) (b : Bool) (m : Nat) : (s.poke k n v b).loom m = s.loom m := rfl
@[simp] theorem State.path_poke (s : State) (k n v : Nat) (b : Bool) (m : Nat) : (s.poke k n v b).path m = s.path m := rfl
@[simp] theorem State.counter_poke (s : State) (k n v : Nat) (b : Bool) (m : Nat) : (s.poke k n v b).counter m = s.counter m := rfl
@[simp] theorem State.scrub_poke (s : State) (k n v : Nat) (b : Bool) (m : Nat) : (s.poke k n v b).scrub m = s.scrub m := rfl

/-! ### settleBytes -/

@[simp] theorem State.cur_settleBytes (s : State) (k n : Nat) : (s.settleBytes k n).cur = s.cur := rfl
@[simp] theorem State.others_settleBytes (s : State) (k n : Nat) : (s.settleBytes k n).others = s.others := rfl
@[simp] theorem State.away_settleBytes (s : State) (k n : Nat) : (s.settleBytes k n).away = s.away := rfl
@[simp] theorem State.mem_settleBytes (s : State) (k n : Nat) : (s.settleBytes k n).mem = s.mem := rfl
@[simp] theorem State.poisoned_settleBytes (s : State) (k n : Nat) : (s.settleBytes k n).poisoned = s.poisoned := rfl
@[simp] theorem State.now_settleBytes (s : State) (k n : Nat) : (s.settleBytes k n).now = s.now := rfl
@[simp] theorem State.ctrAt_settleBytes (s : State) (k n : Nat) : (s.settleBytes k n).ctrAt = s.ctrAt := rfl
@[simp] theorem State.counters_settleBytes (s : State) (k n : Nat) : (s.settleBytes k n).counters = s.counters := rfl
@[simp] theorem State.cores_settleBytes (s : State) (k n : Nat) : (s.settleBytes k n).cores = s.cores := rfl
@[simp] theorem State.looms_settleBytes (s : State) (k n : Nat) : (s.settleBytes k n).looms = s.looms := rfl
@[simp] theorem State.cmds_settleBytes (s : State) (k n : Nat) : (s.settleBytes k n).cmds = s.cmds := rfl
@[simp] theorem State.zones_settleBytes (s : State) (k n : Nat) : (s.settleBytes k n).zones = s.zones := rfl
@[simp] theorem State.treadles_settleBytes (s : State) (k n : Nat) : (s.settleBytes k n).treadles = s.treadles := rfl
@[simp] theorem State.tracks_settleBytes (s : State) (k n : Nat) : (s.settleBytes k n).tracks = s.tracks := rfl
@[simp] theorem State.rooms_settleBytes (s : State) (k n : Nat) : (s.settleBytes k n).rooms = s.rooms := rfl
@[simp] theorem State.funcs_settleBytes (s : State) (k n : Nat) : (s.settleBytes k n).funcs = s.funcs := rfl
@[simp] theorem State.parts_settleBytes (s : State) (k n : Nat) : (s.settleBytes k n).parts = s.parts := rfl
@[simp] theorem State.held_settleBytes (s : State) (k n : Nat) : (s.settleBytes k n).held = s.held := rfl
@[simp] theorem State.mig_settleBytes (s : State) (k n : Nat) : (s.settleBytes k n).mig = s.mig := rfl
@[simp] theorem State.arbs_settleBytes (s : State) (k n : Nat) : (s.settleBytes k n).arbs = s.arbs := rfl
@[simp] theorem State.flights_settleBytes (s : State) (k n : Nat) : (s.settleBytes k n).flights = s.flights := rfl
@[simp] theorem State.acct_settleBytes (s : State) (k n : Nat) : (s.settleBytes k n).acct = s.acct := rfl
@[simp] theorem State.fabric_settleBytes (s : State) (k n : Nat) : (s.settleBytes k n).fabric = s.fabric := rfl
@[simp] theorem State.power_settleBytes (s : State) (k n : Nat) : (s.settleBytes k n).power = s.power := rfl
@[simp] theorem State.boot_settleBytes (s : State) (k n : Nat) : (s.settleBytes k n).boot = s.boot := rfl
@[simp] theorem State.mailbox_settleBytes (s : State) (k n : Nat) : (s.settleBytes k n).mailbox = s.mailbox := rfl
@[simp] theorem State.scrubs_settleBytes (s : State) (k n : Nat) : (s.settleBytes k n).scrubs = s.scrubs := rfl
@[simp] theorem State.clock_settleBytes (s : State) (k n : Nat) : (s.settleBytes k n).clock = s.clock := rfl
@[simp] theorem State.nextKey_settleBytes (s : State) (k n : Nat) : (s.settleBytes k n).nextKey = s.nextKey := rfl
@[simp] theorem State.fresh_settleBytes (s : State) (k n : Nat) : (s.settleBytes k n).fresh = s.fresh := rfl
@[simp] theorem State.struck_settleBytes (s : State) (k n : Nat) : (s.settleBytes k n).struck = s.struck := rfl
@[simp] theorem State.agenda_settleBytes (s : State) (k n : Nat) : (s.settleBytes k n).agenda = s.agenda := rfl
@[simp] theorem State.part_settleBytes (s : State) (k n : Nat) (m : Nat) : (s.settleBytes k n).part m = s.part m := rfl
@[simp] theorem State.func_settleBytes (s : State) (k n : Nat) (m : Nat) : (s.settleBytes k n).func m = s.func m := rfl
@[simp] theorem State.core_settleBytes (s : State) (k n : Nat) (m : Nat) : (s.settleBytes k n).core m = s.core m := rfl
@[simp] theorem State.loom_settleBytes (s : State) (k n : Nat) (m : Nat) : (s.settleBytes k n).loom m = s.loom m := rfl
@[simp] theorem State.path_settleBytes (s : State) (k n : Nat) (m : Nat) : (s.settleBytes k n).path m = s.path m := rfl
@[simp] theorem State.counter_settleBytes (s : State) (k n : Nat) (m : Nat) : (s.settleBytes k n).counter m = s.counter m := rfl
@[simp] theorem State.scrub_settleBytes (s : State) (k n : Nat) (m : Nat) : (s.settleBytes k n).scrub m = s.scrub m := rfl

/-! ### store -/

@[simp] theorem State.cur_store (s : State) (k n v : Nat) (b : Bool) : (s.store k n v b).cur = s.cur := rfl
@[simp] theorem State.others_store (s : State) (k n v : Nat) (b : Bool) : (s.store k n v b).others = s.others := rfl
@[simp] theorem State.away_store (s : State) (k n v : Nat) (b : Bool) : (s.store k n v b).away = s.away := rfl
@[simp] theorem State.now_store (s : State) (k n v : Nat) (b : Bool) : (s.store k n v b).now = s.now := rfl
@[simp] theorem State.ctrAt_store (s : State) (k n v : Nat) (b : Bool) : (s.store k n v b).ctrAt = s.ctrAt := rfl
@[simp] theorem State.counters_store (s : State) (k n v : Nat) (b : Bool) : (s.store k n v b).counters = s.counters := rfl
@[simp] theorem State.cores_store (s : State) (k n v : Nat) (b : Bool) : (s.store k n v b).cores = s.cores := rfl
@[simp] theorem State.looms_store (s : State) (k n v : Nat) (b : Bool) : (s.store k n v b).looms = s.looms := rfl
@[simp] theorem State.cmds_store (s : State) (k n v : Nat) (b : Bool) : (s.store k n v b).cmds = s.cmds := rfl
@[simp] theorem State.zones_store (s : State) (k n v : Nat) (b : Bool) : (s.store k n v b).zones = s.zones := rfl
@[simp] theorem State.treadles_store (s : State) (k n v : Nat) (b : Bool) : (s.store k n v b).treadles = s.treadles := rfl
@[simp] theorem State.tracks_store (s : State) (k n v : Nat) (b : Bool) : (s.store k n v b).tracks = s.tracks := rfl
@[simp] theorem State.rooms_store (s : State) (k n v : Nat) (b : Bool) : (s.store k n v b).rooms = s.rooms := rfl
@[simp] theorem State.funcs_store (s : State) (k n v : Nat) (b : Bool) : (s.store k n v b).funcs = s.funcs := rfl
@[simp] theorem State.parts_store (s : State) (k n v : Nat) (b : Bool) : (s.store k n v b).parts = s.parts := rfl
@[simp] theorem State.held_store (s : State) (k n v : Nat) (b : Bool) : (s.store k n v b).held = s.held := rfl
@[simp] theorem State.mig_store (s : State) (k n v : Nat) (b : Bool) : (s.store k n v b).mig = s.mig := rfl
@[simp] theorem State.arbs_store (s : State) (k n v : Nat) (b : Bool) : (s.store k n v b).arbs = s.arbs := rfl
@[simp] theorem State.flights_store (s : State) (k n v : Nat) (b : Bool) : (s.store k n v b).flights = s.flights := rfl
@[simp] theorem State.acct_store (s : State) (k n v : Nat) (b : Bool) : (s.store k n v b).acct = s.acct := rfl
@[simp] theorem State.fabric_store (s : State) (k n v : Nat) (b : Bool) : (s.store k n v b).fabric = s.fabric := rfl
@[simp] theorem State.power_store (s : State) (k n v : Nat) (b : Bool) : (s.store k n v b).power = s.power := rfl
@[simp] theorem State.boot_store (s : State) (k n v : Nat) (b : Bool) : (s.store k n v b).boot = s.boot := rfl
@[simp] theorem State.mailbox_store (s : State) (k n v : Nat) (b : Bool) : (s.store k n v b).mailbox = s.mailbox := rfl
@[simp] theorem State.scrubs_store (s : State) (k n v : Nat) (b : Bool) : (s.store k n v b).scrubs = s.scrubs := rfl
@[simp] theorem State.clock_store (s : State) (k n v : Nat) (b : Bool) : (s.store k n v b).clock = s.clock := rfl
@[simp] theorem State.nextKey_store (s : State) (k n v : Nat) (b : Bool) : (s.store k n v b).nextKey = s.nextKey := rfl
@[simp] theorem State.fresh_store (s : State) (k n v : Nat) (b : Bool) : (s.store k n v b).fresh = s.fresh := rfl
@[simp] theorem State.struck_store (s : State) (k n v : Nat) (b : Bool) : (s.store k n v b).struck = s.struck := rfl
@[simp] theorem State.agenda_store (s : State) (k n v : Nat) (b : Bool) : (s.store k n v b).agenda = s.agenda := rfl
@[simp] theorem State.part_store (s : State) (k n v : Nat) (b : Bool) (m : Nat) : (s.store k n v b).part m = s.part m := rfl
@[simp] theorem State.func_store (s : State) (k n v : Nat) (b : Bool) (m : Nat) : (s.store k n v b).func m = s.func m := rfl
@[simp] theorem State.core_store (s : State) (k n v : Nat) (b : Bool) (m : Nat) : (s.store k n v b).core m = s.core m := rfl
@[simp] theorem State.loom_store (s : State) (k n v : Nat) (b : Bool) (m : Nat) : (s.store k n v b).loom m = s.loom m := rfl
@[simp] theorem State.path_store (s : State) (k n v : Nat) (b : Bool) (m : Nat) : (s.store k n v b).path m = s.path m := rfl
@[simp] theorem State.counter_store (s : State) (k n v : Nat) (b : Bool) (m : Nat) : (s.store k n v b).counter m = s.counter m := rfl
@[simp] theorem State.scrub_store (s : State) (k n v : Nat) (b : Bool) (m : Nat) : (s.store k n v b).scrub m = s.scrub m := rfl

/-! ### storeMasked -/

@[simp] theorem State.cur_storeMasked (s : State) (k n v pm : Nat) : (s.storeMasked k n v pm).cur = s.cur := rfl
@[simp] theorem State.others_storeMasked (s : State) (k n v pm : Nat) : (s.storeMasked k n v pm).others = s.others := rfl
@[simp] theorem State.away_storeMasked (s : State) (k n v pm : Nat) : (s.storeMasked k n v pm).away = s.away := rfl
@[simp] theorem State.now_storeMasked (s : State) (k n v pm : Nat) : (s.storeMasked k n v pm).now = s.now := rfl
@[simp] theorem State.ctrAt_storeMasked (s : State) (k n v pm : Nat) : (s.storeMasked k n v pm).ctrAt = s.ctrAt := rfl
@[simp] theorem State.counters_storeMasked (s : State) (k n v pm : Nat) : (s.storeMasked k n v pm).counters = s.counters := rfl
@[simp] theorem State.cores_storeMasked (s : State) (k n v pm : Nat) : (s.storeMasked k n v pm).cores = s.cores := rfl
@[simp] theorem State.looms_storeMasked (s : State) (k n v pm : Nat) : (s.storeMasked k n v pm).looms = s.looms := rfl
@[simp] theorem State.cmds_storeMasked (s : State) (k n v pm : Nat) : (s.storeMasked k n v pm).cmds = s.cmds := rfl
@[simp] theorem State.zones_storeMasked (s : State) (k n v pm : Nat) : (s.storeMasked k n v pm).zones = s.zones := rfl
@[simp] theorem State.treadles_storeMasked (s : State) (k n v pm : Nat) : (s.storeMasked k n v pm).treadles = s.treadles := rfl
@[simp] theorem State.tracks_storeMasked (s : State) (k n v pm : Nat) : (s.storeMasked k n v pm).tracks = s.tracks := rfl
@[simp] theorem State.rooms_storeMasked (s : State) (k n v pm : Nat) : (s.storeMasked k n v pm).rooms = s.rooms := rfl
@[simp] theorem State.funcs_storeMasked (s : State) (k n v pm : Nat) : (s.storeMasked k n v pm).funcs = s.funcs := rfl
@[simp] theorem State.parts_storeMasked (s : State) (k n v pm : Nat) : (s.storeMasked k n v pm).parts = s.parts := rfl
@[simp] theorem State.held_storeMasked (s : State) (k n v pm : Nat) : (s.storeMasked k n v pm).held = s.held := rfl
@[simp] theorem State.mig_storeMasked (s : State) (k n v pm : Nat) : (s.storeMasked k n v pm).mig = s.mig := rfl
@[simp] theorem State.arbs_storeMasked (s : State) (k n v pm : Nat) : (s.storeMasked k n v pm).arbs = s.arbs := rfl
@[simp] theorem State.flights_storeMasked (s : State) (k n v pm : Nat) : (s.storeMasked k n v pm).flights = s.flights := rfl
@[simp] theorem State.acct_storeMasked (s : State) (k n v pm : Nat) : (s.storeMasked k n v pm).acct = s.acct := rfl
@[simp] theorem State.fabric_storeMasked (s : State) (k n v pm : Nat) : (s.storeMasked k n v pm).fabric = s.fabric := rfl
@[simp] theorem State.power_storeMasked (s : State) (k n v pm : Nat) : (s.storeMasked k n v pm).power = s.power := rfl
@[simp] theorem State.boot_storeMasked (s : State) (k n v pm : Nat) : (s.storeMasked k n v pm).boot = s.boot := rfl
@[simp] theorem State.mailbox_storeMasked (s : State) (k n v pm : Nat) : (s.storeMasked k n v pm).mailbox = s.mailbox := rfl
@[simp] theorem State.scrubs_storeMasked (s : State) (k n v pm : Nat) : (s.storeMasked k n v pm).scrubs = s.scrubs := rfl
@[simp] theorem State.clock_storeMasked (s : State) (k n v pm : Nat) : (s.storeMasked k n v pm).clock = s.clock := rfl
@[simp] theorem State.nextKey_storeMasked (s : State) (k n v pm : Nat) : (s.storeMasked k n v pm).nextKey = s.nextKey := rfl
@[simp] theorem State.fresh_storeMasked (s : State) (k n v pm : Nat) : (s.storeMasked k n v pm).fresh = s.fresh := rfl
@[simp] theorem State.struck_storeMasked (s : State) (k n v pm : Nat) : (s.storeMasked k n v pm).struck = s.struck := rfl
@[simp] theorem State.agenda_storeMasked (s : State) (k n v pm : Nat) : (s.storeMasked k n v pm).agenda = s.agenda := rfl
@[simp] theorem State.part_storeMasked (s : State) (k n v pm : Nat) (m : Nat) : (s.storeMasked k n v pm).part m = s.part m := rfl
@[simp] theorem State.func_storeMasked (s : State) (k n v pm : Nat) (m : Nat) : (s.storeMasked k n v pm).func m = s.func m := rfl
@[simp] theorem State.core_storeMasked (s : State) (k n v pm : Nat) (m : Nat) : (s.storeMasked k n v pm).core m = s.core m := rfl
@[simp] theorem State.loom_storeMasked (s : State) (k n v pm : Nat) (m : Nat) : (s.storeMasked k n v pm).loom m = s.loom m := rfl
@[simp] theorem State.path_storeMasked (s : State) (k n v pm : Nat) (m : Nat) : (s.storeMasked k n v pm).path m = s.path m := rfl
@[simp] theorem State.counter_storeMasked (s : State) (k n v pm : Nat) (m : Nat) : (s.storeMasked k n v pm).counter m = s.counter m := rfl
@[simp] theorem State.scrub_storeMasked (s : State) (k n v pm : Nat) (m : Nat) : (s.storeMasked k n v pm).scrub m = s.scrub m := rfl

/-! ### stamp -/

@[simp] theorem State.cur_stamp (s : State) (i : Nat) : (s.stamp i).cur = s.cur := rfl
@[simp] theorem State.others_stamp (s : State) (i : Nat) : (s.stamp i).others = s.others := rfl
@[simp] theorem State.away_stamp (s : State) (i : Nat) : (s.stamp i).away = s.away := rfl
@[simp] theorem State.mem_stamp (s : State) (i : Nat) : (s.stamp i).mem = s.mem := rfl
@[simp] theorem State.poisoned_stamp (s : State) (i : Nat) : (s.stamp i).poisoned = s.poisoned := rfl
@[simp] theorem State.stores_stamp (s : State) (i : Nat) : (s.stamp i).stores = s.stores := rfl
@[simp] theorem State.counters_stamp (s : State) (i : Nat) : (s.stamp i).counters = s.counters := rfl
@[simp] theorem State.cores_stamp (s : State) (i : Nat) : (s.stamp i).cores = s.cores := rfl
@[simp] theorem State.looms_stamp (s : State) (i : Nat) : (s.stamp i).looms = s.looms := rfl
@[simp] theorem State.cmds_stamp (s : State) (i : Nat) : (s.stamp i).cmds = s.cmds := rfl
@[simp] theorem State.zones_stamp (s : State) (i : Nat) : (s.stamp i).zones = s.zones := rfl
@[simp] theorem State.treadles_stamp (s : State) (i : Nat) : (s.stamp i).treadles = s.treadles := rfl
@[simp] theorem State.tracks_stamp (s : State) (i : Nat) : (s.stamp i).tracks = s.tracks := rfl
@[simp] theorem State.rooms_stamp (s : State) (i : Nat) : (s.stamp i).rooms = s.rooms := rfl
@[simp] theorem State.funcs_stamp (s : State) (i : Nat) : (s.stamp i).funcs = s.funcs := rfl
@[simp] theorem State.parts_stamp (s : State) (i : Nat) : (s.stamp i).parts = s.parts := rfl
@[simp] theorem State.held_stamp (s : State) (i : Nat) : (s.stamp i).held = s.held := rfl
@[simp] theorem State.mig_stamp (s : State) (i : Nat) : (s.stamp i).mig = s.mig := rfl
@[simp] theorem State.arbs_stamp (s : State) (i : Nat) : (s.stamp i).arbs = s.arbs := rfl
@[simp] theorem State.flights_stamp (s : State) (i : Nat) : (s.stamp i).flights = s.flights := rfl
@[simp] theorem State.acct_stamp (s : State) (i : Nat) : (s.stamp i).acct = s.acct := rfl
@[simp] theorem State.fabric_stamp (s : State) (i : Nat) : (s.stamp i).fabric = s.fabric := rfl
@[simp] theorem State.power_stamp (s : State) (i : Nat) : (s.stamp i).power = s.power := rfl
@[simp] theorem State.boot_stamp (s : State) (i : Nat) : (s.stamp i).boot = s.boot := rfl
@[simp] theorem State.mailbox_stamp (s : State) (i : Nat) : (s.stamp i).mailbox = s.mailbox := rfl
@[simp] theorem State.scrubs_stamp (s : State) (i : Nat) : (s.stamp i).scrubs = s.scrubs := rfl
@[simp] theorem State.clock_stamp (s : State) (i : Nat) : (s.stamp i).clock = s.clock := rfl
@[simp] theorem State.nextKey_stamp (s : State) (i : Nat) : (s.stamp i).nextKey = s.nextKey := rfl
@[simp] theorem State.fresh_stamp (s : State) (i : Nat) : (s.stamp i).fresh = s.fresh := rfl
@[simp] theorem State.struck_stamp (s : State) (i : Nat) : (s.stamp i).struck = s.struck := rfl
@[simp] theorem State.agenda_stamp (s : State) (i : Nat) : (s.stamp i).agenda = s.agenda := rfl
@[simp] theorem State.part_stamp (s : State) (i : Nat) (m : Nat) : (s.stamp i).part m = s.part m := rfl
@[simp] theorem State.func_stamp (s : State) (i : Nat) (m : Nat) : (s.stamp i).func m = s.func m := rfl
@[simp] theorem State.core_stamp (s : State) (i : Nat) (m : Nat) : (s.stamp i).core m = s.core m := rfl
@[simp] theorem State.loom_stamp (s : State) (i : Nat) (m : Nat) : (s.stamp i).loom m = s.loom m := rfl
@[simp] theorem State.path_stamp (s : State) (i : Nat) (m : Nat) : (s.stamp i).path m = s.path m := rfl
@[simp] theorem State.counter_stamp (s : State) (i : Nat) (m : Nat) : (s.stamp i).counter m = s.counter m := rfl
@[simp] theorem State.scrub_stamp (s : State) (i : Nat) (m : Nat) : (s.stamp i).scrub m = s.scrub m := rfl

/-! ### putCounter -/

@[simp] theorem State.cur_putCounter (s : State) (i : Nat) (v : Word) : (s.putCounter i v).cur = s.cur := rfl
@[simp] theorem State.others_putCounter (s : State) (i : Nat) (v : Word) : (s.putCounter i v).others = s.others := rfl
@[simp] theorem State.away_putCounter (s : State) (i : Nat) (v : Word) : (s.putCounter i v).away = s.away := rfl
@[simp] theorem State.mem_putCounter (s : State) (i : Nat) (v : Word) : (s.putCounter i v).mem = s.mem := rfl
@[simp] theorem State.poisoned_putCounter (s : State) (i : Nat) (v : Word) : (s.putCounter i v).poisoned = s.poisoned := rfl
@[simp] theorem State.stores_putCounter (s : State) (i : Nat) (v : Word) : (s.putCounter i v).stores = s.stores := rfl
@[simp] theorem State.now_putCounter (s : State) (i : Nat) (v : Word) : (s.putCounter i v).now = s.now := rfl
@[simp] theorem State.ctrAt_putCounter (s : State) (i : Nat) (v : Word) : (s.putCounter i v).ctrAt = s.ctrAt := rfl
@[simp] theorem State.cores_putCounter (s : State) (i : Nat) (v : Word) : (s.putCounter i v).cores = s.cores := rfl
@[simp] theorem State.looms_putCounter (s : State) (i : Nat) (v : Word) : (s.putCounter i v).looms = s.looms := rfl
@[simp] theorem State.cmds_putCounter (s : State) (i : Nat) (v : Word) : (s.putCounter i v).cmds = s.cmds := rfl
@[simp] theorem State.zones_putCounter (s : State) (i : Nat) (v : Word) : (s.putCounter i v).zones = s.zones := rfl
@[simp] theorem State.treadles_putCounter (s : State) (i : Nat) (v : Word) : (s.putCounter i v).treadles = s.treadles := rfl
@[simp] theorem State.tracks_putCounter (s : State) (i : Nat) (v : Word) : (s.putCounter i v).tracks = s.tracks := rfl
@[simp] theorem State.rooms_putCounter (s : State) (i : Nat) (v : Word) : (s.putCounter i v).rooms = s.rooms := rfl
@[simp] theorem State.funcs_putCounter (s : State) (i : Nat) (v : Word) : (s.putCounter i v).funcs = s.funcs := rfl
@[simp] theorem State.parts_putCounter (s : State) (i : Nat) (v : Word) : (s.putCounter i v).parts = s.parts := rfl
@[simp] theorem State.held_putCounter (s : State) (i : Nat) (v : Word) : (s.putCounter i v).held = s.held := rfl
@[simp] theorem State.mig_putCounter (s : State) (i : Nat) (v : Word) : (s.putCounter i v).mig = s.mig := rfl
@[simp] theorem State.arbs_putCounter (s : State) (i : Nat) (v : Word) : (s.putCounter i v).arbs = s.arbs := rfl
@[simp] theorem State.flights_putCounter (s : State) (i : Nat) (v : Word) : (s.putCounter i v).flights = s.flights := rfl
@[simp] theorem State.acct_putCounter (s : State) (i : Nat) (v : Word) : (s.putCounter i v).acct = s.acct := rfl
@[simp] theorem State.fabric_putCounter (s : State) (i : Nat) (v : Word) : (s.putCounter i v).fabric = s.fabric := rfl
@[simp] theorem State.power_putCounter (s : State) (i : Nat) (v : Word) : (s.putCounter i v).power = s.power := rfl
@[simp] theorem State.boot_putCounter (s : State) (i : Nat) (v : Word) : (s.putCounter i v).boot = s.boot := rfl
@[simp] theorem State.mailbox_putCounter (s : State) (i : Nat) (v : Word) : (s.putCounter i v).mailbox = s.mailbox := rfl
@[simp] theorem State.scrubs_putCounter (s : State) (i : Nat) (v : Word) : (s.putCounter i v).scrubs = s.scrubs := rfl
@[simp] theorem State.clock_putCounter (s : State) (i : Nat) (v : Word) : (s.putCounter i v).clock = s.clock := rfl
@[simp] theorem State.nextKey_putCounter (s : State) (i : Nat) (v : Word) : (s.putCounter i v).nextKey = s.nextKey := rfl
@[simp] theorem State.fresh_putCounter (s : State) (i : Nat) (v : Word) : (s.putCounter i v).fresh = s.fresh := rfl
@[simp] theorem State.struck_putCounter (s : State) (i : Nat) (v : Word) : (s.putCounter i v).struck = s.struck := rfl
@[simp] theorem State.agenda_putCounter (s : State) (i : Nat) (v : Word) : (s.putCounter i v).agenda = s.agenda := rfl
@[simp] theorem State.part_putCounter (s : State) (i : Nat) (v : Word) (m : Nat) : (s.putCounter i v).part m = s.part m := rfl
@[simp] theorem State.func_putCounter (s : State) (i : Nat) (v : Word) (m : Nat) : (s.putCounter i v).func m = s.func m := rfl
@[simp] theorem State.core_putCounter (s : State) (i : Nat) (v : Word) (m : Nat) : (s.putCounter i v).core m = s.core m := rfl
@[simp] theorem State.loom_putCounter (s : State) (i : Nat) (v : Word) (m : Nat) : (s.putCounter i v).loom m = s.loom m := rfl
@[simp] theorem State.path_putCounter (s : State) (i : Nat) (v : Word) (m : Nat) : (s.putCounter i v).path m = s.path m := rfl
@[simp] theorem State.scrub_putCounter (s : State) (i : Nat) (v : Word) (m : Nat) : (s.putCounter i v).scrub m = s.scrub m := rfl

/-! ### advance -/

@[simp] theorem State.others_advance (s : State) (n : Nat) : (s.advance n).others = s.others := rfl
@[simp] theorem State.away_advance (s : State) (n : Nat) : (s.advance n).away = s.away := rfl
@[simp] theorem State.mem_advance (s : State) (n : Nat) : (s.advance n).mem = s.mem := rfl
@[simp] theorem State.poisoned_advance (s : State) (n : Nat) : (s.advance n).poisoned = s.poisoned := rfl
@[simp] theorem State.stores_advance (s : State) (n : Nat) : (s.advance n).stores = s.stores := rfl
@[simp] theorem State.now_advance (s : State) (n : Nat) : (s.advance n).now = s.now := rfl
@[simp] theorem State.ctrAt_advance (s : State) (n : Nat) : (s.advance n).ctrAt = s.ctrAt := rfl
@[simp] theorem State.counters_advance (s : State) (n : Nat) : (s.advance n).counters = s.counters := rfl
@[simp] theorem State.cores_advance (s : State) (n : Nat) : (s.advance n).cores = s.cores := rfl
@[simp] theorem State.looms_advance (s : State) (n : Nat) : (s.advance n).looms = s.looms := rfl
@[simp] theorem State.cmds_advance (s : State) (n : Nat) : (s.advance n).cmds = s.cmds := rfl
@[simp] theorem State.zones_advance (s : State) (n : Nat) : (s.advance n).zones = s.zones := rfl
@[simp] theorem State.treadles_advance (s : State) (n : Nat) : (s.advance n).treadles = s.treadles := rfl
@[simp] theorem State.tracks_advance (s : State) (n : Nat) : (s.advance n).tracks = s.tracks := rfl
@[simp] theorem State.rooms_advance (s : State) (n : Nat) : (s.advance n).rooms = s.rooms := rfl
@[simp] theorem State.funcs_advance (s : State) (n : Nat) : (s.advance n).funcs = s.funcs := rfl
@[simp] theorem State.parts_advance (s : State) (n : Nat) : (s.advance n).parts = s.parts := rfl
@[simp] theorem State.held_advance (s : State) (n : Nat) : (s.advance n).held = s.held := rfl
@[simp] theorem State.mig_advance (s : State) (n : Nat) : (s.advance n).mig = s.mig := rfl
@[simp] theorem State.arbs_advance (s : State) (n : Nat) : (s.advance n).arbs = s.arbs := rfl
@[simp] theorem State.flights_advance (s : State) (n : Nat) : (s.advance n).flights = s.flights := rfl
@[simp] theorem State.acct_advance (s : State) (n : Nat) : (s.advance n).acct = s.acct := rfl
@[simp] theorem State.fabric_advance (s : State) (n : Nat) : (s.advance n).fabric = s.fabric := rfl
@[simp] theorem State.power_advance (s : State) (n : Nat) : (s.advance n).power = s.power := rfl
@[simp] theorem State.boot_advance (s : State) (n : Nat) : (s.advance n).boot = s.boot := rfl
@[simp] theorem State.mailbox_advance (s : State) (n : Nat) : (s.advance n).mailbox = s.mailbox := rfl
@[simp] theorem State.scrubs_advance (s : State) (n : Nat) : (s.advance n).scrubs = s.scrubs := rfl
@[simp] theorem State.clock_advance (s : State) (n : Nat) : (s.advance n).clock = s.clock := rfl
@[simp] theorem State.nextKey_advance (s : State) (n : Nat) : (s.advance n).nextKey = s.nextKey := rfl
@[simp] theorem State.fresh_advance (s : State) (n : Nat) : (s.advance n).fresh = s.fresh := rfl
@[simp] theorem State.struck_advance (s : State) (n : Nat) : (s.advance n).struck = s.struck := rfl
@[simp] theorem State.agenda_advance (s : State) (n : Nat) : (s.advance n).agenda = s.agenda := rfl
@[simp] theorem State.part_advance (s : State) (n : Nat) (m : Nat) : (s.advance n).part m = s.part m := rfl
@[simp] theorem State.func_advance (s : State) (n : Nat) (m : Nat) : (s.advance n).func m = s.func m := rfl
@[simp] theorem State.core_advance (s : State) (n : Nat) (m : Nat) : (s.advance n).core m = s.core m := rfl
@[simp] theorem State.loom_advance (s : State) (n : Nat) (m : Nat) : (s.advance n).loom m = s.loom m := rfl
@[simp] theorem State.path_advance (s : State) (n : Nat) (m : Nat) : (s.advance n).path m = s.path m := rfl
@[simp] theorem State.counter_advance (s : State) (n : Nat) (m : Nat) : (s.advance n).counter m = s.counter m := rfl
@[simp] theorem State.scrub_advance (s : State) (n : Nat) (m : Nat) : (s.advance n).scrub m = s.scrub m := rfl

/-! ### spanned -/

@[simp] theorem State.others_spanned (s : State) (r w : Nat) : (s.spanned r w).others = s.others := rfl
@[simp] theorem State.away_spanned (s : State) (r w : Nat) : (s.spanned r w).away = s.away := rfl
@[simp] theorem State.mem_spanned (s : State) (r w : Nat) : (s.spanned r w).mem = s.mem := rfl
@[simp] theorem State.poisoned_spanned (s : State) (r w : Nat) : (s.spanned r w).poisoned = s.poisoned := rfl
@[simp] theorem State.stores_spanned (s : State) (r w : Nat) : (s.spanned r w).stores = s.stores := rfl
@[simp] theorem State.now_spanned (s : State) (r w : Nat) : (s.spanned r w).now = s.now := rfl
@[simp] theorem State.ctrAt_spanned (s : State) (r w : Nat) : (s.spanned r w).ctrAt = s.ctrAt := rfl
@[simp] theorem State.counters_spanned (s : State) (r w : Nat) : (s.spanned r w).counters = s.counters := rfl
@[simp] theorem State.cores_spanned (s : State) (r w : Nat) : (s.spanned r w).cores = s.cores := rfl
@[simp] theorem State.looms_spanned (s : State) (r w : Nat) : (s.spanned r w).looms = s.looms := rfl
@[simp] theorem State.cmds_spanned (s : State) (r w : Nat) : (s.spanned r w).cmds = s.cmds := rfl
@[simp] theorem State.zones_spanned (s : State) (r w : Nat) : (s.spanned r w).zones = s.zones := rfl
@[simp] theorem State.treadles_spanned (s : State) (r w : Nat) : (s.spanned r w).treadles = s.treadles := rfl
@[simp] theorem State.tracks_spanned (s : State) (r w : Nat) : (s.spanned r w).tracks = s.tracks := rfl
@[simp] theorem State.rooms_spanned (s : State) (r w : Nat) : (s.spanned r w).rooms = s.rooms := rfl
@[simp] theorem State.funcs_spanned (s : State) (r w : Nat) : (s.spanned r w).funcs = s.funcs := rfl
@[simp] theorem State.parts_spanned (s : State) (r w : Nat) : (s.spanned r w).parts = s.parts := rfl
@[simp] theorem State.held_spanned (s : State) (r w : Nat) : (s.spanned r w).held = s.held := rfl
@[simp] theorem State.mig_spanned (s : State) (r w : Nat) : (s.spanned r w).mig = s.mig := rfl
@[simp] theorem State.arbs_spanned (s : State) (r w : Nat) : (s.spanned r w).arbs = s.arbs := rfl
@[simp] theorem State.flights_spanned (s : State) (r w : Nat) : (s.spanned r w).flights = s.flights := rfl
@[simp] theorem State.acct_spanned (s : State) (r w : Nat) : (s.spanned r w).acct = s.acct := rfl
@[simp] theorem State.fabric_spanned (s : State) (r w : Nat) : (s.spanned r w).fabric = s.fabric := rfl
@[simp] theorem State.power_spanned (s : State) (r w : Nat) : (s.spanned r w).power = s.power := rfl
@[simp] theorem State.boot_spanned (s : State) (r w : Nat) : (s.spanned r w).boot = s.boot := rfl
@[simp] theorem State.mailbox_spanned (s : State) (r w : Nat) : (s.spanned r w).mailbox = s.mailbox := rfl
@[simp] theorem State.scrubs_spanned (s : State) (r w : Nat) : (s.spanned r w).scrubs = s.scrubs := rfl
@[simp] theorem State.clock_spanned (s : State) (r w : Nat) : (s.spanned r w).clock = s.clock := rfl
@[simp] theorem State.nextKey_spanned (s : State) (r w : Nat) : (s.spanned r w).nextKey = s.nextKey := rfl
@[simp] theorem State.fresh_spanned (s : State) (r w : Nat) : (s.spanned r w).fresh = s.fresh := rfl
@[simp] theorem State.struck_spanned (s : State) (r w : Nat) : (s.spanned r w).struck = s.struck := rfl
@[simp] theorem State.agenda_spanned (s : State) (r w : Nat) : (s.spanned r w).agenda = s.agenda := rfl
@[simp] theorem State.part_spanned (s : State) (r w : Nat) (m : Nat) : (s.spanned r w).part m = s.part m := rfl
@[simp] theorem State.func_spanned (s : State) (r w : Nat) (m : Nat) : (s.spanned r w).func m = s.func m := rfl
@[simp] theorem State.core_spanned (s : State) (r w : Nat) (m : Nat) : (s.spanned r w).core m = s.core m := rfl
@[simp] theorem State.loom_spanned (s : State) (r w : Nat) (m : Nat) : (s.spanned r w).loom m = s.loom m := rfl
@[simp] theorem State.path_spanned (s : State) (r w : Nat) (m : Nat) : (s.spanned r w).path m = s.path m := rfl
@[simp] theorem State.counter_spanned (s : State) (r w : Nat) (m : Nat) : (s.spanned r w).counter m = s.counter m := rfl
@[simp] theorem State.scrub_spanned (s : State) (r w : Nat) (m : Nat) : (s.spanned r w).scrub m = s.scrub m := rfl

/-! ### wr -/

@[simp] theorem State.others_wr (s : State) (r : SReg) (v : Word) : (s.wr r v).others = s.others := rfl
@[simp] theorem State.away_wr (s : State) (r : SReg) (v : Word) : (s.wr r v).away = s.away := rfl
@[simp] theorem State.mem_wr (s : State) (r : SReg) (v : Word) : (s.wr r v).mem = s.mem := rfl
@[simp] theorem State.poisoned_wr (s : State) (r : SReg) (v : Word) : (s.wr r v).poisoned = s.poisoned := rfl
@[simp] theorem State.stores_wr (s : State) (r : SReg) (v : Word) : (s.wr r v).stores = s.stores := rfl
@[simp] theorem State.now_wr (s : State) (r : SReg) (v : Word) : (s.wr r v).now = s.now := rfl
@[simp] theorem State.ctrAt_wr (s : State) (r : SReg) (v : Word) : (s.wr r v).ctrAt = s.ctrAt := rfl
@[simp] theorem State.counters_wr (s : State) (r : SReg) (v : Word) : (s.wr r v).counters = s.counters := rfl
@[simp] theorem State.cores_wr (s : State) (r : SReg) (v : Word) : (s.wr r v).cores = s.cores := rfl
@[simp] theorem State.looms_wr (s : State) (r : SReg) (v : Word) : (s.wr r v).looms = s.looms := rfl
@[simp] theorem State.cmds_wr (s : State) (r : SReg) (v : Word) : (s.wr r v).cmds = s.cmds := rfl
@[simp] theorem State.zones_wr (s : State) (r : SReg) (v : Word) : (s.wr r v).zones = s.zones := rfl
@[simp] theorem State.treadles_wr (s : State) (r : SReg) (v : Word) : (s.wr r v).treadles = s.treadles := rfl
@[simp] theorem State.tracks_wr (s : State) (r : SReg) (v : Word) : (s.wr r v).tracks = s.tracks := rfl
@[simp] theorem State.rooms_wr (s : State) (r : SReg) (v : Word) : (s.wr r v).rooms = s.rooms := rfl
@[simp] theorem State.funcs_wr (s : State) (r : SReg) (v : Word) : (s.wr r v).funcs = s.funcs := rfl
@[simp] theorem State.parts_wr (s : State) (r : SReg) (v : Word) : (s.wr r v).parts = s.parts := rfl
@[simp] theorem State.held_wr (s : State) (r : SReg) (v : Word) : (s.wr r v).held = s.held := rfl
@[simp] theorem State.mig_wr (s : State) (r : SReg) (v : Word) : (s.wr r v).mig = s.mig := rfl
@[simp] theorem State.arbs_wr (s : State) (r : SReg) (v : Word) : (s.wr r v).arbs = s.arbs := rfl
@[simp] theorem State.flights_wr (s : State) (r : SReg) (v : Word) : (s.wr r v).flights = s.flights := rfl
@[simp] theorem State.acct_wr (s : State) (r : SReg) (v : Word) : (s.wr r v).acct = s.acct := rfl
@[simp] theorem State.fabric_wr (s : State) (r : SReg) (v : Word) : (s.wr r v).fabric = s.fabric := rfl
@[simp] theorem State.power_wr (s : State) (r : SReg) (v : Word) : (s.wr r v).power = s.power := rfl
@[simp] theorem State.boot_wr (s : State) (r : SReg) (v : Word) : (s.wr r v).boot = s.boot := rfl
@[simp] theorem State.mailbox_wr (s : State) (r : SReg) (v : Word) : (s.wr r v).mailbox = s.mailbox := rfl
@[simp] theorem State.scrubs_wr (s : State) (r : SReg) (v : Word) : (s.wr r v).scrubs = s.scrubs := rfl
@[simp] theorem State.clock_wr (s : State) (r : SReg) (v : Word) : (s.wr r v).clock = s.clock := rfl
@[simp] theorem State.nextKey_wr (s : State) (r : SReg) (v : Word) : (s.wr r v).nextKey = s.nextKey := rfl
@[simp] theorem State.fresh_wr (s : State) (r : SReg) (v : Word) : (s.wr r v).fresh = s.fresh := rfl
@[simp] theorem State.struck_wr (s : State) (r : SReg) (v : Word) : (s.wr r v).struck = s.struck := rfl
@[simp] theorem State.agenda_wr (s : State) (r : SReg) (v : Word) : (s.wr r v).agenda = s.agenda := rfl
@[simp] theorem State.part_wr (s : State) (r : SReg) (v : Word) (m : Nat) : (s.wr r v).part m = s.part m := rfl
@[simp] theorem State.func_wr (s : State) (r : SReg) (v : Word) (m : Nat) : (s.wr r v).func m = s.func m := rfl
@[simp] theorem State.core_wr (s : State) (r : SReg) (v : Word) (m : Nat) : (s.wr r v).core m = s.core m := rfl
@[simp] theorem State.loom_wr (s : State) (r : SReg) (v : Word) (m : Nat) : (s.wr r v).loom m = s.loom m := rfl
@[simp] theorem State.path_wr (s : State) (r : SReg) (v : Word) (m : Nat) : (s.wr r v).path m = s.path m := rfl
@[simp] theorem State.counter_wr (s : State) (r : SReg) (v : Word) (m : Nat) : (s.wr r v).counter m = s.counter m := rfl
@[simp] theorem State.scrub_wr (s : State) (r : SReg) (v : Word) (m : Nat) : (s.wr r v).scrub m = s.scrub m := rfl

/-! ### Shuttle.settled -/

@[simp] theorem Shuttle.uid_settled (sh : Shuttle) : (sh.settled ).uid = sh.uid := rfl
@[simp] theorem Shuttle.place_settled (sh : Shuttle) : (sh.settled ).place = sh.place := rfl
@[simp] theorem Shuttle.pc_settled (sh : Shuttle) : (sh.settled ).pc = sh.pc := rfl
@[simp] theorem Shuttle.regs_settled (sh : Shuttle) : (sh.settled ).regs = sh.regs := rfl
@[simp] theorem Shuttle.priv_settled (sh : Shuttle) : (sh.settled ).priv = sh.priv := rfl
@[simp] theorem Shuttle.owner_settled (sh : Shuttle) : (sh.settled ).owner = sh.owner := rfl
@[simp] theorem Shuttle.estat_settled (sh : Shuttle) : (sh.settled ).estat = sh.estat := rfl
@[simp] theorem Shuttle.epc_settled (sh : Shuttle) : (sh.settled ).epc = sh.epc := rfl
@[simp] theorem Shuttle.ecause_settled (sh : Shuttle) : (sh.settled ).ecause = sh.ecause := rfl
@[simp] theorem Shuttle.eaddr_settled (sh : Shuttle) : (sh.settled ).eaddr = sh.eaddr := rfl
@[simp] theorem Shuttle.einfo_settled (sh : Shuttle) : (sh.settled ).einfo = sh.einfo := rfl
@[simp] theorem Shuttle.tvec_settled (sh : Shuttle) : (sh.settled ).tvec = sh.tvec := rfl
@[simp] theorem Shuttle.sscratch_settled (sh : Shuttle) : (sh.settled ).sscratch = sh.sscratch := rfl
@[simp] theorem Shuttle.ctxptr_settled (sh : Shuttle) : (sh.settled ).ctxptr = sh.ctxptr := rfl
@[simp] theorem Shuttle.scopedem_settled (sh : Shuttle) : (sh.settled ).scopedem = sh.scopedem := rfl
@[simp] theorem Shuttle.prbSeq_settled (sh : Shuttle) : (sh.settled ).prbSeq = sh.prbSeq := rfl
@[simp] theorem Shuttle.vl_settled (sh : Shuttle) : (sh.settled ).vl = sh.vl := rfl
@[simp] theorem Shuttle.vtype_settled (sh : Shuttle) : (sh.settled ).vtype = sh.vtype := rfl
@[simp] theorem Shuttle.vstart_settled (sh : Shuttle) : (sh.settled ).vstart = sh.vstart := rfl
@[simp] theorem Shuttle.xstop_settled (sh : Shuttle) : (sh.settled ).xstop = sh.xstop := rfl
@[simp] theorem Shuttle.vflags_settled (sh : Shuttle) : (sh.settled ).vflags = sh.vflags := rfl
@[simp] theorem Shuttle.fflags_settled (sh : Shuttle) : (sh.settled ).fflags = sh.fflags := rfl
@[simp] theorem Shuttle.fctl_settled (sh : Shuttle) : (sh.settled ).fctl = sh.fctl := rfl
@[simp] theorem Shuttle.vseed_settled (sh : Shuttle) : (sh.settled ).vseed = sh.vseed := rfl
@[simp] theorem Shuttle.strip_settled (sh : Shuttle) : (sh.settled ).strip = sh.strip := rfl
@[simp] theorem Shuttle.srem_settled (sh : Shuttle) : (sh.settled ).srem = sh.srem := rfl
@[simp] theorem Shuttle.mshape_settled (sh : Shuttle) : (sh.settled ).mshape = sh.mshape := rfl
@[simp] theorem Shuttle.cpctl_settled (sh : Shuttle) : (sh.settled ).cpctl = sh.cpctl := rfl
@[simp] theorem Shuttle.hwemap_settled (sh : Shuttle) : (sh.settled ).hwemap = sh.hwemap := rfl
@[simp] theorem Shuttle.homeIsCtx_settled (sh : Shuttle) : (sh.settled ).homeIsCtx = sh.homeIsCtx := rfl
@[simp] theorem Shuttle.homeBase_settled (sh : Shuttle) : (sh.settled ).homeBase = sh.homeBase := rfl
@[simp] theorem Shuttle.v_settled (sh : Shuttle) : (sh.settled ).v = sh.v := rfl
@[simp] theorem Shuttle.e_settled (sh : Shuttle) : (sh.settled ).e = sh.e := rfl
@[simp] theorem Shuttle.p_settled (sh : Shuttle) : (sh.settled ).p = sh.p := rfl
@[simp] theorem Shuttle.convoy_settled (sh : Shuttle) : (sh.settled ).convoy = sh.convoy := rfl
@[simp] theorem Shuttle.bobbins_settled (sh : Shuttle) : (sh.settled ).bobbins = sh.bobbins := rfl
@[simp] theorem Shuttle.lend_settled (sh : Shuttle) : (sh.settled ).lend = sh.lend := rfl
@[simp] theorem Shuttle.lendBytes_settled (sh : Shuttle) : (sh.settled ).lendBytes = sh.lendBytes := rfl
@[simp] theorem Shuttle.lendOff_settled (sh : Shuttle) : (sh.settled ).lendOff = sh.lendOff := rfl
@[simp] theorem Shuttle.eq_settled (sh : Shuttle) : (sh.settled ).eq = sh.eq := rfl
@[simp] theorem Shuttle.lost_settled (sh : Shuttle) : (sh.settled ).lost = sh.lost := rfl
@[simp] theorem Shuttle.posted_settled (sh : Shuttle) : (sh.settled ).posted = sh.posted := rfl
@[simp] theorem Shuttle.kept_settled (sh : Shuttle) : (sh.settled ).kept = sh.kept := rfl
@[simp] theorem Shuttle.views_settled (sh : Shuttle) : (sh.settled ).views = sh.views := rfl
@[simp] theorem Shuttle.ctrHigh_settled (sh : Shuttle) : (sh.settled ).ctrHigh = sh.ctrHigh := rfl
@[simp] theorem Shuttle.again_settled (sh : Shuttle) : (sh.settled ).again = sh.again := rfl
@[simp] theorem Shuttle.span_settled (sh : Shuttle) : (sh.settled ).span = sh.span := rfl
@[simp] theorem Shuttle.stopping_settled (sh : Shuttle) : (sh.settled ).stopping = sh.stopping := rfl
@[simp] theorem Shuttle.killed_settled (sh : Shuttle) : (sh.settled ).killed = sh.killed := rfl
@[simp] theorem Shuttle.attached_settled (sh : Shuttle) : (sh.settled ).attached = sh.attached := rfl
@[simp] theorem Shuttle.matReq_settled (sh : Shuttle) : (sh.settled ).matReq = sh.matReq := rfl
@[simp] theorem Shuttle.lentFrom_settled (sh : Shuttle) : (sh.settled ).lentFrom = sh.lentFrom := rfl
@[simp] theorem Shuttle.inPlace_settled (sh : Shuttle) : (sh.settled ).inPlace = sh.inPlace := rfl
@[simp] theorem Shuttle.restored_settled (sh : Shuttle) : (sh.settled ).restored = sh.restored := rfl
@[simp] theorem Shuttle.since_settled (sh : Shuttle) : (sh.settled ).since = sh.since := rfl

/-! ### Shuttle.advance -/

@[simp] theorem Shuttle.uid_advance (sh : Shuttle) (n : Nat) : (sh.advance n).uid = sh.uid := rfl
@[simp] theorem Shuttle.place_advance (sh : Shuttle) (n : Nat) : (sh.advance n).place = sh.place := rfl
@[simp] theorem Shuttle.regs_advance (sh : Shuttle) (n : Nat) : (sh.advance n).regs = sh.regs := rfl
@[simp] theorem Shuttle.priv_advance (sh : Shuttle) (n : Nat) : (sh.advance n).priv = sh.priv := rfl
@[simp] theorem Shuttle.owner_advance (sh : Shuttle) (n : Nat) : (sh.advance n).owner = sh.owner := rfl
@[simp] theorem Shuttle.estat_advance (sh : Shuttle) (n : Nat) : (sh.advance n).estat = sh.estat := rfl
@[simp] theorem Shuttle.epc_advance (sh : Shuttle) (n : Nat) : (sh.advance n).epc = sh.epc := rfl
@[simp] theorem Shuttle.ecause_advance (sh : Shuttle) (n : Nat) : (sh.advance n).ecause = sh.ecause := rfl
@[simp] theorem Shuttle.eaddr_advance (sh : Shuttle) (n : Nat) : (sh.advance n).eaddr = sh.eaddr := rfl
@[simp] theorem Shuttle.einfo_advance (sh : Shuttle) (n : Nat) : (sh.advance n).einfo = sh.einfo := rfl
@[simp] theorem Shuttle.tvec_advance (sh : Shuttle) (n : Nat) : (sh.advance n).tvec = sh.tvec := rfl
@[simp] theorem Shuttle.sscratch_advance (sh : Shuttle) (n : Nat) : (sh.advance n).sscratch = sh.sscratch := rfl
@[simp] theorem Shuttle.ctxptr_advance (sh : Shuttle) (n : Nat) : (sh.advance n).ctxptr = sh.ctxptr := rfl
@[simp] theorem Shuttle.scopedem_advance (sh : Shuttle) (n : Nat) : (sh.advance n).scopedem = sh.scopedem := rfl
@[simp] theorem Shuttle.prbSeq_advance (sh : Shuttle) (n : Nat) : (sh.advance n).prbSeq = sh.prbSeq := rfl
@[simp] theorem Shuttle.vl_advance (sh : Shuttle) (n : Nat) : (sh.advance n).vl = sh.vl := rfl
@[simp] theorem Shuttle.vtype_advance (sh : Shuttle) (n : Nat) : (sh.advance n).vtype = sh.vtype := rfl
@[simp] theorem Shuttle.vstart_advance (sh : Shuttle) (n : Nat) : (sh.advance n).vstart = sh.vstart := rfl
@[simp] theorem Shuttle.xstop_advance (sh : Shuttle) (n : Nat) : (sh.advance n).xstop = sh.xstop := rfl
@[simp] theorem Shuttle.vflags_advance (sh : Shuttle) (n : Nat) : (sh.advance n).vflags = sh.vflags := rfl
@[simp] theorem Shuttle.fflags_advance (sh : Shuttle) (n : Nat) : (sh.advance n).fflags = sh.fflags := rfl
@[simp] theorem Shuttle.fctl_advance (sh : Shuttle) (n : Nat) : (sh.advance n).fctl = sh.fctl := rfl
@[simp] theorem Shuttle.vseed_advance (sh : Shuttle) (n : Nat) : (sh.advance n).vseed = sh.vseed := rfl
@[simp] theorem Shuttle.strip_advance (sh : Shuttle) (n : Nat) : (sh.advance n).strip = sh.strip := rfl
@[simp] theorem Shuttle.srem_advance (sh : Shuttle) (n : Nat) : (sh.advance n).srem = sh.srem := rfl
@[simp] theorem Shuttle.mshape_advance (sh : Shuttle) (n : Nat) : (sh.advance n).mshape = sh.mshape := rfl
@[simp] theorem Shuttle.cpctl_advance (sh : Shuttle) (n : Nat) : (sh.advance n).cpctl = sh.cpctl := rfl
@[simp] theorem Shuttle.hwemap_advance (sh : Shuttle) (n : Nat) : (sh.advance n).hwemap = sh.hwemap := rfl
@[simp] theorem Shuttle.homeIsCtx_advance (sh : Shuttle) (n : Nat) : (sh.advance n).homeIsCtx = sh.homeIsCtx := rfl
@[simp] theorem Shuttle.homeBase_advance (sh : Shuttle) (n : Nat) : (sh.advance n).homeBase = sh.homeBase := rfl
@[simp] theorem Shuttle.v_advance (sh : Shuttle) (n : Nat) : (sh.advance n).v = sh.v := rfl
@[simp] theorem Shuttle.e_advance (sh : Shuttle) (n : Nat) : (sh.advance n).e = sh.e := rfl
@[simp] theorem Shuttle.p_advance (sh : Shuttle) (n : Nat) : (sh.advance n).p = sh.p := rfl
@[simp] theorem Shuttle.convoy_advance (sh : Shuttle) (n : Nat) : (sh.advance n).convoy = sh.convoy := rfl
@[simp] theorem Shuttle.bobbins_advance (sh : Shuttle) (n : Nat) : (sh.advance n).bobbins = sh.bobbins := rfl
@[simp] theorem Shuttle.lend_advance (sh : Shuttle) (n : Nat) : (sh.advance n).lend = sh.lend := rfl
@[simp] theorem Shuttle.lendBytes_advance (sh : Shuttle) (n : Nat) : (sh.advance n).lendBytes = sh.lendBytes := rfl
@[simp] theorem Shuttle.lendOff_advance (sh : Shuttle) (n : Nat) : (sh.advance n).lendOff = sh.lendOff := rfl
@[simp] theorem Shuttle.eq_advance (sh : Shuttle) (n : Nat) : (sh.advance n).eq = sh.eq := rfl
@[simp] theorem Shuttle.lost_advance (sh : Shuttle) (n : Nat) : (sh.advance n).lost = sh.lost := rfl
@[simp] theorem Shuttle.posted_advance (sh : Shuttle) (n : Nat) : (sh.advance n).posted = sh.posted := rfl
@[simp] theorem Shuttle.kept_advance (sh : Shuttle) (n : Nat) : (sh.advance n).kept = sh.kept := rfl
@[simp] theorem Shuttle.views_advance (sh : Shuttle) (n : Nat) : (sh.advance n).views = sh.views := rfl
@[simp] theorem Shuttle.ctrHigh_advance (sh : Shuttle) (n : Nat) : (sh.advance n).ctrHigh = sh.ctrHigh := rfl
@[simp] theorem Shuttle.again_advance (sh : Shuttle) (n : Nat) : (sh.advance n).again = sh.again := rfl
@[simp] theorem Shuttle.span_advance (sh : Shuttle) (n : Nat) : (sh.advance n).span = sh.span := rfl
@[simp] theorem Shuttle.stopping_advance (sh : Shuttle) (n : Nat) : (sh.advance n).stopping = sh.stopping := rfl
@[simp] theorem Shuttle.killed_advance (sh : Shuttle) (n : Nat) : (sh.advance n).killed = sh.killed := rfl
@[simp] theorem Shuttle.attached_advance (sh : Shuttle) (n : Nat) : (sh.advance n).attached = sh.attached := rfl
@[simp] theorem Shuttle.matReq_advance (sh : Shuttle) (n : Nat) : (sh.advance n).matReq = sh.matReq := rfl
@[simp] theorem Shuttle.lentFrom_advance (sh : Shuttle) (n : Nat) : (sh.advance n).lentFrom = sh.lentFrom := rfl
@[simp] theorem Shuttle.inPlace_advance (sh : Shuttle) (n : Nat) : (sh.advance n).inPlace = sh.inPlace := rfl
@[simp] theorem Shuttle.restored_advance (sh : Shuttle) (n : Nat) : (sh.advance n).restored = sh.restored := rfl
@[simp] theorem Shuttle.since_advance (sh : Shuttle) (n : Nat) : (sh.advance n).since = sh.since := rfl

/-! ### Shuttle.spanned -/

@[simp] theorem Shuttle.uid_spanned (sh : Shuttle) (r w : Nat) : (sh.spanned r w).uid = sh.uid := by unfold Shuttle.spanned; split <;> rfl
@[simp] theorem Shuttle.status_spanned (sh : Shuttle) (r w : Nat) : (sh.spanned r w).status = sh.status := by unfold Shuttle.spanned; split <;> rfl
@[simp] theorem Shuttle.place_spanned (sh : Shuttle) (r w : Nat) : (sh.spanned r w).place = sh.place := by unfold Shuttle.spanned; split <;> rfl
@[simp] theorem Shuttle.pc_spanned (sh : Shuttle) (r w : Nat) : (sh.spanned r w).pc = sh.pc := by unfold Shuttle.spanned; split <;> rfl
@[simp] theorem Shuttle.regs_spanned (sh : Shuttle) (r w : Nat) : (sh.spanned r w).regs = sh.regs := by unfold Shuttle.spanned; split <;> rfl
@[simp] theorem Shuttle.priv_spanned (sh : Shuttle) (r w : Nat) : (sh.spanned r w).priv = sh.priv := by unfold Shuttle.spanned; split <;> rfl
@[simp] theorem Shuttle.owner_spanned (sh : Shuttle) (r w : Nat) : (sh.spanned r w).owner = sh.owner := by unfold Shuttle.spanned; split <;> rfl
@[simp] theorem Shuttle.estat_spanned (sh : Shuttle) (r w : Nat) : (sh.spanned r w).estat = sh.estat := by unfold Shuttle.spanned; split <;> rfl
@[simp] theorem Shuttle.epc_spanned (sh : Shuttle) (r w : Nat) : (sh.spanned r w).epc = sh.epc := by unfold Shuttle.spanned; split <;> rfl
@[simp] theorem Shuttle.ecause_spanned (sh : Shuttle) (r w : Nat) : (sh.spanned r w).ecause = sh.ecause := by unfold Shuttle.spanned; split <;> rfl
@[simp] theorem Shuttle.eaddr_spanned (sh : Shuttle) (r w : Nat) : (sh.spanned r w).eaddr = sh.eaddr := by unfold Shuttle.spanned; split <;> rfl
@[simp] theorem Shuttle.einfo_spanned (sh : Shuttle) (r w : Nat) : (sh.spanned r w).einfo = sh.einfo := by unfold Shuttle.spanned; split <;> rfl
@[simp] theorem Shuttle.tvec_spanned (sh : Shuttle) (r w : Nat) : (sh.spanned r w).tvec = sh.tvec := by unfold Shuttle.spanned; split <;> rfl
@[simp] theorem Shuttle.sscratch_spanned (sh : Shuttle) (r w : Nat) : (sh.spanned r w).sscratch = sh.sscratch := by unfold Shuttle.spanned; split <;> rfl
@[simp] theorem Shuttle.ctxptr_spanned (sh : Shuttle) (r w : Nat) : (sh.spanned r w).ctxptr = sh.ctxptr := by unfold Shuttle.spanned; split <;> rfl
@[simp] theorem Shuttle.pgstat_spanned (sh : Shuttle) (r w : Nat) : (sh.spanned r w).pgstat = sh.pgstat := by unfold Shuttle.spanned; split <;> rfl
@[simp] theorem Shuttle.scopedem_spanned (sh : Shuttle) (r w : Nat) : (sh.spanned r w).scopedem = sh.scopedem := by unfold Shuttle.spanned; split <;> rfl
@[simp] theorem Shuttle.prbSeq_spanned (sh : Shuttle) (r w : Nat) : (sh.spanned r w).prbSeq = sh.prbSeq := by unfold Shuttle.spanned; split <;> rfl
@[simp] theorem Shuttle.vl_spanned (sh : Shuttle) (r w : Nat) : (sh.spanned r w).vl = sh.vl := by unfold Shuttle.spanned; split <;> rfl
@[simp] theorem Shuttle.vtype_spanned (sh : Shuttle) (r w : Nat) : (sh.spanned r w).vtype = sh.vtype := by unfold Shuttle.spanned; split <;> rfl
@[simp] theorem Shuttle.vstart_spanned (sh : Shuttle) (r w : Nat) : (sh.spanned r w).vstart = sh.vstart := by unfold Shuttle.spanned; split <;> rfl
@[simp] theorem Shuttle.xstop_spanned (sh : Shuttle) (r w : Nat) : (sh.spanned r w).xstop = sh.xstop := by unfold Shuttle.spanned; split <;> rfl
@[simp] theorem Shuttle.vflags_spanned (sh : Shuttle) (r w : Nat) : (sh.spanned r w).vflags = sh.vflags := by unfold Shuttle.spanned; split <;> rfl
@[simp] theorem Shuttle.fflags_spanned (sh : Shuttle) (r w : Nat) : (sh.spanned r w).fflags = sh.fflags := by unfold Shuttle.spanned; split <;> rfl
@[simp] theorem Shuttle.fctl_spanned (sh : Shuttle) (r w : Nat) : (sh.spanned r w).fctl = sh.fctl := by unfold Shuttle.spanned; split <;> rfl
@[simp] theorem Shuttle.vseed_spanned (sh : Shuttle) (r w : Nat) : (sh.spanned r w).vseed = sh.vseed := by unfold Shuttle.spanned; split <;> rfl
@[simp] theorem Shuttle.strip_spanned (sh : Shuttle) (r w : Nat) : (sh.spanned r w).strip = sh.strip := by unfold Shuttle.spanned; split <;> rfl
@[simp] theorem Shuttle.srem_spanned (sh : Shuttle) (r w : Nat) : (sh.spanned r w).srem = sh.srem := by unfold Shuttle.spanned; split <;> rfl
@[simp] theorem Shuttle.mshape_spanned (sh : Shuttle) (r w : Nat) : (sh.spanned r w).mshape = sh.mshape := by unfold Shuttle.spanned; split <;> rfl
@[simp] theorem Shuttle.cpctl_spanned (sh : Shuttle) (r w : Nat) : (sh.spanned r w).cpctl = sh.cpctl := by unfold Shuttle.spanned; split <;> rfl
@[simp] theorem Shuttle.hwemap_spanned (sh : Shuttle) (r w : Nat) : (sh.spanned r w).hwemap = sh.hwemap := by unfold Shuttle.spanned; split <;> rfl
@[simp] theorem Shuttle.homeIsCtx_spanned (sh : Shuttle) (r w : Nat) : (sh.spanned r w).homeIsCtx = sh.homeIsCtx := by unfold Shuttle.spanned; split <;> rfl
@[simp] theorem Shuttle.homeBase_spanned (sh : Shuttle) (r w : Nat) : (sh.spanned r w).homeBase = sh.homeBase := by unfold Shuttle.spanned; split <;> rfl
@[simp] theorem Shuttle.v_spanned (sh : Shuttle) (r w : Nat) : (sh.spanned r w).v = sh.v := by unfold Shuttle.spanned; split <;> rfl
@[simp] theorem Shuttle.e_spanned (sh : Shuttle) (r w : Nat) : (sh.spanned r w).e = sh.e := by unfold Shuttle.spanned; split <;> rfl
@[simp] theorem Shuttle.p_spanned (sh : Shuttle) (r w : Nat) : (sh.spanned r w).p = sh.p := by unfold Shuttle.spanned; split <;> rfl
@[simp] theorem Shuttle.bobbins_spanned (sh : Shuttle) (r w : Nat) : (sh.spanned r w).bobbins = sh.bobbins := by unfold Shuttle.spanned; split <;> rfl
@[simp] theorem Shuttle.lend_spanned (sh : Shuttle) (r w : Nat) : (sh.spanned r w).lend = sh.lend := by unfold Shuttle.spanned; split <;> rfl
@[simp] theorem Shuttle.lendBytes_spanned (sh : Shuttle) (r w : Nat) : (sh.spanned r w).lendBytes = sh.lendBytes := by unfold Shuttle.spanned; split <;> rfl
@[simp] theorem Shuttle.lendOff_spanned (sh : Shuttle) (r w : Nat) : (sh.spanned r w).lendOff = sh.lendOff := by unfold Shuttle.spanned; split <;> rfl
@[simp] theorem Shuttle.eq_spanned (sh : Shuttle) (r w : Nat) : (sh.spanned r w).eq = sh.eq := by unfold Shuttle.spanned; split <;> rfl
@[simp] theorem Shuttle.lost_spanned (sh : Shuttle) (r w : Nat) : (sh.spanned r w).lost = sh.lost := by unfold Shuttle.spanned; split <;> rfl
@[simp] theorem Shuttle.posted_spanned (sh : Shuttle) (r w : Nat) : (sh.spanned r w).posted = sh.posted := by unfold Shuttle.spanned; split <;> rfl
@[simp] theorem Shuttle.requests_spanned (sh : Shuttle) (r w : Nat) : (sh.spanned r w).requests = sh.requests := by unfold Shuttle.spanned; split <;> rfl
@[simp] theorem Shuttle.missed_spanned (sh : Shuttle) (r w : Nat) : (sh.spanned r w).missed = sh.missed := by unfold Shuttle.spanned; split <;> rfl
@[simp] theorem Shuttle.found_spanned (sh : Shuttle) (r w : Nat) : (sh.spanned r w).found = sh.found := by unfold Shuttle.spanned; split <;> rfl
@[simp] theorem Shuttle.faulted_spanned (sh : Shuttle) (r w : Nat) : (sh.spanned r w).faulted = sh.faulted := by unfold Shuttle.spanned; split <;> rfl
@[simp] theorem Shuttle.kept_spanned (sh : Shuttle) (r w : Nat) : (sh.spanned r w).kept = sh.kept := by unfold Shuttle.spanned; split <;> rfl
@[simp] theorem Shuttle.lostSources_spanned (sh : Shuttle) (r w : Nat) : (sh.spanned r w).lostSources = sh.lostSources := by unfold Shuttle.spanned; split <;> rfl
@[simp] theorem Shuttle.views_spanned (sh : Shuttle) (r w : Nat) : (sh.spanned r w).views = sh.views := by unfold Shuttle.spanned; split <;> rfl
@[simp] theorem Shuttle.ctrHigh_spanned (sh : Shuttle) (r w : Nat) : (sh.spanned r w).ctrHigh = sh.ctrHigh := by unfold Shuttle.spanned; split <;> rfl
@[simp] theorem Shuttle.again_spanned (sh : Shuttle) (r w : Nat) : (sh.spanned r w).again = sh.again := by unfold Shuttle.spanned; split <;> rfl
@[simp] theorem Shuttle.span_spanned (sh : Shuttle) (r w : Nat) : (sh.spanned r w).span = sh.span := by unfold Shuttle.spanned; split <;> rfl
@[simp] theorem Shuttle.stopping_spanned (sh : Shuttle) (r w : Nat) : (sh.spanned r w).stopping = sh.stopping := by unfold Shuttle.spanned; split <;> rfl
@[simp] theorem Shuttle.killed_spanned (sh : Shuttle) (r w : Nat) : (sh.spanned r w).killed = sh.killed := by unfold Shuttle.spanned; split <;> rfl
@[simp] theorem Shuttle.attached_spanned (sh : Shuttle) (r w : Nat) : (sh.spanned r w).attached = sh.attached := by unfold Shuttle.spanned; split <;> rfl
@[simp] theorem Shuttle.matReq_spanned (sh : Shuttle) (r w : Nat) : (sh.spanned r w).matReq = sh.matReq := by unfold Shuttle.spanned; split <;> rfl
@[simp] theorem Shuttle.lentFrom_spanned (sh : Shuttle) (r w : Nat) : (sh.spanned r w).lentFrom = sh.lentFrom := by unfold Shuttle.spanned; split <;> rfl
@[simp] theorem Shuttle.inPlace_spanned (sh : Shuttle) (r w : Nat) : (sh.spanned r w).inPlace = sh.inPlace := by unfold Shuttle.spanned; split <;> rfl
@[simp] theorem Shuttle.restored_spanned (sh : Shuttle) (r w : Nat) : (sh.spanned r w).restored = sh.restored := by unfold Shuttle.spanned; split <;> rfl
@[simp] theorem Shuttle.since_spanned (sh : Shuttle) (r w : Nat) : (sh.spanned r w).since = sh.since := by unfold Shuttle.spanned; split <;> rfl

/-! ### Shuttle.wr -/

@[simp] theorem Shuttle.uid_wr (sh : Shuttle) (r : SReg) (v : Word) : (sh.wr r v).uid = sh.uid := by unfold Shuttle.wr; split <;> rfl
@[simp] theorem Shuttle.status_wr (sh : Shuttle) (r : SReg) (v : Word) : (sh.wr r v).status = sh.status := by unfold Shuttle.wr; split <;> rfl
@[simp] theorem Shuttle.place_wr (sh : Shuttle) (r : SReg) (v : Word) : (sh.wr r v).place = sh.place := by unfold Shuttle.wr; split <;> rfl
@[simp] theorem Shuttle.pc_wr (sh : Shuttle) (r : SReg) (v : Word) : (sh.wr r v).pc = sh.pc := by unfold Shuttle.wr; split <;> rfl
@[simp] theorem Shuttle.priv_wr (sh : Shuttle) (r : SReg) (v : Word) : (sh.wr r v).priv = sh.priv := by unfold Shuttle.wr; split <;> rfl
@[simp] theorem Shuttle.owner_wr (sh : Shuttle) (r : SReg) (v : Word) : (sh.wr r v).owner = sh.owner := by unfold Shuttle.wr; split <;> rfl
@[simp] theorem Shuttle.estat_wr (sh : Shuttle) (r : SReg) (v : Word) : (sh.wr r v).estat = sh.estat := by unfold Shuttle.wr; split <;> rfl
@[simp] theorem Shuttle.epc_wr (sh : Shuttle) (r : SReg) (v : Word) : (sh.wr r v).epc = sh.epc := by unfold Shuttle.wr; split <;> rfl
@[simp] theorem Shuttle.ecause_wr (sh : Shuttle) (r : SReg) (v : Word) : (sh.wr r v).ecause = sh.ecause := by unfold Shuttle.wr; split <;> rfl
@[simp] theorem Shuttle.eaddr_wr (sh : Shuttle) (r : SReg) (v : Word) : (sh.wr r v).eaddr = sh.eaddr := by unfold Shuttle.wr; split <;> rfl
@[simp] theorem Shuttle.einfo_wr (sh : Shuttle) (r : SReg) (v : Word) : (sh.wr r v).einfo = sh.einfo := by unfold Shuttle.wr; split <;> rfl
@[simp] theorem Shuttle.tvec_wr (sh : Shuttle) (r : SReg) (v : Word) : (sh.wr r v).tvec = sh.tvec := by unfold Shuttle.wr; split <;> rfl
@[simp] theorem Shuttle.sscratch_wr (sh : Shuttle) (r : SReg) (v : Word) : (sh.wr r v).sscratch = sh.sscratch := by unfold Shuttle.wr; split <;> rfl
@[simp] theorem Shuttle.ctxptr_wr (sh : Shuttle) (r : SReg) (v : Word) : (sh.wr r v).ctxptr = sh.ctxptr := by unfold Shuttle.wr; split <;> rfl
@[simp] theorem Shuttle.pgstat_wr (sh : Shuttle) (r : SReg) (v : Word) : (sh.wr r v).pgstat = sh.pgstat := by unfold Shuttle.wr; split <;> rfl
@[simp] theorem Shuttle.scopedem_wr (sh : Shuttle) (r : SReg) (v : Word) : (sh.wr r v).scopedem = sh.scopedem := by unfold Shuttle.wr; split <;> rfl
@[simp] theorem Shuttle.prbSeq_wr (sh : Shuttle) (r : SReg) (v : Word) : (sh.wr r v).prbSeq = sh.prbSeq := by unfold Shuttle.wr; split <;> rfl
@[simp] theorem Shuttle.vl_wr (sh : Shuttle) (r : SReg) (v : Word) : (sh.wr r v).vl = sh.vl := by unfold Shuttle.wr; split <;> rfl
@[simp] theorem Shuttle.vtype_wr (sh : Shuttle) (r : SReg) (v : Word) : (sh.wr r v).vtype = sh.vtype := by unfold Shuttle.wr; split <;> rfl
@[simp] theorem Shuttle.vstart_wr (sh : Shuttle) (r : SReg) (v : Word) : (sh.wr r v).vstart = sh.vstart := by unfold Shuttle.wr; split <;> rfl
@[simp] theorem Shuttle.xstop_wr (sh : Shuttle) (r : SReg) (v : Word) : (sh.wr r v).xstop = sh.xstop := by unfold Shuttle.wr; split <;> rfl
@[simp] theorem Shuttle.vflags_wr (sh : Shuttle) (r : SReg) (v : Word) : (sh.wr r v).vflags = sh.vflags := by unfold Shuttle.wr; split <;> rfl
@[simp] theorem Shuttle.fflags_wr (sh : Shuttle) (r : SReg) (v : Word) : (sh.wr r v).fflags = sh.fflags := by unfold Shuttle.wr; split <;> rfl
@[simp] theorem Shuttle.fctl_wr (sh : Shuttle) (r : SReg) (v : Word) : (sh.wr r v).fctl = sh.fctl := by unfold Shuttle.wr; split <;> rfl
@[simp] theorem Shuttle.vseed_wr (sh : Shuttle) (r : SReg) (v : Word) : (sh.wr r v).vseed = sh.vseed := by unfold Shuttle.wr; split <;> rfl
@[simp] theorem Shuttle.strip_wr (sh : Shuttle) (r : SReg) (v : Word) : (sh.wr r v).strip = sh.strip := by unfold Shuttle.wr; split <;> rfl
@[simp] theorem Shuttle.srem_wr (sh : Shuttle) (r : SReg) (v : Word) : (sh.wr r v).srem = sh.srem := by unfold Shuttle.wr; split <;> rfl
@[simp] theorem Shuttle.mshape_wr (sh : Shuttle) (r : SReg) (v : Word) : (sh.wr r v).mshape = sh.mshape := by unfold Shuttle.wr; split <;> rfl
@[simp] theorem Shuttle.cpctl_wr (sh : Shuttle) (r : SReg) (v : Word) : (sh.wr r v).cpctl = sh.cpctl := by unfold Shuttle.wr; split <;> rfl
@[simp] theorem Shuttle.hwemap_wr (sh : Shuttle) (r : SReg) (v : Word) : (sh.wr r v).hwemap = sh.hwemap := by unfold Shuttle.wr; split <;> rfl
@[simp] theorem Shuttle.homeIsCtx_wr (sh : Shuttle) (r : SReg) (v : Word) : (sh.wr r v).homeIsCtx = sh.homeIsCtx := by unfold Shuttle.wr; split <;> rfl
@[simp] theorem Shuttle.homeBase_wr (sh : Shuttle) (r : SReg) (v : Word) : (sh.wr r v).homeBase = sh.homeBase := by unfold Shuttle.wr; split <;> rfl
@[simp] theorem Shuttle.v_wr (sh : Shuttle) (r : SReg) (v : Word) : (sh.wr r v).v = sh.v := by unfold Shuttle.wr; split <;> rfl
@[simp] theorem Shuttle.e_wr (sh : Shuttle) (r : SReg) (v : Word) : (sh.wr r v).e = sh.e := by unfold Shuttle.wr; split <;> rfl
@[simp] theorem Shuttle.p_wr (sh : Shuttle) (r : SReg) (v : Word) : (sh.wr r v).p = sh.p := by unfold Shuttle.wr; split <;> rfl
@[simp] theorem Shuttle.convoy_wr (sh : Shuttle) (r : SReg) (v : Word) : (sh.wr r v).convoy = sh.convoy := by unfold Shuttle.wr; split <;> rfl
@[simp] theorem Shuttle.bobbins_wr (sh : Shuttle) (r : SReg) (v : Word) : (sh.wr r v).bobbins = sh.bobbins := by unfold Shuttle.wr; split <;> rfl
@[simp] theorem Shuttle.lend_wr (sh : Shuttle) (r : SReg) (v : Word) : (sh.wr r v).lend = sh.lend := by unfold Shuttle.wr; split <;> rfl
@[simp] theorem Shuttle.lendBytes_wr (sh : Shuttle) (r : SReg) (v : Word) : (sh.wr r v).lendBytes = sh.lendBytes := by unfold Shuttle.wr; split <;> rfl
@[simp] theorem Shuttle.lendOff_wr (sh : Shuttle) (r : SReg) (v : Word) : (sh.wr r v).lendOff = sh.lendOff := by unfold Shuttle.wr; split <;> rfl
@[simp] theorem Shuttle.eq_wr (sh : Shuttle) (r : SReg) (v : Word) : (sh.wr r v).eq = sh.eq := by unfold Shuttle.wr; split <;> rfl
@[simp] theorem Shuttle.lost_wr (sh : Shuttle) (r : SReg) (v : Word) : (sh.wr r v).lost = sh.lost := by unfold Shuttle.wr; split <;> rfl
@[simp] theorem Shuttle.posted_wr (sh : Shuttle) (r : SReg) (v : Word) : (sh.wr r v).posted = sh.posted := by unfold Shuttle.wr; split <;> rfl
@[simp] theorem Shuttle.requests_wr (sh : Shuttle) (r : SReg) (v : Word) : (sh.wr r v).requests = sh.requests := by unfold Shuttle.wr; split <;> rfl
@[simp] theorem Shuttle.missed_wr (sh : Shuttle) (r : SReg) (v : Word) : (sh.wr r v).missed = sh.missed := by unfold Shuttle.wr; split <;> rfl
@[simp] theorem Shuttle.found_wr (sh : Shuttle) (r : SReg) (v : Word) : (sh.wr r v).found = sh.found := by unfold Shuttle.wr; split <;> rfl
@[simp] theorem Shuttle.faulted_wr (sh : Shuttle) (r : SReg) (v : Word) : (sh.wr r v).faulted = sh.faulted := by unfold Shuttle.wr; split <;> rfl
@[simp] theorem Shuttle.kept_wr (sh : Shuttle) (r : SReg) (v : Word) : (sh.wr r v).kept = sh.kept := by unfold Shuttle.wr; split <;> rfl
@[simp] theorem Shuttle.lostSources_wr (sh : Shuttle) (r : SReg) (v : Word) : (sh.wr r v).lostSources = sh.lostSources := by unfold Shuttle.wr; split <;> rfl
@[simp] theorem Shuttle.views_wr (sh : Shuttle) (r : SReg) (v : Word) : (sh.wr r v).views = sh.views := by unfold Shuttle.wr; split <;> rfl
@[simp] theorem Shuttle.ctrHigh_wr (sh : Shuttle) (r : SReg) (v : Word) : (sh.wr r v).ctrHigh = sh.ctrHigh := by unfold Shuttle.wr; split <;> rfl
@[simp] theorem Shuttle.again_wr (sh : Shuttle) (r : SReg) (v : Word) : (sh.wr r v).again = sh.again := by unfold Shuttle.wr; split <;> rfl
@[simp] theorem Shuttle.span_wr (sh : Shuttle) (r : SReg) (v : Word) : (sh.wr r v).span = sh.span := by unfold Shuttle.wr; split <;> rfl
@[simp] theorem Shuttle.stopping_wr (sh : Shuttle) (r : SReg) (v : Word) : (sh.wr r v).stopping = sh.stopping := by unfold Shuttle.wr; split <;> rfl
@[simp] theorem Shuttle.killed_wr (sh : Shuttle) (r : SReg) (v : Word) : (sh.wr r v).killed = sh.killed := by unfold Shuttle.wr; split <;> rfl
@[simp] theorem Shuttle.attached_wr (sh : Shuttle) (r : SReg) (v : Word) : (sh.wr r v).attached = sh.attached := by unfold Shuttle.wr; split <;> rfl
@[simp] theorem Shuttle.matReq_wr (sh : Shuttle) (r : SReg) (v : Word) : (sh.wr r v).matReq = sh.matReq := by unfold Shuttle.wr; split <;> rfl
@[simp] theorem Shuttle.lentFrom_wr (sh : Shuttle) (r : SReg) (v : Word) : (sh.wr r v).lentFrom = sh.lentFrom := by unfold Shuttle.wr; split <;> rfl
@[simp] theorem Shuttle.inPlace_wr (sh : Shuttle) (r : SReg) (v : Word) : (sh.wr r v).inPlace = sh.inPlace := by unfold Shuttle.wr; split <;> rfl
@[simp] theorem Shuttle.restored_wr (sh : Shuttle) (r : SReg) (v : Word) : (sh.wr r v).restored = sh.restored := by unfold Shuttle.wr; split <;> rfl
@[simp] theorem Shuttle.since_wr (sh : Shuttle) (r : SReg) (v : Word) : (sh.wr r v).since = sh.since := by unfold Shuttle.wr; split <;> rfl

end Sys2Proof.Machine
end

