-- ==== Sys2Proof/Laws/Tables.lean ====
section
/-!
SUPPORT. Sys2Proof/Laws/Tables.lean: reading a table after a write, and the numbered parts of the machine after each of their
updates.
-/
namespace Sys2Proof.Machine

theorem tget_tput {α : Type} (d : α) (t : Tab α) (k j : Nat) (v : α) :
    tget d (tput t k v) j = if j = k then v else tget d t j := by
  induction t with
  | nil => grind [tput, tget]
  | cons e t ih => obtain ⟨a, w⟩ := e; grind [tput, tget]
theorem tget_tdel {α : Type} (d : α) (t : Tab α) (k j : Nat) :
    tget d (tdel t k) j = if j = k then d else tget d t j := by
  induction t with
  | nil => grind [tdel, tget]
  | cons e t ih => obtain ⟨a, w⟩ := e; grind [tdel, tget]

@[simp] theorem part_setPart (s : State) (n m : Nat) (p : Part) :
    (s.setPart n p).part m = if m = n then p else s.part m := tget_tput ..
@[simp] theorem func_setFunc (s : State) (n m : Nat) (f : Func) :
    (s.setFunc n f).func m = if m = n then f else s.func m := tget_tput ..
@[simp] theorem core_setCore (s : State) (n m : Nat) (c : Core) :
    (s.setCore n c).core m = if m = n then c else s.core m := tget_tput ..
@[simp] theorem loom_setLoom (s : State) (n m : Nat) (l : Loom) :
    (s.setLoom n l).loom m = if m = n then l else s.loom m := tget_tput ..
@[simp] theorem path_setPath (s : State) (n m : Nat) (p : Path) :
    (s.setPath n p).path m = if m = n then p else s.path m := tget_tput ..
theorem counter_putCounter (s : State) (i j : Nat) (v : Word) :
    (s.putCounter i v).counter j = if j = i then v else s.counter j := by
  unfold State.putCounter State.counter
  split <;> simp only [tget_tdel, tget_tput] <;> grind

end Sys2Proof.Machine
end

