-- ==== Sys2Proof/Laws/Frame.lean ====
section
/-!
SUPPORT. Sys2Proof/Laws/Frame.lean: for each operation shared by many instructions and events, all that it can change. `only…
s t` says that `t` is `s` but for the fields it names.
-/
namespace Sys2Proof.Machine

/-! ## Relations -/

/-- `t` differs from `s` in lanes, blocks and their arbiters alone. -/
def onlyLanes (s t : State) : Prop := ∃ cs ls as, t = { s with cores := cs, looms := ls, arbs := as }
/-- `t` differs from `s` in functions and storage alone. -/
def onlyFuncs (s t : State) : Prop := ∃ fs m p r, t = { s with funcs := fs, mem := m, poisoned := p, stores := r }
/-- `t` differs from `s` in what waits for a counter, in what its update sets off, and in the numbers drawn. -/
def onlyQueues (s t : State) : Prop :=
  ∃ ps ks ts cs fs rs n, t = { s with parts := ps, tracks := ks, treadles := ts, cmds := cs, funcs := fs, rooms := rs, nextKey := n }

theorem onlyLanes.rfl' (s : State) : onlyLanes s s := ⟨_, _, _, rfl⟩
theorem onlyFuncs.rfl' (s : State) : onlyFuncs s s := ⟨_, _, _, _, rfl⟩
theorem onlyQueues.rfl' (s : State) : onlyQueues s s := ⟨_, _, _, _, _, _, _, rfl⟩
theorem onlyLanes.trans {s t u : State} (h : onlyLanes s t) (k : onlyLanes t u) : onlyLanes s u := by
  obtain ⟨_, _, _, rfl⟩ := h; obtain ⟨_, _, _, rfl⟩ := k; exact ⟨_, _, _, rfl⟩
theorem onlyFuncs.trans {s t u : State} (h : onlyFuncs s t) (k : onlyFuncs t u) : onlyFuncs s u := by
  obtain ⟨_, _, _, _, rfl⟩ := h; obtain ⟨_, _, _, _, rfl⟩ := k; exact ⟨_, _, _, _, rfl⟩
theorem onlyQueues.trans {s t u : State} (h : onlyQueues s t) (k : onlyQueues t u) : onlyQueues s u := by
  obtain ⟨_, _, _, _, _, _, _, rfl⟩ := h; obtain ⟨_, _, _, _, _, _, _, rfl⟩ := k; exact ⟨_, _, _, _, _, _, _, rfl⟩

/-- A function of the state that does not look at what changes. -/
theorem onlyLanes.get {γ : Type} {s t : State} (h : onlyLanes s t) (g : State → γ)
    (hg : ∀ cs ls as, g { s with cores := cs, looms := ls, arbs := as } = g s) : g t = g s := by
  obtain ⟨_, _, _, rfl⟩ := h; exact hg _ _ _
theorem onlyFuncs.get {γ : Type} {s t : State} (h : onlyFuncs s t) (g : State → γ)
    (hg : ∀ fs m p r, g { s with funcs := fs, mem := m, poisoned := p, stores := r } = g s) : g t = g s := by
  obtain ⟨_, _, _, _, rfl⟩ := h; exact hg _ _ _ _
theorem onlyQueues.get {γ : Type} {s t : State} (h : onlyQueues s t) (g : State → γ)
    (hg : ∀ ps ks ts cs fs rs n,
      g { s with parts := ps, tracks := ks, treadles := ts, cmds := cs, funcs := fs, rooms := rs, nextKey := n } = g s) :
    g t = g s := by
  obtain ⟨_, _, _, _, _, _, _, rfl⟩ := h; exact hg _ _ _ _ _ _ _

/-- A relation that every step of a fold keeps holds across it. -/
theorem foldl_rel {α β : Type} (r : β → β → Prop) (hr : ∀ b, r b b) (ht : ∀ {a b c}, r a b → r b c → r a c)
    (f : β → α → β) (h : ∀ b a, r b (f b a)) (l : List α) (b : β) : r b (l.foldl f b) := by
  induction l generalizing b with
  | nil => exact hr b
  | cons a l ih => exact ht (h b a) (ih _)
/-- What every step of a fold keeps is kept by the fold. -/
theorem foldl_keep {α β γ : Type} (g : β → γ) (f : β → α → β) (h : ∀ b a, g (f b a) = g b) (l : List α) (b : β) :
    g (l.foldl f b) = g b := by
  induction l generalizing b with
  | nil => rfl
  | cons a l ih => exact (ih _).trans (h _ _)

/-! ## Lanes and blocks -/

theorem setCore_only (s : State) (n : Nat) (c : Core) : onlyLanes s (s.setCore n c) := ⟨_, _, _, rfl⟩
theorem setLoom_only (s : State) (n : Nat) (l : Loom) : onlyLanes s (s.setLoom n l) := ⟨_, _, _, rfl⟩
theorem putArb_only (s : State) (k : Nat) (a : Arb) : onlyLanes s (s.putArb k a) := ⟨_, _, _, rfl⟩
theorem answered_only (s : State) (c : Nat) : onlyLanes s (s.answered c) := setCore_only ..
theorem heddle_only (s : State) (c r : Nat) : onlyLanes s (heddle s c r) := setCore_only ..
theorem passCluster_only (s : State) (n v c : Nat) : onlyLanes s (passCluster s n v c) := by
  unfold passCluster; extract_lets; split
  · exact onlyLanes.rfl' s
  · exact (setLoom_only ..).trans (answered_only ..)
theorem serveAll_only (f : State → Nat → State) (hf : ∀ b c, onlyLanes b (f b c)) (n : Nat) (cs : List (Contender Nat)) (s : State) :
    onlyLanes s (serveAll f n s cs) := by
  induction cs generalizing s with
  | nil => exact onlyLanes.rfl' s
  | cons c cs ih =>
    refine onlyLanes.trans ?_ (ih _)
    split
    · exact (hf ..).trans (putArb_only ..)
    · exact hf ..
theorem giveClusters_only (s : State) (c : Nat) : onlyLanes s (giveClusters s c) :=
  serveAll_only _ (fun b _ => passCluster_only b _ _ _) _ _ s
theorem returnLanes_only (s : State) (c : Nat) : onlyLanes s (returnLanes s c) := (setLoom_only ..).trans (answered_only ..)
theorem wantReturn_only (s : State) (c : Nat) : onlyLanes s (wantReturn s c) := by
  unfold wantReturn; dsimp only; split
  · exact setCore_only ..
  · exact returnLanes_only ..
theorem leaveCore_only (s : State) (c : Nat) : onlyLanes s (leaveCore s c) := by
  unfold leaveCore; split
  · exact onlyLanes.rfl' s
  · exact wantReturn_only s c
theorem closeQueue_only (s : State) (c u : Nat) : onlyLanes s (closeQueue s c u) := by
  unfold closeQueue; extract_lets; split
  · split
    · exact (setCore_only ..).trans ((giveClusters_only ..).trans (returnLanes_only ..))
    · exact (setCore_only ..).trans (giveClusters_only ..)
  · exact onlyLanes.rfl' s
theorem yieldPromise_only (s : State) (n : Nat) : onlyLanes s (yieldPromise s n) := by
  unfold yieldPromise; extract_lets; split
  · exact onlyLanes.rfl' s
  · split
    · exact setLoom_only ..
    · exact onlyLanes.rfl' s
theorem offerBlock_only (s : State) (n : Nat) : onlyLanes s (offerBlock s n) := by
  unfold offerBlock; extract_lets; split
  · exact onlyLanes.rfl' s
  · split
    · exact (putArb_only ..).trans (setLoom_only ..)
    · exact onlyLanes.rfl' s
theorem serveDeficit_only (s : State) (n : Nat) : onlyLanes s (serveDeficit s n) := by
  unfold serveDeficit; extract_lets; split
  · exact onlyLanes.rfl' s
  · split
    · exact (putArb_only ..).trans (setLoom_only ..)
    · split
      · exact setLoom_only ..
      · exact onlyLanes.rfl' s
theorem reclaimBlock_only (b : Bool) (s : State) (n : Nat) : onlyLanes s (reclaimBlock b s n) := by
  unfold reclaimBlock; extract_lets u l
  have h : onlyLanes s u := by
    show onlyLanes s (if _ then _ else _); split
    · exact serveDeficit_only ..
    · exact onlyLanes.rfl' s
  split
  · extract_lets
    split
    · exact h.trans (setLoom_only ..)
    · exact h.trans (setLoom_only ..)
  · exact h
theorem arrangeRows_only (s : State) (n : Nat) : onlyLanes s (arrangeRows s n) := by
  unfold arrangeRows; dsimp only
  refine ((foldl_rel onlyLanes onlyLanes.rfl' onlyLanes.trans _ (fun b a => ?_) _ _).trans
    (foldl_rel onlyLanes onlyLanes.rfl' onlyLanes.trans _ (fun b _ => (yieldPromise_only b n).trans (offerBlock_only _ n)) _ _)).trans
    (foldl_rel onlyLanes onlyLanes.rfl' onlyLanes.trans _ (fun b _ => reclaimBlock_only false b n) _ _)
  repeat' split
  all_goals exact ⟨_, _, _, rfl⟩
theorem arrangeRows_cores (s : State) (n : Nat) : (arrangeRows s n).cores = s.cores := by
  have yield : ∀ b : State, (yieldPromise b n).cores = b.cores := by
    intro b; unfold yieldPromise; extract_lets; repeat' split
    all_goals rfl
  have offer : ∀ b : State, (offerBlock b n).cores = b.cores := by
    intro b; unfold offerBlock; extract_lets; split
    · rfl
    · split <;> rfl
  have serve : ∀ b : State, (serveDeficit b n).cores = b.cores := by
    intro b; unfold serveDeficit; extract_lets; repeat' split
    all_goals rfl
  have reclaim : ∀ b : State, (reclaimBlock false b n).cores = b.cores := by
    intro b; unfold reclaimBlock; extract_lets u l
    have h : u.cores = b.cores := by
      show (if _ then _ else _ : State).cores = _; split
      · exact serve b
      · rfl
    split
    · extract_lets
      split <;> exact h
    · exact h
  unfold arrangeRows; dsimp only
  refine (foldl_keep State.cores _ (fun b _ => reclaim b) _ _).trans
    ((foldl_keep State.cores _ (fun b _ => (offer _).trans (yield b)) _ _).trans (foldl_keep State.cores _ (fun b _ => ?_) _ _))
  repeat' split
  all_goals rfl
theorem detachCore_only (s : State) (c : Nat) : onlyLanes s (detachCore s c) := by
  unfold detachCore; extract_lets; exact (setCore_only ..).trans (arrangeRows_only ..)

/-! ## Interrupts, error queues -/

theorem setFunc_only (s : State) (n : Nat) (f : Func) : onlyFuncs s (s.setFunc n f) := ⟨_, _, _, _, rfl⟩
theorem store_only (s : State) (k n v : Nat) (b : Bool) : onlyFuncs s (s.store k n v b) := ⟨_, _, _, _, rfl⟩
theorem raiseVec_only (s : State) (fn v : Nat) : onlyFuncs s (raiseVec s fn v) := by
  unfold raiseVec; exact setFunc_only ..
theorem feqPush_only (s : State) (fn c a b : Nat) (x y : Word) : onlyFuncs s (feqPush s fn c a b x y) := by
  unfold feqPush
  extract_lets
  split
  · exact setFunc_only ..
  · exact (store_only ..).trans ((store_only ..).trans ((store_only ..).trans ((store_only ..).trans
      ((setFunc_only ..).trans (raiseVec_only ..)))))
theorem moveErrors_only (s : State) (sh : Shuttle) : onlyFuncs s (moveErrors s sh) := by
  unfold moveErrors; dsimp only
  have h := foldl_rel onlyFuncs onlyFuncs.rfl' onlyFuncs.trans
    (fun s (x : Word × Word) => feqPush s sh.place.part 7 sh.shid sh.place.launchId x.1 x.2)
    (fun b a => feqPush_only ..) sh.eq s
  split
  · exact h
  · exact h.trans ⟨_, _, _, _, rfl⟩

/-! ## Launch queues and counters -/

theorem setPart_only (s : State) (n : Nat) (p : Part) : onlyQueues s (s.setPart n p) := ⟨_, _, _, _, _, _, _, rfl⟩
theorem acceptLaunch_only (s : State) (l : Launch) : onlyQueues s (acceptLaunch s l).2 := ⟨_, _, _, _, _, _, _, rfl⟩
theorem enqueue_only (s : State) (l : Launch) : onlyQueues s (enqueue s l) := setPart_only ..
theorem dropIdx_only (s : State) (f : Treadle → Bool) : onlyQueues s { s with treadles := s.treadles.filter f } :=
  ⟨_, _, _, _, _, _, _, rfl⟩
theorem dropRoom_only (s : State) (f : Room → Bool) : onlyQueues s { s with rooms := s.rooms.filter f } := ⟨_, _, _, _, _, _, _, rfl⟩
theorem refillQueue_only (s : State) (p c : Nat) : onlyQueues s (refillQueue s p c) := by
  unfold refillQueue
  extract_lets
  split
  · exact onlyQueues.rfl' s
  · split
    · exact (dropRoom_only ..).trans ((setPart_only ..).trans (enqueue_only ..))
    · split
      · exact (setPart_only ..).trans ((acceptLaunch_only ..).trans ((enqueue_only ..).trans (dropIdx_only ..)))
      · exact onlyQueues.rfl' s
theorem newKey_only (s : State) : onlyQueues s s.newKey.2 := ⟨_, _, _, _, _, _, _, rfl⟩
theorem mapTreadles_only (s : State) (f : Treadle → Treadle) : onlyQueues s { s with treadles := s.treadles.map f } :=
  ⟨_, _, _, _, _, _, _, rfl⟩
theorem addCmd_only (s : State) (c : Cmd) : onlyQueues s { s with cmds := s.cmds ++ [c] } := ⟨_, _, _, _, _, _, _, rfl⟩
theorem fireTreadle_only (s : State) (t : Treadle) : onlyQueues s (fireTreadle s t) := by
  unfold fireTreadle
  split
  rename_i n s' hn
  have h0 : onlyQueues s s' := by have := newKey_only s; rw [hn] at this; exact this
  extract_lets
  split
  · exact h0.trans ((mapTreadles_only ..).trans ((newKey_only _).trans (addCmd_only ..)))
  · extract_lets
    split
    · exact h0.trans ((mapTreadles_only ..).trans (setPart_only ..))
    · exact h0.trans ((mapTreadles_only ..).trans ((acceptLaunch_only ..).trans ((enqueue_only ..).trans (dropIdx_only ..))))
  · exact h0.trans (mapTreadles_only ..)
theorem meetTreadle_only (s : State) (t : Treadle) : onlyQueues s (meetTreadle s t) := by
  unfold meetTreadle; split
  · exact mapTreadles_only ..
  · exact fireTreadle_only ..
theorem fireMet_only (s : State) (i n : Nat) : onlyQueues s (fireMet s i n) :=
  foldl_rel onlyQueues onlyQueues.rfl' onlyQueues.trans _ meetTreadle_only _ _
theorem fireDue_only (s : State) (n : Nat) : onlyQueues s (fireDue s n) :=
  foldl_rel onlyQueues onlyQueues.rfl' onlyQueues.trans _ fireTreadle_only _ _
theorem setFunc_queues (s : State) (n : Nat) (f : Func) : onlyQueues s (s.setFunc n f) := ⟨_, _, _, _, _, _, _, rfl⟩
theorem seeWatches_only (s : State) (fn i n : Nat) : onlyQueues s (seeWatches s fn i n) := by
  refine foldl_rel onlyQueues onlyQueues.rfl' onlyQueues.trans _ (fun b a => ?_) _ _
  extract_lets
  split
  · unfold raiseVec; exact (setFunc_queues ..).trans (setFunc_queues ..)
  · exact onlyQueues.rfl' b
theorem seeAllWatches_only (s : State) (i n : Nat) : onlyQueues s (seeAllWatches s i n) := by
  unfold seeAllWatches; split
  · exact ⟨_, _, _, _, _, _, _, rfl⟩
  · refine foldl_rel onlyQueues onlyQueues.rfl' onlyQueues.trans _ (fun b a => ?_) _ _
    split
    · exact seeWatches_only ..
    · exact ⟨_, _, _, _, _, _, _, rfl⟩
/-- The machine once a counter's update has been seen by the launches and the CTR.WAITs that wait for it. -/
def counterSeen (s : State) (i : Nat) (v : Word) : State :=
  (seeLaunches ((s.putCounter i v).stamp i) i v.toNat).mapShuttles (Shuttle.seen i v.toNat)
/-- A counter's update changes the counter and its time, the launches, treadles, copies and watches it sets off, and the
CTR.WAITs that it meets. -/
theorem counterSet_only (s : State) (i : Nat) (v : Word) : onlyQueues (counterSeen s i v) (counterSet s i v) :=
  (fireMet_only ..).trans (seeAllWatches_only ..)
theorem counter_counterSet (s : State) (i j : Nat) (v : Word) :
    (counterSet s i v).counter j = if j = i then v else s.counter j := by
  rw [← counter_putCounter]
  exact (counterSet_only s i v).get (fun s => s.counter j) (fun _ _ _ _ _ _ _ => rfl)
theorem seen_settledStatus {sh : Shuttle} {i v : Nat} (h : sh.status = .ready ∨ sh.status = .vacant) : sh.seen i v = sh := by
  unfold Shuttle.seen; rcases h with h | h <;> rw [h]
theorem lendSees_none {sh : Shuttle} {i v c : Nat} (h : sh.lend = none) : sh.lendSees i v c = sh := by
  unfold Shuttle.lendSees; rw [h]; cases sh; simp_all
theorem counterSet_cur (s : State) (i : Nat) (v : Word) :
    (counterSet s i v).cur = (s.cur.lendSees i v.toNat s.clock).seen i v.toNat :=
  (counterSet_only s i v).get State.cur (fun _ _ _ _ _ _ _ => rfl)
theorem counterSet_mem (s : State) (i : Nat) (v : Word) : (counterSet s i v).mem = s.mem :=
  (counterSet_only s i v).get State.mem (fun _ _ _ _ _ _ _ => rfl)
theorem counterSet_poisoned (s : State) (i : Nat) (v : Word) : (counterSet s i v).poisoned = s.poisoned :=
  (counterSet_only s i v).get State.poisoned (fun _ _ _ _ _ _ _ => rfl)
/-- A step of a launch's account leaves the issuing shuttle and storage. -/
theorem trackStep_only (s : State) (k : Nat) (f : Track → Track) (h : s.cur.status = .ready ∨ s.cur.status = .vacant)
    (hl : s.cur.lend = none) :
    (trackStep s k f).cur = s.cur ∧ (trackStep s k f).mem = s.mem ∧ (trackStep s k f).poisoned = s.poisoned := by
  unfold trackStep; dsimp only
  repeat' split
  all_goals first | exact ⟨rfl, rfl, rfl⟩ | skip
  unfold counterAdd
  refine ⟨(counterSet_cur ..).trans ?_, counterSet_mem .., counterSet_poisoned ..⟩
  exact (congrArg (Shuttle.seen _ _) (lendSees_none hl)).trans (seen_settledStatus h)
theorem leaveQueue_only (s : State) (l : Launch) (h : s.cur.status = .ready) (hl : s.cur.lend = none) :
    (leaveQueue s l).cur = s.cur ∧ (leaveQueue s l).mem = s.mem ∧ (leaveQueue s l).poisoned = s.poisoned := by
  unfold leaveQueue; dsimp only
  have r := refillQueue_only (s.setPart l.part { s.part l.part with queue := (s.part l.part).queue.filter fun x => x.key != l.key }) l.part l.cls
  have hc := r.get State.cur (fun _ _ _ _ _ _ _ => rfl)
  have t := trackStep_only _ l.key (fun t => { t with placing := false }) (.inl ((congrArg Shuttle.status hc).trans h)) ((congrArg Shuttle.lend hc).trans hl)
  exact ⟨t.1.trans hc, t.2.1.trans (r.get State.mem (fun _ _ _ _ _ _ _ => rfl)), t.2.2.trans (r.get State.poisoned (fun _ _ _ _ _ _ _ => rfl))⟩

/-! ## Shuttles -/

theorem onSlot_at {s : State} {core slot : Nat} {sh : Shuttle} (h : s.at core slot = some sh) (f : State → State) :
    onSlot s core slot f = (f (s.focus sh.uid)).backTo s.cur := by unfold onSlot; rw [h]
theorem handChild_cur (s : State) (sh : Shuttle) : (handChild s sh).cur = s.cur ∧ (handChild s sh).mem = s.mem := by
  unfold handChild; split
  · exact ⟨rfl, rfl⟩
  · exact ⟨(refillQueue_only ..).get State.cur (fun _ _ _ _ _ _ _ => rfl), (refillQueue_only ..).get State.mem (fun _ _ _ _ _ _ _ => rfl)⟩

end Sys2Proof.Machine
end

