-- ==== Sys2Proof/Machine/Source.lean ====
section
/-!
DEFINITION. Sys2Proof/Machine/Source.lean: the source lines of vycas (R68, R69): tokens, expressions, operands, the parts
of a line. A line that is none of these is an error, answered as none.
-/
namespace Sys2Proof.Tool
open Sys2Proof.Machine

/-! ## Tokens -/

/-- A token of a source line: a name, an unsigned number, a number with a fraction (m / 10^k), a quoted text, a mark. -/
inductive Tok where
  | name (s : String)
  | num (n : Nat)
  | real (m k : Nat)
  | text (s : String)
  | mark (s : String)
  deriving DecidableEq, Repr

/-- The characters of names (R68). -/
def nameStart (c : Char) : Bool := c.isAlpha || c == '_' || c == '.'
def nameChar (c : Char) : Bool := nameStart c || c.isDigit
/-- The value of a digit in a base up to 16. -/
def digitOf (c : Char) : Nat :=
  if c.isDigit then c.toNat - '0'.toNat else c.toUpper.toNat - 'A'.toNat + 10
def isDigitIn (base : Nat) (c : Char) : Bool :=
  (c.isDigit || ('A' ≤ c.toUpper && c.toUpper ≤ 'F')) && decide (digitOf c < base)
def numberOf (base : Nat) (cs : List Char) : Nat := cs.foldl (fun n c => n * base + digitOf c) 0

/-- A number at the head of a text: 0x and 0b digits, or decimal digits with perhaps a fraction. The marks 0X and 0B are read alike.
Log entry 77, DESIGN CHOICE. -/
def lexNumber (cs : List Char) : Option (Tok × List Char) :=
  let based (base : Nat) (rest : List Char) : Option (Tok × List Char) :=
    let (d, r) := rest.span (isDigitIn base)
    if d.isEmpty then none else some (.num (numberOf base d), r)
  match cs with
  | '0' :: 'x' :: rest => based 16 rest
  | '0' :: 'X' :: rest => based 16 rest
  | '0' :: 'b' :: rest => based 2 rest
  | '0' :: 'B' :: rest => based 2 rest
  | _ =>
    let (d, r) := cs.span Char.isDigit
    match r with
    | '.' :: f :: r' =>
      let (g, r'') := (f :: r').span Char.isDigit
      if g.isEmpty then some (.num (numberOf 10 d), r) else some (.real (numberOf 10 (d ++ g)) g.length, r'')
    | _ => some (.num (numberOf 10 d), r)

/-- The tokens of a line up to its comment (R68). Log entry 60, DEDUCED. -/
def lex : Nat → List Char → Option (List Tok)
  | 0, _ => some []
  | n + 1, cs =>
    let more (t : Tok) (r : List Char) : Option (List Tok) := (lex n r).map (t :: ·)
    match cs with
    | [] => some []
    | ';' :: _ => some []
    | ' ' :: r => lex n r
    | '\t' :: r => lex n r
    | '\'' :: c :: '\'' :: r => more (.num c.toNat) r
    | '"' :: r =>
      match r.span (· != '"') with
      | (s, _ :: r') => more (.text (String.ofList s)) r'
      | _ => none
    | '<' :: '<' :: r => more (.mark "<<") r
    | '>' :: '>' :: r => more (.mark ">>") r
    | c :: r =>
      if c.isDigit then (lexNumber cs).bind fun x => more x.1 x.2
      else if nameStart c then
        let (s, r') := cs.span nameChar
        more (.name (String.ofList s)) r'
      else if [',', ':', '?', '[', ']', '(', ')', '+', '-', '*', '/', '%', '&', '|', '^', '~'].contains c then
        more (.mark (String.singleton c)) r
      else none

/-- The tokens of a line of text. -/
def tokens (line : String) : Option (List Tok) := lex (line.length + 1) line.toList

/-- A text in capitals: mnemonics, directives, register names and suffixes are read in any case (R68). -/
def capitals (s : String) : String := String.ofList (s.toList.map Char.toUpper)

/-! ## Expressions (R69) -/

/-- An expression; `here` is the symbol `.`. -/
inductive Expr where
  | num (n : Nat)
  | sym (s : String)
  | here
  | inv (e : Expr)
  | neg (e : Expr)
  | bin (op : String) (a b : Expr)
  deriving DecidableEq, Repr

/-- The precedence of a binary operator, as in C. -/
def precOf (op : String) : Option Nat :=
  if op = "|" then some 1 else if op = "^" then some 2 else if op = "&" then some 3
  else if op = "<<" ∨ op = ">>" then some 4 else if op = "+" ∨ op = "-" then some 5
  else if op = "*" ∨ op = "/" ∨ op = "%" then some 6 else none

/-- An expression whose binary operators have at least precedence `low`, from an operand already read or from its first
token; and the tokens after it. -/
def parseExpr : Nat → Nat → Option Expr → List Tok → Option (Expr × List Tok)
  | 0, _, _, _ => none
  | n + 1, low, some a, ts =>
    match ts with
    | .mark op :: r =>
      match precOf op with
      | some k =>
        if low ≤ k then (parseExpr n (k + 1) none r).bind fun x => parseExpr n low (some (.bin op a x.1)) x.2
        else some (a, ts)
      | none => some (a, ts)
    | _ => some (a, ts)
  | n + 1, low, none, ts =>
    match ts with
    | .num v :: r => parseExpr n low (some (.num v)) r
    | .name "." :: r => parseExpr n low (some .here) r
    | .name s :: r => parseExpr n low (some (.sym s)) r
    | .mark "-" :: r => (parseExpr n 7 none r).bind fun x => parseExpr n low (some (.neg x.1)) x.2
    | .mark "+" :: r => (parseExpr n 7 none r).bind fun x => parseExpr n low (some x.1) x.2
    | .mark "~" :: r => (parseExpr n 7 none r).bind fun x => parseExpr n low (some (.inv x.1)) x.2
    | .mark "(" :: r =>
      (parseExpr n 0 none r).bind fun x =>
        match x.2 with
        | .mark ")" :: r' => parseExpr n low (some x.1) r'
        | _ => none
    | _ => none

/-- A whole expression. -/
def exprOf (ts : List Tok) : Option Expr :=
  match parseExpr (2 * ts.length + 2) 0 none ts with
  | some (e, []) => some e
  | _ => none

/-- A value: its 64 bits, and how often the load addresses of `.text` and of `.data` enter it. -/
structure Val where
  v : Word
  inText : Int := 0
  inData : Int := 0
  deriving DecidableEq, Repr

/-- A value that needs no load address. -/
def Val.fixed (x : Val) : Bool := x.inText == 0 && x.inData == 0

/-- The operators: 64-bit two's complement (R69). None is an error. -/
def applyOp (op : String) (a b : Word) : Option Word :=
  if op = "+" then some (a + b) else if op = "-" then some (a - b) else if op = "*" then some (a * b)
  else if op = "/" then (if b = 0 then none else some (a.sdiv b))
  else if op = "%" then (if b = 0 then none else some (a.srem b))
  else if op = "<<" then (if b.toNat ≤ 63 then some (a <<< b.toNat) else none)
  else if op = ">>" then (if b.toNat ≤ 63 then some (a.sshiftRight b.toNat) else none)
  else if op = "&" then some (a &&& b) else if op = "|" then some (a ||| b) else if op = "^" then some (a ^^^ b)
  else none

/-- The value of an expression, with the values of its symbols and of `.`. Sums and differences may involve load
addresses; every other operator needs values that do not (R74). Log entry 61, DEDUCED. A literal of 2^64 or more is an error. Log
entry 88, DESIGN CHOICE. -/
def Expr.eval (sym : String → Option Val) (dot : Val) : Expr → Option Val
  | .num n => if n < 2 ^ 64 then some ⟨BitVec.ofNat 64 n, 0, 0⟩ else none
  | .sym s => sym s
  | .here => some dot
  | .inv e => (e.eval sym dot).bind fun x => if x.fixed then some ⟨~~~x.v, 0, 0⟩ else none
  | .neg e => (e.eval sym dot).map fun x => ⟨-x.v, -x.inText, -x.inData⟩
  | .bin op a b =>
    (a.eval sym dot).bind fun x => (b.eval sym dot).bind fun y =>
      if op = "+" then some ⟨x.v + y.v, x.inText + y.inText, x.inData + y.inData⟩
      else if op = "-" then some ⟨x.v - y.v, x.inText - y.inText, x.inData - y.inData⟩
      else if x.fixed && y.fixed then (applyOp op x.v y.v).map fun v => ⟨v, 0, 0⟩ else none

/-! ## Registers and operands (Tables 4-1 and 4-3) -/

/-- The register files. -/
inductive File where
  | s | v | p | e | t | b
  deriving DecidableEq, Repr

/-- A number written without leading zeros, below a bound. -/
def regNumber (bound : Nat) (ds : List Char) : Option Nat :=
  if ds.isEmpty || !(ds.all Char.isDigit) || (ds.head? == some '0' && ds.length != 1) then none
  else if numberOf 10 ds < bound then some (numberOf 10 ds) else none

/-- The register that a name spells, in any case: a register of a file, or an alias of Table 4-3. -/
def registerOf (name : String) : Option (File × Nat) :=
  let u := capitals name
  if u = "ZERO" then some (.s, 0) else if u = "LK" then some (.s, 1) else if u = "SP" then some (.s, 2)
  else if u = "FP" then some (.s, 3)
  else match u.toList with
    | 'A' :: ds => (regNumber 8 ds).map fun n => (.s, 4 + n)
    | 'S' :: ds => (regNumber 32 ds).map fun n => (.s, n)
    | 'V' :: ds => (regNumber 32 ds).map fun n => (.v, n)
    | 'P' :: ds => (regNumber 8 ds).map fun n => (.p, n)
    | 'E' :: ds => (regNumber 8 ds).map fun n => (.e, n)
    | 'T' :: ds => (regNumber 4 ds).map fun n => (.t, n)
    | 'B' :: ds => (regNumber 32 ds).map fun n => (.b, n)
    | _ => none

/-- The control registers by name (Tables 6-1 and 6-2). -/
def cregs : List (String × Nat) :=
  (["VL", "VTYPE", "VSTART", "VLMAX", "VLEN", "VGRANT", "VACT", "XSTOP", "VFLAGS", "FFLAGS", "FCTL", "VSEED", "STRIP",
    "SREM", "MGRANT", "MSHAPE", "CPCTL", "SHID", "CORE", "LOOM", "CHIP", "PART", "OWNER", "CLOCK", "EQCNT",
    "LAUNCHID"].zipIdx)
  ++ (["ESTAT", "EPC", "ECAUSE", "EADDR", "EINFO", "TVEC", "SSCRATCH", "CTXPTR", "HWEMAP", "PGSTAT", "SCOPEDEM",
    "CKSTAT"].zipIdx 0x100)
def cregOf (name : String) : Option Nat := (cregs.find? fun x => x.1 == capitals name).map (·.2)

/-- The ETYPE codes by name (Table 7-1). -/
def etypes : List (String × Nat) :=
  (["I8", "I16", "I32", "I64", "N8", "N16", "N32", "N64", "F8E4", "F8E5", "F4", "F16", "B16", "F32", "F64"].zipIdx)
  ++ (["Q1", "Q2", "Q3", "Q4", "Q5", "Q6", "Q7", "Q8", "Q9", "Q10", "Q11", "Q12", "Q13", "Q14", "Q15", "Q16"].zipIdx 16)
def etypeOf (name : String) : Option Nat := (etypes.find? fun x => x.1 == capitals name).map (·.2)

/-- A name that may be a label or a symbol: it spells no register and no alias, and is not `.` (R68). Log entry 60,
DEDUCED. -/
def symbolName (s : String) : Bool := (registerOf s).isNone && (cregOf s).isNone && s != "."

/-- An operand: a register, `[base]`, `[base+e]` and `[base-e]`, or an expression, which stands for immediates, targets,
control registers and the words of a VTYPE. -/
inductive Operand where
  | reg (f : File) (n : Nat)
  | mem (base : Nat) (off : Option Expr)
  | ex (e : Expr)
  deriving DecidableEq, Repr

/-- The operand that some tokens spell. -/
def operandOf (ts : List Tok) : Option Operand :=
  match ts with
  | .mark "[" :: .name r :: rest =>
    match registerOf r, rest.getLast? with
    | some (.s, n), some (.mark "]") =>
      match rest.dropLast with
      | [] => some (.mem n none)
      | .mark "+" :: e => (exprOf e).map fun x => .mem n (some x)
      | .mark "-" :: e => (exprOf e).map fun x => .mem n (some (.neg x))
      | _ => none
    | _, _ => none
  | [.name r] =>
    match registerOf r with
    | some (f, n) => some (.reg f n)
    | none => (exprOf ts).map .ex
  | _ => (exprOf ts).map .ex

/-! ## Lines (R68, R70) -/

/-- The parts of a source line: label, guard, mnemonic or directive in capitals, the tokens of each operand. -/
structure Line where
  label : Option String := none
  guard : Option Nat := none
  op : Option String := none
  args : List (List Tok) := []
  deriving DecidableEq, Repr

/-- The tokens between commas. -/
def splitCommas : List Tok → List (List Tok)
  | [] => [[]]
  | .mark "," :: r => [] :: splitCommas r
  | t :: r =>
    match splitCommas r with
    | x :: xs => (t :: x) :: xs
    | [] => [[t]]

/-- A line without its label. A guard that no mnemonic follows is an error. Log entry 77, DESIGN CHOICE. -/
def bodyOf (label : Option String) (ts : List Tok) : Option Line :=
  let rest (guard : Option Nat) (ts : List Tok) : Option Line :=
    match ts with
    | .name m :: [] => some { label := label, guard := guard, op := some (capitals m) }
    | .name m :: r =>
      let args := splitCommas r
      if args.any List.isEmpty then none else some { label := label, guard := guard, op := some (capitals m), args := args }
    | _ => none
  match ts with
  | [] => some { label := label }
  | .mark "?" :: .name p :: r =>
    match registerOf p with
    | some (.p, n) => rest (some n) r
    | _ => none
  | _ => rest none ts

/-- A source line; none where it has another form. -/
def lineOf (text : String) : Option Line :=
  (tokens text).bind fun ts =>
    match ts with
    | .name l :: .mark ":" :: r => if symbolName l then bodyOf (some l) r else none
    | _ => bodyOf none ts

end Sys2Proof.Tool
end

