-- ==== Sys2Proof/Machine/Vycas.lean ====
section
/-!
DEFINITION. Sys2Proof/Machine/Vycas.lean: the written form of every instruction, from the line of its entry to its bits
(R69 to R71), and what vycas checks of the instructions before it (R71, R72).
-/
namespace Sys2Proof.Tool
open Sys2Proof.Machine

/-! ## Written forms -/

/-- How an instruction uses a register operand: as an index group it also reads it. -/
inductive Use where
  | rd | wr | both | idx | none
  deriving DecidableEq, Repr

/-- Where an operand stands in the encoding: a register by the lowest bit of its field, `[base]`, `[base+off11]`,
`[sp+off]` of a compressed form, a signed or unsigned immediate by its lowest bit and width, BFLD's length, a target in
parcels by its width, a control register, the words of a VTYPE. -/
inductive Slot where
  | reg (f : File) (lo : Nat) (u : Use)
  | mem (lo : Nat)
  | memOff
  | spOff
  | si (lo n : Nat)
  | ui (lo n : Nat)
  | len
  | jump (n : Nat)
  | creg
  | vtype
  deriving DecidableEq, Repr

/-- The type suffixes that follow a mnemonic: none; one, which is only checked; dst and src of VCVT; the types of a tile
operation (R71). -/
inductive Suffix where
  | none | type | conv | pair
  deriving DecidableEq, Repr

/-- One written form: mnemonic with its sub-field suffixes, bytes, bits without operands, operands in order. -/
structure Form where
  name : String
  len : Nat := 4
  base : Nat
  slots : List Slot
  suffix : Suffix := .none
  deriving DecidableEq, Repr

/-- Forms whose bits differ by their place in a list. -/
def family (names : List String) (base step : Nat) (slots : List Slot) (sx : Suffix := .none) : List Form :=
  names.zipIdx.map fun x => { name := x.1, base := base + x.2 * step, slots := slots, suffix := sx }

/-- The scalar fields of Table 3-1: sd, sa, sb, sc. -/
def oD : Slot := .reg .s 19 .wr
def oA : Slot := .reg .s 14 .rd
def oB : Slot := .reg .s 9 .rd
def oC : Slot := .reg .s 4 .rd
/-- The vector fields: vd, a, vb. -/
def oVd : Slot := .reg .v 15 .wr
def oVa : Slot := .reg .v 10 .rd
def oVb : Slot := .reg .v 5 .rd

/-- The operations of AMO and VAMO in order of fn, and the orders of AMO and CAS. -/
def amoOps : List String := ["SWAP", "ADD", "AND", "OR", "XOR", "MIN", "MAX", "MINN", "MAXN"]
def amoOrds : List String := ["", ".AQ", ".RL", ".AQRL"]

/-- Integer instructions, loads, stores, branches, atomics, fences (R124 to R137). -/
def formsScalar : List Form :=
  family ["ADD", "SUB", "AND", "OR", "XOR", "ANDN", "ORN", "SHL", "SHR", "SAR", "ROL", "ROR", "SLT", "SLTN", "MIN",
    "MAX", "MINN", "MAXN", "MUL", "MULH", "MULHN", "DIV", "DIVN", "REM", "REMN"] 0x81000000 1 [oD, oA, oB]
  ++ family ["CLZ", "CTZ", "POPC"] 0x81000019 1 [oD, oA]
  ++ family ["SEXT"] 0x8100001C 1 [oD, oA, oB]
  ++ family ["ADDI", "ANDI", "ORI", "XORI"] 0x82000000 0x1000000 [oD, oA, .si 0 14]
  ++ family ["SHLI", "SHRI", "SARI"] 0x86000000 0x1000 [oD, oA, .ui 0 6]
  ++ family ["SLTI", "SLTNI"] 0x87000000 0x1000000 [oD, oA, .si 0 14]
  ++ family ["LUI", "ADPC"] 0x89000000 0x1000000 [oD, .si 0 19]
  ++ family ["BEXT", "BEXT.S"] 0x8B000000 0x1000 [oD, oA, .ui 6 6, .len]
  ++ family ["BINS"] 0x8B002000 0 [.reg .s 19 .both, oA, .ui 6 6, .len]
  ++ family ["LD.S8", "LD.S16", "LD.S32", "LD.64", "LD.N8", "LD.N16", "LD.N32"] 0x8C000000 0x800 [oD, .memOff]
  ++ family ["ST.8", "ST.16", "ST.32", "ST.64"] 0x8D000000 0x800 [.reg .s 19 .rd, .memOff]
  ++ family ["LDA.S32", "LDA.64"] 0x8E001000 0x800 [oD, .memOff]
  ++ family ["LDA.N32"] 0x8E003000 0 [oD, .memOff]
  ++ family ["STL.32", "STL.64"] 0x8F001000 0x800 [.reg .s 19 .rd, .memOff]
  ++ family ["BEQ", "BNE", "BLT", "BGE", "BLTN", "BGEN"] 0x90000000 0x1000000 [.reg .s 19 .rd, oA, .jump 14]
  ++ family ["JMP", "CALL"] 0x96000000 0x1000000 [.jump 24]
  ++ family ["JR"] 0x98000000 0 [oA]
  ++ family ["CALLR"] 0x98000001 0 [oD, oA]
  ++ (amoOrds.zipIdx.flatMap fun o => ["W", "D"].zipIdx.flatMap fun z =>
      family (amoOps.map fun n => "AMO." ++ n ++ "." ++ z.1 ++ o.1) (0x99000000 + 16 * z.2 + 32 * o.2) 1
        [oD, .mem 14, oB])
  ++ (amoOrds.zipIdx.flatMap fun o =>
      family ["CAS.W" ++ o.1, "CAS.D" ++ o.1] (0x9A000000 + 2 * o.2) 1 [oD, .mem 14, oB, oC])
  ++ (["CORE", "LOOM", "CHIP", "PART", "SYS"].zipIdx.flatMap fun x =>
      family (["SV", "VS", "VV", "ALL"].map fun k => "FENCE." ++ k ++ "." ++ x.1) (0x9B000000 + 4 * x.2) 1 [])

/-- System, control-register, launch and scalar floating-point instructions (R138 to R148). -/
def formsSystem : List Form :=
  [⟨"TRAP", 4, 0x9C000000, [oA], .none⟩, ⟨"RETT", 4, 0x9C000001, [], .none⟩, ⟨"CKPT", 4, 0x9C000002, [oD], .none⟩,
    ⟨"EXIT", 4, 0x9C000003, [], .none⟩, ⟨"YIELD", 4, 0x9C000004, [], .none⟩, ⟨"SLOOP", 4, 0x9C000005, [oA], .none⟩]
  ++ family ["CRR"] 0x9D000000 0 [oD, .creg]
  ++ family ["CRW", "CRS", "CRC"] 0x9D000001 1 [oD, .creg, oA]
  ++ family ["SNEXT"] 0x9E000000 0 [.jump 24]
  ++ family ["LAUNCH", "LAUNCH.LEND"] 0x9F000000 1 [oD, .mem 14]
  ++ ([".F32", ".F64"].zipIdx.flatMap fun t =>
      let n (l : List String) : List String := l.map (· ++ t.1)
      let b := 0xA0000000 + 128 * t.2
      family (n ["FADD", "FSUB", "FMUL", "FDIV"]) b 1 [oD, oA, oB]
      ++ family (n ["FSQRT"]) (b + 4) 1 [oD, oA]
      ++ family (n ["FMIN", "FMAX", "FCMP.EQ", "FCMP.LT", "FCMP.LE"]) (b + 5) 1 [oD, oA, oB]
      ++ family (n ["FCLASS", "FCVT.F", "FCVT.I64", "FCVT.N64", "FCVT.FI", "FCVT.FN"]) (b + 10) 1 [oD, oA]
      ++ family (n ["FMA", "FMS", "FNMA", "FNMS"]) (0xA1000000 + 4 * t.2) 1 [oD, oA, oB, oC])

/-- Vector types and memory (R169, R170, R172, R175, R191, R226, R270). -/
def formsVMem : List Form :=
  family ["VSETL"] 0xA8000000 0 [oD, oA, .vtype]
  ++ (["", ".NR"].zipIdx.flatMap fun r =>
      let b := 0xA9000000 + 8 * r.2
      let st := 0xAA000000 + 8 * r.2
      family ["VLD" ++ r.1] b 0 [oVd, .mem 10] .type
      ++ family ["VLD.S" ++ r.1] (b + 1) 0 [oVd, .mem 10, .reg .s 5 .rd] .type
      ++ family ["VLD.X" ++ r.1] (b + 2) 0 [oVd, .mem 10, .reg .v 5 .idx] .type
      ++ family ["VLD.FF" ++ r.1] (b + 3) 0 [oVd, .mem 10] .type
      ++ family ["VLD.P" ++ r.1] (b + 4) 0 [oVd, .mem 10, .reg .s 5 .rd] .type
      ++ family ["VST" ++ r.1] st 0 [.reg .v 15 .rd, .mem 10] .type
      ++ family ["VST.S" ++ r.1] (st + 1) 0 [.reg .v 15 .rd, .mem 10, .reg .s 5 .rd] .type
      ++ family ["VST.X" ++ r.1, "VST.XO" ++ r.1] (st + 2) 1 [.reg .v 15 .rd, .mem 10, .reg .v 5 .idx] .type
      ++ family ["VST.P" ++ r.1] (st + 4) 0 [.reg .v 15 .rd, .mem 10, .reg .s 5 .rd] .type)
  ++ family (amoOps.map fun n => "VAMO." ++ n) 0xAB000000 1 [.reg .v 15 .rd, .mem 10, .reg .v 5 .idx] .type
  ++ family (amoOps.map fun n => "VAMO." ++ n ++ ".R") 0xAB000010 1 [.reg .v 15 .both, .mem 10, .reg .v 5 .idx] .type
  ++ [⟨"VSCL.LD", 4, 0xB7000000, [.reg .e 15 .wr, .mem 10], .none⟩,
    ⟨"VSCL.ST", 4, 0xB7000001, [.reg .e 15 .rd, .mem 10], .none⟩,
    ⟨"VSCL.FIT", 4, 0xB7000002, [.reg .e 15 .wr, oVb], .none⟩,
    ⟨"VSCL.MOV", 4, 0xB7000003, [.reg .e 15 .wr, .reg .e 5 .rd], .none⟩,
    ⟨"VSETT", 4, 0xB8000000, [oD, oA, oB], .none⟩, ⟨"VSETB", 4, 0xB8000001, [oD, .reg .b 14 .none, oB], .none⟩,
    ⟨"VCTX.SV", 4, 0xB8000002, [oA], .none⟩, ⟨"VCTX.RS", 4, 0xB8000003, [oA], .none⟩]

/-- The VINT functions in order of fn (Table 9-2). -/
def vintNames : List String :=
  ["VADD", "VSUB", "VRSUB", "VMUL", "VMULH", "VMULHN", "VMADD", "VDIV", "VDIVN", "VREM", "VREMN", "VAND", "VOR", "VXOR",
    "VSHL", "VSHR", "VSAR", "VMIN", "VMAX", "VMINN", "VMAXN", "VSADD", "VSSUB", "VSADDN", "VSSUBN", "VABSD", "VMERGE",
    "VMOV"]

/-- Field a of VV, VX and VI (R193): the major that each kind of operand chooses. Shift amounts are unsigned (R51). -/
def fieldA (shift : Bool) : List (Slot × Nat) :=
  [(oVa, 0), (.reg .s 10 .rd, 1), (if shift then .ui 10 5 else .si 10 5, 2)]

/-- Vector compute (R171, R197 to R214). An operand that an entry requires to be zero is not written. Log entry 62,
DEDUCED. -/
def formsVector : List Form :=
  (vintNames.zipIdx.flatMap fun x => (fieldA (decide (14 ≤ x.2 ∧ x.2 ≤ 16))).map fun a =>
    { name := x.1, base := 0xAC000000 + a.2 * 0x1000000 + x.2, suffix := .type,
      slots := (if x.2 = 6 then .reg .v 15 .both else oVd) :: a.1 :: (if x.2 = 27 then [] else [oVb]) })
  ++ ((fieldA false).take 2).flatMap (fun a =>
      let b := 0xAF000000 + a.2 * 0x1000000
      family ["VFADD", "VFSUB", "VFMUL", "VFDIV"] b 1 [oVd, a.1, oVb] .type
      ++ family ["VFMA", "VFMS", "VFNMA"] (b + 5) 1 [.reg .v 15 .both, a.1, oVb] .type
      ++ family ["VFMIN", "VFMAX"] (b + 8) 1 [oVd, a.1, oVb] .type)
  ++ family ["VFSQRT"] 0xAF000004 0 [oVd, oVb] .type
  ++ family ["VFABS", "VFNEG", "VFRCP", "VFRSQ", "VFEXP2", "VFLOG2", "VFCLASS"] 0xAF00000A 1 [oVd, oVb] .type
  ++ (["VCMP", "VCMPX"].zipIdx.flatMap fun x => ["", ".N"].zipIdx.flatMap fun n =>
      ((fieldA false).take 2).flatMap fun a =>
        family (["EQ", "NE", "LT", "LE", "GT", "GE"].map fun c => x.1 ++ "." ++ c ++ n.1)
          (0xB1000000 + 16 * x.2 + 8 * n.2 + a.2 * 0x80000) 1 [.reg .p 15 .wr, a.1, oVb] .type)
  ++ family ["PAND", "POR", "PXOR", "PANDN"] 0xB2000000 1 [.reg .p 15 .wr, .reg .p 10 .rd, .reg .p 5 .rd]
  ++ family ["PNOT", "PMOV"] 0xB2000004 1 [.reg .p 15 .wr, .reg .p 5 .rd]
  ++ family ["PSET"] 0xB2000006 1 [.reg .p 15 .wr]
  ++ family ["PSBF", "PSIF", "PSOF"] 0xB2000007 1 [.reg .p 15 .wr, .reg .p 5 .rd]
  ++ family ["PPOPC", "PFIRST"] 0xB200000A 1 [.reg .s 15 .wr, .reg .p 5 .rd]
  ++ family ["VRSUM", "VRSUM.O", "VRMAX", "VRMIN", "VRMAXN", "VRMINN", "VRAND", "VROR", "VRXOR"] 0xB3000000 1
      [.reg .s 15 .wr, .reg .s 10 .rd, oVb] .type
  ++ family ["VSLUP", "VSLDN"] 0xB4000000 1 [oVd, .reg .s 10 .rd, oVb] .type
  ++ family ["VPERM"] 0xB4000002 1 [oVd, oVa, oVb] .type
  ++ family ["VCOMP", "VXPND"] 0xB4000003 1 [oVd, oVb] .type
  ++ family ["VMVS"] 0xB4000005 1 [.reg .s 15 .wr, .reg .s 10 .rd, oVb] .type
  ++ family ["VMVV"] 0xB4000006 1 [oVd, .reg .s 10 .rd, .reg .s 5 .rd] .type
  ++ family ["VIOTA"] 0xB4000007 1 [oVd] .type
  ++ family ["VSCAN"] 0xB4000008 1 [oVd, .reg .s 10 .rd, oVb] .type
  ++ ([("", 0), (".RNE", 16), (".RTZ", 17), (".RDN", 18), (".RUP", 19)].flatMap fun r =>
      ["", ".SR"].zipIdx.flatMap fun s => ["", ".SAT"].zipIdx.flatMap fun q =>
        family ["VCVT" ++ r.1 ++ s.1 ++ q.1] (0xB5000000 + r.2 + 4 * s.2 + 8 * q.2) 0 [oVd, oVb] .conv)
  ++ family ["VQADD", "VQSUB", "VQMUL"] 0xB6000000 1 [oVd, oVa, oVb] .type
  ++ family ["VQMAC"] 0xB6000003 1 [.reg .v 15 .both, oVa, oVb] .type
  ++ family ["VQDOT", "VQSHR"] 0xB6000004 1 [oVd, oVa, oVb] .type

/-- Engines, counters, accounts (R235 to R237, R255, R266 to R269, Tables 14-6, 15-8 and 17-3). -/
def formsEngine : List Form :=
  let bn : Slot := .reg .b 19 .none
  let ba : Slot := .reg .b 14 .none
  [⟨"MAT.ATT", 4, 0xB9000000, [oD, oA], .none⟩, ⟨"MAT.DET", 4, 0xB9000001, [], .none⟩,
    ⟨"MAT.SHP", 4, 0xB9000002, [oD, oA], .none⟩,
    ⟨"CPY.MS", 4, 0xBA000000, [bn, .mem 14, .mem 9, oC], .none⟩,
    ⟨"CPY.SM", 4, 0xBA000001, [bn, .mem 14, .mem 9, oC], .none⟩,
    ⟨"CPY.MR", 4, 0xBA000002, [bn, .reg .v 14 .wr, .mem 9, oC], .none⟩,
    ⟨"CPY.RM", 4, 0xBA000003, [bn, .mem 14, .reg .v 9 .rd, oC], .none⟩,
    ⟨"CPY.RR", 4, 0xBA000004, [bn, oA, .reg .v 9 .rd, oC], .none⟩,
    ⟨"CPY.MM", 4, 0xBA000005, [bn, .mem 14, .mem 9, oC], .none⟩,
    ⟨"CPY.GS", 4, 0xBA000006, [bn, .mem 14, .mem 9, .reg .v 4 .rd], .none⟩,
    ⟨"CPY.LZ", 4, 0xBA000007, [bn, oA, .mem 9, oC], .none⟩,
    ⟨"BWAIT", 4, 0xBB000000, [ba], .none⟩, ⟨"BCHK", 4, 0xBB000001, [.reg .p 19 .wr, ba, oB], .none⟩,
    ⟨"BREL", 4, 0xBB000002, [ba], .none⟩, ⟨"BSTAT", 4, 0xBB000003, [oD, ba, oB], .none⟩,
    ⟨"LZ.OPEN", 4, 0xBC000000, [oD, .mem 14, oB], .none⟩, ⟨"LZ.CLOSE", 4, 0xBC000001, [oA], .none⟩,
    ⟨"LZ.RESV", 4, 0xBC000002, [oD, oA, oB], .none⟩, ⟨"LZ.WAIT", 4, 0xBC000003, [oD, oA], .none⟩,
    ⟨"LZ.FREE", 4, 0xBC000004, [oA], .none⟩, ⟨"LZ.STAT", 4, 0xBC000005, [oD, oA], .none⟩,
    ⟨"CTR.ADD", 4, 0xBD000000, [oD, oA, oB], .none⟩, ⟨"CTR.RD", 4, 0xBD000001, [oD, oA], .none⟩,
    ⟨"CTR.SET", 4, 0xBD000002, [oD, oA, oB], .none⟩, ⟨"CTR.WAIT", 4, 0xBD000003, [oA, oB], .none⟩,
    ⟨"TRDL.ARM", 4, 0xBD000004, [oD, oA, oB], .none⟩, ⟨"TRDL.X", 4, 0xBD000005, [oD, oA], .none⟩,
    ⟨"TRDL.STAT", 4, 0xBD000006, [oD, oA], .none⟩, ⟨"EQ.POP", 4, 0xBD000007, [oD, oB], .none⟩,
    ⟨"EQ.CNT", 4, 0xBD000008, [oD, oB], .none⟩, ⟨"FAB.QUIET", 4, 0xBD000009, [oD], .none⟩,
    ⟨"OWN.SET", 4, 0xBE000000, [oD, oA], .none⟩]
  ++ family ["HARM.RD", "DMX.RD", "DMX.AGG", "ENE.RD"] 0xBE000001 1 [oD, oA, oB]

/-- Tile operations (R242 to R247) and compressed instructions (R149). -/
def formsTileC : List Form :=
  let tl : Slot := .reg .t 50 .none
  let ab : List Slot := [tl, .reg .v 45 .rd, .reg .v 40 .rd]
  [⟨"MOP", 8, 0xC000000000000000, ab, .pair⟩,
    ⟨"MOP", 8, 0xC000000000200000, ab ++ [.reg .e 18 .rd, .reg .e 15 .rd], .pair⟩,
    ⟨"MOPS", 8, 0xC100000000000000, ab, .pair⟩, ⟨"MZERO", 8, 0xC200000000000000, [tl], .none⟩,
    ⟨"MTLD", 8, 0xC300000000000000, [tl, .mem 35, .reg .s 10 .rd], .none⟩,
    ⟨"MTST", 8, 0xC400000000000000, [tl, .mem 35, .reg .s 10 .rd], .none⟩,
    ⟨"MROW", 8, 0xC500000000000000, [.reg .v 45 .wr, tl, .reg .s 35 .rd], .none⟩,
    ⟨"MWROW", 8, 0xC600000000000000, [tl, .reg .v 45 .rd, .reg .s 35 .rd], .none⟩,
    ⟨"C.ADDI", 2, 0x0000, [.reg .s 6 .both, .si 0 6], .none⟩, ⟨"C.LI", 2, 0x0800, [.reg .s 6 .wr, .si 0 6], .none⟩,
    ⟨"C.MOV", 2, 0x1000, [.reg .s 6 .wr, .reg .s 0 .rd], .none⟩,
    ⟨"C.ADD", 2, 0x1800, [.reg .s 6 .both, .reg .s 0 .rd], .none⟩,
    ⟨"C.SUB", 2, 0x2000, [.reg .s 6 .both, .reg .s 0 .rd], .none⟩,
    ⟨"C.AND", 2, 0x2800, [.reg .s 6 .both, .reg .s 0 .rd], .none⟩,
    ⟨"C.SHLI", 2, 0x3000, [.reg .s 6 .both, .ui 0 6], .none⟩,
    ⟨"C.SHRI", 2, 0x3800, [.reg .s 6 .both, .ui 0 6], .none⟩,
    ⟨"C.LDSP", 2, 0x4000, [.reg .s 6 .wr, .spOff], .none⟩, ⟨"C.STSP", 2, 0x4800, [.reg .s 6 .rd, .spOff], .none⟩,
    ⟨"C.BEQZ", 2, 0x5000, [.reg .s 6 .rd, .jump 6], .none⟩, ⟨"C.BNEZ", 2, 0x5800, [.reg .s 6 .rd, .jump 6], .none⟩,
    ⟨"C.J", 2, 0x6000, [.jump 11], .none⟩, ⟨"C.JR", 2, 0x6800, [.reg .s 6 .rd], .none⟩,
    ⟨"C.NOP", 2, 0x7000, [], .none⟩]

/-- Every written form. -/
def forms : List Form := formsScalar ++ formsSystem ++ formsVMem ++ formsVector ++ formsEngine ++ formsTileC

/-! ## Operands into fields -/

/-- A signed or unsigned value in a field of `n` bits, where it fits (R69). -/
def fitS (n : Nat) (v : Word) : Option Nat :=
  if -(2 : Int) ^ (n - 1) ≤ v.toInt ∧ v.toInt < (2 : Int) ^ (n - 1) then some (wrapTo v.toInt n) else none
def fitU (n : Nat) (v : Word) : Option Nat := if v.toNat < 2 ^ n then some v.toNat else none

/-- The VTYPE fields that one word selects (Table 4-1): the value so far with its field set. -/
def vtypeWord (x : Nat) (w : String) : Option Nat :=
  let u := capitals w
  let pick (l : List String) (lo n base : Nat) : Option Nat :=
    (l.zipIdx.find? fun y => y.1 == u).map fun y => setBits x lo n (y.2 + base)
  match pick ["G1", "G2", "G4", "G8"] 6 2 0, pick ["SL1", "SL2", "SL3", "SL4", "SL5", "SL6", "SL7"] 8 3 1,
    pick ["RNE", "RTZ", "RDN", "RUP"] 11 2 0 with
  | some y, _, _ => some y
  | _, some y, _ => some y
  | _, _, some y => some y
  | _, _, _ => if u = "SC" then some (setBits x 13 1 1) else none
/-- The word that an operand of VSETL spells; B16 also spells a bobbin. -/
def wordOf : Operand → Option String
  | .ex (.sym s) => some s
  | .reg .b 16 => some "B16"
  | _ => none
/-- VTYPE[13:0] from its words: the element type, then the others in any order, of which the last for a field counts. Log entry 77,
DESIGN CHOICE. -/
def vtypeOf (os : List Operand) : Option Nat :=
  match os.mapM wordOf with
  | some (t :: ws) => ws.foldlM vtypeWord =<< etypeOf t
  | _ => none

/-- A register operand of an instruction and its use. -/
structure RegUse where
  f : File
  n : Nat
  u : Use
  lo : Nat
  deriving DecidableEq, Repr

/-- The fields of the operands, added to `w`, and the registers they name; `ev` evaluates expressions, `pc` is the
instruction's offset in `.text`. A control register is its name or a constant expression that is no lone symbol. Log entry 88, DESIGN
CHOICE. -/
def fillSlots (ev : Expr → Option Val) (pc : Word) : List Slot → List Operand → Nat → Option (Nat × List RegUse)
  | [], [], w => some (w, [])
  | [.vtype], os, w => (vtypeOf os).map fun x => (w + x, [])
  | sl :: ss, o :: os, w =>
    let fixed (e : Expr) : Option Word := (ev e).bind fun x => if x.fixed then some x.v else none
    let offset (e : Option Expr) : Option Word := match e with
      | some e => fixed e
      | none => some 0
    let next (x : Nat) (rs : List RegUse) : Option (Nat × List RegUse) :=
      (fillSlots ev pc ss os (w + x)).map fun y => (y.1, rs ++ y.2)
    match sl, o with
    | .reg f lo u, .reg g n => if f = g then next (n * 2 ^ lo) [⟨f, n, u, lo⟩] else none
    | .mem lo, .mem n none => next (n * 2 ^ lo) [⟨.s, n, .rd, lo⟩]
    | .memOff, .mem n off =>
      ((offset off).bind (fitS 11)).bind fun x => next (n * 2 ^ 14 + x) [⟨.s, n, .rd, 14⟩]
    | .spOff, .mem 2 off =>
      (offset off).bind fun x => if x.toNat % 8 = 0 ∧ x.toNat ≤ 504 then next (x.toNat / 8) [⟨.s, 2, .rd, 0⟩] else none
    | .si lo n, .ex e => ((fixed e).bind (fitS n)).bind fun x => next (x * 2 ^ lo) []
    | .ui lo n, .ex e => ((fixed e).bind (fitU n)).bind fun x => next (x * 2 ^ lo) []
    | .len, .ex e =>
      (fixed e).bind fun x =>
        if 1 ≤ x.toNat ∧ x.toNat ≤ 64 ∧ bits w 6 6 + x.toNat ≤ 64 then next (x.toNat - 1) [] else none
    | .jump n, .ex e =>
      (ev e).bind fun x =>
        let d := x.v - pc
        if x.inText = 1 ∧ x.inData = 0 ∧ d.toNat % 2 = 0 then
          (fitS (n + 1) d).bind fun y => next (y / 2 % 2 ^ n) []
        else none
    | .creg, .ex (.sym s) => (cregOf s).bind fun n => next (n * 4) []
    | .creg, .ex e => ((fixed e).bind (fitU 12)).bind fun x => next (x * 4) []
    | _, _ => none
  | _, _, _ => none

/-- A mnemonic without its last suffix, and that suffix. -/
def lastSuffix (op : String) : Option (String × String) :=
  match op.toList.reverse.span (· != '.') with
  | (l, _ :: r) => some (String.ofList r.reverse, String.ofList l.reverse)
  | _ => none

/-- The forms that a mnemonic spells, with the bits of its type suffixes and the type that vycas checks (R71). -/
def formsOf (op : String) : List (Form × Nat × Option Nat) :=
  let named (n : String) (sx : List Suffix) : List Form := forms.filter fun f => f.name == n && sx.contains f.suffix
  (named op [.none, .type]).map (fun f => (f, 0, none))
  ++ (match lastSuffix op with
    | some (m, t1) =>
      match etypeOf t1 with
      | some t =>
        (named m [.type]).map (fun f => (f, 0, some t))
        ++ (match lastSuffix m with
          | some (k, t2) =>
            match etypeOf t2 with
            | some d => (named k [.conv, .pair]).map fun f =>
              if f.suffix = .conv then (f, t * 2 ^ 10, some d) else (f, d * 2 ^ 27 + t * 2 ^ 22, none)
            | none => []
          | none => [])
      | none => []
    | none => [])

/-- The bytes of an instruction, known from its mnemonic: the C. forms are compressed, the tile operations have 64 bits. A
word that is no mnemonic is refused when its operands are read. -/
def sizeOf (op : String) : Nat :=
  match op.toList with
  | 'C' :: '.' :: _ => 2
  | 'M' :: 'O' :: 'P' :: _ => 8
  | _ => if ["MZERO", "MTLD", "MTST", "MROW", "MWROW"].contains op then 8 else 4

/-- An instruction as vycas encodes it: its form, its bits, the registers it names, the type its suffix claims. -/
structure Coded where
  form : Form
  word : Nat
  regs : List RegUse
  claim : Option Nat
  deriving DecidableEq, Repr

/-- The major of a 32-bit word, 0x40 + PMAJOR for a tile operation, 0x80 + op for a compressed one. -/
def Coded.major (c : Coded) : Nat :=
  if c.form.len = 2 then 0x80 + bits c.word 11 4
  else if c.form.len = 4 then bits c.word 24 6 else 0x40 + bits c.word 56 6
/-- The majors marked Member (Table 3-3). -/
def Coded.member (c : Coded) : Bool := decide ((0x29 ≤ c.major ∧ c.major ≤ 0x37))
/-- The instructions that may stand in a span (R60). -/
def Coded.spans (c : Coded) : Bool :=
  decide ((0x01 ≤ c.major ∧ c.major ≤ 0x0B) ∨ c.major = 0x20 ∨ c.major = 0x21 ∨ (0x80 ≤ c.major ∧ c.major ≤ 0x87) ∨
    c.major = 0x8E)

/-- The feature bits that an encoding needs (Table 3-11): VTYPE.SR is no bit of a VSETL, and a VSETT's value is not known. -/
def Coded.feats (c : Coded) : Nat :=
  let w := c.word
  let m := c.major
  let fn := bits w 0 5
  let tile := decide (0x40 ≤ m ∧ m ≤ 0x46)
  let vset := m == 0x28
  let mop := m == 0x40 || m == 0x41
  let on (b : Nat) (x : Bool) : Nat := if x then 2 ^ b else 0
  on 8 (m == 0x39 || tile)
    ||| on 9 (m == 0x41 || (vset && bits w 8 3 != 0))
    ||| on 10 (m == 0x36 || (vset && isQ fn) || (m == 0x35 && isQ (bits w 10 5))
      || (mop && (isQ (bits w 27 5) || isQ (bits w 22 5))) || ((m == 0x29 || m == 0x2A) && bits w 0 3 == 4))
    ||| on 11 (m == 0x37 || (vset && bit w 13) || (mop && bit w 21))
    ||| on 12 (m == 0x3A || m == 0x3B)
    ||| on 13 (m == 0x3C || (m == 0x3A && fn == 7))
    ||| on 14 (m == 0x3D && decide (4 ≤ fn ∧ fn ≤ 6))
    ||| on 15 (m == 0x3D && decide (7 ≤ fn ∧ fn ≤ 9))
    ||| on 16 (m == 0x3E && decide (1 ≤ fn ∧ fn ≤ 4))
    ||| on 17 (m == 0x35 && bit fn 2)

/-- An instruction line: mnemonic, guard, C bit, operands (R69 to R72). A guard needs a p field (R70), C a member. A line that a
machine always refuses as ILLEGAL (`MOPS.F32.F32`, `C.LI zero`, a guard on MZERO) is encoded: the chapter names no such error. Log
entry 88, DESIGN CHOICE. -/
def codeOf (ev : Expr → Option Val) (pc : Word) (op : String) (guard : Option Nat) (c : Bool) (os : List Operand) :
    Option Coded :=
  (formsOf op).findSome? fun x =>
    (fillSlots ev pc x.1.slots os (x.1.base + x.2.1)).bind fun y =>
      let k : Coded := ⟨x.1, y.1, y.2, x.2.2⟩
      let lo := if x.1.len = 8 then 52 else 20
      if (c && !k.member) || (guard.isSome && !(k.member || x.1.len == 8)) then none
      else some { k with word := k.word + (guard.getD 0) * 2 ^ lo + (if c then 2 ^ 23 else 0) }

/-! ## What vycas follows (R71, R72) -/

/-- What vycas knows at a point of straight-line text: VTYPE[13:0] of the nearest VSETL; the open convoy, none where it
cannot follow. Log entry 63, DEDUCED. -/
structure Follow where
  vt : Option Nat := none
  convoy : Option Convoy := some {}
  deriving DecidableEq, Repr

/-- The size of a register group: of the tracked type, or of type `t` at the tracked VLMAX; 1 where none is known. -/
def Follow.group (k : Follow) (t : Option Nat) : Nat :=
  match k.vt, t with
  | none, _ => 1
  | some x, none => 2 ^ bits x 6 2
  | some x, some t => grpOf 512 t (vlmaxOf 512 x)

/-- The group of a vector operand: an index group is read as N32 or N64 (R177), VCVT's source as src (R171), VSCL.FIT's
as F32 (R173), VQDOT's destination is one register (R214). -/
def Follow.span (k : Follow) (c : Coded) (r : RegUse) : Nat :=
  let index := match k.vt with
    | some x => if ebits (bits x 0 5) ≤ 32 then 0x06 else 0x07
    | none => 0x06
  if r.u = .idx then k.group (some index)
  else if c.major = 0x35 ∧ r.u = .rd then k.group (some (bits c.word 10 5))
  else if c.major = 0x37 then k.group (some 0x0D)
  else if c.major = 0x36 ∧ bits c.word 0 5 = 4 ∧ r.u = .wr then 1
  else k.group none

/-- What a member or an instruction of a span reads and writes; s0 and p0 count as neither (R61, R62, R156). -/
def Follow.uses (k : Follow) (c : Coded) : Uses :=
  let m (f : File) (us : List Use) : Nat :=
    (c.regs.filter fun r => decide (r.f = f) && us.contains r.u).foldl (fun acc r =>
      acc ||| (if f = .v then regMask r.n (k.span c r) else if (f = .s ∨ f = .p) ∧ r.n = 0 then 0 else 2 ^ r.n)) 0
  let fn := bits c.word 0 5
  { c := bit c.word 23,
    load := c.major == 0x29 || c.major == 0x2B || (c.major == 0x37 && fn == 0),
    store := c.major == 0x2A || c.major == 0x2B || (c.major == 0x37 && fn == 1),
    cross := c.major == 0x33 || c.major == 0x34 || (c.major == 0x31 && bit fn 4) || (c.major == 0x32 && decide (7 ≤ fn))
      || (c.major == 0x37 && fn == 2),
    rV := m .v [.rd, .both, .idx], wV := m .v [.wr, .both], rE := m .e [.rd, .both], wE := m .e [.wr, .both],
    rP := m .p [.rd, .both], wP := m .p [.wr, .both], index := m .v [.idx], sR := m .s [.rd, .both],
    sW := m .s [.wr, .both] }

/-- A convoy with one more member, or one more instruction in its span. -/
def noteUse (c : Convoy) (u : Uses) (one : Nat) : Convoy :=
  { c with isOpen := true, count := c.count + one, loads := c.loads + u.load.toNat, stores := c.stores + u.store.toNat,
           cross := c.cross + u.cross.toNat, wroteV := c.wroteV ||| u.wV, wroteE := c.wroteE ||| u.wE,
           wroteP := c.wroteP ||| u.wP, spanRead := c.spanRead ||| u.sR, spanWrite := c.spanWrite ||| u.sW }

/-- The convoy after an instruction; none where it breaks a limit of Table 3-9 or the span rule (R72). -/
def Follow.convoyAfter (k : Follow) (c : Coded) : Option (Option Convoy) :=
  let u := k.uses c
  if c.member then
    match k.convoy with
    | some x =>
      let x := if u.c || !x.isOpen then ({} : Convoy) else x
      if (limitBroken x u).isSome then none else some (some (noteUse x u 1))
    | none =>
      if u.c then (if (limitBroken {} u).isSome then none else some (some (noteUse {} u 1))) else some none
  else if c.spans then
    match k.convoy with
    | some x => if !x.isOpen then some (some x) else if spanBroken x u.sR u.sW then none else some (some (noteUse x u 0))
    | none => some none
  else some (some {})

/-- The tracked VTYPE after an instruction: a VSETL sets it; a branch, a jump, CALL, CALLR, SNEXT and VMISC lose it. -/
def Follow.typeAfter (k : Follow) (c : Coded) : Option Nat :=
  if c.major = 0x28 then some (bits c.word 0 14)
  else if (0x10 ≤ c.major ∧ c.major ≤ 0x18) ∨ c.major = 0x1E ∨ c.major = 0x38 ∨ (0x8A ≤ c.major ∧ c.major ≤ 0x8D) then none
  else k.vt

/-- vycas's checks of one instruction: its type suffix against a known type (R71), its convoy (R72). -/
def Follow.step (k : Follow) (c : Coded) : Option Follow :=
  let clash := match c.claim, k.vt with
    | some t, some x => t != bits x 0 5
    | _, _ => false
  if clash then none else (k.convoyAfter c).map fun x => { vt := k.typeAfter c, convoy := x }

/-- At a label the type becomes unknown, and whether a convoy is open can be told only where none was. -/
def Follow.atLabel (k : Follow) : Follow :=
  { vt := none, convoy := match k.convoy with
    | some x => if x.isOpen then none else some {}
    | none => none }

end Sys2Proof.Tool
end

