-- ==== Sys2Proof/Machine/Image.lean ====
section
/-!
DEFINITION. Sys2Proof/Machine/Image.lean: source files into a Waxis image (R72 to R77), and the image into memory and
registers (R76 to R78): directives, sections, relocations, the header, the loader's refusals, the start code's effect.
-/
namespace Sys2Proof.Tool
open Sys2Proof.Machine

/-! ## Source files -/

/-- The lines of a text. -/
def textLines (cs : List Char) : List (List Char) :=
  cs.foldr (fun c (acc : List (List Char)) =>
    if c = '\n' then [] :: acc else match acc with
      | x :: xs => (c :: x) :: xs
      | [] => [[c]]) [[]]

/-- The lines of a file with `.include` replaced by the file it names, nested to the given depth (Table 4-2). -/
def expand (files : List (String × String)) : Nat → String → Option (List Line)
  | 0, _ => none
  | n + 1, text =>
    let line (cs : List Char) : Option (List Line) :=
      (lineOf (String.ofList cs)).bind fun l =>
        if l.op = some ".INCLUDE" then
          match l.guard, l.args with
          | none, [[.text f]] =>
            (files.find? fun x => x.1 == f).bind fun x => (expand files n x.2).map ({ label := l.label } :: ·)
          | _, _ => none
        else some [l]
    ((textLines text.toList).mapM line).map List.flatten

/-! ## Sections and symbols (R73, R74) -/

/-- The sections. -/
inductive Sec where
  | text | data | sdata
  deriving DecidableEq, Repr

/-- A symbol of a file and its value. -/
structure Sym where
  file : Nat
  name : String
  val : Val
  deriving DecidableEq, Repr

/-- Where the next byte goes, and what is defined so far. -/
structure Layout where
  file : Nat := 0
  sec : Option Sec := none
  text : Nat := 0
  data : Nat := 0
  sdata : Nat := 0
  syms : List Sym := []
  globals : List (Nat × String) := []
  deriving DecidableEq, Repr

/-- The offset in the current section. -/
def Layout.pos (l : Layout) : Nat :=
  match l.sec with
  | some .text => l.text
  | some .data => l.data
  | some .sdata => l.sdata
  | none => 0
def Layout.grow (l : Layout) (n : Nat) : Layout :=
  match l.sec with
  | some .text => { l with text := l.text + n }
  | some .data => { l with data := l.data + n }
  | some .sdata => { l with sdata := l.sdata + n }
  | none => l
/-- The current location as a value: an offset within its section, in `.sdata` from the start of the image (R74). -/
def Layout.dot (l : Layout) : Val :=
  { v := BitVec.ofNat 64 l.pos, inText := if l.sec = some .text then 1 else 0, inData := if l.sec = some .data then 1 else 0 }
/-- A file begins outside every section. -/
def Layout.enter (l : Layout) (file : Nat) : Layout := if l.file = file then l else { l with file := file, sec := none }
/-- A symbol as a file sees it: its own, or one that another file exports (Table 4-2). -/
def Layout.lookup (l : Layout) (name : String) : Option Val :=
  match l.syms.find? fun y => y.file == l.file && y.name == name with
  | some y => some y.val
  | none => (l.syms.find? fun y => y.name == name && l.globals.contains (y.file, name)).map (·.val)
def Layout.eval (l : Layout) (e : Expr) : Option Val := e.eval l.lookup l.dot
/-- A constant operand. -/
def Layout.const (l : Layout) (ts : List Tok) : Option Word :=
  ((exprOf ts).bind l.eval).bind fun x => if x.fixed then some x.v else none
/-- A symbol defined once in its file. -/
def Layout.define (l : Layout) (name : String) (v : Val) : Option Layout :=
  if !symbolName name || (l.syms.any fun y => y.file == l.file && y.name == name) then none
  else some { l with syms := l.syms ++ [⟨l.file, name, v⟩] }

/-- The bytes of each value of a data directive. -/
def dataSize (op : String) : Option Nat :=
  ([(".BYTE", 1), (".HALF", 2), (".WORD", 4), (".DWORD", 8), (".F32", 4), (".F8E4", 1)].find? fun x => x.1 == op).map (·.2)
/-- The section that a directive selects. -/
def sectionOf (op : String) : Option Sec :=
  if op = ".TEXT" then some .text else if op = ".DATA" then some .data else if op = ".SDATA" then some .sdata else none
/-- The bytes to the next multiple of n. -/
def padTo (pos n : Nat) : Nat := ceilDiv pos n * n - pos
/-- The operand of `.align`: a power of two from 1 to 65,536. -/
def Layout.alignment (l : Layout) (args : List (List Tok)) : Option Nat :=
  match args with
  | [ts] => (l.const ts).bind fun v =>
    if ((List.range 17).any fun k => v.toNat == 2 ^ k) then some v.toNat else none
  | _ => none

/-- The bytes that a line emits, where its directive or instruction may stand (R73, R74). -/
def Layout.size (l : Layout) (line : Line) : Option Nat :=
  match line.op with
  | none => some 0
  | some op =>
    if op.toList.head? != some '.' then (if l.sec = some .text then some (sizeOf op) else none)
    else if line.guard.isSome then none
    else if (sectionOf op).isSome ∨ [".EQU", ".GLOBAL", ".ENTRY", ".LENS"].contains op then some 0
    else match l.sec with
      | none => none
      | some sec =>
        if op = ".ALIGN" then (l.alignment line.args).map (padTo l.pos)
        else if sec = .text then (if op = ".CV" ∨ op = ".FRAME" then some 0 else none)
        else if op = ".SPACE" then
          match line.args with
          | [n] => (l.const n).map (·.toNat)
          | [n, _] => (l.const n).map (·.toNat)
          | _ => none
        else (dataSize op).bind fun k => if line.args.isEmpty then none else some (k * line.args.length)

/-- One line of the first pass: labels, sections, `.equ`, `.global`, sizes. A label before the first section directive of its file is an
error. Log entry 77, DESIGN CHOICE. -/
def Layout.measure (l : Layout) (x : Nat × Line) : Option Layout :=
  let l := l.enter x.1
  let line := x.2
  let labelled : Option Layout := match line.label with
    | none => some l
    | some n => if l.sec.isNone then none else l.define n l.dot
  labelled.bind fun l =>
    (l.size line).bind fun n =>
      match line.op, line.args with
      | some ".EQU", [[.name s], e] => (l.const e).bind fun v => l.define s ⟨v, 0, 0⟩
      | some ".EQU", _ => none
      | some ".GLOBAL", [[.name s]] => some { l with globals := l.globals ++ [(l.file, s)] }
      | some ".GLOBAL", _ => none
      | some op, args =>
        match sectionOf op with
        | some sec => if args.isEmpty then some { l with sec := some sec } else none
        | none => some (l.grow n)
      | none, _ => some l

/-- The symbols of all files: each export is defined in its file, and no name is exported twice, by one file or by two. Log entry 77,
DESIGN CHOICE. -/
def Layout.coherent (l : Layout) : Bool :=
  l.globals.all (fun g => l.syms.any fun y => y.file == g.1 && y.name == g.2)
  && l.globals.all fun g => (l.globals.filter fun h => h.2 == g.2).length == 1

/-! ## Bytes -/

/-- What the second pass has made: the sections, the last byte first; relocations; the entry and the spill frames; calls and
indirect calls by their place in `.text`; what vycas follows; the registers used and the feature bits needed. -/
structure Unit2 where
  lay : Layout
  text : List Byte := []
  data : List Byte := []
  sdata : List Byte := []
  relocs : List (Nat × Bool) := []
  entries : List Nat := []
  lens : Nat × Nat := (512, 32768)
  frames : List (Nat × Nat) := []
  label : Option Nat := none
  calls : List (Nat × Nat) := []
  callrs : List Nat := []
  follow : Follow := {}
  cv : Bool := false
  vregs : Nat := 1
  escl : Nat := 0
  feats : Nat := 0
  deriving DecidableEq, Repr

/-- `n` bytes of a value, lowest first (R4). -/
def leBytes : Nat → Nat → List Byte
  | 0, _ => []
  | n + 1, v => BitVec.ofNat 8 v :: leBytes n (v / 256)

def Unit2.emit (u : Unit2) (bs : List Byte) : Unit2 :=
  let lay := u.lay.grow bs.length
  match u.lay.sec with
  | some .text => { u with lay := lay, text := bs.reverse ++ u.text }
  | some .data => { u with lay := lay, data := bs.reverse ++ u.data }
  | some .sdata => { u with lay := lay, sdata := bs.reverse ++ u.sdata }
  | none => u

/-- A number of `.f32` or `.f8e4`: digits, perhaps with a fraction, perhaps negative. Log entry 60, DEDUCED. -/
def realOf (ts : List Tok) : Option Machine.Num :=
  let sized (neg : Bool) (t : Tok) : Option Machine.Num := match t with
    | .num n => some (.num neg n 1)
    | .real m k => some (.num neg m (10 ^ k))
    | _ => none
  match ts with
  | [t] => sized false t
  | [.mark "-", t] => sized true t
  | [.mark "+", t] => sized false t
  | _ => none

/-- One value of `.byte` to `.dword`, which must fit signed or unsigned, with the base of its relocation: a `.dword` of `.data`
that carries the load address of one section once is a symbol plus or minus a constant (R74), and stands at a multiple of 8, as its
relocation does (R77). Log entry 61, DEDUCED. -/
def Layout.datum (l : Layout) (k : Nat) (ts : List Tok) : Option (List Byte × Option Bool) :=
  (exprOf ts).bind fun e => (l.eval e).bind fun x =>
    if x.fixed then
      if (fitS (8 * k) x.v).isSome ∨ (fitU (8 * k) x.v).isSome then some (leBytes k x.v.toNat, none) else none
    else if k = 8 ∧ l.sec = some .data ∧ l.data % 8 = 0 then
      if x.inText = 1 ∧ x.inData = 0 then some (leBytes 8 x.v.toNat, some true)
      else if x.inText = 0 ∧ x.inData = 1 then some (leBytes 8 x.v.toNat, some false)
      else none
    else none

/-- The values of a data directive; `.` is where each value stands. Log entry 77, DESIGN CHOICE. -/
def Unit2.values (u : Unit2) (op : String) (k : Nat) : List (List Tok) → Option Unit2
  | [] => some u
  | ts :: rest =>
    if op = ".F32" ∨ op = ".F8E4" then
      (realOf ts).bind fun x =>
        (u.emit (leBytes k (fround (if op = ".F32" then 0x0D else 0x08) 0 x).1)).values op k rest
    else
      (u.lay.datum k ts).bind fun x =>
        let u' := match x.2 with
          | some b => { u with relocs := u.relocs ++ [(u.lay.pos, b)] }
          | none => u
        (u'.emit x.1).values op k rest

/-- The vector and scale registers that an instruction needs (Table 4-4): the groups it names, and the scale registers
paired with a scaled group (R157). Log entry 63, DEDUCED. -/
def needs (k : Follow) (c : Coded) : Nat × Nat :=
  let vs := c.regs.filter fun r => decide (r.f = .v)
  let v := vs.foldl (fun m r => max m (r.n + k.span c r)) 0
  let e := (c.regs.filter fun r => decide (r.f = .e)).foldl (fun m r => max m (r.n + 1)) 0
  let scaledType (r : RegUse) : Bool :=
    let t := if r.u = .rd then bits c.word 10 5 else (k.vt.getD 0x0F) % 32
    t == 0x08 || t == 0x09 || t == 0x0A || t == 0x00 || isQ t
  let paired := if c.major = 0x35 ∧ bit (k.vt.getD 0) 13 then (vs.filter scaledType).foldl (fun m r => max m (r.n / 4 + 1)) 0 else 0
  (min 32 v, min 8 (max e paired))

/-- An instruction line: its bits (R69 to R71), vycas's checks (R71, R72), what the linker must know of it (R76). -/
def Unit2.instr (u : Unit2) (op : String) (line : Line) : Option Unit2 :=
  (line.args.mapM operandOf).bind fun os =>
    (codeOf u.lay.eval u.lay.dot.v op line.guard u.cv os).bind fun c =>
      (u.follow.step c).map fun f =>
        let site := u.lay.text
        let n := needs u.follow c
        { u.emit (instrBytes c.form.len c.word) with
          follow := f, cv := false, vregs := max u.vregs n.1, escl := max u.escl n.2,
          feats := u.feats ||| c.feats,
          calls := if c.major = 0x17 then u.calls ++ [(site, ((site : Int) + 2 * sext c.word 24).toNat)] else u.calls,
          callrs := if c.major = 0x18 ∧ bits c.word 0 9 = 1 then u.callrs ++ [site] else u.callrs }

/-- `.frame` names the function at the label before it (Table 4-2, R76); a second one for it is an error. -/
def Unit2.frame (u : Unit2) (n : Word) : Option Unit2 :=
  match u.label with
  | some p => if 65535 < n.toNat ∨ (u.frames.any fun x => x.1 == p) then none else some { u with frames := u.frames ++ [(p, n.toNat)] }
  | none => none

/-- A directive of the second pass. -/
def Unit2.directive (u : Unit2) (op : String) (args : List (List Tok)) : Option Unit2 :=
  let l := u.lay
  match op, args with
  | ".EQU", _ => some u
  | ".GLOBAL", _ => some u
  | ".CV", [] => some { u with cv := true }
  | ".CV", _ => none
  | ".ENTRY", [[.name s]] =>
    (l.lookup s).bind fun x => if x.inText = 1 then some { u with entries := u.entries ++ [x.v.toNat] } else none
  | ".LENS", [a, b] =>
    (l.const a).bind fun lo => (l.const b).bind fun hi =>
      let ok (v : Word) : Bool := (List.range 7).any fun k => v.toNat == 512 * 2 ^ k
      if ok lo && ok hi && decide (lo.toNat ≤ hi.toNat) then some { u with lens := (lo.toNat, hi.toNat) } else none
  | ".FRAME", [n] => (l.const n).bind u.frame
  | ".ALIGN", _ =>
    (l.alignment args).map fun n =>
      let p := padTo l.pos n
      u.emit (if l.sec = some .text then (List.replicate (p / 2) (instrBytes 2 0x7000)).flatten else List.replicate p 0)
  | ".SPACE", [n] => (l.const n).map fun v => u.emit (List.replicate v.toNat 0)
  | ".SPACE", [n, b] =>
    (l.const n).bind fun v => (l.datum 1 b).map fun x => u.emit (List.replicate v.toNat (x.1.headD 0))
  | _, _ =>
    match sectionOf op, dataSize op with
    | some sec, _ => some { u with lay := { l with sec := some sec } }
    | none, some k => u.values op k args
    | none, none => none

/-- One line of the second pass. A file begins outside every section and knows nothing of the text before it. A `.cv` that no
instruction of its file follows has no effect. Log entry 77, DESIGN CHOICE. -/
def Unit2.line (u : Unit2) (x : Nat × Line) : Option Unit2 :=
  let u := if u.lay.file = x.1 then u else { u with lay := u.lay.enter x.1, label := none, follow := {}, cv := false }
  let u := if x.2.label.isSome ∧ u.lay.sec = some .text then
    { u with label := some u.lay.text, follow := u.follow.atLabel } else u
  match x.2.op with
  | none => some u
  | some op => if op.toList.head? = some '.' then u.directive op x.2.args else u.instr op x.2

/-- The files of an image, assembled one after another; none where a line is an error (R68). Log entry 64, DESIGN CHOICE. -/
def vycas (files : List (String × String)) (mains : List String) : Option Unit2 :=
  (mains.zipIdx.mapM fun m => (expand files 17 m.1).map fun ls => ls.map fun l => (m.2, l)).bind fun lines =>
    let all := lines.flatten
    (all.foldlM Layout.measure {}).bind fun l =>
      if l.coherent then
        all.foldlM Unit2.line { lay := { syms := l.syms, globals := l.globals } }
      else none

/-! ## vyld (R76, R77) -/

/-- The options of vyld, the feature bits it adds to those the instructions need, and the start code that it places. Log entry 64,
DESIGN CHOICE. -/
structure Options where
  stack : Nat := 16384
  stackvl : Option Nat := none
  featreq : Nat := 0
  start : List Byte := []
  deriving DecidableEq, Repr

/-- The function starts of an image (R76): any place that a CALL targets is one, with a label or without. Log entry 88, DESIGN CHOICE. -/
def Unit2.starts (u : Unit2) : List Nat := (u.entries ++ u.calls.map (·.2) ++ u.frames.map (·.1)).eraseDups
/-- The function within whose range a place of `.text` stands. -/
def Unit2.owner (u : Unit2) (site : Nat) : Option Nat := ((u.starts.filter fun x => decide (x ≤ site)).max?)
/-- The functions that a function calls directly. -/
def Unit2.callees (u : Unit2) (f : Nat) : List Nat := ((u.calls.filter fun c => u.owner c.1 == some f).map (·.2)).eraseDups
def Unit2.frameOf (u : Unit2) (f : Nat) : Nat := ((u.frames.find? fun x => x.1 == f).map (·.2)).getD 0
/-- The largest sum of frames along a chain of direct calls from a function; none where more than `n` functions chain,
which is a cycle. -/
def Unit2.deepest (u : Unit2) : Nat → Nat → Option Nat
  | 0, _ => none
  | n + 1, f => ((u.callees f).mapM (u.deepest n)).map fun ds => u.frameOf f + ds.foldl max 0
/-- The functions that direct calls reach in at most `n` calls. -/
def Unit2.reach (u : Unit2) : Nat → List Nat → List Nat
  | 0, fs => fs
  | n + 1, fs => u.reach n (fs ++ (fs.flatMap u.callees)).eraseDups

/-- STKVL: the sum of frames, or the option's value where the call graph has a cycle or a CALLR is reachable (R76). -/
def Unit2.stkvl (u : Unit2) (entry : Nat) (o : Options) : Option Nat :=
  let n := u.starts.length
  let cyclic := u.starts.any fun f => (u.deepest n f).isNone
  let indirect := u.callrs.any fun c => match u.owner c with
    | some f => (u.reach n [entry]).contains f
    | none => false
  if cyclic || indirect then o.stackvl else u.deepest n entry

/-- The header of a Waxis image (Table 4-4). -/
structure Header where
  featreq : Nat
  stkfix : Nat
  stkvl : Nat
  relcnt : Nat
  sdsize : Nat
  sdoff : Nat
  datasize : Nat
  dataoff : Nat
  textsize : Nat
  textoff : Nat
  entry : Nat
  escl : Nat
  vregs : Nat
  vlhi : Nat
  vllo : Nat
  reserved : Nat := 0
  version : Nat := 1
  magic : Nat := 0x4D495857
  deriving DecidableEq, Repr

/-- The header's 512 bits; `reserved` holds [95:88] above [71:48]. -/
def Header.word (h : Header) : Nat :=
  h.featreq * 2 ^ 384 + h.stkfix * 2 ^ 352 + h.stkvl * 2 ^ 336 + h.relcnt * 2 ^ 320 + h.sdsize * 2 ^ 288
    + h.sdoff * 2 ^ 256 + h.datasize * 2 ^ 224 + h.dataoff * 2 ^ 192 + h.textsize * 2 ^ 160 + h.textoff * 2 ^ 128
    + h.entry * 2 ^ 96 + bits h.reserved 24 8 * 2 ^ 88 + h.escl * 2 ^ 84 + h.vregs * 2 ^ 78 + h.vlhi * 2 ^ 75
    + h.vllo * 2 ^ 72 + bits h.reserved 0 24 * 2 ^ 48 + h.version * 2 ^ 32 + h.magic
/-- The header that 512 bits hold. -/
def Header.ofWord (w : Nat) : Header :=
  { featreq := bits w 384 128, stkfix := bits w 352 32, stkvl := bits w 336 16, relcnt := bits w 320 16,
    sdsize := bits w 288 32, sdoff := bits w 256 32, datasize := bits w 224 32, dataoff := bits w 192 32,
    textsize := bits w 160 32, textoff := bits w 128 32, entry := bits w 96 32, escl := bits w 84 4,
    vregs := bits w 78 6, vlhi := bits w 75 3, vllo := bits w 72 3,
    reserved := bits w 88 8 * 2 ^ 24 + bits w 48 24, version := bits w 32 16, magic := bits w 0 32 }

/-- The image of what vycas made: header, `.text` with the start code at its end, `.data`, relocations, scratchpad image
(R77). No image comes of a value too large for its header field. Log entries 64 and 88, DESIGN CHOICE. -/
def vyld (u : Unit2) (o : Options) : Option (List Byte) :=
  match u.entries with
  | [entry] =>
    (u.stkvl entry o).bind fun k =>
      let text := u.text.reverse ++ o.start
      let data := u.data.reverse
      let sd := u.sdata.reverse
      let dataoff := ceilDiv (64 + text.length) 8 * 8
      let reloff := ceilDiv (dataoff + data.length) 8 * 8
      let sdoff := reloff + 8 * u.relocs.length
      let h : Header :=
        { featreq := o.featreq ||| u.feats, stkfix := o.stack, stkvl := k, relcnt := u.relocs.length, sdsize := sd.length,
          sdoff := sdoff, datasize := data.length, dataoff := dataoff, textsize := text.length, textoff := 64,
          entry := u.text.length, escl := u.escl, vregs := u.vregs, vlhi := Nat.log2 (u.lens.2 / 512),
          vllo := Nat.log2 (u.lens.1 / 512) }
      let rel (r : Nat × Bool) : List Byte := leBytes 8 (r.1 + if r.2 then 2 ^ 63 else 0)
      if o.stack % 256 ≠ 0 ∨ 65535 < k ∨ 65535 < u.relocs.length ∨ 2 ^ 32 ≤ o.stack ∨ 2 ^ 32 ≤ sdoff + sd.length
      then none
      else some (leBytes 64 h.word ++ text ++ List.replicate (dataoff - 64 - text.length) 0 ++ data
        ++ List.replicate (reloff - dataoff - data.length) 0 ++ u.relocs.flatMap rel ++ sd)
  | _ => none

/-! ## The loader (R78) -/

/-- The little-endian value of bytes. -/
def leValue (bs : List Byte) : Nat := bs.foldr (fun b v => b.toNat + 256 * v) 0
/-- `n` bytes of a file from an offset. -/
def slice (bs : List Byte) (off n : Nat) : List Byte := (bs.drop off).take n

/-- The parts of an image that passed the loader's checks. -/
structure Image where
  head : Header
  text : List Byte
  data : List Byte
  relocs : List Nat
  sdata : List Byte
  deriving DecidableEq, Repr

/-- Where the relocation table stands. -/
def Header.reloff (h : Header) : Nat := ceilDiv (h.dataoff + h.datasize) 8 * 8

/-- The loader's check of one relocation word (R78). -/
def relocOk (h : Header) (r : Nat) : Bool :=
  bits r 32 31 == 0 && bits r 0 32 % 8 == 0 && decide (bits r 0 32 + 8 ≤ h.datasize)

/-- The image of a file, or none where the loader refuses it: MAGIC or VERSION, FEATREQ beyond the features accepted, a
reserved field, a relocation (R78), a part that the file does not hold. Log entry 65, DEDUCED. -/
def readImage (file : List Byte) (features : Nat) : Option Image :=
  let h := Header.ofWord (leValue (file.take 64))
  let whole := decide (64 ≤ file.length ∧ h.textoff + h.textsize ≤ file.length ∧ h.dataoff + h.datasize ≤ file.length ∧
    h.reloff + 8 * h.relcnt ≤ file.length ∧ h.sdoff + h.sdsize ≤ file.length)
  let relocs := (List.range h.relcnt).map fun i => leValue (slice file (h.reloff + 8 * i) 8)
  if h.magic != 0x4D495857 || h.version != 1 || (h.featreq &&& features) != h.featreq || h.reserved != 0 || !whole
    || !(relocs.all (relocOk h)) then none
  else some
    { head := h, text := slice file h.textoff h.textsize, data := slice file h.dataoff h.datasize, relocs := relocs,
      sdata := slice file h.sdoff h.sdsize }

/-- `.data` after one relocation: the `.dword` at its offset plus the load address of the section it names (R77). -/
def relocate (textAt dataAt : Word) (data : List Byte) (r : Nat) : List Byte :=
  let off := bits r 0 32
  let v := BitVec.ofNat 64 (leValue (slice data off 8)) + (if bit r 63 then textAt else dataAt)
  data.take off ++ leBytes 8 v.toNat ++ data.drop (off + 8)

/-- Bytes that the loader maps at a virtual address, with their permissions. -/
structure Segment where
  addr : Word
  bytes : List Byte
  r : Bool
  w : Bool
  x : Bool
  deriving DecidableEq, Repr

/-- What the loader maps: `.text` readable and executable, `.data`, relocated, readable and writable (R78). -/
def Image.segments (i : Image) (textAt dataAt : Word) : List Segment :=
  [⟨textAt, i.text, true, false, true⟩,
    ⟨dataAt, i.relocs.foldl (relocate textAt dataAt) i.data, true, true, false⟩]
/-- ENTRY: the load address of the start code. -/
def Image.entryAt (i : Image) (textAt : Word) : Word := textAt + BitVec.ofNat 64 i.head.entry

/-- The least SPAD of a launch (R78), with the header's VLHI. Log entry 77, DESIGN CHOICE. -/
def Header.spad (h : Header) : Nat :=
  ceilDiv h.sdsize 256 + (h.stkfix + h.stkvl * 512 * 2 ^ h.vlhi) / 256
/-- What a launch record built for an image satisfies (R78). -/
def Image.suits (i : Image) (textAt : Word) (l : Launch) : Bool :=
  l.entry == (i.entryAt textAt).toNat && decide (i.head.vllo ≤ l.vllo ∧ l.vlhi ≤ i.head.vlhi ∧ i.head.vregs ≤ l.vregs ∧
    i.head.escl ≤ l.escl ∧ i.head.spad ≤ l.spad)

/-- The offset in a shuttle's region at which the start code leaves the scratchpad image. -/
def Image.sdAt (i : Image) (spad : Nat) : Nat := (spad - ceilDiv i.head.sdsize 256) * 256

/-- The effect of the start code on the shuttle that runs it: the scratchpad image copied to its place, sp at that place in
the local window, pc at the `.entry` label (R78). -/
def Image.start (i : Image) (go : Word) (s : State) : State :=
  let off := s.cur.place.spadOff + i.sdAt s.cur.place.spad
  let s := s.store (spadKey s.cur.place.core off) i.sdata.length (leValue i.sdata) false
  (s.wr 2 (BitVec.ofNat 64 (0x00FFFF0000000000 + off))).setPc go

end Sys2Proof.Tool
end

