-- ==== Sys2Proof/Laws/Image.lean ====
section
/-!
SUPPORT. Sys2Proof/Laws/Image.lean: what the operations of vycas and of the loader can do (R70, R72, R77, R78).
-/
namespace Sys2Proof.Tool
open Sys2Proof.Machine

/-- A guard is written only on a form with a p field, C only on a convoy member (R70, R72). -/
theorem codeOf_some (ev : Expr → Option Val) (pc : Word) (op : String) (g : Option Nat) (c : Bool) (os : List Operand)
    (k : Coded) (h : codeOf ev pc op g c os = some k) :
    ∃ x ∈ formsOf op, ∃ w, fillSlots ev pc x.1.slots os (x.1.base + x.2.1) = some (w, k.regs) ∧ k.form = x.1 ∧
      k.claim = x.2.2 ∧
      (c = true → Coded.member ⟨x.1, w, k.regs, x.2.2⟩ = true) ∧
      (g.isSome = true → Coded.member ⟨x.1, w, k.regs, x.2.2⟩ = true ∨ x.1.len = 8) := by
  obtain ⟨x, hx, h⟩ := List.exists_of_findSome?_eq_some h
  obtain ⟨⟨w, rs⟩, hw, h⟩ := Option.bind_eq_some_iff.1 h
  simp only at h
  split at h
  · cases h
  · rename_i hn
    cases h
    simp only [Bool.or_eq_true, Bool.and_eq_true, Bool.not_eq_true', not_or, not_and] at hn
    refine ⟨x, hx, w, hw, rfl, rfl, fun hc => by simpa using hn.1 hc, fun hg => ?_⟩
    have := hn.2 hg
    simp only [Bool.or_eq_false_iff, not_and, beq_eq_false_iff_ne, ne_eq, Decidable.not_not] at this
    by_cases hm : Coded.member ⟨x.1, w, rs, x.2.2⟩ = true
    · exact .inl hm
    · exact .inr (this (by simpa using hm))

/-- A member breaks no limit of Table 3-9 where vycas follows its convoy and accepts it (R72). -/
theorem convoyAfter_limit (k : Follow) (c : Coded) (x : Convoy) (y : Option Convoy) (hm : c.member = true)
    (hk : k.convoy = some x) (h : k.convoyAfter c = some y) :
    limitBroken (if (k.uses c).c || !x.isOpen then {} else x) (k.uses c) = none := by
  simp only [Follow.convoyAfter, hm, hk, if_true] at h
  cases hl : limitBroken (if (k.uses c).c || !x.isOpen then {} else x) (k.uses c) with
  | none => rfl
  | some v => rw [hl] at h; simp at h

/-- An instruction that may stand in no span ends the convoy that vycas follows (R60). -/
theorem convoyAfter_ends (k : Follow) (c : Coded) (hm : c.member = false) (hs : c.spans = false) :
    k.convoyAfter c = some (some {}) := by
  simp [Follow.convoyAfter, hm, hs]

/-- The image that the loader accepts (R78). -/
theorem readImage_some (file : List Byte) (feats : Nat) (i : Image) (h : readImage file feats = some i) :
    i.head = Header.ofWord (leValue (file.take 64)) ∧ i.head.magic = 0x4D495857 ∧ i.head.version = 1 ∧
    i.head.featreq &&& feats = i.head.featreq ∧ i.head.reserved = 0 ∧ ∀ r ∈ i.relocs, relocOk i.head r = true := by
  simp only [readImage] at h
  split at h
  · cases h
  · rename_i hn
    cases h
    simp only [Bool.or_eq_true, not_or, bne_iff_ne, ne_eq, Decidable.not_not, Bool.not_eq_true',
      Bool.not_eq_false] at hn
    obtain ⟨⟨⟨⟨⟨h1, h2⟩, h3⟩, h4⟩, -⟩, h6⟩ := hn
    exact ⟨rfl, h1, h2, h3, h4, by simpa using h6⟩

/-- A relocation the loader accepts keeps the length of `.data` (R77). -/
theorem relocate_length (t d : Word) (data : List Byte) (r : Nat) (h : bits r 0 32 + 8 ≤ data.length) :
    (relocate t d data r).length = data.length := by
  have leLen : ∀ n v, (leBytes n v).length = n := by
    intro n
    induction n with
    | zero => intro v; rfl
    | succ n ih => intro v; simp [leBytes, ih]
  simp only [relocate, List.length_append, List.length_take, List.length_drop, leLen]
  omega

/-- The bytes outside a relocation's `.dword` stay (R77). -/
theorem relocate_before (t d : Word) (data : List Byte) (r i : Nat) (h : bits r 0 32 + 8 ≤ data.length)
    (hi : i < bits r 0 32) : (relocate t d data r)[i]? = data[i]? := by
  simp only [relocate, List.append_assoc]
  rw [List.getElem?_append_left (by simp; omega), List.getElem?_take_of_lt hi]

/-- The loader maps `.text` to be read and executed, `.data` to be read and written (R78). -/
theorem segments_permissions (i : Image) (t d : Word) :
    (i.segments t d).map (fun g => (g.addr, g.r, g.w, g.x)) = [(t, true, false, true), (d, true, true, false)] := rfl

/-- The start code leaves sp at the scratchpad image and pc at the label; the other scalar registers stay (R78). -/
theorem start_registers (i : Image) (go : Word) (s : State) :
    (i.start go s).cur.pc = go ∧
    (i.start go s).cur.reg 2 = BitVec.ofNat 64 (0x00FFFF0000000000 + s.cur.place.spadOff + i.sdAt s.cur.place.spad) ∧
    ∀ r : SReg, r ≠ 2 → (i.start go s).cur.reg r = s.cur.reg r := by
  refine ⟨rfl, ?_, fun r hr => ?_⟩
  · simp [Image.start, State.store, State.settleBytes, State.poke, State.wr, State.setPc, Shuttle.wr, Shuttle.reg, Nat.add_assoc]
  · have h2 : ¬ 2 = r.val := fun e => hr (Fin.ext e.symm)
    simp [Image.start, State.store, State.settleBytes, State.poke, State.wr, State.setPc, Shuttle.wr, Shuttle.reg, h2]

end Sys2Proof.Tool
end

