-- ==== Sys2Proof/Laws/Run.lean ====
section
/-!
SUPPORT. Sys2Proof/Laws/Run.lean: how the monad of an instruction runs, and the one thing that each shared operation of a
scalar instruction can do.
-/
namespace Sys2Proof.Machine

/-! ## The monad -/

theorem bind_ok {α β : Type} {m : M α} {f : α → M β} {s t : State} {a : α} (h : m s = .ok a t) :
    (m >>= f) s = f a t := by
  show EStateM.bind m f s = f a t
  simp only [EStateM.bind, h]

theorem bind_error {α β : Type} {m : M α} {f : α → M β} {s t : State} {e : Stop} (h : m s = .error e t) :
    (m >>= f) s = .error e t := by
  show EStateM.bind m f s = .error e t
  simp only [EStateM.bind, h]

@[simp] theorem get_bind {β : Type} (f : State → M β) (s : State) : ((get : M State) >>= f) s = f s s := rfl
@[simp] theorem pure_bind_run {α β : Type} (a : α) (f : α → M β) (s : State) : ((pure a : M α) >>= f) s = f a s := rfl
@[simp] theorem modify_bind {β : Type} (g : State → State) (f : PUnit → M β) (s : State) :
    ((modify g : M PUnit) >>= f) s = f ⟨⟩ (g s) := rfl
@[simp] theorem set_bind {β : Type} (t : State) (f : PUnit → M β) (s : State) :
    ((set t : M PUnit) >>= f) s = f ⟨⟩ t := rfl
@[simp] theorem onCur_bind {β : Type} (g : Shuttle → Shuttle) (f : Unit → M β) (s : State) :
    (onCur g >>= f) s = f () { s with cur := g s.cur } := rfl
@[simp] theorem writeReg_bind {β : Type} (r : SReg) (v : Word) (f : Unit → M β) (s : State) :
    (writeReg r v >>= f) s = f () (s.wr r v) := rfl
@[simp] theorem trap_bind {α β : Type} (c : Nat) (ea ei : Word) (f : α → M β) (s : State) :
    ((trap c ea ei : M α) >>= f) s = .error (.trap c ea ei) s := rfl
@[simp] theorem park_bind {α β : Type} (w : Wait) (f : α → M β) (s : State) :
    ((park w : M α) >>= f) s = .error (.wait w) s := rfl
@[simp] theorem pure_run {α : Type} (a : α) (s : State) : (pure a : M α) s = .ok a s := rfl
@[simp] theorem modify_run (g : State → State) (s : State) : (modify g : M PUnit) s = .ok ⟨⟩ (g s) := rfl
@[simp] theorem set_run (t s : State) : (set t : M PUnit) s = .ok ⟨⟩ t := rfl
@[simp] theorem onCur_run (g : Shuttle → Shuttle) (s : State) : onCur g s = .ok () { s with cur := g s.cur } := rfl
@[simp] theorem writeReg_run (r : SReg) (v : Word) (s : State) : writeReg r v s = .ok () (s.wr r v) := rfl
@[simp] theorem retire_run (n : Nat) (s : State) : retire n s = .ok () (s.advance n) := rfl
@[simp] theorem goTo_run (pc : Word) (s : State) :
    goTo pc s = .ok () { s with cur := { s.cur.settled with pc := pc } } := rfl
@[simp] theorem trap_run {α : Type} (c : Nat) (ea ei : Word) (s : State) :
    (trap c ea ei : M α) s = .error (.trap c ea ei) s := rfl
@[simp] theorem park_run {α : Type} (w : Wait) (s : State) : (park w : M α) s = .error (.wait w) s := rfl

/-! ## The outcome of an instruction -/

theorem run_ok {m : M Unit} {s t : State} (h : m s = .ok () t) : run m s = .next t := by simp only [run, h]
theorem run_trap {m : M Unit} {s t : State} {c : Nat} {ea ei : Word} (h : m s = .error (.trap c ea ei) t) :
    run m s = .next (takeTrap t c ea ei) := by simp only [run, h]
theorem run_wait {m : M Unit} {s t : State} {w : Wait} (h : m s = .error (.wait w) t) :
    run m s = .next { t with cur := t.cur.startWait w } := by simp only [run, h]
/-- An instruction answers a next state, always: it completes, traps, or waits. -/
theorem run_next (m : M Unit) (s : State) : ∃ t, run m s = .next t := by
  unfold run
  split <;> exact ⟨_, rfl⟩

/-! ## Scalar instructions of a span -/

@[simp] theorem Shuttle.reg_spanned (sh : Shuttle) (x y : Nat) (r : SReg) : (sh.spanned x y).reg r = sh.reg r := by
  unfold Shuttle.spanned
  split <;> rfl
@[simp] theorem reg_spanned (s : State) (x y : Nat) (r : SReg) : (s.spanned x y).reg r = s.reg r :=
  Shuttle.reg_spanned s.cur x y r
@[simp] theorem cur_spanned (s : State) (x y : Nat) : (s.spanned x y).cur = s.cur.spanned x y := rfl

/-- The span check passes: the convoy records the registers. -/
theorem inSpan_ok {s : State} {bits r w : Nat} (h : s.breaksSpan r w = false) :
    inSpan bits r w s = .ok () (s.spanned r w) := by
  simp [inSpan, h]
/-- It fails: ILLEGAL_CONVOY, reason 7. -/
theorem inSpan_trap {s : State} {bits r w : Nat} (h : s.breaksSpan r w = true) :
    inSpan bits r w s = .error (.trap cCONVOY (w64 bits) (w64 (7 * 2 ^ 60 + s.cur.convoy.count))) s := by
  simp [inSpan, h]

/-- A scalar instruction that may stand in a span: its result is written and the next instruction follows. -/
theorem run_scalarOp {s : State} {len bits r : Nat} {d : SReg} {f : Shuttle → Word}
    (h : s.breaksSpan r (sMask d) = false) :
    run (scalarOp len bits r d f) s =
      .next (((s.spanned r (sMask d)).wr d (f (s.cur.spanned r (sMask d)))).advance len) := by
  apply run_ok
  unfold scalarOp
  rw [bind_ok (inSpan_ok h)]
  simp
/-- It traps where it breaks the span rule. -/
theorem run_scalarOp_trap {s : State} {len bits r : Nat} {d : SReg} {f : Shuttle → Word}
    (h : s.breaksSpan r (sMask d) = true) :
    run (scalarOp len bits r d f) s =
      .next (takeTrap s cCONVOY (w64 bits) (w64 (7 * 2 ^ 60 + s.cur.convoy.count))) := by
  apply run_trap
  unfold scalarOp
  rw [bind_error (inSpan_trap h)]

end Sys2Proof.Machine
end

