-- ==== Sys2Proof/Laws/Memory.lean ====
section
/-!
SUPPORT. Sys2Proof/Laws/Memory.lean: every operation over storage keeps its canonical form; a read after a write gives what was
written, and every other byte reads as before.
-/
namespace Sys2Proof.Machine

/-! ## The canonical form -/

/-- The canonical form, said of the list as a whole. -/
theorem wf_iff (m : List Host.Cell) :
    Memory.wf m = true ↔ (m.Pairwise fun a b => a.1 < b.1) ∧ ∀ c ∈ m, c.2 ≠ emptyByte := by
  induction m with
  | nil => simp [Memory.wf]
  | cons a t ih =>
    cases t with
    | nil => simp [Memory.wf]
    | cons c t =>
      simp only [Memory.wf, Bool.and_eq_true, decide_eq_true_eq, bne_iff_ne, ne_eq, ih, List.pairwise_cons, List.mem_cons,
        forall_eq_or_imp]
      constructor
      · rintro ⟨⟨h1, h2⟩, ⟨h3, h4⟩, h5, h6⟩
        exact ⟨⟨⟨h1, fun d hd => Nat.lt_trans h1 (h3 d hd)⟩, h3, h4⟩, h2, h5, h6⟩
      · rintro ⟨⟨⟨h1, _⟩, h3, h4⟩, h2, h5, h6⟩
        exact ⟨⟨h1, h2⟩, ⟨h3, h4⟩, h5, h6⟩

theorem rising_iff (l : List Nat) : rising l = true ↔ l.Pairwise (· < ·) := by
  induction l with
  | nil => simp [rising]
  | cons a t ih =>
    cases t with
    | nil => simp [rising]
    | cons b t =>
      simp only [rising, Bool.and_eq_true, decide_eq_true_eq, ih, List.pairwise_cons, List.mem_cons, forall_eq_or_imp]
      constructor
      · rintro ⟨h1, h2, h3⟩
        exact ⟨⟨h1, fun d hd => Nat.lt_trans h1 (h2 d hd)⟩, h2, h3⟩
      · rintro ⟨⟨h1, _⟩, h2, h3⟩
        exact ⟨h1, h2, h3⟩

theorem reset_canonical : State.reset.Canonical := ⟨rfl, rfl⟩

/-! ## One byte -/

theorem mem_memWrite {m : List Host.Cell} {k : Nat} {b : Byte} {c : Host.Cell} (h : c ∈ memWrite m k b) :
    c ∈ m ∨ (c = (k, b) ∧ b ≠ emptyByte) := by
  induction m with
  | nil =>
    simp only [memWrite] at h
    split at h
    · cases h
    · exact .inr ⟨List.mem_singleton.1 h, ‹_›⟩
  | cons a t ih =>
    simp only [memWrite] at h
    split at h
    · split at h
      · exact .inl h
      · rcases List.mem_cons.1 h with h | h
        · exact .inr ⟨h, ‹_›⟩
        · exact .inl h
    · split at h
      · split at h
        · exact .inl (List.mem_cons_of_mem _ h)
        · rcases List.mem_cons.1 h with h | h
          · exact .inr ⟨h, ‹_›⟩
          · exact .inl (List.mem_cons_of_mem _ h)
      · rcases List.mem_cons.1 h with h | h
        · exact .inl (h ▸ List.mem_cons_self)
        · exact (ih h).imp (List.mem_cons_of_mem _) id

theorem wf_memWrite {m : List Host.Cell} (h : Memory.wf m = true) (k : Nat) (b : Byte) :
    Memory.wf (memWrite m k b) = true := by
  rw [wf_iff] at h ⊢
  obtain ⟨h1, h2⟩ := h
  refine ⟨?_, fun c hc => (mem_memWrite hc).elim (h2 c) fun h => h.1 ▸ h.2⟩
  induction m with
  | nil => simp only [memWrite]; split <;> simp
  | cons a t ih =>
    have h3 := List.pairwise_cons.1 h1
    simp only [memWrite]
    split
    · split
      · exact h1
      · refine List.pairwise_cons.2 ⟨fun c hc => ?_, h1⟩
        rcases List.mem_cons.1 hc with rfl | hc
        · assumption
        · exact Nat.lt_trans ‹_› (h3.1 c hc)
    · split
      · rename_i _ e
        split
        · exact h3.2
        · exact List.pairwise_cons.2 ⟨fun c hc => e ▸ h3.1 c hc, h3.2⟩
      · refine List.pairwise_cons.2 ⟨fun c hc => ?_, ih h3.2 fun c hc => h2 c (List.mem_cons_of_mem _ hc)⟩
        rcases mem_memWrite hc with hc | ⟨rfl, -⟩
        · exact h3.1 c hc
        · show a.1 < k
          omega

/-- A byte below every key reads as an unlisted one. -/
theorem memRead_below {m : List Host.Cell} {k : Nat} (h : ∀ c ∈ m, k < c.1) : memRead m k = emptyByte := by
  cases m with
  | nil => rfl
  | cons a t =>
    have := h a List.mem_cons_self
    simp only [memRead]
    rw [if_neg (by omega), if_pos this]

/-- A byte reads as what was last written there, and every other one as before. -/
theorem memRead_memWrite {m : List Host.Cell} (h : Memory.wf m = true) (k : Nat) (b : Byte) (j : Nat) :
    memRead (memWrite m k b) j = if j = k then b else memRead m j := by
  obtain ⟨h1, -⟩ := (wf_iff m).1 h
  clear h
  induction m with
  | nil =>
    simp only [memWrite, memRead]
    split <;> split <;> simp_all [memRead] <;> omega
  | cons a t ih =>
    have h3 := List.pairwise_cons.1 h1
    have ih := ih h3.2
    have low : j ≤ a.1 → memRead t j = emptyByte := fun hj =>
      memRead_below fun c hc => Nat.lt_of_le_of_lt hj (h3.1 c hc)
    simp only [memWrite]
    split
    · split
      · rename_i hk hb
        simp only [memRead]
        by_cases e : j = k
        · rw [if_neg (by omega), if_pos (by omega), if_pos e, hb]
        · rw [if_neg e]
      · simp only [memRead]
        by_cases e : j = k
        · simp [e]
        · rw [if_neg (by omega), if_neg e]
          by_cases e2 : j < k
          · rw [if_pos e2, if_neg (by omega), if_pos (by omega)]
          · rw [if_neg e2]
    · split
      · rename_i _ e
        split
        · by_cases e2 : j = k
          · rw [if_pos e2, low (by omega)]; exact (‹b = emptyByte›).symm
          · rw [if_neg e2]
            simp only [memRead]
            rw [if_neg (by omega)]
            by_cases e3 : j < a.1
            · rw [if_pos e3, low (by omega)]
            · rw [if_neg e3]
        · simp only [memRead]
          by_cases e2 : j = k
          · simp [e2]
          · rw [if_neg (by omega), if_neg e2, if_neg (by omega : a.1 ≠ j)]
            by_cases e3 : j < a.1
            · rw [if_pos (by omega), if_pos e3]
            · rw [if_neg (by omega), if_neg e3]
      · simp only [memRead]
        by_cases e : a.1 = j
        · rw [if_pos e, if_pos e, if_neg (by omega)]
        · rw [if_neg e, if_neg e]
          by_cases e2 : j < a.1
          · rw [if_pos e2, if_pos e2, if_neg (by omega)]
          · rw [if_neg e2, if_neg e2, ih]

/-! ## Several bytes -/

theorem wf_writeLE {m : List Host.Cell} (h : Memory.wf m = true) (k v n : Nat) : Memory.wf (writeLE m k v n) = true := by
  induction n generalizing m k v with
  | zero => exact h
  | succ n ih => exact ih (wf_memWrite h _ _) _ _

theorem memRead_writeLE {m : List Host.Cell} (h : Memory.wf m = true) (k v n j : Nat) (hj : j < k ∨ k + n ≤ j) :
    memRead (writeLE m k v n) j = memRead m j := by
  induction n generalizing m k v with
  | zero => rfl
  | succ n ih =>
    rw [writeLE, ih (wf_memWrite h _ _) _ _ (by omega), memRead_memWrite h, if_neg (by omega)]

/-- Equal bytes read as equal numbers. -/
theorem readLE_congr {m m' : List Host.Cell} (k n : Nat) (h : ∀ j, k ≤ j → j < k + n → memRead m j = memRead m' j) :
    readLE m k n = readLE m' k n := by
  induction n generalizing k with
  | zero => rfl
  | succ n ih =>
    simp only [readLE]
    rw [h k (Nat.le_refl k) (by omega), ih (k + 1) fun j h1 h2 => h j (by omega) (by omega)]

theorem readLE_writeLE {m : List Host.Cell} (h : Memory.wf m = true) (k v n : Nat) :
    readLE (writeLE m k v n) k n = v % 256 ^ n := by
  induction n generalizing m k v with
  | zero => simp [readLE, Nat.mod_one]
  | succ n ih =>
    simp only [readLE, writeLE]
    rw [ih (wf_memWrite h _ _), memRead_writeLE (wf_memWrite h _ _) _ _ _ _ (by omega), memRead_memWrite h, if_pos rfl,
      BitVec.toNat_ofNat, show (256 : Nat) ^ (n + 1) = 256 * 256 ^ n by rw [Nat.pow_succ, Nat.mul_comm], Nat.mod_mul]

theorem readLE_writeLE_outside {m : List Host.Cell} (h : Memory.wf m = true) (k v n j l : Nat)
    (hj : j + l ≤ k ∨ k + n ≤ j) : readLE (writeLE m k v n) j l = readLE m j l :=
  readLE_congr j l fun i h1 h2 => memRead_writeLE h k v n i (by omega)

/-! ## Whole ranges -/

theorem wf_filter {m : List Host.Cell} (h : Memory.wf m = true) (p : Host.Cell → Bool) : Memory.wf (m.filter p) = true := by
  rw [wf_iff] at h ⊢
  exact ⟨h.1.filter _, fun c hc => h.2 c (List.mem_filter.1 hc).1⟩

theorem wf_append {m m' : List Host.Cell} (h : Memory.wf m = true) (h' : Memory.wf m' = true)
    (hlt : ∀ a ∈ m, ∀ b ∈ m', a.1 < b.1) : Memory.wf (m ++ m') = true := by
  rw [wf_iff] at h h' ⊢
  exact ⟨List.pairwise_append.2 ⟨h.1, h'.1, hlt⟩, fun c hc => (List.mem_append.1 hc).elim (h.2 c) (h'.2 c)⟩

theorem wf_map {m : List Host.Cell} (h : Memory.wf m = true) (f : Host.Cell → Host.Cell) (h2 : ∀ c ∈ m, (f c).2 = c.2)
    (h1 : ∀ a ∈ m, ∀ b ∈ m, a.1 < b.1 → (f a).1 < (f b).1) : Memory.wf (m.map f) = true := by
  rw [wf_iff] at h ⊢
  constructor
  · rw [List.pairwise_map]
    exact (List.Pairwise.and_mem.1 h.1).imp fun ⟨ha, hb, hl⟩ => h1 _ ha _ hb hl
  · intro c hc
    obtain ⟨a, ha, rfl⟩ := List.mem_map.1 hc
    rw [h2 a ha]
    exact h.2 a ha

theorem wf_copyRange {m : List Host.Cell} (h : Memory.wf m = true) (src dst n : Nat) :
    Memory.wf (copyRange m src dst n) = true := by
  unfold copyRange
  refine wf_append (wf_append (wf_filter h _) (wf_map (wf_filter h _) _ (fun _ _ => rfl) ?_) ?_) (wf_filter h _) ?_
  · intro a ha b hb hl
    have := (List.mem_filter.1 ha).2; have := (List.mem_filter.1 hb).2
    simp only [decide_eq_true_eq] at *
    omega
  · intro a ha b hb
    obtain ⟨c, hc, rfl⟩ := List.mem_map.1 hb
    have := (List.mem_filter.1 ha).2; have := (List.mem_filter.1 hc).2
    simp only [decide_eq_true_eq] at *
    omega
  · intro a ha b hb
    have h3 := (List.mem_filter.1 hb).2
    simp only [decide_eq_true_eq] at h3
    rcases List.mem_append.1 ha with ha | ha
    · have := (List.mem_filter.1 ha).2; simp only [decide_eq_true_eq] at this; omega
    · obtain ⟨c, hc, rfl⟩ := List.mem_map.1 ha
      have := (List.mem_filter.1 hc).2
      simp only [decide_eq_true_eq] at *
      omega

theorem wf_zeroRange {m : List Host.Cell} (h : Memory.wf m = true) (k n : Nat) : Memory.wf (zeroRange m k n) = true :=
  wf_filter h _

theorem wf_rekey {m : List Host.Cell} (h : Memory.wf m = true) (old new : Nat) (hn : new < 256) :
    Memory.wf (rekey m old new) = true := by
  unfold rekey
  refine wf_append (wf_map (wf_filter h _) _ (fun _ _ => rfl) ?_) (wf_filter h _) ?_
  · intro a ha b hb hl
    have := (List.mem_filter.1 ha).2; have := (List.mem_filter.1 hb).2
    simp only [beq_iff_eq] at *
    omega
  · intro a ha b hb
    obtain ⟨c, hc, rfl⟩ := List.mem_map.1 ha
    have := (List.mem_filter.1 hb).2
    simp only [decide_eq_true_eq] at *
    omega

/-! ## Poison marks -/

theorem mem_sAdd {l : List Nat} {k x : Nat} (h : x ∈ sAdd l k) : x ∈ l ∨ x = k := by
  induction l with
  | nil => exact .inr (List.mem_singleton.1 h)
  | cons a t ih =>
    simp only [sAdd] at h
    split at h
    · exact (List.mem_cons.1 h).symm
    · split at h
      · exact .inl h
      · rcases List.mem_cons.1 h with h | h
        · exact .inl (h ▸ List.mem_cons_self)
        · exact (ih h).imp (List.mem_cons_of_mem _) id

theorem rising_sAdd {l : List Nat} (h : rising l = true) (k : Nat) : rising (sAdd l k) = true := by
  rw [rising_iff] at h ⊢
  induction l with
  | nil => simp [sAdd]
  | cons a t ih =>
    have h3 := List.pairwise_cons.1 h
    simp only [sAdd]
    split
    · refine List.pairwise_cons.2 ⟨fun c hc => ?_, h⟩
      rcases List.mem_cons.1 hc with rfl | hc
      · assumption
      · exact Nat.lt_trans ‹_› (h3.1 c hc)
    · split
      · exact h
      · refine List.pairwise_cons.2 ⟨fun c hc => ?_, ih h3.2⟩
        rcases mem_sAdd hc with hc | rfl
        · exact h3.1 c hc
        · omega

theorem sDel_sublist (l : List Nat) (k : Nat) : (sDel l k).Sublist l := by
  induction l with
  | nil => exact List.Sublist.slnil
  | cons a t ih =>
    simp only [sDel]
    split
    · exact List.Sublist.refl _
    · split
      · exact List.sublist_cons_self _ _
      · exact ih.cons_cons _

theorem rising_sDel {l : List Nat} (h : rising l = true) (k : Nat) : rising (sDel l k) = true := by
  rw [rising_iff] at h ⊢
  exact h.sublist (sDel_sublist l k)

theorem rising_filter {l : List Nat} (h : rising l = true) (p : Nat → Bool) : rising (l.filter p) = true := by
  rw [rising_iff] at h ⊢
  exact h.filter _

/-- What every step of a fold keeps, the fold keeps. -/
theorem foldl_keeps {α β : Type} {P : β → Prop} {f : β → α → β} {l : List α} {b : β} (h0 : P b)
    (h : ∀ b a, P b → P (f b a)) : P (l.foldl f b) := by
  induction l generalizing b with
  | nil => exact h0
  | cons a t ih => exact ih (h b a h0)

theorem rising_markStore {p : List Nat} (h : rising p = true) (k n : Nat) (pois : Bool) :
    rising (markStore p k n pois) = true := by
  refine foldl_keeps (P := fun p => rising p = true) h fun b a hb => ?_
  dsimp only
  split
  · exact rising_sAdd hb _
  · split
    · exact rising_sDel hb _
    · exact hb

theorem rising_markMasked {p : List Nat} (h : rising p = true) (k n pm : Nat) : rising (markMasked p k n pm) = true := by
  refine foldl_keeps (P := fun p => rising p = true) h fun b a hb => ?_
  dsimp only
  split
  · exact rising_sAdd hb _
  · split
    · exact rising_sDel hb _
    · exact hb

theorem rising_append {l l' : List Nat} (h : rising l = true) (h' : rising l' = true) (hlt : ∀ a ∈ l, ∀ b ∈ l', a < b) :
    rising (l ++ l') = true := by
  rw [rising_iff] at h h' ⊢
  exact List.pairwise_append.2 ⟨h, h', hlt⟩

theorem rising_map {l : List Nat} (h : rising l = true) (f : Nat → Nat) (h1 : ∀ a ∈ l, ∀ b ∈ l, a < b → f a < f b) :
    rising (l.map f) = true := by
  rw [rising_iff] at h ⊢
  rw [List.pairwise_map]
  exact (List.Pairwise.and_mem.1 h).imp fun ⟨ha, hb, hl⟩ => h1 _ ha _ hb hl

theorem rising_copyMarks {p : List Nat} (h : rising p = true) (src dst n : Nat) : rising (copyMarks p src dst n) = true := by
  unfold copyMarks
  refine rising_append (rising_append (rising_filter h _) (rising_map (rising_filter h _) _ ?_) ?_) (rising_filter h _) ?_
  · intro a ha b hb hl
    have := (List.mem_filter.1 ha).2; have := (List.mem_filter.1 hb).2
    simp only [decide_eq_true_eq] at *
    omega
  · intro a ha b hb
    obtain ⟨c, hc, rfl⟩ := List.mem_map.1 hb
    have := (List.mem_filter.1 ha).2; have := (List.mem_filter.1 hc).2
    simp only [decide_eq_true_eq] at *
    omega
  · intro a ha b hb
    have h3 := (List.mem_filter.1 hb).2
    simp only [decide_eq_true_eq] at h3
    rcases List.mem_append.1 ha with ha | ha
    · have := (List.mem_filter.1 ha).2; simp only [decide_eq_true_eq] at this; omega
    · obtain ⟨c, hc, rfl⟩ := List.mem_map.1 ha
      have := (List.mem_filter.1 hc).2
      simp only [decide_eq_true_eq] at *
      omega

theorem rising_rekeyMarks {p : List Nat} (h : rising p = true) (old new : Nat) (hn : new < 256) :
    rising (rekeyMarks p old new) = true := by
  unfold rekeyMarks
  refine rising_append (rising_map (rising_filter h _) _ ?_) (rising_filter h _) ?_
  · intro a ha b hb hl
    have := (List.mem_filter.1 ha).2; have := (List.mem_filter.1 hb).2
    simp only [beq_iff_eq] at *
    omega
  · intro a ha b hb
    obtain ⟨c, hc, rfl⟩ := List.mem_map.1 ha
    have := (List.mem_filter.1 hb).2
    simp only [decide_eq_true_eq] at *
    omega

/-! ## The operations of State -/

/-- Cells in the place of `n` bytes from `lo` keep the canonical form of the memory about them. -/
theorem wf_inPlace {m cells : List Host.Cell} (h : Memory.wf m = true) (hc : Memory.wf cells = true) (lo n : Nat)
    (hl : ∀ c ∈ cells, lo ≤ c.1 ∧ c.1 < lo + n) :
    Memory.wf (m.filter (fun c => decide (c.1 < lo)) ++ cells ++ m.filter fun c => decide (lo + n ≤ c.1)) = true := by
  refine wf_append (wf_append (wf_filter h _) hc ?_) (wf_filter h _) ?_
  · intro a ha b hb
    have := (List.mem_filter.1 ha).2; have := hl b hb
    simp only [decide_eq_true_eq] at *
    omega
  · intro a ha b hb
    have := (List.mem_filter.1 hb).2
    rcases List.mem_append.1 ha with ha | ha
    · have := (List.mem_filter.1 ha).2
      simp only [decide_eq_true_eq] at *
      omega
    · have := hl a ha
      simp only [decide_eq_true_eq] at *
      omega
theorem rising_inPlace {p marks : List Nat} (h : rising p = true) (hm : rising marks = true) (lo n : Nat)
    (hl : ∀ w ∈ marks, lo ≤ w ∧ w < lo + n) :
    rising (p.filter (fun w => decide (w < lo)) ++ marks ++ p.filter fun w => decide (lo + n ≤ w)) = true := by
  refine rising_append (rising_append (rising_filter h _) hm ?_) (rising_filter h _) ?_
  · intro a ha b hb
    have := (List.mem_filter.1 ha).2; have := hl b hb
    simp only [decide_eq_true_eq] at *
    omega
  · intro a ha b hb
    have := (List.mem_filter.1 hb).2
    rcases List.mem_append.1 ha with ha | ha
    · have := (List.mem_filter.1 ha).2
      simp only [decide_eq_true_eq] at *
      omega
    · have := hl a ha
      simp only [decide_eq_true_eq] at *
      omega
theorem mem_freeCells {byte : Nat → Byte} {lo n : Nat} {c : Host.Cell} (h : c ∈ freeCells byte lo n) : lo ≤ c.1 ∧ c.1 < lo + n := by
  obtain ⟨i, hi, he⟩ := List.mem_filterMap.1 h
  have := List.mem_range.1 hi
  split at he
  · cases he
  · cases he; dsimp only; omega
theorem wf_freeCells (byte : Nat → Byte) (lo n : Nat) : Memory.wf (freeCells byte lo n) = true := by
  rw [wf_iff]
  constructor
  · unfold freeCells
    rw [List.pairwise_filterMap]
    refine List.pairwise_lt_range.imp fun {a b} hab x hx y hy => ?_
    split at hx <;> split at hy <;> cases hx <;> cases hy
    dsimp only; omega
  · intro c hc
    obtain ⟨i, -, he⟩ := List.mem_filterMap.1 hc
    split at he
    · cases he
    · cases he; assumption

/-- Storage alone decides whether a state is canonical. -/
theorem canonical_congr {s t : State} (hm : t.mem = s.mem) (hp : t.poisoned = s.poisoned) :
    t.Canonical ↔ s.Canonical := by unfold State.Canonical; rw [hm, hp]

theorem canonical_store {s : State} (h : s.Canonical) (k n v : Nat) (pois : Bool) : (s.store k n v pois).Canonical :=
  ⟨wf_writeLE h.1 _ _ _, rising_markStore h.2 _ _ _⟩
theorem canonical_storeBits {s : State} (h : s.Canonical) (k lo n v : Nat) (pois : Bool) :
    (s.storeBits k lo n v pois).Canonical := canonical_store h _ _ _ _
theorem canonical_storeMasked {s : State} (h : s.Canonical) (k n v pm : Nat) : (s.storeMasked k n v pm).Canonical :=
  ⟨wf_writeLE h.1 _ _ _, rising_markMasked h.2 _ _ _⟩
theorem canonical_copyPage {s : State} (h : s.Canonical) (src dst : Nat) : (s.copyPage src dst).Canonical :=
  ⟨wf_copyRange h.1 _ _ _, rising_copyMarks h.2 _ _ _⟩
theorem canonical_copyBytes {s : State} (h : s.Canonical) (src dst n : Nat) : (s.copyBytes src dst n).Canonical :=
  ⟨wf_copyRange h.1 _ _ _, rising_copyMarks h.2 _ _ _⟩
theorem canonical_fillFree {s : State} (h : s.Canonical) (lo n off : Nat) : (s.fillFree lo n off).Canonical :=
  ⟨wf_inPlace h.1 (wf_freeCells ..) _ _ fun _ hc => mem_freeCells hc, h.2⟩
theorem canonical_pullPage {s : State} (h : s.Canonical) (dst : Nat) : (s.pullPage dst).Canonical := by
  refine ⟨wf_inPlace h.1 (wf_freeCells ..) _ _ fun _ hc => mem_freeCells hc, rising_inPlace h.2 ?_ _ 8192 ?_⟩
  · rw [rising_iff, List.pairwise_filterMap]
    refine List.pairwise_lt_range.imp fun {a b} hab x hx y hy => ?_
    split at hx <;> split at hy <;> cases hx <;> cases hy
    omega
  · intro w hw
    obtain ⟨i, hi, he⟩ := List.mem_filterMap.1 hw
    have := List.mem_range.1 hi
    split at he
    · cases he; omega
    · cases he
theorem canonical_zero {s : State} (h : s.Canonical) (k n : Nat) : (s.zero k n).Canonical :=
  ⟨wf_zeroRange h.1 _ _, rising_filter h.2 _⟩
theorem canonical_putSpad {s : State} (h : s.Canonical) (looms : Nat) (cells : List Host.Cell) (marks : List Nat) :
    (putSpad s looms cells marks).Canonical := by
  constructor
  · refine foldl_keeps (P := fun m => Memory.wf m = true) (wf_filter h.1 _) fun b a hb => ?_
    dsimp only
    split
    · exact wf_memWrite hb _ _
    · exact hb
  · refine foldl_keeps (P := fun m => rising m = true) (rising_filter h.2 _) fun b a hb => ?_
    dsimp only
    split
    · exact rising_sAdd hb _
    · exact hb
theorem canonical_setChip {s : State} (h : s.Canonical) (new : Nat) (hn : new < 256) : (s.setChip new).Canonical := by
  unfold State.setChip
  split
  · exact h
  · exact ⟨wf_rekey h.1 _ _ hn, rising_rekeyMarks h.2 _ _ hn⟩

/-- What a store leaves at its own bytes and elsewhere. -/
theorem store_reads {s : State} (h : s.Canonical) (k n v : Nat) (pois : Bool) :
    readLE (s.store k n v pois).mem k n = v % 256 ^ n ∧ sameBytesOutside s (s.store k n v pois) k n :=
  ⟨readLE_writeLE h.1 k v n, fun a ha => memRead_writeLE h.1 k v n a ha⟩

/-! ## Instructions that keep it -/

/-- An operation of an instruction after which, however it ends, storage is canonical if it was before. -/
def KeepsCanonical {α : Type} (m : M α) : Prop :=
  ∀ s, s.Canonical → (∀ a t, m s = .ok a t → t.Canonical) ∧ (∀ e t, m s = .error e t → t.Canonical)

theorem KeepsCanonical.pure {α : Type} (a : α) : KeepsCanonical (Pure.pure a : M α) := fun s h =>
  ⟨fun _ _ e => (by cases e; exact h), fun _ _ e => (by cases e)⟩
theorem KeepsCanonical.throw {α : Type} (e : Stop) : KeepsCanonical (MonadExcept.throw (ε := Stop) e : M α) := fun s h =>
  ⟨fun _ _ e => (by cases e), fun _ _ e => (by cases e; exact h)⟩
theorem KeepsCanonical.bind {α β : Type} {m : M α} {f : α → M β} (hm : KeepsCanonical m) (hf : ∀ a, KeepsCanonical (f a)) :
    KeepsCanonical (m >>= f) := by
  intro s h
  cases r : m s with
  | ok a t => rw [bind_ok r]; exact hf a t ((hm s h).1 a t r)
  | error x t => rw [bind_error r]; exact ⟨fun _ _ e => (by cases e), fun _ _ e => (by cases e; exact (hm s h).2 x _ r)⟩
theorem KeepsCanonical.get : KeepsCanonical (MonadState.get : M State) := fun s h =>
  ⟨fun _ _ e => (by cases e; exact h), fun _ _ e => (by cases e)⟩
/-- The state is read, and what follows need only keep it where that state is canonical. -/
theorem KeepsCanonical.get_bind {β : Type} {f : State → M β}
    (hf : ∀ s : State, s.Canonical → (∀ a t, f s s = .ok a t → t.Canonical) ∧ (∀ e t, f s s = .error e t → t.Canonical)) :
    KeepsCanonical ((MonadState.get : M State) >>= f) := fun s h => hf s h
theorem KeepsCanonical.modify {g : State → State} (hg : ∀ s, s.Canonical → (g s).Canonical) :
    KeepsCanonical (modify g : M PUnit) := fun s h =>
  ⟨fun _ _ e => (by cases e; exact hg s h), fun _ _ e => (by cases e)⟩
theorem KeepsCanonical.onCur (g : Shuttle → Shuttle) : KeepsCanonical (onCur g) := fun s h =>
  ⟨fun _ _ e => (by cases e; exact h), fun _ _ e => (by cases e)⟩
theorem KeepsCanonical.ite {α : Type} {c : Prop} [Decidable c] {m n : M α} (hm : KeepsCanonical m) (hn : KeepsCanonical n) :
    KeepsCanonical (if c then m else n) := by
  split
  · exact hm
  · exact hn

end Sys2Proof.Machine
end

