-- ==== Sys2Proof/Laws/Order.lean ====
section
/-!
SUPPORT. Sys2Proof/Laws/Order.lean: what the operations on the order of accesses can change, and what they do where no store is
in dispute.
-/
namespace Sys2Proof.Machine

/-- `t` differs from `s` in the records of stores and in the time alone. -/
def onlyOrder (s t : State) : Prop := ∃ st n, t = { s with stores := st, now := n }

theorem onlyOrder.rfl' (s : State) : onlyOrder s s := ⟨_, _, rfl⟩
theorem onlyOrder.trans {s t u : State} (h : onlyOrder s t) (k : onlyOrder t u) : onlyOrder s u := by
  obtain ⟨_, _, rfl⟩ := h; obtain ⟨_, _, rfl⟩ := k; exact ⟨_, _, rfl⟩
/-- A function of the state that does not look at what changes. -/
theorem onlyOrder.get {γ : Type} {s t : State} (h : onlyOrder s t) (g : State → γ)
    (hg : ∀ st n, g { s with stores := st, now := n } = g s) : g t = g s := by
  obtain ⟨_, _, rfl⟩ := h; exact hg _ _
theorem onlyOrder.canonical {s t : State} (h : onlyOrder s t) (hs : s.Canonical) : t.Canonical :=
  (canonical_congr (h.get State.mem fun _ _ => rfl) (h.get State.poisoned fun _ _ => rfl)).2 hs

theorem performed_only (s : State) (pick : Store → Bool) (d : Dom) : onlyOrder s (s.performed pick d) := by
  unfold State.performed; split
  · exact ⟨_, _, rfl⟩
  · exact onlyOrder.rfl' s
theorem observe_only (s : State) (o : Obs) (ids : List Nat) : onlyOrder s (s.observe o ids) :=
  (performed_only ..).trans ⟨_, _, rfl⟩
theorem viewLoad_only (s : State) (o : Obs) (floor f k n : Nat) : onlyOrder s (s.viewLoad o floor f k n).2 := observe_only ..
theorem readNewest_only (s : State) (o : Obs) (k n : Nat) : onlyOrder s (s.readNewest o k n) := observe_only ..
/-- A release changes, besides, what the shuttle's posted requests come before (R97). -/
theorem release_only (s : State) (d : Dom) :
    ∃ t ps, onlyOrder s t ∧ s.release d = { t with cur := { s.cur with posted := ps } } := by
  obtain ⟨st, n, h⟩ := performed_only s (s.cur.earlier agAll) d
  exact ⟨_, _, ⟨st, n, h⟩, by simp [State.release, Shuttle.ordered, h]; rfl⟩

/-- Where no store is recorded, nothing is left to perform. -/
theorem performed_none {s : State} (h : s.stores = []) (pick : Store → Bool) (d : Dom) : s.performed pick d = s := by
  simp [State.performed, h]
theorem release_none {s : State} (h : s.stores = []) (d : Dom) :
    s.release d = { s with cur := s.cur.ordered agAll s.now } := by
  simp [State.release, performed_none h]
/-- Marks beneath a store keep the canonical form of the marks. -/
theorem rising_markBeneath {p : List Nat} (h : rising p = true) (k n : Nat) : rising (markBeneath p k n) = true := by
  unfold markBeneath
  generalize List.range _ = l
  induction l generalizing p with
  | nil => exact h
  | cons i l ih =>
    rw [List.foldl_cons]
    apply ih
    dsimp only
    split
    · exact h
    · exact rising_sAdd h _

/-- A store that a store by an observer makes, or one that it goes beneath, keeps the canonical form. -/
theorem canonical_storeBy {s : State} (h : s.Canonical) (o : Obs) (floor k n v : Nat) (pois atom : Bool) :
    (s.storeBy o floor k n v pois atom).Canonical := by
  have upper : (s.storeOver o k n v pois atom).Canonical := ⟨wf_writeLE h.1 _ _ _, rising_markStore h.2 _ _ _⟩
  unfold State.storeBy
  cases s.stores.find? (fun x => x.hits k n) with
  | none => exact upper
  | some x =>
    dsimp only
    split
    · refine ⟨h.1, ?_⟩
      show rising (if pois then _ else _) = true
      split
      · exact rising_markBeneath h.2 _ _
      · exact h.2
    · exact upper
theorem canonical_storeCur {s : State} (h : s.Canonical) (agent k n v : Nat) (pois atom : Bool) :
    (s.storeCur agent k n v pois atom).Canonical := canonical_storeBy h ..

/-- A load of bytes that no load may miss a store to returns what storage holds. -/
theorem loadAt_settled {s : State} {k n : Nat} (h : s.disputed k n = false) (agent : Nat) :
    loadAt agent k n s = .ok { v := (s.load k n).1, pois := (s.load k n).2, time := 0 } s := by
  unfold loadAt loadFrom
  simp only [get_bind, h]
  rfl
theorem loadAs_settled {s : State} {k n : Nat} (h : s.disputed k n = false) (agent : Nat) :
    loadAs agent k n s = .ok (s.load k n) s := by
  unfold loadAs
  rw [bind_ok (loadAt_settled h agent)]
  rfl
/-- A store where none is in dispute is performed in storage, and is recorded. -/
theorem storeBy_settled {s : State} {k n : Nat} (h : s.disputed k n = false) (o : Obs) (floor v : Nat) (pois atom : Bool) :
    s.storeBy o floor k n v pois atom =
      { { s with fresh := s.fresh + 1, now := s.now + 1 }.poke k n v pois with stores := s.recordOf o k n atom :: s.stores } := by
  have : s.stores.find? (fun x => x.hits k n) = none := by
    rw [List.find?_eq_none]
    intro x hx hk
    exact Bool.false_ne_true (h.symm.trans (List.any_eq_true.2 ⟨x, hx, hk⟩))
  simp only [State.storeBy, this]
  rfl

end Sys2Proof.Machine
end

