-- ==== Sys2Proof/Laws/PerInstr.lean ====
section
/-!
SUPPORT. Sys2Proof/Laws/PerInstr.lean: what is stated of every instruction as syntax: decoding its bits gives it back. One
lemma per constructor of Instr.
-/
namespace Sys2Proof.Laws

/-- Decoding the bits of a well-formed instruction that has an encoding gives it back. -/
def RoundTrip.Statement (i : Instr) : Prop :=
  i.wf = true → i.hasEncoding = true → decode (instrLen i) (encode i) = .ok i

namespace RoundTrip

theorem add (d a b : SReg) : Statement (.add d a b) := fun ok _ => by
  show decode 4 (Bits.add d a b) = _
  obtain ⟨g0, g1, hd, ha, hb⟩ := shape0 (k0 := 129) (k1 := 0) d a b (w := Bits.add d a b) (by decide) (by decide) (by simp only [Bits.add, sh]; try omega)
  generalize Bits.add d a b = bw at *
  rw [decode32_1 (by unfold fld; omega), decSalu_0 (by unfold fld; omega)]
  rw [hd, ha, hb]
theorem sub (d a b : SReg) : Statement (.sub d a b) := fun ok _ => by
  show decode 4 (Bits.sub d a b) = _
  obtain ⟨g0, g1, hd, ha, hb⟩ := shape0 (k0 := 129) (k1 := 1) d a b (w := Bits.sub d a b) (by decide) (by decide) (by simp only [Bits.sub, sh]; try omega)
  generalize Bits.sub d a b = bw at *
  rw [decode32_1 (by unfold fld; omega), decSalu_1 (by unfold fld; omega)]
  rw [hd, ha, hb]
theorem and (d a b : SReg) : Statement (.and d a b) := fun ok _ => by
  show decode 4 (Bits.and d a b) = _
  obtain ⟨g0, g1, hd, ha, hb⟩ := shape0 (k0 := 129) (k1 := 2) d a b (w := Bits.and d a b) (by decide) (by decide) (by simp only [Bits.and, sh]; try omega)
  generalize Bits.and d a b = bw at *
  rw [decode32_1 (by unfold fld; omega), decSalu_2 (by unfold fld; omega)]
  rw [hd, ha, hb]
theorem or (d a b : SReg) : Statement (.or d a b) := fun ok _ => by
  show decode 4 (Bits.or d a b) = _
  obtain ⟨g0, g1, hd, ha, hb⟩ := shape0 (k0 := 129) (k1 := 3) d a b (w := Bits.or d a b) (by decide) (by decide) (by simp only [Bits.or, sh]; try omega)
  generalize Bits.or d a b = bw at *
  rw [decode32_1 (by unfold fld; omega), decSalu_3 (by unfold fld; omega)]
  rw [hd, ha, hb]
theorem xor (d a b : SReg) : Statement (.xor d a b) := fun ok _ => by
  show decode 4 (Bits.xor d a b) = _
  obtain ⟨g0, g1, hd, ha, hb⟩ := shape0 (k0 := 129) (k1 := 4) d a b (w := Bits.xor d a b) (by decide) (by decide) (by simp only [Bits.xor, sh]; try omega)
  generalize Bits.xor d a b = bw at *
  rw [decode32_1 (by unfold fld; omega), decSalu_4 (by unfold fld; omega)]
  rw [hd, ha, hb]
theorem andn (d a b : SReg) : Statement (.andn d a b) := fun ok _ => by
  show decode 4 (Bits.andn d a b) = _
  obtain ⟨g0, g1, hd, ha, hb⟩ := shape0 (k0 := 129) (k1 := 5) d a b (w := Bits.andn d a b) (by decide) (by decide) (by simp only [Bits.andn, sh]; try omega)
  generalize Bits.andn d a b = bw at *
  rw [decode32_1 (by unfold fld; omega), decSalu_5 (by unfold fld; omega)]
  rw [hd, ha, hb]
theorem orn (d a b : SReg) : Statement (.orn d a b) := fun ok _ => by
  show decode 4 (Bits.orn d a b) = _
  obtain ⟨g0, g1, hd, ha, hb⟩ := shape0 (k0 := 129) (k1 := 6) d a b (w := Bits.orn d a b) (by decide) (by decide) (by simp only [Bits.orn, sh]; try omega)
  generalize Bits.orn d a b = bw at *
  rw [decode32_1 (by unfold fld; omega), decSalu_6 (by unfold fld; omega)]
  rw [hd, ha, hb]
theorem shl (d a b : SReg) : Statement (.shl d a b) := fun ok _ => by
  show decode 4 (Bits.shl d a b) = _
  obtain ⟨g0, g1, hd, ha, hb⟩ := shape0 (k0 := 129) (k1 := 7) d a b (w := Bits.shl d a b) (by decide) (by decide) (by simp only [Bits.shl, sh]; try omega)
  generalize Bits.shl d a b = bw at *
  rw [decode32_1 (by unfold fld; omega), decSalu_7 (by unfold fld; omega)]
  rw [hd, ha, hb]
theorem shr (d a b : SReg) : Statement (.shr d a b) := fun ok _ => by
  show decode 4 (Bits.shr d a b) = _
  obtain ⟨g0, g1, hd, ha, hb⟩ := shape0 (k0 := 129) (k1 := 8) d a b (w := Bits.shr d a b) (by decide) (by decide) (by simp only [Bits.shr, sh]; try omega)
  generalize Bits.shr d a b = bw at *
  rw [decode32_1 (by unfold fld; omega), decSalu_8 (by unfold fld; omega)]
  rw [hd, ha, hb]
theorem sar (d a b : SReg) : Statement (.sar d a b) := fun ok _ => by
  show decode 4 (Bits.sar d a b) = _
  obtain ⟨g0, g1, hd, ha, hb⟩ := shape0 (k0 := 129) (k1 := 9) d a b (w := Bits.sar d a b) (by decide) (by decide) (by simp only [Bits.sar, sh]; try omega)
  generalize Bits.sar d a b = bw at *
  rw [decode32_1 (by unfold fld; omega), decSalu_9 (by unfold fld; omega)]
  rw [hd, ha, hb]
theorem rol (d a b : SReg) : Statement (.rol d a b) := fun ok _ => by
  show decode 4 (Bits.rol d a b) = _
  obtain ⟨g0, g1, hd, ha, hb⟩ := shape0 (k0 := 129) (k1 := 10) d a b (w := Bits.rol d a b) (by decide) (by decide) (by simp only [Bits.rol, sh]; try omega)
  generalize Bits.rol d a b = bw at *
  rw [decode32_1 (by unfold fld; omega), decSalu_10 (by unfold fld; omega)]
  rw [hd, ha, hb]
theorem ror (d a b : SReg) : Statement (.ror d a b) := fun ok _ => by
  show decode 4 (Bits.ror d a b) = _
  obtain ⟨g0, g1, hd, ha, hb⟩ := shape0 (k0 := 129) (k1 := 11) d a b (w := Bits.ror d a b) (by decide) (by decide) (by simp only [Bits.ror, sh]; try omega)
  generalize Bits.ror d a b = bw at *
  rw [decode32_1 (by unfold fld; omega), decSalu_11 (by unfold fld; omega)]
  rw [hd, ha, hb]
theorem slt (d a b : SReg) : Statement (.slt d a b) := fun ok _ => by
  show decode 4 (Bits.slt d a b) = _
  obtain ⟨g0, g1, hd, ha, hb⟩ := shape0 (k0 := 129) (k1 := 12) d a b (w := Bits.slt d a b) (by decide) (by decide) (by simp only [Bits.slt, sh]; try omega)
  generalize Bits.slt d a b = bw at *
  rw [decode32_1 (by unfold fld; omega), decSalu_12 (by unfold fld; omega)]
  rw [hd, ha, hb]
theorem sltn (d a b : SReg) : Statement (.sltn d a b) := fun ok _ => by
  show decode 4 (Bits.sltn d a b) = _
  obtain ⟨g0, g1, hd, ha, hb⟩ := shape0 (k0 := 129) (k1 := 13) d a b (w := Bits.sltn d a b) (by decide) (by decide) (by simp only [Bits.sltn, sh]; try omega)
  generalize Bits.sltn d a b = bw at *
  rw [decode32_1 (by unfold fld; omega), decSalu_13 (by unfold fld; omega)]
  rw [hd, ha, hb]
theorem min (d a b : SReg) : Statement (.min d a b) := fun ok _ => by
  show decode 4 (Bits.min d a b) = _
  obtain ⟨g0, g1, hd, ha, hb⟩ := shape0 (k0 := 129) (k1 := 14) d a b (w := Bits.min d a b) (by decide) (by decide) (by simp only [Bits.min, sh]; try omega)
  generalize Bits.min d a b = bw at *
  rw [decode32_1 (by unfold fld; omega), decSalu_14 (by unfold fld; omega)]
  rw [hd, ha, hb]
theorem max (d a b : SReg) : Statement (.max d a b) := fun ok _ => by
  show decode 4 (Bits.max d a b) = _
  obtain ⟨g0, g1, hd, ha, hb⟩ := shape0 (k0 := 129) (k1 := 15) d a b (w := Bits.max d a b) (by decide) (by decide) (by simp only [Bits.max, sh]; try omega)
  generalize Bits.max d a b = bw at *
  rw [decode32_1 (by unfold fld; omega), decSalu_15 (by unfold fld; omega)]
  rw [hd, ha, hb]
theorem minn (d a b : SReg) : Statement (.minn d a b) := fun ok _ => by
  show decode 4 (Bits.minn d a b) = _
  obtain ⟨g0, g1, hd, ha, hb⟩ := shape0 (k0 := 129) (k1 := 16) d a b (w := Bits.minn d a b) (by decide) (by decide) (by simp only [Bits.minn, sh]; try omega)
  generalize Bits.minn d a b = bw at *
  rw [decode32_1 (by unfold fld; omega), decSalu_16 (by unfold fld; omega)]
  rw [hd, ha, hb]
theorem maxn (d a b : SReg) : Statement (.maxn d a b) := fun ok _ => by
  show decode 4 (Bits.maxn d a b) = _
  obtain ⟨g0, g1, hd, ha, hb⟩ := shape0 (k0 := 129) (k1 := 17) d a b (w := Bits.maxn d a b) (by decide) (by decide) (by simp only [Bits.maxn, sh]; try omega)
  generalize Bits.maxn d a b = bw at *
  rw [decode32_1 (by unfold fld; omega), decSalu_17 (by unfold fld; omega)]
  rw [hd, ha, hb]
theorem mul (d a b : SReg) : Statement (.mul d a b) := fun ok _ => by
  show decode 4 (Bits.mul d a b) = _
  obtain ⟨g0, g1, hd, ha, hb⟩ := shape0 (k0 := 129) (k1 := 18) d a b (w := Bits.mul d a b) (by decide) (by decide) (by simp only [Bits.mul, sh]; try omega)
  generalize Bits.mul d a b = bw at *
  rw [decode32_1 (by unfold fld; omega), decSalu_18 (by unfold fld; omega)]
  rw [hd, ha, hb]
theorem mulh (d a b : SReg) : Statement (.mulh d a b) := fun ok _ => by
  show decode 4 (Bits.mulh d a b) = _
  obtain ⟨g0, g1, hd, ha, hb⟩ := shape0 (k0 := 129) (k1 := 19) d a b (w := Bits.mulh d a b) (by decide) (by decide) (by simp only [Bits.mulh, sh]; try omega)
  generalize Bits.mulh d a b = bw at *
  rw [decode32_1 (by unfold fld; omega), decSalu_19 (by unfold fld; omega)]
  rw [hd, ha, hb]
theorem mulhn (d a b : SReg) : Statement (.mulhn d a b) := fun ok _ => by
  show decode 4 (Bits.mulhn d a b) = _
  obtain ⟨g0, g1, hd, ha, hb⟩ := shape0 (k0 := 129) (k1 := 20) d a b (w := Bits.mulhn d a b) (by decide) (by decide) (by simp only [Bits.mulhn, sh]; try omega)
  generalize Bits.mulhn d a b = bw at *
  rw [decode32_1 (by unfold fld; omega), decSalu_20 (by unfold fld; omega)]
  rw [hd, ha, hb]
theorem div (d a b : SReg) : Statement (.div d a b) := fun ok _ => by
  show decode 4 (Bits.div d a b) = _
  obtain ⟨g0, g1, hd, ha, hb⟩ := shape0 (k0 := 129) (k1 := 21) d a b (w := Bits.div d a b) (by decide) (by decide) (by simp only [Bits.div, sh]; try omega)
  generalize Bits.div d a b = bw at *
  rw [decode32_1 (by unfold fld; omega), decSalu_21 (by unfold fld; omega)]
  rw [hd, ha, hb]
theorem divn (d a b : SReg) : Statement (.divn d a b) := fun ok _ => by
  show decode 4 (Bits.divn d a b) = _
  obtain ⟨g0, g1, hd, ha, hb⟩ := shape0 (k0 := 129) (k1 := 22) d a b (w := Bits.divn d a b) (by decide) (by decide) (by simp only [Bits.divn, sh]; try omega)
  generalize Bits.divn d a b = bw at *
  rw [decode32_1 (by unfold fld; omega), decSalu_22 (by unfold fld; omega)]
  rw [hd, ha, hb]
theorem rem (d a b : SReg) : Statement (.rem d a b) := fun ok _ => by
  show decode 4 (Bits.rem d a b) = _
  obtain ⟨g0, g1, hd, ha, hb⟩ := shape0 (k0 := 129) (k1 := 23) d a b (w := Bits.rem d a b) (by decide) (by decide) (by simp only [Bits.rem, sh]; try omega)
  generalize Bits.rem d a b = bw at *
  rw [decode32_1 (by unfold fld; omega), decSalu_23 (by unfold fld; omega)]
  rw [hd, ha, hb]
theorem remn (d a b : SReg) : Statement (.remn d a b) := fun ok _ => by
  show decode 4 (Bits.remn d a b) = _
  obtain ⟨g0, g1, hd, ha, hb⟩ := shape0 (k0 := 129) (k1 := 24) d a b (w := Bits.remn d a b) (by decide) (by decide) (by simp only [Bits.remn, sh]; try omega)
  generalize Bits.remn d a b = bw at *
  rw [decode32_1 (by unfold fld; omega), decSalu_24 (by unfold fld; omega)]
  rw [hd, ha, hb]
theorem clz (d a : SReg) : Statement (.clz d a) := fun ok _ => by
  show decode 4 (Bits.clz d a) = _
  obtain ⟨g0, g1, hd, ha⟩ := shape1 (k0 := 129) (k1 := 25) d a (w := Bits.clz d a) (by decide) (by decide) (by simp only [Bits.clz, sh]; try omega)
  generalize Bits.clz d a = bw at *
  rw [decode32_1 (by unfold fld; omega), decSalu_25 (by unfold fld; omega)]
  rw [unused_of (by unfold fld; omega)]
  rw [hd, ha]
theorem ctz (d a : SReg) : Statement (.ctz d a) := fun ok _ => by
  show decode 4 (Bits.ctz d a) = _
  obtain ⟨g0, g1, hd, ha⟩ := shape1 (k0 := 129) (k1 := 26) d a (w := Bits.ctz d a) (by decide) (by decide) (by simp only [Bits.ctz, sh]; try omega)
  generalize Bits.ctz d a = bw at *
  rw [decode32_1 (by unfold fld; omega), decSalu_26 (by unfold fld; omega)]
  rw [unused_of (by unfold fld; omega)]
  rw [hd, ha]
theorem popc (d a : SReg) : Statement (.popc d a) := fun ok _ => by
  show decode 4 (Bits.popc d a) = _
  obtain ⟨g0, g1, hd, ha⟩ := shape1 (k0 := 129) (k1 := 27) d a (w := Bits.popc d a) (by decide) (by decide) (by simp only [Bits.popc, sh]; try omega)
  generalize Bits.popc d a = bw at *
  rw [decode32_1 (by unfold fld; omega), decSalu_27 (by unfold fld; omega)]
  rw [unused_of (by unfold fld; omega)]
  rw [hd, ha]
theorem sext (d a b : SReg) : Statement (.sext d a b) := fun ok _ => by
  show decode 4 (Bits.sext d a b) = _
  obtain ⟨g0, g1, hd, ha, hb⟩ := shape0 (k0 := 129) (k1 := 28) d a b (w := Bits.sext d a b) (by decide) (by decide) (by simp only [Bits.sext, sh]; try omega)
  generalize Bits.sext d a b = bw at *
  rw [decode32_1 (by unfold fld; omega), decSalu_28 (by unfold fld; omega)]
  rw [hd, ha, hb]
theorem addi (d a : SReg) (i : BitVec 14) : Statement (.addi d a i) := fun ok _ => by
  show decode 4 (Bits.addi d a i) = _
  obtain ⟨g0, hd, ha, hi⟩ := shape2 (k0 := 130) d a i (w := Bits.addi d a i) (by decide) (by simp only [Bits.addi, sh]; try omega)
  generalize Bits.addi d a i = bw at *
  rw [decode32_2 (by unfold fld; omega)]
  rw [hd, ha, hi]
theorem andi (d a : SReg) (i : BitVec 14) : Statement (.andi d a i) := fun ok _ => by
  show decode 4 (Bits.andi d a i) = _
  obtain ⟨g0, hd, ha, hi⟩ := shape2 (k0 := 131) d a i (w := Bits.andi d a i) (by decide) (by simp only [Bits.andi, sh]; try omega)
  generalize Bits.andi d a i = bw at *
  rw [decode32_3 (by unfold fld; omega)]
  rw [hd, ha, hi]
theorem ori (d a : SReg) (i : BitVec 14) : Statement (.ori d a i) := fun ok _ => by
  show decode 4 (Bits.ori d a i) = _
  obtain ⟨g0, hd, ha, hi⟩ := shape2 (k0 := 132) d a i (w := Bits.ori d a i) (by decide) (by simp only [Bits.ori, sh]; try omega)
  generalize Bits.ori d a i = bw at *
  rw [decode32_4 (by unfold fld; omega)]
  rw [hd, ha, hi]
theorem xori (d a : SReg) (i : BitVec 14) : Statement (.xori d a i) := fun ok _ => by
  show decode 4 (Bits.xori d a i) = _
  obtain ⟨g0, hd, ha, hi⟩ := shape2 (k0 := 133) d a i (w := Bits.xori d a i) (by decide) (by simp only [Bits.xori, sh]; try omega)
  generalize Bits.xori d a i = bw at *
  rw [decode32_5 (by unfold fld; omega)]
  rw [hd, ha, hi]
theorem shli (d a : SReg) (n : BitVec 6) : Statement (.shli d a n) := fun ok _ => by
  show decode 4 (Bits.shli d a n) = _
  obtain ⟨g0, g1, hd, ha, hn⟩ := shape3 (k0 := 134) (k1 := 0) d a n (w := Bits.shli d a n) (by decide) (by decide) (by simp only [Bits.shli, sh]; try omega)
  generalize Bits.shli d a n = bw at *
  rw [decode32_6 (by unfold fld; omega), decShifti_0 (by unfold fld; omega)]
  rw [unused_of (by unfold fld; omega)]
  rw [hd, ha, hn]
theorem shri (d a : SReg) (n : BitVec 6) : Statement (.shri d a n) := fun ok _ => by
  show decode 4 (Bits.shri d a n) = _
  obtain ⟨g0, g1, hd, ha, hn⟩ := shape3 (k0 := 134) (k1 := 64) d a n (w := Bits.shri d a n) (by decide) (by decide) (by simp only [Bits.shri, sh]; try omega)
  generalize Bits.shri d a n = bw at *
  rw [decode32_6 (by unfold fld; omega), decShifti_1 (by unfold fld; omega)]
  rw [unused_of (by unfold fld; omega)]
  rw [hd, ha, hn]
theorem sari (d a : SReg) (n : BitVec 6) : Statement (.sari d a n) := fun ok _ => by
  show decode 4 (Bits.sari d a n) = _
  obtain ⟨g0, g1, hd, ha, hn⟩ := shape3 (k0 := 134) (k1 := 128) d a n (w := Bits.sari d a n) (by decide) (by decide) (by simp only [Bits.sari, sh]; try omega)
  generalize Bits.sari d a n = bw at *
  rw [decode32_6 (by unfold fld; omega), decShifti_2 (by unfold fld; omega)]
  rw [unused_of (by unfold fld; omega)]
  rw [hd, ha, hn]
theorem slti (d a : SReg) (i : BitVec 14) : Statement (.slti d a i) := fun ok _ => by
  show decode 4 (Bits.slti d a i) = _
  obtain ⟨g0, hd, ha, hi⟩ := shape2 (k0 := 135) d a i (w := Bits.slti d a i) (by decide) (by simp only [Bits.slti, sh]; try omega)
  generalize Bits.slti d a i = bw at *
  rw [decode32_7 (by unfold fld; omega)]
  rw [hd, ha, hi]
theorem sltni (d a : SReg) (i : BitVec 14) : Statement (.sltni d a i) := fun ok _ => by
  show decode 4 (Bits.sltni d a i) = _
  obtain ⟨g0, hd, ha, hi⟩ := shape2 (k0 := 136) d a i (w := Bits.sltni d a i) (by decide) (by simp only [Bits.sltni, sh]; try omega)
  generalize Bits.sltni d a i = bw at *
  rw [decode32_8 (by unfold fld; omega)]
  rw [hd, ha, hi]
theorem lui (d : SReg) (i : BitVec 19) : Statement (.lui d i) := fun ok _ => by
  show decode 4 (Bits.lui d i) = _
  obtain ⟨g0, hd, hi⟩ := shape4 (k0 := 137) d i (w := Bits.lui d i) (by decide) (by simp only [Bits.lui, sh]; try omega)
  generalize Bits.lui d i = bw at *
  rw [decode32_9 (by unfold fld; omega)]
  rw [hd, hi]
theorem adpc (d : SReg) (i : BitVec 19) : Statement (.adpc d i) := fun ok _ => by
  show decode 4 (Bits.adpc d i) = _
  obtain ⟨g0, hd, hi⟩ := shape4 (k0 := 138) d i (w := Bits.adpc d i) (by decide) (by simp only [Bits.adpc, sh]; try omega)
  generalize Bits.adpc d i = bw at *
  rw [decode32_10 (by unfold fld; omega)]
  rw [hd, hi]
theorem bext (d a : SReg) (p l : BitVec 6) : Statement (.bext d a p l) := fun ok _ => by
  show decode 4 (Bits.bext d a p l) = _
  obtain ⟨g0, g1, hd, ha, hp, hl⟩ := shape5 (k0 := 139) (k1 := 0) d a p l (w := Bits.bext d a p l) (by decide) (by decide) (by simp only [Bits.bext, sh]; try omega)
  generalize Bits.bext d a p l = bw at *
  rw [decode32_11 (by unfold fld; omega), decBfld_0 (by unfold fld; omega)]
  rw [listed_of (by rw [fld_im hp, fld_im hl]; exact ok)]
  rw [hd, ha, hp, hl]
theorem bextS (d a : SReg) (p l : BitVec 6) : Statement (.bextS d a p l) := fun ok _ => by
  show decode 4 (Bits.bextS d a p l) = _
  obtain ⟨g0, g1, hd, ha, hp, hl⟩ := shape5 (k0 := 139) (k1 := 1) d a p l (w := Bits.bextS d a p l) (by decide) (by decide) (by simp only [Bits.bextS, sh]; try omega)
  generalize Bits.bextS d a p l = bw at *
  rw [decode32_11 (by unfold fld; omega), decBfld_1 (by unfold fld; omega)]
  rw [listed_of (by rw [fld_im hp, fld_im hl]; exact ok)]
  rw [hd, ha, hp, hl]
theorem bins (d a : SReg) (p l : BitVec 6) : Statement (.bins d a p l) := fun ok _ => by
  show decode 4 (Bits.bins d a p l) = _
  obtain ⟨g0, g1, hd, ha, hp, hl⟩ := shape5 (k0 := 139) (k1 := 2) d a p l (w := Bits.bins d a p l) (by decide) (by decide) (by simp only [Bits.bins, sh]; try omega)
  generalize Bits.bins d a p l = bw at *
  rw [decode32_11 (by unfold fld; omega), decBfld_2 (by unfold fld; omega)]
  rw [listed_of (by rw [fld_im hp, fld_im hl]; exact ok)]
  rw [hd, ha, hp, hl]
theorem ld (d a : SReg) (w : Fin 8) (o : BitVec 11) : Statement (.ld d a w o) := fun ok _ => by
  show decode 4 (Bits.ld d a w o) = _
  obtain ⟨g0, hd, ha, hw, ho⟩ := shape6 (k0 := 140) d a w o (w := Bits.ld d a w o) (by decide) (by simp only [Bits.ld, sh]; try omega)
  generalize Bits.ld d a w o = bw at *
  rw [decode32_12 (by unfold fld; omega)]
  rw [listed_of (by rw [fld_r3 hw]; exact ok)]
  rw [hd, ha, hw, ho]
theorem st (s a : SReg) (w : Fin 8) (o : BitVec 11) : Statement (.st s a w o) := fun ok _ => by
  show decode 4 (Bits.st s a w o) = _
  obtain ⟨g0, hs, ha, hw, ho⟩ := shape6 (k0 := 141) s a w o (w := Bits.st s a w o) (by decide) (by simp only [Bits.st, sh]; try omega)
  generalize Bits.st s a w o = bw at *
  rw [decode32_13 (by unfold fld; omega)]
  rw [listed_of (by rw [fld_r3 hw]; exact ok)]
  rw [hs, ha, hw, ho]
theorem lda (d a : SReg) (w : Fin 8) (o : BitVec 11) : Statement (.lda d a w o) := fun ok _ => by
  show decode 4 (Bits.lda d a w o) = _
  obtain ⟨g0, hd, ha, hw, ho⟩ := shape6 (k0 := 142) d a w o (w := Bits.lda d a w o) (by decide) (by simp only [Bits.lda, sh]; try omega)
  generalize Bits.lda d a w o = bw at *
  rw [decode32_14 (by unfold fld; omega)]
  rw [listed_of (by rw [fld_r3 hw]; exact ok)]
  rw [hd, ha, hw, ho]
theorem stl (s a : SReg) (w : Fin 8) (o : BitVec 11) : Statement (.stl s a w o) := fun ok _ => by
  show decode 4 (Bits.stl s a w o) = _
  obtain ⟨g0, hs, ha, hw, ho⟩ := shape6 (k0 := 143) s a w o (w := Bits.stl s a w o) (by decide) (by simp only [Bits.stl, sh]; try omega)
  generalize Bits.stl s a w o = bw at *
  rw [decode32_15 (by unfold fld; omega)]
  rw [listed_of (by rw [fld_r3 hw]; exact ok)]
  rw [hs, ha, hw, ho]
theorem beq (a b : SReg) (o : BitVec 14) : Statement (.beq a b o) := fun ok _ => by
  show decode 4 (Bits.beq a b o) = _
  obtain ⟨g0, ha, hb, ho⟩ := shape2 (k0 := 144) a b o (w := Bits.beq a b o) (by decide) (by simp only [Bits.beq, sh]; try omega)
  generalize Bits.beq a b o = bw at *
  rw [decode32_16 (by unfold fld; omega)]
  rw [ha, hb, ho]
theorem bne (a b : SReg) (o : BitVec 14) : Statement (.bne a b o) := fun ok _ => by
  show decode 4 (Bits.bne a b o) = _
  obtain ⟨g0, ha, hb, ho⟩ := shape2 (k0 := 145) a b o (w := Bits.bne a b o) (by decide) (by simp only [Bits.bne, sh]; try omega)
  generalize Bits.bne a b o = bw at *
  rw [decode32_17 (by unfold fld; omega)]
  rw [ha, hb, ho]
theorem blt (a b : SReg) (o : BitVec 14) : Statement (.blt a b o) := fun ok _ => by
  show decode 4 (Bits.blt a b o) = _
  obtain ⟨g0, ha, hb, ho⟩ := shape2 (k0 := 146) a b o (w := Bits.blt a b o) (by decide) (by simp only [Bits.blt, sh]; try omega)
  generalize Bits.blt a b o = bw at *
  rw [decode32_18 (by unfold fld; omega)]
  rw [ha, hb, ho]
theorem bge (a b : SReg) (o : BitVec 14) : Statement (.bge a b o) := fun ok _ => by
  show decode 4 (Bits.bge a b o) = _
  obtain ⟨g0, ha, hb, ho⟩ := shape2 (k0 := 147) a b o (w := Bits.bge a b o) (by decide) (by simp only [Bits.bge, sh]; try omega)
  generalize Bits.bge a b o = bw at *
  rw [decode32_19 (by unfold fld; omega)]
  rw [ha, hb, ho]
theorem bltn (a b : SReg) (o : BitVec 14) : Statement (.bltn a b o) := fun ok _ => by
  show decode 4 (Bits.bltn a b o) = _
  obtain ⟨g0, ha, hb, ho⟩ := shape2 (k0 := 148) a b o (w := Bits.bltn a b o) (by decide) (by simp only [Bits.bltn, sh]; try omega)
  generalize Bits.bltn a b o = bw at *
  rw [decode32_20 (by unfold fld; omega)]
  rw [ha, hb, ho]
theorem bgen (a b : SReg) (o : BitVec 14) : Statement (.bgen a b o) := fun ok _ => by
  show decode 4 (Bits.bgen a b o) = _
  obtain ⟨g0, ha, hb, ho⟩ := shape2 (k0 := 149) a b o (w := Bits.bgen a b o) (by decide) (by simp only [Bits.bgen, sh]; try omega)
  generalize Bits.bgen a b o = bw at *
  rw [decode32_21 (by unfold fld; omega)]
  rw [ha, hb, ho]
theorem jmp (o : BitVec 24) : Statement (.jmp o) := fun ok _ => by
  show decode 4 (Bits.jmp o) = _
  obtain ⟨g0, ho⟩ := shape7 (k0 := 150) o (w := Bits.jmp o) (by decide) (by simp only [Bits.jmp]; try omega)
  generalize Bits.jmp o = bw at *
  rw [decode32_22 (by unfold fld; omega)]
  rw [ho]
theorem call (o : BitVec 24) : Statement (.call o) := fun ok _ => by
  show decode 4 (Bits.call o) = _
  obtain ⟨g0, ho⟩ := shape7 (k0 := 151) o (w := Bits.call o) (by decide) (by simp only [Bits.call]; try omega)
  generalize Bits.call o = bw at *
  rw [decode32_23 (by unfold fld; omega)]
  rw [ho]
theorem jr (a : SReg) : Statement (.jr a) := fun ok _ => by
  show decode 4 (Bits.jr a) = _
  obtain ⟨g0, g1, ha⟩ := shape8 (k0 := 4864) (k1 := 0) a (w := Bits.jr a) (by decide) (by decide) (by simp only [Bits.jr, sh]; try omega)
  generalize Bits.jr a = bw at *
  rw [decode32_24 (by unfold fld; omega), decJreg_0 (by unfold fld; omega)]
  rw [unused_of (by unfold fld; omega)]
  rw [ha]
theorem callr (d a : SReg) : Statement (.callr d a) := fun ok _ => by
  show decode 4 (Bits.callr d a) = _
  obtain ⟨g0, g1, hd, ha⟩ := shape1 (k0 := 152) (k1 := 1) d a (w := Bits.callr d a) (by decide) (by decide) (by simp only [Bits.callr, sh]; try omega)
  generalize Bits.callr d a = bw at *
  rw [decode32_24 (by unfold fld; omega), decJreg_1 (by unfold fld; omega)]
  rw [unused_of (by unfold fld; omega)]
  rw [hd, ha]
theorem amoSwap (d a b : SReg) (o : Fin 4) (z : Bool) : Statement (.amoSwap d a b o z) := fun ok _ => by
  show decode 4 (Bits.amoSwap d a b o z) = _
  obtain ⟨g0, g1, g2, hd, ha, hb, ho, hz⟩ := shape9 (k0 := 153) (k1 := 0) (k2 := 0) d a b o z (w := Bits.amoSwap d a b o z) (by decide) (by decide) (by decide) (by simp only [Bits.amoSwap, sh]; try omega)
  generalize Bits.amoSwap d a b o z = bw at *
  rw [decode32_25 (by unfold fld; omega), decAmo_0 (by unfold fld; omega)]
  rw [unused_of (by unfold fld; omega)]
  rw [hd, ha, hb, ho, hz]
theorem amoAdd (d a b : SReg) (o : Fin 4) (z : Bool) : Statement (.amoAdd d a b o z) := fun ok _ => by
  show decode 4 (Bits.amoAdd d a b o z) = _
  obtain ⟨g0, g1, g2, hd, ha, hb, ho, hz⟩ := shape9 (k0 := 153) (k1 := 0) (k2 := 1) d a b o z (w := Bits.amoAdd d a b o z) (by decide) (by decide) (by decide) (by simp only [Bits.amoAdd, sh]; try omega)
  generalize Bits.amoAdd d a b o z = bw at *
  rw [decode32_25 (by unfold fld; omega), decAmo_1 (by unfold fld; omega)]
  rw [unused_of (by unfold fld; omega)]
  rw [hd, ha, hb, ho, hz]
theorem amoAnd (d a b : SReg) (o : Fin 4) (z : Bool) : Statement (.amoAnd d a b o z) := fun ok _ => by
  show decode 4 (Bits.amoAnd d a b o z) = _
  obtain ⟨g0, g1, g2, hd, ha, hb, ho, hz⟩ := shape9 (k0 := 153) (k1 := 0) (k2 := 2) d a b o z (w := Bits.amoAnd d a b o z) (by decide) (by decide) (by decide) (by simp only [Bits.amoAnd, sh]; try omega)
  generalize Bits.amoAnd d a b o z = bw at *
  rw [decode32_25 (by unfold fld; omega), decAmo_2 (by unfold fld; omega)]
  rw [unused_of (by unfold fld; omega)]
  rw [hd, ha, hb, ho, hz]
theorem amoOr (d a b : SReg) (o : Fin 4) (z : Bool) : Statement (.amoOr d a b o z) := fun ok _ => by
  show decode 4 (Bits.amoOr d a b o z) = _
  obtain ⟨g0, g1, g2, hd, ha, hb, ho, hz⟩ := shape9 (k0 := 153) (k1 := 0) (k2 := 3) d a b o z (w := Bits.amoOr d a b o z) (by decide) (by decide) (by decide) (by simp only [Bits.amoOr, sh]; try omega)
  generalize Bits.amoOr d a b o z = bw at *
  rw [decode32_25 (by unfold fld; omega), decAmo_3 (by unfold fld; omega)]
  rw [unused_of (by unfold fld; omega)]
  rw [hd, ha, hb, ho, hz]
theorem amoXor (d a b : SReg) (o : Fin 4) (z : Bool) : Statement (.amoXor d a b o z) := fun ok _ => by
  show decode 4 (Bits.amoXor d a b o z) = _
  obtain ⟨g0, g1, g2, hd, ha, hb, ho, hz⟩ := shape9 (k0 := 153) (k1 := 0) (k2 := 4) d a b o z (w := Bits.amoXor d a b o z) (by decide) (by decide) (by decide) (by simp only [Bits.amoXor, sh]; try omega)
  generalize Bits.amoXor d a b o z = bw at *
  rw [decode32_25 (by unfold fld; omega), decAmo_4 (by unfold fld; omega)]
  rw [unused_of (by unfold fld; omega)]
  rw [hd, ha, hb, ho, hz]
theorem amoMin (d a b : SReg) (o : Fin 4) (z : Bool) : Statement (.amoMin d a b o z) := fun ok _ => by
  show decode 4 (Bits.amoMin d a b o z) = _
  obtain ⟨g0, g1, g2, hd, ha, hb, ho, hz⟩ := shape9 (k0 := 153) (k1 := 0) (k2 := 5) d a b o z (w := Bits.amoMin d a b o z) (by decide) (by decide) (by decide) (by simp only [Bits.amoMin, sh]; try omega)
  generalize Bits.amoMin d a b o z = bw at *
  rw [decode32_25 (by unfold fld; omega), decAmo_5 (by unfold fld; omega)]
  rw [unused_of (by unfold fld; omega)]
  rw [hd, ha, hb, ho, hz]
theorem amoMax (d a b : SReg) (o : Fin 4) (z : Bool) : Statement (.amoMax d a b o z) := fun ok _ => by
  show decode 4 (Bits.amoMax d a b o z) = _
  obtain ⟨g0, g1, g2, hd, ha, hb, ho, hz⟩ := shape9 (k0 := 153) (k1 := 0) (k2 := 6) d a b o z (w := Bits.amoMax d a b o z) (by decide) (by decide) (by decide) (by simp only [Bits.amoMax, sh]; try omega)
  generalize Bits.amoMax d a b o z = bw at *
  rw [decode32_25 (by unfold fld; omega), decAmo_6 (by unfold fld; omega)]
  rw [unused_of (by unfold fld; omega)]
  rw [hd, ha, hb, ho, hz]
theorem amoMinn (d a b : SReg) (o : Fin 4) (z : Bool) : Statement (.amoMinn d a b o z) := fun ok _ => by
  show decode 4 (Bits.amoMinn d a b o z) = _
  obtain ⟨g0, g1, g2, hd, ha, hb, ho, hz⟩ := shape9 (k0 := 153) (k1 := 0) (k2 := 7) d a b o z (w := Bits.amoMinn d a b o z) (by decide) (by decide) (by decide) (by simp only [Bits.amoMinn, sh]; try omega)
  generalize Bits.amoMinn d a b o z = bw at *
  rw [decode32_25 (by unfold fld; omega), decAmo_7 (by unfold fld; omega)]
  rw [unused_of (by unfold fld; omega)]
  rw [hd, ha, hb, ho, hz]
theorem amoMaxn (d a b : SReg) (o : Fin 4) (z : Bool) : Statement (.amoMaxn d a b o z) := fun ok _ => by
  show decode 4 (Bits.amoMaxn d a b o z) = _
  obtain ⟨g0, g1, g2, hd, ha, hb, ho, hz⟩ := shape9 (k0 := 153) (k1 := 0) (k2 := 8) d a b o z (w := Bits.amoMaxn d a b o z) (by decide) (by decide) (by decide) (by simp only [Bits.amoMaxn, sh]; try omega)
  generalize Bits.amoMaxn d a b o z = bw at *
  rw [decode32_25 (by unfold fld; omega), decAmo_8 (by unfold fld; omega)]
  rw [unused_of (by unfold fld; omega)]
  rw [hd, ha, hb, ho, hz]
theorem cas (d a b c : SReg) (o : Fin 4) (z : Bool) : Statement (.cas d a b c o z) := fun ok _ => by
  show decode 4 (Bits.cas d a b c o z) = _
  obtain ⟨g0, g1, hd, ha, hb, hc, ho, hz⟩ := shape10 (k0 := 154) (k1 := 0) d a b c o z (w := Bits.cas d a b c o z) (by decide) (by decide) (by simp only [Bits.cas, sh]; try omega)
  generalize Bits.cas d a b c o z = bw at *
  rw [decode32_26 (by unfold fld; omega)]
  rw [unused_of (by unfold fld; omega)]
  rw [hd, ha, hb, hc, ho, hz]
theorem fence (s : Fin 8) (k : Fin 4) : Statement (.fence s k) := fun ok _ => by
  show decode 4 (Bits.fence s k) = _
  obtain ⟨g0, hs, hk⟩ := shape11 (k0 := 81264640) s k (w := Bits.fence s k) (by decide) (by simp only [Bits.fence, sh]; try omega)
  generalize Bits.fence s k = bw at *
  rw [decode32_27 (by unfold fld; omega)]
  rw [listed_of (by rw [fld_r3 hs]; exact ok)]
  rw [unused_of (by unfold fld; omega)]
  rw [hs, hk]
theorem trap (a : SReg) : Statement (.trap a) := fun ok _ => by
  show decode 4 (Bits.trap a) = _
  obtain ⟨g0, g1, ha⟩ := shape8 (k0 := 4992) (k1 := 0) a (w := Bits.trap a) (by decide) (by decide) (by simp only [Bits.trap, sh]; try omega)
  generalize Bits.trap a = bw at *
  rw [decode32_28 (by unfold fld; omega), decSys_0 (by unfold fld; omega)]
  rw [unused_of (by unfold fld; omega)]
  rw [ha]
theorem rett : Statement (.rett) := fun ok _ => by
  show decode 4 (Bits.rett) = _
  have g0 := shape12 (k0 := 2617245697) (w := Bits.rett) (by decide) (by simp only [Bits.rett]; try omega)
  generalize Bits.rett = bw at *
  rw [decode32_28 (by unfold fld; omega), decSys_1 (by unfold fld; omega)]
  rw [unused_of (by unfold fld; omega)]
theorem ckpt (d : SReg) : Statement (.ckpt d) := fun ok _ => by
  show decode 4 (Bits.ckpt d) = _
  obtain ⟨g0, g1, hd⟩ := shape13 (k0 := 156) (k1 := 2) d (w := Bits.ckpt d) (by decide) (by decide) (by simp only [Bits.ckpt, sh]; try omega)
  generalize Bits.ckpt d = bw at *
  rw [decode32_28 (by unfold fld; omega), decSys_2 (by unfold fld; omega)]
  rw [unused_of (by unfold fld; omega)]
  rw [hd]
theorem exit : Statement (.exit) := fun ok _ => by
  show decode 4 (Bits.exit) = _
  have g0 := shape12 (k0 := 2617245699) (w := Bits.exit) (by decide) (by simp only [Bits.exit]; try omega)
  generalize Bits.exit = bw at *
  rw [decode32_28 (by unfold fld; omega), decSys_3 (by unfold fld; omega)]
  rw [unused_of (by unfold fld; omega)]
theorem yield : Statement (.yield) := fun ok _ => by
  show decode 4 (Bits.yield) = _
  have g0 := shape12 (k0 := 2617245700) (w := Bits.yield) (by decide) (by simp only [Bits.yield]; try omega)
  generalize Bits.yield = bw at *
  rw [decode32_28 (by unfold fld; omega), decSys_4 (by unfold fld; omega)]
  rw [unused_of (by unfold fld; omega)]
theorem sloop (a : SReg) : Statement (.sloop a) := fun ok _ => by
  show decode 4 (Bits.sloop a) = _
  obtain ⟨g0, g1, ha⟩ := shape8 (k0 := 4992) (k1 := 5) a (w := Bits.sloop a) (by decide) (by decide) (by simp only [Bits.sloop, sh]; try omega)
  generalize Bits.sloop a = bw at *
  rw [decode32_28 (by unfold fld; omega), decSys_5 (by unfold fld; omega)]
  rw [unused_of (by unfold fld; omega)]
  rw [ha]
theorem crr (d : SReg) (r : BitVec 12) : Statement (.crr d r) := fun ok _ => by
  show decode 4 (Bits.crr d r) = _
  obtain ⟨g0, g1, g2, hd, hr⟩ := shape14 (k0 := 157) (k1 := 0) (k2 := 0) d r (w := Bits.crr d r) (by decide) (by decide) (by decide) (by simp only [Bits.crr, sh]; try omega)
  generalize Bits.crr d r = bw at *
  rw [decode32_29 (by unfold fld; omega), decCreg_0 (by unfold fld; omega)]
  rw [listed_of (by rw [fld_im hr]; exact ok)]
  rw [unused_of (by unfold fld; omega)]
  rw [hd, hr]
theorem crw (d a : SReg) (r : BitVec 12) : Statement (.crw d a r) := fun ok _ => by
  show decode 4 (Bits.crw d a r) = _
  obtain ⟨g0, g1, hd, ha, hr⟩ := shape15 (k0 := 157) (k1 := 1) d a r (w := Bits.crw d a r) (by decide) (by decide) (by simp only [Bits.crw, sh]; try omega)
  generalize Bits.crw d a r = bw at *
  rw [decode32_29 (by unfold fld; omega), decCreg_1 (by unfold fld; omega)]
  rw [listed_of (by rw [fld_im hr]; exact ok)]
  rw [hd, ha, hr]
theorem crs (d a : SReg) (r : BitVec 12) : Statement (.crs d a r) := fun ok _ => by
  show decode 4 (Bits.crs d a r) = _
  obtain ⟨g0, g1, hd, ha, hr⟩ := shape15 (k0 := 157) (k1 := 2) d a r (w := Bits.crs d a r) (by decide) (by decide) (by simp only [Bits.crs, sh]; try omega)
  generalize Bits.crs d a r = bw at *
  rw [decode32_29 (by unfold fld; omega), decCreg_2 (by unfold fld; omega)]
  rw [listed_of (by rw [fld_im hr]; exact ok)]
  rw [hd, ha, hr]
theorem crc (d a : SReg) (r : BitVec 12) : Statement (.crc d a r) := fun ok _ => by
  show decode 4 (Bits.crc d a r) = _
  obtain ⟨g0, g1, hd, ha, hr⟩ := shape15 (k0 := 157) (k1 := 3) d a r (w := Bits.crc d a r) (by decide) (by decide) (by simp only [Bits.crc, sh]; try omega)
  generalize Bits.crc d a r = bw at *
  rw [decode32_29 (by unfold fld; omega), decCreg_3 (by unfold fld; omega)]
  rw [listed_of (by rw [fld_im hr]; exact ok)]
  rw [hd, ha, hr]
theorem snext (o : BitVec 24) : Statement (.snext o) := fun ok _ => by
  show decode 4 (Bits.snext o) = _
  obtain ⟨g0, ho⟩ := shape7 (k0 := 158) o (w := Bits.snext o) (by decide) (by simp only [Bits.snext]; try omega)
  generalize Bits.snext o = bw at *
  rw [decode32_30 (by unfold fld; omega)]
  rw [ho]
theorem launch (d a : SReg) : Statement (.launch d a) := fun ok _ => by
  show decode 4 (Bits.launch d a) = _
  obtain ⟨g0, g1, hd, ha⟩ := shape1 (k0 := 159) (k1 := 0) d a (w := Bits.launch d a) (by decide) (by decide) (by simp only [Bits.launch, sh]; try omega)
  generalize Bits.launch d a = bw at *
  rw [decode32_31 (by unfold fld; omega), decLaunch_0 (by unfold fld; omega)]
  rw [unused_of (by unfold fld; omega)]
  rw [hd, ha]
theorem launchLend (d a : SReg) : Statement (.launchLend d a) := fun ok _ => by
  show decode 4 (Bits.launchLend d a) = _
  obtain ⟨g0, g1, hd, ha⟩ := shape1 (k0 := 159) (k1 := 1) d a (w := Bits.launchLend d a) (by decide) (by decide) (by simp only [Bits.launchLend, sh]; try omega)
  generalize Bits.launchLend d a = bw at *
  rw [decode32_31 (by unfold fld; omega), decLaunch_1 (by unfold fld; omega)]
  rw [unused_of (by unfold fld; omega)]
  rw [hd, ha]
theorem fadd (d a b : SReg) (t : Bool) : Statement (.fadd d a b t) := fun ok _ => by
  show decode 4 (Bits.fadd d a b t) = _
  obtain ⟨g0, g1, g2, hd, ha, hb, ht⟩ := shape16 (k0 := 160) (k1 := 0) (k2 := 0) d a b t (w := Bits.fadd d a b t) (by decide) (by decide) (by decide) (by simp only [Bits.fadd, sh]; try omega)
  generalize Bits.fadd d a b t = bw at *
  rw [decode32_32 (by unfold fld; omega), decSfp_0 (by unfold fld; omega)]
  rw [listed_of (by rw [bitAt_of (b := false) (lo := 8) (by show _ = 0; omega)]; rfl)]
  rw [hd, ha, hb, ht]
theorem fsub (d a b : SReg) (t : Bool) : Statement (.fsub d a b t) := fun ok _ => by
  show decode 4 (Bits.fsub d a b t) = _
  obtain ⟨g0, g1, g2, hd, ha, hb, ht⟩ := shape16 (k0 := 160) (k1 := 0) (k2 := 1) d a b t (w := Bits.fsub d a b t) (by decide) (by decide) (by decide) (by simp only [Bits.fsub, sh]; try omega)
  generalize Bits.fsub d a b t = bw at *
  rw [decode32_32 (by unfold fld; omega), decSfp_1 (by unfold fld; omega)]
  rw [listed_of (by rw [bitAt_of (b := false) (lo := 8) (by show _ = 0; omega)]; rfl)]
  rw [hd, ha, hb, ht]
theorem fmul (d a b : SReg) (t : Bool) : Statement (.fmul d a b t) := fun ok _ => by
  show decode 4 (Bits.fmul d a b t) = _
  obtain ⟨g0, g1, g2, hd, ha, hb, ht⟩ := shape16 (k0 := 160) (k1 := 0) (k2 := 2) d a b t (w := Bits.fmul d a b t) (by decide) (by decide) (by decide) (by simp only [Bits.fmul, sh]; try omega)
  generalize Bits.fmul d a b t = bw at *
  rw [decode32_32 (by unfold fld; omega), decSfp_2 (by unfold fld; omega)]
  rw [listed_of (by rw [bitAt_of (b := false) (lo := 8) (by show _ = 0; omega)]; rfl)]
  rw [hd, ha, hb, ht]
theorem fdiv (d a b : SReg) (t : Bool) : Statement (.fdiv d a b t) := fun ok _ => by
  show decode 4 (Bits.fdiv d a b t) = _
  obtain ⟨g0, g1, g2, hd, ha, hb, ht⟩ := shape16 (k0 := 160) (k1 := 0) (k2 := 3) d a b t (w := Bits.fdiv d a b t) (by decide) (by decide) (by decide) (by simp only [Bits.fdiv, sh]; try omega)
  generalize Bits.fdiv d a b t = bw at *
  rw [decode32_32 (by unfold fld; omega), decSfp_3 (by unfold fld; omega)]
  rw [listed_of (by rw [bitAt_of (b := false) (lo := 8) (by show _ = 0; omega)]; rfl)]
  rw [hd, ha, hb, ht]
theorem fsqrt (d a : SReg) (t : Bool) : Statement (.fsqrt d a t) := fun ok _ => by
  show decode 4 (Bits.fsqrt d a t) = _
  obtain ⟨g0, g1, g2, hd, ha, ht⟩ := shape17 (k0 := 160) (k1 := 0) (k2 := 4) d a t (w := Bits.fsqrt d a t) (by decide) (by decide) (by decide) (by simp only [Bits.fsqrt, sh]; try omega)
  generalize Bits.fsqrt d a t = bw at *
  rw [decode32_32 (by unfold fld; omega), decSfp_4 (by unfold fld; omega)]
  rw [listed_of (by rw [bitAt_of (b := false) (lo := 8) (by show _ = 0; omega)]; rfl)]
  rw [unused_of (by unfold fld; omega)]
  rw [hd, ha, ht]
theorem fmin (d a b : SReg) (t : Bool) : Statement (.fmin d a b t) := fun ok _ => by
  show decode 4 (Bits.fmin d a b t) = _
  obtain ⟨g0, g1, g2, hd, ha, hb, ht⟩ := shape16 (k0 := 160) (k1 := 0) (k2 := 5) d a b t (w := Bits.fmin d a b t) (by decide) (by decide) (by decide) (by simp only [Bits.fmin, sh]; try omega)
  generalize Bits.fmin d a b t = bw at *
  rw [decode32_32 (by unfold fld; omega), decSfp_5 (by unfold fld; omega)]
  rw [listed_of (by rw [bitAt_of (b := false) (lo := 8) (by show _ = 0; omega)]; rfl)]
  rw [hd, ha, hb, ht]
theorem fmax (d a b : SReg) (t : Bool) : Statement (.fmax d a b t) := fun ok _ => by
  show decode 4 (Bits.fmax d a b t) = _
  obtain ⟨g0, g1, g2, hd, ha, hb, ht⟩ := shape16 (k0 := 160) (k1 := 0) (k2 := 6) d a b t (w := Bits.fmax d a b t) (by decide) (by decide) (by decide) (by simp only [Bits.fmax, sh]; try omega)
  generalize Bits.fmax d a b t = bw at *
  rw [decode32_32 (by unfold fld; omega), decSfp_6 (by unfold fld; omega)]
  rw [listed_of (by rw [bitAt_of (b := false) (lo := 8) (by show _ = 0; omega)]; rfl)]
  rw [hd, ha, hb, ht]
theorem fcmpEq (d a b : SReg) (t : Bool) : Statement (.fcmpEq d a b t) := fun ok _ => by
  show decode 4 (Bits.fcmpEq d a b t) = _
  obtain ⟨g0, g1, g2, hd, ha, hb, ht⟩ := shape16 (k0 := 160) (k1 := 0) (k2 := 7) d a b t (w := Bits.fcmpEq d a b t) (by decide) (by decide) (by decide) (by simp only [Bits.fcmpEq, sh]; try omega)
  generalize Bits.fcmpEq d a b t = bw at *
  rw [decode32_32 (by unfold fld; omega), decSfp_7 (by unfold fld; omega)]
  rw [listed_of (by rw [bitAt_of (b := false) (lo := 8) (by show _ = 0; omega)]; rfl)]
  rw [hd, ha, hb, ht]
theorem fcmpLt (d a b : SReg) (t : Bool) : Statement (.fcmpLt d a b t) := fun ok _ => by
  show decode 4 (Bits.fcmpLt d a b t) = _
  obtain ⟨g0, g1, g2, hd, ha, hb, ht⟩ := shape16 (k0 := 160) (k1 := 0) (k2 := 8) d a b t (w := Bits.fcmpLt d a b t) (by decide) (by decide) (by decide) (by simp only [Bits.fcmpLt, sh]; try omega)
  generalize Bits.fcmpLt d a b t = bw at *
  rw [decode32_32 (by unfold fld; omega), decSfp_8 (by unfold fld; omega)]
  rw [listed_of (by rw [bitAt_of (b := false) (lo := 8) (by show _ = 0; omega)]; rfl)]
  rw [hd, ha, hb, ht]
theorem fcmpLe (d a b : SReg) (t : Bool) : Statement (.fcmpLe d a b t) := fun ok _ => by
  show decode 4 (Bits.fcmpLe d a b t) = _
  obtain ⟨g0, g1, g2, hd, ha, hb, ht⟩ := shape16 (k0 := 160) (k1 := 0) (k2 := 9) d a b t (w := Bits.fcmpLe d a b t) (by decide) (by decide) (by decide) (by simp only [Bits.fcmpLe, sh]; try omega)
  generalize Bits.fcmpLe d a b t = bw at *
  rw [decode32_32 (by unfold fld; omega), decSfp_9 (by unfold fld; omega)]
  rw [listed_of (by rw [bitAt_of (b := false) (lo := 8) (by show _ = 0; omega)]; rfl)]
  rw [hd, ha, hb, ht]
theorem fclass (d a : SReg) (t : Bool) : Statement (.fclass d a t) := fun ok _ => by
  show decode 4 (Bits.fclass d a t) = _
  obtain ⟨g0, g1, g2, hd, ha, ht⟩ := shape17 (k0 := 160) (k1 := 0) (k2 := 10) d a t (w := Bits.fclass d a t) (by decide) (by decide) (by decide) (by simp only [Bits.fclass, sh]; try omega)
  generalize Bits.fclass d a t = bw at *
  rw [decode32_32 (by unfold fld; omega), decSfp_10 (by unfold fld; omega)]
  rw [listed_of (by rw [bitAt_of (b := false) (lo := 8) (by show _ = 0; omega)]; rfl)]
  rw [unused_of (by unfold fld; omega)]
  rw [hd, ha, ht]
theorem fcvtF (d a : SReg) (t : Bool) : Statement (.fcvtF d a t) := fun ok _ => by
  show decode 4 (Bits.fcvtF d a t) = _
  obtain ⟨g0, g1, g2, hd, ha, ht⟩ := shape17 (k0 := 160) (k1 := 0) (k2 := 11) d a t (w := Bits.fcvtF d a t) (by decide) (by decide) (by decide) (by simp only [Bits.fcvtF, sh]; try omega)
  generalize Bits.fcvtF d a t = bw at *
  rw [decode32_32 (by unfold fld; omega), decSfp_11 (by unfold fld; omega)]
  rw [listed_of (by rw [bitAt_of (b := false) (lo := 8) (by show _ = 0; omega)]; rfl)]
  rw [unused_of (by unfold fld; omega)]
  rw [hd, ha, ht]
theorem fcvtI64 (d a : SReg) (t : Bool) : Statement (.fcvtI64 d a t) := fun ok _ => by
  show decode 4 (Bits.fcvtI64 d a t) = _
  obtain ⟨g0, g1, g2, hd, ha, ht⟩ := shape17 (k0 := 160) (k1 := 0) (k2 := 12) d a t (w := Bits.fcvtI64 d a t) (by decide) (by decide) (by decide) (by simp only [Bits.fcvtI64, sh]; try omega)
  generalize Bits.fcvtI64 d a t = bw at *
  rw [decode32_32 (by unfold fld; omega), decSfp_12 (by unfold fld; omega)]
  rw [listed_of (by rw [bitAt_of (b := false) (lo := 8) (by show _ = 0; omega)]; rfl)]
  rw [unused_of (by unfold fld; omega)]
  rw [hd, ha, ht]
theorem fcvtN64 (d a : SReg) (t : Bool) : Statement (.fcvtN64 d a t) := fun ok _ => by
  show decode 4 (Bits.fcvtN64 d a t) = _
  obtain ⟨g0, g1, g2, hd, ha, ht⟩ := shape17 (k0 := 160) (k1 := 0) (k2 := 13) d a t (w := Bits.fcvtN64 d a t) (by decide) (by decide) (by decide) (by simp only [Bits.fcvtN64, sh]; try omega)
  generalize Bits.fcvtN64 d a t = bw at *
  rw [decode32_32 (by unfold fld; omega), decSfp_13 (by unfold fld; omega)]
  rw [listed_of (by rw [bitAt_of (b := false) (lo := 8) (by show _ = 0; omega)]; rfl)]
  rw [unused_of (by unfold fld; omega)]
  rw [hd, ha, ht]
theorem fcvtFi (d a : SReg) (t : Bool) : Statement (.fcvtFi d a t) := fun ok _ => by
  show decode 4 (Bits.fcvtFi d a t) = _
  obtain ⟨g0, g1, g2, hd, ha, ht⟩ := shape17 (k0 := 160) (k1 := 0) (k2 := 14) d a t (w := Bits.fcvtFi d a t) (by decide) (by decide) (by decide) (by simp only [Bits.fcvtFi, sh]; try omega)
  generalize Bits.fcvtFi d a t = bw at *
  rw [decode32_32 (by unfold fld; omega), decSfp_14 (by unfold fld; omega)]
  rw [listed_of (by rw [bitAt_of (b := false) (lo := 8) (by show _ = 0; omega)]; rfl)]
  rw [unused_of (by unfold fld; omega)]
  rw [hd, ha, ht]
theorem fcvtFn (d a : SReg) (t : Bool) : Statement (.fcvtFn d a t) := fun ok _ => by
  show decode 4 (Bits.fcvtFn d a t) = _
  obtain ⟨g0, g1, g2, hd, ha, ht⟩ := shape17 (k0 := 160) (k1 := 0) (k2 := 15) d a t (w := Bits.fcvtFn d a t) (by decide) (by decide) (by decide) (by simp only [Bits.fcvtFn, sh]; try omega)
  generalize Bits.fcvtFn d a t = bw at *
  rw [decode32_32 (by unfold fld; omega), decSfp_15 (by unfold fld; omega)]
  rw [listed_of (by rw [bitAt_of (b := false) (lo := 8) (by show _ = 0; omega)]; rfl)]
  rw [unused_of (by unfold fld; omega)]
  rw [hd, ha, ht]
theorem fma (d a b c : SReg) (t : Bool) : Statement (.fma d a b c t) := fun ok _ => by
  show decode 4 (Bits.fma d a b c t) = _
  obtain ⟨g0, g1, g2, hd, ha, hb, hc, ht⟩ := shape18 (k0 := 161) (k1 := 0) (k2 := 0) d a b c t (w := Bits.fma d a b c t) (by decide) (by decide) (by decide) (by simp only [Bits.fma, sh]; try omega)
  generalize Bits.fma d a b c t = bw at *
  rw [decode32_33 (by unfold fld; omega), decSfma_0 (by unfold fld; omega)]
  rw [unused_of (by unfold fld; omega)]
  rw [hd, ha, hb, hc, ht]
theorem fms (d a b c : SReg) (t : Bool) : Statement (.fms d a b c t) := fun ok _ => by
  show decode 4 (Bits.fms d a b c t) = _
  obtain ⟨g0, g1, g2, hd, ha, hb, hc, ht⟩ := shape18 (k0 := 161) (k1 := 0) (k2 := 1) d a b c t (w := Bits.fms d a b c t) (by decide) (by decide) (by decide) (by simp only [Bits.fms, sh]; try omega)
  generalize Bits.fms d a b c t = bw at *
  rw [decode32_33 (by unfold fld; omega), decSfma_1 (by unfold fld; omega)]
  rw [unused_of (by unfold fld; omega)]
  rw [hd, ha, hb, hc, ht]
theorem fnma (d a b c : SReg) (t : Bool) : Statement (.fnma d a b c t) := fun ok _ => by
  show decode 4 (Bits.fnma d a b c t) = _
  obtain ⟨g0, g1, g2, hd, ha, hb, hc, ht⟩ := shape18 (k0 := 161) (k1 := 0) (k2 := 2) d a b c t (w := Bits.fnma d a b c t) (by decide) (by decide) (by decide) (by simp only [Bits.fnma, sh]; try omega)
  generalize Bits.fnma d a b c t = bw at *
  rw [decode32_33 (by unfold fld; omega), decSfma_2 (by unfold fld; omega)]
  rw [unused_of (by unfold fld; omega)]
  rw [hd, ha, hb, hc, ht]
theorem fnms (d a b c : SReg) (t : Bool) : Statement (.fnms d a b c t) := fun ok _ => by
  show decode 4 (Bits.fnms d a b c t) = _
  obtain ⟨g0, g1, g2, hd, ha, hb, hc, ht⟩ := shape18 (k0 := 161) (k1 := 0) (k2 := 3) d a b c t (w := Bits.fnms d a b c t) (by decide) (by decide) (by decide) (by simp only [Bits.fnms, sh]; try omega)
  generalize Bits.fnms d a b c t = bw at *
  rw [decode32_33 (by unfold fld; omega), decSfma_3 (by unfold fld; omega)]
  rw [unused_of (by unfold fld; omega)]
  rw [hd, ha, hb, hc, ht]
theorem vsetl (d a : SReg) (i : BitVec 14) : Statement (.vsetl d a i) := fun ok _ => by
  show decode 4 (Bits.vsetl d a i) = _
  obtain ⟨g0, hd, ha, hi⟩ := shape2 (k0 := 168) d a i (w := Bits.vsetl d a i) (by decide) (by simp only [Bits.vsetl, sh]; try omega)
  generalize Bits.vsetl d a i = bw at *
  rw [decode32_40 (by unfold fld; omega)]
  rw [hd, ha, hi]
theorem vld (c : Bool) (p : PReg) (d : VReg) (a : SReg) (n : Bool) : Statement (.vld c p d a n) := fun ok _ => by
  show decode 4 (Bits.vld c p d a n) = _
  obtain ⟨g0, g1, g2, hc, hp, hd, ha, hn⟩ := shape19 (k0 := 169) (k1 := 0) (k2 := 0) c p d a n (w := Bits.vld c p d a n) (by decide) (by decide) (by decide) (by simp only [Bits.vld, sh]; try omega)
  generalize Bits.vld c p d a n = bw at *
  rw [decode32_41 (by unfold fld; omega), decVld_0 (by unfold fld; omega)]
  rw [unused_of (by unfold fld; omega)]
  rw [hc, hp, hd, ha, hn]
theorem vldS (c : Bool) (p : PReg) (d : VReg) (a x : SReg) (n : Bool) : Statement (.vldS c p d a x n) := fun ok _ => by
  show decode 4 (Bits.vldS c p d a x n) = _
  obtain ⟨g0, g1, g2, hc, hp, hd, ha, hx, hn⟩ := shape20 (k0 := 169) (k1 := 0) (k2 := 1) c p d a x n (w := Bits.vldS c p d a x n) (by decide) (by decide) (by decide) (by simp only [Bits.vldS, sh]; try omega)
  generalize Bits.vldS c p d a x n = bw at *
  rw [decode32_41 (by unfold fld; omega), decVld_1 (by unfold fld; omega)]
  rw [unused_of (by unfold fld; omega)]
  rw [hc, hp, hd, ha, hx, hn]
theorem vldX (c : Bool) (p : PReg) (d : VReg) (a : SReg) (x : VReg) (n : Bool) : Statement (.vldX c p d a x n) := fun ok _ => by
  show decode 4 (Bits.vldX c p d a x n) = _
  obtain ⟨g0, g1, g2, hc, hp, hd, ha, hx, hn⟩ := shape20 (k0 := 169) (k1 := 0) (k2 := 2) c p d a x n (w := Bits.vldX c p d a x n) (by decide) (by decide) (by decide) (by simp only [Bits.vldX, sh]; try omega)
  generalize Bits.vldX c p d a x n = bw at *
  rw [decode32_41 (by unfold fld; omega), decVld_2 (by unfold fld; omega)]
  rw [unused_of (by unfold fld; omega)]
  rw [hc, hp, hd, ha, hx, hn]
theorem vldFf (c : Bool) (p : PReg) (d : VReg) (a : SReg) (n : Bool) : Statement (.vldFf c p d a n) := fun ok _ => by
  show decode 4 (Bits.vldFf c p d a n) = _
  obtain ⟨g0, g1, g2, hc, hp, hd, ha, hn⟩ := shape19 (k0 := 169) (k1 := 0) (k2 := 3) c p d a n (w := Bits.vldFf c p d a n) (by decide) (by decide) (by decide) (by simp only [Bits.vldFf, sh]; try omega)
  generalize Bits.vldFf c p d a n = bw at *
  rw [decode32_41 (by unfold fld; omega), decVld_3 (by unfold fld; omega)]
  rw [unused_of (by unfold fld; omega)]
  rw [hc, hp, hd, ha, hn]
theorem vldP (c : Bool) (p : PReg) (d : VReg) (a x : SReg) (n : Bool) : Statement (.vldP c p d a x n) := fun ok _ => by
  show decode 4 (Bits.vldP c p d a x n) = _
  obtain ⟨g0, g1, g2, hc, hp, hd, ha, hx, hn⟩ := shape20 (k0 := 169) (k1 := 0) (k2 := 4) c p d a x n (w := Bits.vldP c p d a x n) (by decide) (by decide) (by decide) (by simp only [Bits.vldP, sh]; try omega)
  generalize Bits.vldP c p d a x n = bw at *
  rw [decode32_41 (by unfold fld; omega), decVld_4 (by unfold fld; omega)]
  rw [unused_of (by unfold fld; omega)]
  rw [hc, hp, hd, ha, hx, hn]
theorem vst (c : Bool) (p : PReg) (d : VReg) (a : SReg) (n : Bool) : Statement (.vst c p d a n) := fun ok _ => by
  show decode 4 (Bits.vst c p d a n) = _
  obtain ⟨g0, g1, g2, hc, hp, hd, ha, hn⟩ := shape19 (k0 := 170) (k1 := 0) (k2 := 0) c p d a n (w := Bits.vst c p d a n) (by decide) (by decide) (by decide) (by simp only [Bits.vst, sh]; try omega)
  generalize Bits.vst c p d a n = bw at *
  rw [decode32_42 (by unfold fld; omega), decVst_0 (by unfold fld; omega)]
  rw [unused_of (by unfold fld; omega)]
  rw [hc, hp, hd, ha, hn]
theorem vstS (c : Bool) (p : PReg) (d : VReg) (a x : SReg) (n : Bool) : Statement (.vstS c p d a x n) := fun ok _ => by
  show decode 4 (Bits.vstS c p d a x n) = _
  obtain ⟨g0, g1, g2, hc, hp, hd, ha, hx, hn⟩ := shape20 (k0 := 170) (k1 := 0) (k2 := 1) c p d a x n (w := Bits.vstS c p d a x n) (by decide) (by decide) (by decide) (by simp only [Bits.vstS, sh]; try omega)
  generalize Bits.vstS c p d a x n = bw at *
  rw [decode32_42 (by unfold fld; omega), decVst_1 (by unfold fld; omega)]
  rw [unused_of (by unfold fld; omega)]
  rw [hc, hp, hd, ha, hx, hn]
theorem vstX (c : Bool) (p : PReg) (d : VReg) (a : SReg) (x : VReg) (n : Bool) : Statement (.vstX c p d a x n) := fun ok _ => by
  show decode 4 (Bits.vstX c p d a x n) = _
  obtain ⟨g0, g1, g2, hc, hp, hd, ha, hx, hn⟩ := shape20 (k0 := 170) (k1 := 0) (k2 := 2) c p d a x n (w := Bits.vstX c p d a x n) (by decide) (by decide) (by decide) (by simp only [Bits.vstX, sh]; try omega)
  generalize Bits.vstX c p d a x n = bw at *
  rw [decode32_42 (by unfold fld; omega), decVst_2 (by unfold fld; omega)]
  rw [unused_of (by unfold fld; omega)]
  rw [hc, hp, hd, ha, hx, hn]
theorem vstXo (c : Bool) (p : PReg) (d : VReg) (a : SReg) (x : VReg) (n : Bool) : Statement (.vstXo c p d a x n) := fun ok _ => by
  show decode 4 (Bits.vstXo c p d a x n) = _
  obtain ⟨g0, g1, g2, hc, hp, hd, ha, hx, hn⟩ := shape20 (k0 := 170) (k1 := 0) (k2 := 3) c p d a x n (w := Bits.vstXo c p d a x n) (by decide) (by decide) (by decide) (by simp only [Bits.vstXo, sh]; try omega)
  generalize Bits.vstXo c p d a x n = bw at *
  rw [decode32_42 (by unfold fld; omega), decVst_3 (by unfold fld; omega)]
  rw [unused_of (by unfold fld; omega)]
  rw [hc, hp, hd, ha, hx, hn]
theorem vstP (c : Bool) (p : PReg) (d : VReg) (a x : SReg) (n : Bool) : Statement (.vstP c p d a x n) := fun ok _ => by
  show decode 4 (Bits.vstP c p d a x n) = _
  obtain ⟨g0, g1, g2, hc, hp, hd, ha, hx, hn⟩ := shape20 (k0 := 170) (k1 := 0) (k2 := 4) c p d a x n (w := Bits.vstP c p d a x n) (by decide) (by decide) (by decide) (by simp only [Bits.vstP, sh]; try omega)
  generalize Bits.vstP c p d a x n = bw at *
  rw [decode32_42 (by unfold fld; omega), decVst_4 (by unfold fld; omega)]
  rw [unused_of (by unfold fld; omega)]
  rw [hc, hp, hd, ha, hx, hn]
theorem vamoSwap (c : Bool) (p : PReg) (d : VReg) (a : SReg) (b : VReg) (r : Bool) : Statement (.vamoSwap c p d a b r) := fun ok _ => by
  show decode 4 (Bits.vamoSwap c p d a b r) = _
  obtain ⟨g0, g1, hc, hp, hd, ha, hb, hr⟩ := shape21 (k0 := 171) (k1 := 0) c p d a b r (w := Bits.vamoSwap c p d a b r) (by decide) (by decide) (by simp only [Bits.vamoSwap, sh]; try omega)
  generalize Bits.vamoSwap c p d a b r = bw at *
  rw [decode32_43 (by unfold fld; omega), decVamo_0 (by unfold fld; omega)]
  rw [hc, hp, hd, ha, hb, hr]
theorem vamoAdd (c : Bool) (p : PReg) (d : VReg) (a : SReg) (b : VReg) (r : Bool) : Statement (.vamoAdd c p d a b r) := fun ok _ => by
  show decode 4 (Bits.vamoAdd c p d a b r) = _
  obtain ⟨g0, g1, hc, hp, hd, ha, hb, hr⟩ := shape21 (k0 := 171) (k1 := 1) c p d a b r (w := Bits.vamoAdd c p d a b r) (by decide) (by decide) (by simp only [Bits.vamoAdd, sh]; try omega)
  generalize Bits.vamoAdd c p d a b r = bw at *
  rw [decode32_43 (by unfold fld; omega), decVamo_1 (by unfold fld; omega)]
  rw [hc, hp, hd, ha, hb, hr]
theorem vamoAnd (c : Bool) (p : PReg) (d : VReg) (a : SReg) (b : VReg) (r : Bool) : Statement (.vamoAnd c p d a b r) := fun ok _ => by
  show decode 4 (Bits.vamoAnd c p d a b r) = _
  obtain ⟨g0, g1, hc, hp, hd, ha, hb, hr⟩ := shape21 (k0 := 171) (k1 := 2) c p d a b r (w := Bits.vamoAnd c p d a b r) (by decide) (by decide) (by simp only [Bits.vamoAnd, sh]; try omega)
  generalize Bits.vamoAnd c p d a b r = bw at *
  rw [decode32_43 (by unfold fld; omega), decVamo_2 (by unfold fld; omega)]
  rw [hc, hp, hd, ha, hb, hr]
theorem vamoOr (c : Bool) (p : PReg) (d : VReg) (a : SReg) (b : VReg) (r : Bool) : Statement (.vamoOr c p d a b r) := fun ok _ => by
  show decode 4 (Bits.vamoOr c p d a b r) = _
  obtain ⟨g0, g1, hc, hp, hd, ha, hb, hr⟩ := shape21 (k0 := 171) (k1 := 3) c p d a b r (w := Bits.vamoOr c p d a b r) (by decide) (by decide) (by simp only [Bits.vamoOr, sh]; try omega)
  generalize Bits.vamoOr c p d a b r = bw at *
  rw [decode32_43 (by unfold fld; omega), decVamo_3 (by unfold fld; omega)]
  rw [hc, hp, hd, ha, hb, hr]
theorem vamoXor (c : Bool) (p : PReg) (d : VReg) (a : SReg) (b : VReg) (r : Bool) : Statement (.vamoXor c p d a b r) := fun ok _ => by
  show decode 4 (Bits.vamoXor c p d a b r) = _
  obtain ⟨g0, g1, hc, hp, hd, ha, hb, hr⟩ := shape21 (k0 := 171) (k1 := 4) c p d a b r (w := Bits.vamoXor c p d a b r) (by decide) (by decide) (by simp only [Bits.vamoXor, sh]; try omega)
  generalize Bits.vamoXor c p d a b r = bw at *
  rw [decode32_43 (by unfold fld; omega), decVamo_4 (by unfold fld; omega)]
  rw [hc, hp, hd, ha, hb, hr]
theorem vamoMin (c : Bool) (p : PReg) (d : VReg) (a : SReg) (b : VReg) (r : Bool) : Statement (.vamoMin c p d a b r) := fun ok _ => by
  show decode 4 (Bits.vamoMin c p d a b r) = _
  obtain ⟨g0, g1, hc, hp, hd, ha, hb, hr⟩ := shape21 (k0 := 171) (k1 := 5) c p d a b r (w := Bits.vamoMin c p d a b r) (by decide) (by decide) (by simp only [Bits.vamoMin, sh]; try omega)
  generalize Bits.vamoMin c p d a b r = bw at *
  rw [decode32_43 (by unfold fld; omega), decVamo_5 (by unfold fld; omega)]
  rw [hc, hp, hd, ha, hb, hr]
theorem vamoMax (c : Bool) (p : PReg) (d : VReg) (a : SReg) (b : VReg) (r : Bool) : Statement (.vamoMax c p d a b r) := fun ok _ => by
  show decode 4 (Bits.vamoMax c p d a b r) = _
  obtain ⟨g0, g1, hc, hp, hd, ha, hb, hr⟩ := shape21 (k0 := 171) (k1 := 6) c p d a b r (w := Bits.vamoMax c p d a b r) (by decide) (by decide) (by simp only [Bits.vamoMax, sh]; try omega)
  generalize Bits.vamoMax c p d a b r = bw at *
  rw [decode32_43 (by unfold fld; omega), decVamo_6 (by unfold fld; omega)]
  rw [hc, hp, hd, ha, hb, hr]
theorem vamoMinn (c : Bool) (p : PReg) (d : VReg) (a : SReg) (b : VReg) (r : Bool) : Statement (.vamoMinn c p d a b r) := fun ok _ => by
  show decode 4 (Bits.vamoMinn c p d a b r) = _
  obtain ⟨g0, g1, hc, hp, hd, ha, hb, hr⟩ := shape21 (k0 := 171) (k1 := 7) c p d a b r (w := Bits.vamoMinn c p d a b r) (by decide) (by decide) (by simp only [Bits.vamoMinn, sh]; try omega)
  generalize Bits.vamoMinn c p d a b r = bw at *
  rw [decode32_43 (by unfold fld; omega), decVamo_7 (by unfold fld; omega)]
  rw [hc, hp, hd, ha, hb, hr]
theorem vamoMaxn (c : Bool) (p : PReg) (d : VReg) (a : SReg) (b : VReg) (r : Bool) : Statement (.vamoMaxn c p d a b r) := fun ok _ => by
  show decode 4 (Bits.vamoMaxn c p d a b r) = _
  obtain ⟨g0, g1, hc, hp, hd, ha, hb, hr⟩ := shape21 (k0 := 171) (k1 := 8) c p d a b r (w := Bits.vamoMaxn c p d a b r) (by decide) (by decide) (by simp only [Bits.vamoMaxn, sh]; try omega)
  generalize Bits.vamoMaxn c p d a b r = bw at *
  rw [decode32_43 (by unfold fld; omega), decVamo_8 (by unfold fld; omega)]
  rw [hc, hp, hd, ha, hb, hr]
theorem vaddVv (c : Bool) (p : PReg) (d a b : VReg) : Statement (.vaddVv c p d a b) := fun ok _ => by
  show decode 4 (Bits.vaddVv c p d a b) = _
  obtain ⟨g0, g1, hc, hp, hd, ha, hb⟩ := shape22 (k0 := 172) (k1 := 0) c p d a b (w := Bits.vaddVv c p d a b) (by decide) (by decide) (by simp only [Bits.vaddVv, sh]; try omega)
  generalize Bits.vaddVv c p d a b = bw at *
  rw [decode32_44 (by unfold fld; omega), decVintVV_0 (by unfold fld; omega)]
  rw [hc, hp, hd, ha, hb]
theorem vaddVx (c : Bool) (p : PReg) (d : VReg) (a : SReg) (b : VReg) : Statement (.vaddVx c p d a b) := fun ok _ => by
  show decode 4 (Bits.vaddVx c p d a b) = _
  obtain ⟨g0, g1, hc, hp, hd, ha, hb⟩ := shape22 (k0 := 173) (k1 := 0) c p d a b (w := Bits.vaddVx c p d a b) (by decide) (by decide) (by simp only [Bits.vaddVx, sh]; try omega)
  generalize Bits.vaddVx c p d a b = bw at *
  rw [decode32_45 (by unfold fld; omega), decVintVX_0 (by unfold fld; omega)]
  rw [hc, hp, hd, ha, hb]
theorem vaddVi (c : Bool) (p : PReg) (d : VReg) (i : BitVec 5) (b : VReg) : Statement (.vaddVi c p d i b) := fun ok _ => by
  show decode 4 (Bits.vaddVi c p d i b) = _
  obtain ⟨g0, g1, hc, hp, hd, hi, hb⟩ := shape23 (k0 := 174) (k1 := 0) c p d i b (w := Bits.vaddVi c p d i b) (by decide) (by decide) (by simp only [Bits.vaddVi, sh]; try omega)
  generalize Bits.vaddVi c p d i b = bw at *
  rw [decode32_46 (by unfold fld; omega), decVintVI_0 (by unfold fld; omega)]
  rw [hc, hp, hd, hi, hb]
theorem vsubVv (c : Bool) (p : PReg) (d a b : VReg) : Statement (.vsubVv c p d a b) := fun ok _ => by
  show decode 4 (Bits.vsubVv c p d a b) = _
  obtain ⟨g0, g1, hc, hp, hd, ha, hb⟩ := shape22 (k0 := 172) (k1 := 1) c p d a b (w := Bits.vsubVv c p d a b) (by decide) (by decide) (by simp only [Bits.vsubVv, sh]; try omega)
  generalize Bits.vsubVv c p d a b = bw at *
  rw [decode32_44 (by unfold fld; omega), decVintVV_1 (by unfold fld; omega)]
  rw [hc, hp, hd, ha, hb]
theorem vsubVx (c : Bool) (p : PReg) (d : VReg) (a : SReg) (b : VReg) : Statement (.vsubVx c p d a b) := fun ok _ => by
  show decode 4 (Bits.vsubVx c p d a b) = _
  obtain ⟨g0, g1, hc, hp, hd, ha, hb⟩ := shape22 (k0 := 173) (k1 := 1) c p d a b (w := Bits.vsubVx c p d a b) (by decide) (by decide) (by simp only [Bits.vsubVx, sh]; try omega)
  generalize Bits.vsubVx c p d a b = bw at *
  rw [decode32_45 (by unfold fld; omega), decVintVX_1 (by unfold fld; omega)]
  rw [hc, hp, hd, ha, hb]
theorem vsubVi (c : Bool) (p : PReg) (d : VReg) (i : BitVec 5) (b : VReg) : Statement (.vsubVi c p d i b) := fun ok _ => by
  show decode 4 (Bits.vsubVi c p d i b) = _
  obtain ⟨g0, g1, hc, hp, hd, hi, hb⟩ := shape23 (k0 := 174) (k1 := 1) c p d i b (w := Bits.vsubVi c p d i b) (by decide) (by decide) (by simp only [Bits.vsubVi, sh]; try omega)
  generalize Bits.vsubVi c p d i b = bw at *
  rw [decode32_46 (by unfold fld; omega), decVintVI_1 (by unfold fld; omega)]
  rw [hc, hp, hd, hi, hb]
theorem vrsubVv (c : Bool) (p : PReg) (d a b : VReg) : Statement (.vrsubVv c p d a b) := fun ok _ => by
  show decode 4 (Bits.vrsubVv c p d a b) = _
  obtain ⟨g0, g1, hc, hp, hd, ha, hb⟩ := shape22 (k0 := 172) (k1 := 2) c p d a b (w := Bits.vrsubVv c p d a b) (by decide) (by decide) (by simp only [Bits.vrsubVv, sh]; try omega)
  generalize Bits.vrsubVv c p d a b = bw at *
  rw [decode32_44 (by unfold fld; omega), decVintVV_2 (by unfold fld; omega)]
  rw [hc, hp, hd, ha, hb]
theorem vrsubVx (c : Bool) (p : PReg) (d : VReg) (a : SReg) (b : VReg) : Statement (.vrsubVx c p d a b) := fun ok _ => by
  show decode 4 (Bits.vrsubVx c p d a b) = _
  obtain ⟨g0, g1, hc, hp, hd, ha, hb⟩ := shape22 (k0 := 173) (k1 := 2) c p d a b (w := Bits.vrsubVx c p d a b) (by decide) (by decide) (by simp only [Bits.vrsubVx, sh]; try omega)
  generalize Bits.vrsubVx c p d a b = bw at *
  rw [decode32_45 (by unfold fld; omega), decVintVX_2 (by unfold fld; omega)]
  rw [hc, hp, hd, ha, hb]
theorem vrsubVi (c : Bool) (p : PReg) (d : VReg) (i : BitVec 5) (b : VReg) : Statement (.vrsubVi c p d i b) := fun ok _ => by
  show decode 4 (Bits.vrsubVi c p d i b) = _
  obtain ⟨g0, g1, hc, hp, hd, hi, hb⟩ := shape23 (k0 := 174) (k1 := 2) c p d i b (w := Bits.vrsubVi c p d i b) (by decide) (by decide) (by simp only [Bits.vrsubVi, sh]; try omega)
  generalize Bits.vrsubVi c p d i b = bw at *
  rw [decode32_46 (by unfold fld; omega), decVintVI_2 (by unfold fld; omega)]
  rw [hc, hp, hd, hi, hb]
theorem vmulVv (c : Bool) (p : PReg) (d a b : VReg) : Statement (.vmulVv c p d a b) := fun ok _ => by
  show decode 4 (Bits.vmulVv c p d a b) = _
  obtain ⟨g0, g1, hc, hp, hd, ha, hb⟩ := shape22 (k0 := 172) (k1 := 3) c p d a b (w := Bits.vmulVv c p d a b) (by decide) (by decide) (by simp only [Bits.vmulVv, sh]; try omega)
  generalize Bits.vmulVv c p d a b = bw at *
  rw [decode32_44 (by unfold fld; omega), decVintVV_3 (by unfold fld; omega)]
  rw [hc, hp, hd, ha, hb]
theorem vmulVx (c : Bool) (p : PReg) (d : VReg) (a : SReg) (b : VReg) : Statement (.vmulVx c p d a b) := fun ok _ => by
  show decode 4 (Bits.vmulVx c p d a b) = _
  obtain ⟨g0, g1, hc, hp, hd, ha, hb⟩ := shape22 (k0 := 173) (k1 := 3) c p d a b (w := Bits.vmulVx c p d a b) (by decide) (by decide) (by simp only [Bits.vmulVx, sh]; try omega)
  generalize Bits.vmulVx c p d a b = bw at *
  rw [decode32_45 (by unfold fld; omega), decVintVX_3 (by unfold fld; omega)]
  rw [hc, hp, hd, ha, hb]
theorem vmulVi (c : Bool) (p : PReg) (d : VReg) (i : BitVec 5) (b : VReg) : Statement (.vmulVi c p d i b) := fun ok _ => by
  show decode 4 (Bits.vmulVi c p d i b) = _
  obtain ⟨g0, g1, hc, hp, hd, hi, hb⟩ := shape23 (k0 := 174) (k1 := 3) c p d i b (w := Bits.vmulVi c p d i b) (by decide) (by decide) (by simp only [Bits.vmulVi, sh]; try omega)
  generalize Bits.vmulVi c p d i b = bw at *
  rw [decode32_46 (by unfold fld; omega), decVintVI_3 (by unfold fld; omega)]
  rw [hc, hp, hd, hi, hb]
theorem vmulhVv (c : Bool) (p : PReg) (d a b : VReg) : Statement (.vmulhVv c p d a b) := fun ok _ => by
  show decode 4 (Bits.vmulhVv c p d a b) = _
  obtain ⟨g0, g1, hc, hp, hd, ha, hb⟩ := shape22 (k0 := 172) (k1 := 4) c p d a b (w := Bits.vmulhVv c p d a b) (by decide) (by decide) (by simp only [Bits.vmulhVv, sh]; try omega)
  generalize Bits.vmulhVv c p d a b = bw at *
  rw [decode32_44 (by unfold fld; omega), decVintVV_4 (by unfold fld; omega)]
  rw [hc, hp, hd, ha, hb]
theorem vmulhVx (c : Bool) (p : PReg) (d : VReg) (a : SReg) (b : VReg) : Statement (.vmulhVx c p d a b) := fun ok _ => by
  show decode 4 (Bits.vmulhVx c p d a b) = _
  obtain ⟨g0, g1, hc, hp, hd, ha, hb⟩ := shape22 (k0 := 173) (k1 := 4) c p d a b (w := Bits.vmulhVx c p d a b) (by decide) (by decide) (by simp only [Bits.vmulhVx, sh]; try omega)
  generalize Bits.vmulhVx c p d a b = bw at *
  rw [decode32_45 (by unfold fld; omega), decVintVX_4 (by unfold fld; omega)]
  rw [hc, hp, hd, ha, hb]
theorem vmulhVi (c : Bool) (p : PReg) (d : VReg) (i : BitVec 5) (b : VReg) : Statement (.vmulhVi c p d i b) := fun ok _ => by
  show decode 4 (Bits.vmulhVi c p d i b) = _
  obtain ⟨g0, g1, hc, hp, hd, hi, hb⟩ := shape23 (k0 := 174) (k1 := 4) c p d i b (w := Bits.vmulhVi c p d i b) (by decide) (by decide) (by simp only [Bits.vmulhVi, sh]; try omega)
  generalize Bits.vmulhVi c p d i b = bw at *
  rw [decode32_46 (by unfold fld; omega), decVintVI_4 (by unfold fld; omega)]
  rw [hc, hp, hd, hi, hb]
theorem vmulhnVv (c : Bool) (p : PReg) (d a b : VReg) : Statement (.vmulhnVv c p d a b) := fun ok _ => by
  show decode 4 (Bits.vmulhnVv c p d a b) = _
  obtain ⟨g0, g1, hc, hp, hd, ha, hb⟩ := shape22 (k0 := 172) (k1 := 5) c p d a b (w := Bits.vmulhnVv c p d a b) (by decide) (by decide) (by simp only [Bits.vmulhnVv, sh]; try omega)
  generalize Bits.vmulhnVv c p d a b = bw at *
  rw [decode32_44 (by unfold fld; omega), decVintVV_5 (by unfold fld; omega)]
  rw [hc, hp, hd, ha, hb]
theorem vmulhnVx (c : Bool) (p : PReg) (d : VReg) (a : SReg) (b : VReg) : Statement (.vmulhnVx c p d a b) := fun ok _ => by
  show decode 4 (Bits.vmulhnVx c p d a b) = _
  obtain ⟨g0, g1, hc, hp, hd, ha, hb⟩ := shape22 (k0 := 173) (k1 := 5) c p d a b (w := Bits.vmulhnVx c p d a b) (by decide) (by decide) (by simp only [Bits.vmulhnVx, sh]; try omega)
  generalize Bits.vmulhnVx c p d a b = bw at *
  rw [decode32_45 (by unfold fld; omega), decVintVX_5 (by unfold fld; omega)]
  rw [hc, hp, hd, ha, hb]
theorem vmulhnVi (c : Bool) (p : PReg) (d : VReg) (i : BitVec 5) (b : VReg) : Statement (.vmulhnVi c p d i b) := fun ok _ => by
  show decode 4 (Bits.vmulhnVi c p d i b) = _
  obtain ⟨g0, g1, hc, hp, hd, hi, hb⟩ := shape23 (k0 := 174) (k1 := 5) c p d i b (w := Bits.vmulhnVi c p d i b) (by decide) (by decide) (by simp only [Bits.vmulhnVi, sh]; try omega)
  generalize Bits.vmulhnVi c p d i b = bw at *
  rw [decode32_46 (by unfold fld; omega), decVintVI_5 (by unfold fld; omega)]
  rw [hc, hp, hd, hi, hb]
theorem vmaddVv (c : Bool) (p : PReg) (d a b : VReg) : Statement (.vmaddVv c p d a b) := fun ok _ => by
  show decode 4 (Bits.vmaddVv c p d a b) = _
  obtain ⟨g0, g1, hc, hp, hd, ha, hb⟩ := shape22 (k0 := 172) (k1 := 6) c p d a b (w := Bits.vmaddVv c p d a b) (by decide) (by decide) (by simp only [Bits.vmaddVv, sh]; try omega)
  generalize Bits.vmaddVv c p d a b = bw at *
  rw [decode32_44 (by unfold fld; omega), decVintVV_6 (by unfold fld; omega)]
  rw [hc, hp, hd, ha, hb]
theorem vmaddVx (c : Bool) (p : PReg) (d : VReg) (a : SReg) (b : VReg) : Statement (.vmaddVx c p d a b) := fun ok _ => by
  show decode 4 (Bits.vmaddVx c p d a b) = _
  obtain ⟨g0, g1, hc, hp, hd, ha, hb⟩ := shape22 (k0 := 173) (k1 := 6) c p d a b (w := Bits.vmaddVx c p d a b) (by decide) (by decide) (by simp only [Bits.vmaddVx, sh]; try omega)
  generalize Bits.vmaddVx c p d a b = bw at *
  rw [decode32_45 (by unfold fld; omega), decVintVX_6 (by unfold fld; omega)]
  rw [hc, hp, hd, ha, hb]
theorem vmaddVi (c : Bool) (p : PReg) (d : VReg) (i : BitVec 5) (b : VReg) : Statement (.vmaddVi c p d i b) := fun ok _ => by
  show decode 4 (Bits.vmaddVi c p d i b) = _
  obtain ⟨g0, g1, hc, hp, hd, hi, hb⟩ := shape23 (k0 := 174) (k1 := 6) c p d i b (w := Bits.vmaddVi c p d i b) (by decide) (by decide) (by simp only [Bits.vmaddVi, sh]; try omega)
  generalize Bits.vmaddVi c p d i b = bw at *
  rw [decode32_46 (by unfold fld; omega), decVintVI_6 (by unfold fld; omega)]
  rw [hc, hp, hd, hi, hb]
theorem vdivVv (c : Bool) (p : PReg) (d a b : VReg) : Statement (.vdivVv c p d a b) := fun ok _ => by
  show decode 4 (Bits.vdivVv c p d a b) = _
  obtain ⟨g0, g1, hc, hp, hd, ha, hb⟩ := shape22 (k0 := 172) (k1 := 7) c p d a b (w := Bits.vdivVv c p d a b) (by decide) (by decide) (by simp only [Bits.vdivVv, sh]; try omega)
  generalize Bits.vdivVv c p d a b = bw at *
  rw [decode32_44 (by unfold fld; omega), decVintVV_7 (by unfold fld; omega)]
  rw [hc, hp, hd, ha, hb]
theorem vdivVx (c : Bool) (p : PReg) (d : VReg) (a : SReg) (b : VReg) : Statement (.vdivVx c p d a b) := fun ok _ => by
  show decode 4 (Bits.vdivVx c p d a b) = _
  obtain ⟨g0, g1, hc, hp, hd, ha, hb⟩ := shape22 (k0 := 173) (k1 := 7) c p d a b (w := Bits.vdivVx c p d a b) (by decide) (by decide) (by simp only [Bits.vdivVx, sh]; try omega)
  generalize Bits.vdivVx c p d a b = bw at *
  rw [decode32_45 (by unfold fld; omega), decVintVX_7 (by unfold fld; omega)]
  rw [hc, hp, hd, ha, hb]
theorem vdivVi (c : Bool) (p : PReg) (d : VReg) (i : BitVec 5) (b : VReg) : Statement (.vdivVi c p d i b) := fun ok _ => by
  show decode 4 (Bits.vdivVi c p d i b) = _
  obtain ⟨g0, g1, hc, hp, hd, hi, hb⟩ := shape23 (k0 := 174) (k1 := 7) c p d i b (w := Bits.vdivVi c p d i b) (by decide) (by decide) (by simp only [Bits.vdivVi, sh]; try omega)
  generalize Bits.vdivVi c p d i b = bw at *
  rw [decode32_46 (by unfold fld; omega), decVintVI_7 (by unfold fld; omega)]
  rw [hc, hp, hd, hi, hb]
theorem vdivnVv (c : Bool) (p : PReg) (d a b : VReg) : Statement (.vdivnVv c p d a b) := fun ok _ => by
  show decode 4 (Bits.vdivnVv c p d a b) = _
  obtain ⟨g0, g1, hc, hp, hd, ha, hb⟩ := shape22 (k0 := 172) (k1 := 8) c p d a b (w := Bits.vdivnVv c p d a b) (by decide) (by decide) (by simp only [Bits.vdivnVv, sh]; try omega)
  generalize Bits.vdivnVv c p d a b = bw at *
  rw [decode32_44 (by unfold fld; omega), decVintVV_8 (by unfold fld; omega)]
  rw [hc, hp, hd, ha, hb]
theorem vdivnVx (c : Bool) (p : PReg) (d : VReg) (a : SReg) (b : VReg) : Statement (.vdivnVx c p d a b) := fun ok _ => by
  show decode 4 (Bits.vdivnVx c p d a b) = _
  obtain ⟨g0, g1, hc, hp, hd, ha, hb⟩ := shape22 (k0 := 173) (k1 := 8) c p d a b (w := Bits.vdivnVx c p d a b) (by decide) (by decide) (by simp only [Bits.vdivnVx, sh]; try omega)
  generalize Bits.vdivnVx c p d a b = bw at *
  rw [decode32_45 (by unfold fld; omega), decVintVX_8 (by unfold fld; omega)]
  rw [hc, hp, hd, ha, hb]
theorem vdivnVi (c : Bool) (p : PReg) (d : VReg) (i : BitVec 5) (b : VReg) : Statement (.vdivnVi c p d i b) := fun ok _ => by
  show decode 4 (Bits.vdivnVi c p d i b) = _
  obtain ⟨g0, g1, hc, hp, hd, hi, hb⟩ := shape23 (k0 := 174) (k1 := 8) c p d i b (w := Bits.vdivnVi c p d i b) (by decide) (by decide) (by simp only [Bits.vdivnVi, sh]; try omega)
  generalize Bits.vdivnVi c p d i b = bw at *
  rw [decode32_46 (by unfold fld; omega), decVintVI_8 (by unfold fld; omega)]
  rw [hc, hp, hd, hi, hb]
theorem vremVv (c : Bool) (p : PReg) (d a b : VReg) : Statement (.vremVv c p d a b) := fun ok _ => by
  show decode 4 (Bits.vremVv c p d a b) = _
  obtain ⟨g0, g1, hc, hp, hd, ha, hb⟩ := shape22 (k0 := 172) (k1 := 9) c p d a b (w := Bits.vremVv c p d a b) (by decide) (by decide) (by simp only [Bits.vremVv, sh]; try omega)
  generalize Bits.vremVv c p d a b = bw at *
  rw [decode32_44 (by unfold fld; omega), decVintVV_9 (by unfold fld; omega)]
  rw [hc, hp, hd, ha, hb]
theorem vremVx (c : Bool) (p : PReg) (d : VReg) (a : SReg) (b : VReg) : Statement (.vremVx c p d a b) := fun ok _ => by
  show decode 4 (Bits.vremVx c p d a b) = _
  obtain ⟨g0, g1, hc, hp, hd, ha, hb⟩ := shape22 (k0 := 173) (k1 := 9) c p d a b (w := Bits.vremVx c p d a b) (by decide) (by decide) (by simp only [Bits.vremVx, sh]; try omega)
  generalize Bits.vremVx c p d a b = bw at *
  rw [decode32_45 (by unfold fld; omega), decVintVX_9 (by unfold fld; omega)]
  rw [hc, hp, hd, ha, hb]
theorem vremVi (c : Bool) (p : PReg) (d : VReg) (i : BitVec 5) (b : VReg) : Statement (.vremVi c p d i b) := fun ok _ => by
  show decode 4 (Bits.vremVi c p d i b) = _
  obtain ⟨g0, g1, hc, hp, hd, hi, hb⟩ := shape23 (k0 := 174) (k1 := 9) c p d i b (w := Bits.vremVi c p d i b) (by decide) (by decide) (by simp only [Bits.vremVi, sh]; try omega)
  generalize Bits.vremVi c p d i b = bw at *
  rw [decode32_46 (by unfold fld; omega), decVintVI_9 (by unfold fld; omega)]
  rw [hc, hp, hd, hi, hb]
theorem vremnVv (c : Bool) (p : PReg) (d a b : VReg) : Statement (.vremnVv c p d a b) := fun ok _ => by
  show decode 4 (Bits.vremnVv c p d a b) = _
  obtain ⟨g0, g1, hc, hp, hd, ha, hb⟩ := shape22 (k0 := 172) (k1 := 10) c p d a b (w := Bits.vremnVv c p d a b) (by decide) (by decide) (by simp only [Bits.vremnVv, sh]; try omega)
  generalize Bits.vremnVv c p d a b = bw at *
  rw [decode32_44 (by unfold fld; omega), decVintVV_10 (by unfold fld; omega)]
  rw [hc, hp, hd, ha, hb]
theorem vremnVx (c : Bool) (p : PReg) (d : VReg) (a : SReg) (b : VReg) : Statement (.vremnVx c p d a b) := fun ok _ => by
  show decode 4 (Bits.vremnVx c p d a b) = _
  obtain ⟨g0, g1, hc, hp, hd, ha, hb⟩ := shape22 (k0 := 173) (k1 := 10) c p d a b (w := Bits.vremnVx c p d a b) (by decide) (by decide) (by simp only [Bits.vremnVx, sh]; try omega)
  generalize Bits.vremnVx c p d a b = bw at *
  rw [decode32_45 (by unfold fld; omega), decVintVX_10 (by unfold fld; omega)]
  rw [hc, hp, hd, ha, hb]
theorem vremnVi (c : Bool) (p : PReg) (d : VReg) (i : BitVec 5) (b : VReg) : Statement (.vremnVi c p d i b) := fun ok _ => by
  show decode 4 (Bits.vremnVi c p d i b) = _
  obtain ⟨g0, g1, hc, hp, hd, hi, hb⟩ := shape23 (k0 := 174) (k1 := 10) c p d i b (w := Bits.vremnVi c p d i b) (by decide) (by decide) (by simp only [Bits.vremnVi, sh]; try omega)
  generalize Bits.vremnVi c p d i b = bw at *
  rw [decode32_46 (by unfold fld; omega), decVintVI_10 (by unfold fld; omega)]
  rw [hc, hp, hd, hi, hb]
theorem vandVv (c : Bool) (p : PReg) (d a b : VReg) : Statement (.vandVv c p d a b) := fun ok _ => by
  show decode 4 (Bits.vandVv c p d a b) = _
  obtain ⟨g0, g1, hc, hp, hd, ha, hb⟩ := shape22 (k0 := 172) (k1 := 11) c p d a b (w := Bits.vandVv c p d a b) (by decide) (by decide) (by simp only [Bits.vandVv, sh]; try omega)
  generalize Bits.vandVv c p d a b = bw at *
  rw [decode32_44 (by unfold fld; omega), decVintVV_11 (by unfold fld; omega)]
  rw [hc, hp, hd, ha, hb]
theorem vandVx (c : Bool) (p : PReg) (d : VReg) (a : SReg) (b : VReg) : Statement (.vandVx c p d a b) := fun ok _ => by
  show decode 4 (Bits.vandVx c p d a b) = _
  obtain ⟨g0, g1, hc, hp, hd, ha, hb⟩ := shape22 (k0 := 173) (k1 := 11) c p d a b (w := Bits.vandVx c p d a b) (by decide) (by decide) (by simp only [Bits.vandVx, sh]; try omega)
  generalize Bits.vandVx c p d a b = bw at *
  rw [decode32_45 (by unfold fld; omega), decVintVX_11 (by unfold fld; omega)]
  rw [hc, hp, hd, ha, hb]
theorem vandVi (c : Bool) (p : PReg) (d : VReg) (i : BitVec 5) (b : VReg) : Statement (.vandVi c p d i b) := fun ok _ => by
  show decode 4 (Bits.vandVi c p d i b) = _
  obtain ⟨g0, g1, hc, hp, hd, hi, hb⟩ := shape23 (k0 := 174) (k1 := 11) c p d i b (w := Bits.vandVi c p d i b) (by decide) (by decide) (by simp only [Bits.vandVi, sh]; try omega)
  generalize Bits.vandVi c p d i b = bw at *
  rw [decode32_46 (by unfold fld; omega), decVintVI_11 (by unfold fld; omega)]
  rw [hc, hp, hd, hi, hb]
theorem vorVv (c : Bool) (p : PReg) (d a b : VReg) : Statement (.vorVv c p d a b) := fun ok _ => by
  show decode 4 (Bits.vorVv c p d a b) = _
  obtain ⟨g0, g1, hc, hp, hd, ha, hb⟩ := shape22 (k0 := 172) (k1 := 12) c p d a b (w := Bits.vorVv c p d a b) (by decide) (by decide) (by simp only [Bits.vorVv, sh]; try omega)
  generalize Bits.vorVv c p d a b = bw at *
  rw [decode32_44 (by unfold fld; omega), decVintVV_12 (by unfold fld; omega)]
  rw [hc, hp, hd, ha, hb]
theorem vorVx (c : Bool) (p : PReg) (d : VReg) (a : SReg) (b : VReg) : Statement (.vorVx c p d a b) := fun ok _ => by
  show decode 4 (Bits.vorVx c p d a b) = _
  obtain ⟨g0, g1, hc, hp, hd, ha, hb⟩ := shape22 (k0 := 173) (k1 := 12) c p d a b (w := Bits.vorVx c p d a b) (by decide) (by decide) (by simp only [Bits.vorVx, sh]; try omega)
  generalize Bits.vorVx c p d a b = bw at *
  rw [decode32_45 (by unfold fld; omega), decVintVX_12 (by unfold fld; omega)]
  rw [hc, hp, hd, ha, hb]
theorem vorVi (c : Bool) (p : PReg) (d : VReg) (i : BitVec 5) (b : VReg) : Statement (.vorVi c p d i b) := fun ok _ => by
  show decode 4 (Bits.vorVi c p d i b) = _
  obtain ⟨g0, g1, hc, hp, hd, hi, hb⟩ := shape23 (k0 := 174) (k1 := 12) c p d i b (w := Bits.vorVi c p d i b) (by decide) (by decide) (by simp only [Bits.vorVi, sh]; try omega)
  generalize Bits.vorVi c p d i b = bw at *
  rw [decode32_46 (by unfold fld; omega), decVintVI_12 (by unfold fld; omega)]
  rw [hc, hp, hd, hi, hb]
theorem vxorVv (c : Bool) (p : PReg) (d a b : VReg) : Statement (.vxorVv c p d a b) := fun ok _ => by
  show decode 4 (Bits.vxorVv c p d a b) = _
  obtain ⟨g0, g1, hc, hp, hd, ha, hb⟩ := shape22 (k0 := 172) (k1 := 13) c p d a b (w := Bits.vxorVv c p d a b) (by decide) (by decide) (by simp only [Bits.vxorVv, sh]; try omega)
  generalize Bits.vxorVv c p d a b = bw at *
  rw [decode32_44 (by unfold fld; omega), decVintVV_13 (by unfold fld; omega)]
  rw [hc, hp, hd, ha, hb]
theorem vxorVx (c : Bool) (p : PReg) (d : VReg) (a : SReg) (b : VReg) : Statement (.vxorVx c p d a b) := fun ok _ => by
  show decode 4 (Bits.vxorVx c p d a b) = _
  obtain ⟨g0, g1, hc, hp, hd, ha, hb⟩ := shape22 (k0 := 173) (k1 := 13) c p d a b (w := Bits.vxorVx c p d a b) (by decide) (by decide) (by simp only [Bits.vxorVx, sh]; try omega)
  generalize Bits.vxorVx c p d a b = bw at *
  rw [decode32_45 (by unfold fld; omega), decVintVX_13 (by unfold fld; omega)]
  rw [hc, hp, hd, ha, hb]
theorem vxorVi (c : Bool) (p : PReg) (d : VReg) (i : BitVec 5) (b : VReg) : Statement (.vxorVi c p d i b) := fun ok _ => by
  show decode 4 (Bits.vxorVi c p d i b) = _
  obtain ⟨g0, g1, hc, hp, hd, hi, hb⟩ := shape23 (k0 := 174) (k1 := 13) c p d i b (w := Bits.vxorVi c p d i b) (by decide) (by decide) (by simp only [Bits.vxorVi, sh]; try omega)
  generalize Bits.vxorVi c p d i b = bw at *
  rw [decode32_46 (by unfold fld; omega), decVintVI_13 (by unfold fld; omega)]
  rw [hc, hp, hd, hi, hb]
theorem vshlVv (c : Bool) (p : PReg) (d a b : VReg) : Statement (.vshlVv c p d a b) := fun ok _ => by
  show decode 4 (Bits.vshlVv c p d a b) = _
  obtain ⟨g0, g1, hc, hp, hd, ha, hb⟩ := shape22 (k0 := 172) (k1 := 14) c p d a b (w := Bits.vshlVv c p d a b) (by decide) (by decide) (by simp only [Bits.vshlVv, sh]; try omega)
  generalize Bits.vshlVv c p d a b = bw at *
  rw [decode32_44 (by unfold fld; omega), decVintVV_14 (by unfold fld; omega)]
  rw [hc, hp, hd, ha, hb]
theorem vshlVx (c : Bool) (p : PReg) (d : VReg) (a : SReg) (b : VReg) : Statement (.vshlVx c p d a b) := fun ok _ => by
  show decode 4 (Bits.vshlVx c p d a b) = _
  obtain ⟨g0, g1, hc, hp, hd, ha, hb⟩ := shape22 (k0 := 173) (k1 := 14) c p d a b (w := Bits.vshlVx c p d a b) (by decide) (by decide) (by simp only [Bits.vshlVx, sh]; try omega)
  generalize Bits.vshlVx c p d a b = bw at *
  rw [decode32_45 (by unfold fld; omega), decVintVX_14 (by unfold fld; omega)]
  rw [hc, hp, hd, ha, hb]
theorem vshlVi (c : Bool) (p : PReg) (d : VReg) (i : BitVec 5) (b : VReg) : Statement (.vshlVi c p d i b) := fun ok _ => by
  show decode 4 (Bits.vshlVi c p d i b) = _
  obtain ⟨g0, g1, hc, hp, hd, hi, hb⟩ := shape23 (k0 := 174) (k1 := 14) c p d i b (w := Bits.vshlVi c p d i b) (by decide) (by decide) (by simp only [Bits.vshlVi, sh]; try omega)
  generalize Bits.vshlVi c p d i b = bw at *
  rw [decode32_46 (by unfold fld; omega), decVintVI_14 (by unfold fld; omega)]
  rw [hc, hp, hd, hi, hb]
theorem vshrVv (c : Bool) (p : PReg) (d a b : VReg) : Statement (.vshrVv c p d a b) := fun ok _ => by
  show decode 4 (Bits.vshrVv c p d a b) = _
  obtain ⟨g0, g1, hc, hp, hd, ha, hb⟩ := shape22 (k0 := 172) (k1 := 15) c p d a b (w := Bits.vshrVv c p d a b) (by decide) (by decide) (by simp only [Bits.vshrVv, sh]; try omega)
  generalize Bits.vshrVv c p d a b = bw at *
  rw [decode32_44 (by unfold fld; omega), decVintVV_15 (by unfold fld; omega)]
  rw [hc, hp, hd, ha, hb]
theorem vshrVx (c : Bool) (p : PReg) (d : VReg) (a : SReg) (b : VReg) : Statement (.vshrVx c p d a b) := fun ok _ => by
  show decode 4 (Bits.vshrVx c p d a b) = _
  obtain ⟨g0, g1, hc, hp, hd, ha, hb⟩ := shape22 (k0 := 173) (k1 := 15) c p d a b (w := Bits.vshrVx c p d a b) (by decide) (by decide) (by simp only [Bits.vshrVx, sh]; try omega)
  generalize Bits.vshrVx c p d a b = bw at *
  rw [decode32_45 (by unfold fld; omega), decVintVX_15 (by unfold fld; omega)]
  rw [hc, hp, hd, ha, hb]
theorem vshrVi (c : Bool) (p : PReg) (d : VReg) (i : BitVec 5) (b : VReg) : Statement (.vshrVi c p d i b) := fun ok _ => by
  show decode 4 (Bits.vshrVi c p d i b) = _
  obtain ⟨g0, g1, hc, hp, hd, hi, hb⟩ := shape23 (k0 := 174) (k1 := 15) c p d i b (w := Bits.vshrVi c p d i b) (by decide) (by decide) (by simp only [Bits.vshrVi, sh]; try omega)
  generalize Bits.vshrVi c p d i b = bw at *
  rw [decode32_46 (by unfold fld; omega), decVintVI_15 (by unfold fld; omega)]
  rw [hc, hp, hd, hi, hb]
theorem vsarVv (c : Bool) (p : PReg) (d a b : VReg) : Statement (.vsarVv c p d a b) := fun ok _ => by
  show decode 4 (Bits.vsarVv c p d a b) = _
  obtain ⟨g0, g1, hc, hp, hd, ha, hb⟩ := shape22 (k0 := 172) (k1 := 16) c p d a b (w := Bits.vsarVv c p d a b) (by decide) (by decide) (by simp only [Bits.vsarVv, sh]; try omega)
  generalize Bits.vsarVv c p d a b = bw at *
  rw [decode32_44 (by unfold fld; omega), decVintVV_16 (by unfold fld; omega)]
  rw [hc, hp, hd, ha, hb]
theorem vsarVx (c : Bool) (p : PReg) (d : VReg) (a : SReg) (b : VReg) : Statement (.vsarVx c p d a b) := fun ok _ => by
  show decode 4 (Bits.vsarVx c p d a b) = _
  obtain ⟨g0, g1, hc, hp, hd, ha, hb⟩ := shape22 (k0 := 173) (k1 := 16) c p d a b (w := Bits.vsarVx c p d a b) (by decide) (by decide) (by simp only [Bits.vsarVx, sh]; try omega)
  generalize Bits.vsarVx c p d a b = bw at *
  rw [decode32_45 (by unfold fld; omega), decVintVX_16 (by unfold fld; omega)]
  rw [hc, hp, hd, ha, hb]
theorem vsarVi (c : Bool) (p : PReg) (d : VReg) (i : BitVec 5) (b : VReg) : Statement (.vsarVi c p d i b) := fun ok _ => by
  show decode 4 (Bits.vsarVi c p d i b) = _
  obtain ⟨g0, g1, hc, hp, hd, hi, hb⟩ := shape23 (k0 := 174) (k1 := 16) c p d i b (w := Bits.vsarVi c p d i b) (by decide) (by decide) (by simp only [Bits.vsarVi, sh]; try omega)
  generalize Bits.vsarVi c p d i b = bw at *
  rw [decode32_46 (by unfold fld; omega), decVintVI_16 (by unfold fld; omega)]
  rw [hc, hp, hd, hi, hb]
theorem vminVv (c : Bool) (p : PReg) (d a b : VReg) : Statement (.vminVv c p d a b) := fun ok _ => by
  show decode 4 (Bits.vminVv c p d a b) = _
  obtain ⟨g0, g1, hc, hp, hd, ha, hb⟩ := shape22 (k0 := 172) (k1 := 17) c p d a b (w := Bits.vminVv c p d a b) (by decide) (by decide) (by simp only [Bits.vminVv, sh]; try omega)
  generalize Bits.vminVv c p d a b = bw at *
  rw [decode32_44 (by unfold fld; omega), decVintVV_17 (by unfold fld; omega)]
  rw [hc, hp, hd, ha, hb]
theorem vminVx (c : Bool) (p : PReg) (d : VReg) (a : SReg) (b : VReg) : Statement (.vminVx c p d a b) := fun ok _ => by
  show decode 4 (Bits.vminVx c p d a b) = _
  obtain ⟨g0, g1, hc, hp, hd, ha, hb⟩ := shape22 (k0 := 173) (k1 := 17) c p d a b (w := Bits.vminVx c p d a b) (by decide) (by decide) (by simp only [Bits.vminVx, sh]; try omega)
  generalize Bits.vminVx c p d a b = bw at *
  rw [decode32_45 (by unfold fld; omega), decVintVX_17 (by unfold fld; omega)]
  rw [hc, hp, hd, ha, hb]
theorem vminVi (c : Bool) (p : PReg) (d : VReg) (i : BitVec 5) (b : VReg) : Statement (.vminVi c p d i b) := fun ok _ => by
  show decode 4 (Bits.vminVi c p d i b) = _
  obtain ⟨g0, g1, hc, hp, hd, hi, hb⟩ := shape23 (k0 := 174) (k1 := 17) c p d i b (w := Bits.vminVi c p d i b) (by decide) (by decide) (by simp only [Bits.vminVi, sh]; try omega)
  generalize Bits.vminVi c p d i b = bw at *
  rw [decode32_46 (by unfold fld; omega), decVintVI_17 (by unfold fld; omega)]
  rw [hc, hp, hd, hi, hb]
theorem vmaxVv (c : Bool) (p : PReg) (d a b : VReg) : Statement (.vmaxVv c p d a b) := fun ok _ => by
  show decode 4 (Bits.vmaxVv c p d a b) = _
  obtain ⟨g0, g1, hc, hp, hd, ha, hb⟩ := shape22 (k0 := 172) (k1 := 18) c p d a b (w := Bits.vmaxVv c p d a b) (by decide) (by decide) (by simp only [Bits.vmaxVv, sh]; try omega)
  generalize Bits.vmaxVv c p d a b = bw at *
  rw [decode32_44 (by unfold fld; omega), decVintVV_18 (by unfold fld; omega)]
  rw [hc, hp, hd, ha, hb]
theorem vmaxVx (c : Bool) (p : PReg) (d : VReg) (a : SReg) (b : VReg) : Statement (.vmaxVx c p d a b) := fun ok _ => by
  show decode 4 (Bits.vmaxVx c p d a b) = _
  obtain ⟨g0, g1, hc, hp, hd, ha, hb⟩ := shape22 (k0 := 173) (k1 := 18) c p d a b (w := Bits.vmaxVx c p d a b) (by decide) (by decide) (by simp only [Bits.vmaxVx, sh]; try omega)
  generalize Bits.vmaxVx c p d a b = bw at *
  rw [decode32_45 (by unfold fld; omega), decVintVX_18 (by unfold fld; omega)]
  rw [hc, hp, hd, ha, hb]
theorem vmaxVi (c : Bool) (p : PReg) (d : VReg) (i : BitVec 5) (b : VReg) : Statement (.vmaxVi c p d i b) := fun ok _ => by
  show decode 4 (Bits.vmaxVi c p d i b) = _
  obtain ⟨g0, g1, hc, hp, hd, hi, hb⟩ := shape23 (k0 := 174) (k1 := 18) c p d i b (w := Bits.vmaxVi c p d i b) (by decide) (by decide) (by simp only [Bits.vmaxVi, sh]; try omega)
  generalize Bits.vmaxVi c p d i b = bw at *
  rw [decode32_46 (by unfold fld; omega), decVintVI_18 (by unfold fld; omega)]
  rw [hc, hp, hd, hi, hb]
theorem vminnVv (c : Bool) (p : PReg) (d a b : VReg) : Statement (.vminnVv c p d a b) := fun ok _ => by
  show decode 4 (Bits.vminnVv c p d a b) = _
  obtain ⟨g0, g1, hc, hp, hd, ha, hb⟩ := shape22 (k0 := 172) (k1 := 19) c p d a b (w := Bits.vminnVv c p d a b) (by decide) (by decide) (by simp only [Bits.vminnVv, sh]; try omega)
  generalize Bits.vminnVv c p d a b = bw at *
  rw [decode32_44 (by unfold fld; omega), decVintVV_19 (by unfold fld; omega)]
  rw [hc, hp, hd, ha, hb]
theorem vminnVx (c : Bool) (p : PReg) (d : VReg) (a : SReg) (b : VReg) : Statement (.vminnVx c p d a b) := fun ok _ => by
  show decode 4 (Bits.vminnVx c p d a b) = _
  obtain ⟨g0, g1, hc, hp, hd, ha, hb⟩ := shape22 (k0 := 173) (k1 := 19) c p d a b (w := Bits.vminnVx c p d a b) (by decide) (by decide) (by simp only [Bits.vminnVx, sh]; try omega)
  generalize Bits.vminnVx c p d a b = bw at *
  rw [decode32_45 (by unfold fld; omega), decVintVX_19 (by unfold fld; omega)]
  rw [hc, hp, hd, ha, hb]
theorem vminnVi (c : Bool) (p : PReg) (d : VReg) (i : BitVec 5) (b : VReg) : Statement (.vminnVi c p d i b) := fun ok _ => by
  show decode 4 (Bits.vminnVi c p d i b) = _
  obtain ⟨g0, g1, hc, hp, hd, hi, hb⟩ := shape23 (k0 := 174) (k1 := 19) c p d i b (w := Bits.vminnVi c p d i b) (by decide) (by decide) (by simp only [Bits.vminnVi, sh]; try omega)
  generalize Bits.vminnVi c p d i b = bw at *
  rw [decode32_46 (by unfold fld; omega), decVintVI_19 (by unfold fld; omega)]
  rw [hc, hp, hd, hi, hb]
theorem vmaxnVv (c : Bool) (p : PReg) (d a b : VReg) : Statement (.vmaxnVv c p d a b) := fun ok _ => by
  show decode 4 (Bits.vmaxnVv c p d a b) = _
  obtain ⟨g0, g1, hc, hp, hd, ha, hb⟩ := shape22 (k0 := 172) (k1 := 20) c p d a b (w := Bits.vmaxnVv c p d a b) (by decide) (by decide) (by simp only [Bits.vmaxnVv, sh]; try omega)
  generalize Bits.vmaxnVv c p d a b = bw at *
  rw [decode32_44 (by unfold fld; omega), decVintVV_20 (by unfold fld; omega)]
  rw [hc, hp, hd, ha, hb]
theorem vmaxnVx (c : Bool) (p : PReg) (d : VReg) (a : SReg) (b : VReg) : Statement (.vmaxnVx c p d a b) := fun ok _ => by
  show decode 4 (Bits.vmaxnVx c p d a b) = _
  obtain ⟨g0, g1, hc, hp, hd, ha, hb⟩ := shape22 (k0 := 173) (k1 := 20) c p d a b (w := Bits.vmaxnVx c p d a b) (by decide) (by decide) (by simp only [Bits.vmaxnVx, sh]; try omega)
  generalize Bits.vmaxnVx c p d a b = bw at *
  rw [decode32_45 (by unfold fld; omega), decVintVX_20 (by unfold fld; omega)]
  rw [hc, hp, hd, ha, hb]
theorem vmaxnVi (c : Bool) (p : PReg) (d : VReg) (i : BitVec 5) (b : VReg) : Statement (.vmaxnVi c p d i b) := fun ok _ => by
  show decode 4 (Bits.vmaxnVi c p d i b) = _
  obtain ⟨g0, g1, hc, hp, hd, hi, hb⟩ := shape23 (k0 := 174) (k1 := 20) c p d i b (w := Bits.vmaxnVi c p d i b) (by decide) (by decide) (by simp only [Bits.vmaxnVi, sh]; try omega)
  generalize Bits.vmaxnVi c p d i b = bw at *
  rw [decode32_46 (by unfold fld; omega), decVintVI_20 (by unfold fld; omega)]
  rw [hc, hp, hd, hi, hb]
theorem vsaddVv (c : Bool) (p : PReg) (d a b : VReg) : Statement (.vsaddVv c p d a b) := fun ok _ => by
  show decode 4 (Bits.vsaddVv c p d a b) = _
  obtain ⟨g0, g1, hc, hp, hd, ha, hb⟩ := shape22 (k0 := 172) (k1 := 21) c p d a b (w := Bits.vsaddVv c p d a b) (by decide) (by decide) (by simp only [Bits.vsaddVv, sh]; try omega)
  generalize Bits.vsaddVv c p d a b = bw at *
  rw [decode32_44 (by unfold fld; omega), decVintVV_21 (by unfold fld; omega)]
  rw [hc, hp, hd, ha, hb]
theorem vsaddVx (c : Bool) (p : PReg) (d : VReg) (a : SReg) (b : VReg) : Statement (.vsaddVx c p d a b) := fun ok _ => by
  show decode 4 (Bits.vsaddVx c p d a b) = _
  obtain ⟨g0, g1, hc, hp, hd, ha, hb⟩ := shape22 (k0 := 173) (k1 := 21) c p d a b (w := Bits.vsaddVx c p d a b) (by decide) (by decide) (by simp only [Bits.vsaddVx, sh]; try omega)
  generalize Bits.vsaddVx c p d a b = bw at *
  rw [decode32_45 (by unfold fld; omega), decVintVX_21 (by unfold fld; omega)]
  rw [hc, hp, hd, ha, hb]
theorem vsaddVi (c : Bool) (p : PReg) (d : VReg) (i : BitVec 5) (b : VReg) : Statement (.vsaddVi c p d i b) := fun ok _ => by
  show decode 4 (Bits.vsaddVi c p d i b) = _
  obtain ⟨g0, g1, hc, hp, hd, hi, hb⟩ := shape23 (k0 := 174) (k1 := 21) c p d i b (w := Bits.vsaddVi c p d i b) (by decide) (by decide) (by simp only [Bits.vsaddVi, sh]; try omega)
  generalize Bits.vsaddVi c p d i b = bw at *
  rw [decode32_46 (by unfold fld; omega), decVintVI_21 (by unfold fld; omega)]
  rw [hc, hp, hd, hi, hb]
theorem vssubVv (c : Bool) (p : PReg) (d a b : VReg) : Statement (.vssubVv c p d a b) := fun ok _ => by
  show decode 4 (Bits.vssubVv c p d a b) = _
  obtain ⟨g0, g1, hc, hp, hd, ha, hb⟩ := shape22 (k0 := 172) (k1 := 22) c p d a b (w := Bits.vssubVv c p d a b) (by decide) (by decide) (by simp only [Bits.vssubVv, sh]; try omega)
  generalize Bits.vssubVv c p d a b = bw at *
  rw [decode32_44 (by unfold fld; omega), decVintVV_22 (by unfold fld; omega)]
  rw [hc, hp, hd, ha, hb]
theorem vssubVx (c : Bool) (p : PReg) (d : VReg) (a : SReg) (b : VReg) : Statement (.vssubVx c p d a b) := fun ok _ => by
  show decode 4 (Bits.vssubVx c p d a b) = _
  obtain ⟨g0, g1, hc, hp, hd, ha, hb⟩ := shape22 (k0 := 173) (k1 := 22) c p d a b (w := Bits.vssubVx c p d a b) (by decide) (by decide) (by simp only [Bits.vssubVx, sh]; try omega)
  generalize Bits.vssubVx c p d a b = bw at *
  rw [decode32_45 (by unfold fld; omega), decVintVX_22 (by unfold fld; omega)]
  rw [hc, hp, hd, ha, hb]
theorem vssubVi (c : Bool) (p : PReg) (d : VReg) (i : BitVec 5) (b : VReg) : Statement (.vssubVi c p d i b) := fun ok _ => by
  show decode 4 (Bits.vssubVi c p d i b) = _
  obtain ⟨g0, g1, hc, hp, hd, hi, hb⟩ := shape23 (k0 := 174) (k1 := 22) c p d i b (w := Bits.vssubVi c p d i b) (by decide) (by decide) (by simp only [Bits.vssubVi, sh]; try omega)
  generalize Bits.vssubVi c p d i b = bw at *
  rw [decode32_46 (by unfold fld; omega), decVintVI_22 (by unfold fld; omega)]
  rw [hc, hp, hd, hi, hb]
theorem vsaddnVv (c : Bool) (p : PReg) (d a b : VReg) : Statement (.vsaddnVv c p d a b) := fun ok _ => by
  show decode 4 (Bits.vsaddnVv c p d a b) = _
  obtain ⟨g0, g1, hc, hp, hd, ha, hb⟩ := shape22 (k0 := 172) (k1 := 23) c p d a b (w := Bits.vsaddnVv c p d a b) (by decide) (by decide) (by simp only [Bits.vsaddnVv, sh]; try omega)
  generalize Bits.vsaddnVv c p d a b = bw at *
  rw [decode32_44 (by unfold fld; omega), decVintVV_23 (by unfold fld; omega)]
  rw [hc, hp, hd, ha, hb]
theorem vsaddnVx (c : Bool) (p : PReg) (d : VReg) (a : SReg) (b : VReg) : Statement (.vsaddnVx c p d a b) := fun ok _ => by
  show decode 4 (Bits.vsaddnVx c p d a b) = _
  obtain ⟨g0, g1, hc, hp, hd, ha, hb⟩ := shape22 (k0 := 173) (k1 := 23) c p d a b (w := Bits.vsaddnVx c p d a b) (by decide) (by decide) (by simp only [Bits.vsaddnVx, sh]; try omega)
  generalize Bits.vsaddnVx c p d a b = bw at *
  rw [decode32_45 (by unfold fld; omega), decVintVX_23 (by unfold fld; omega)]
  rw [hc, hp, hd, ha, hb]
theorem vsaddnVi (c : Bool) (p : PReg) (d : VReg) (i : BitVec 5) (b : VReg) : Statement (.vsaddnVi c p d i b) := fun ok _ => by
  show decode 4 (Bits.vsaddnVi c p d i b) = _
  obtain ⟨g0, g1, hc, hp, hd, hi, hb⟩ := shape23 (k0 := 174) (k1 := 23) c p d i b (w := Bits.vsaddnVi c p d i b) (by decide) (by decide) (by simp only [Bits.vsaddnVi, sh]; try omega)
  generalize Bits.vsaddnVi c p d i b = bw at *
  rw [decode32_46 (by unfold fld; omega), decVintVI_23 (by unfold fld; omega)]
  rw [hc, hp, hd, hi, hb]
theorem vssubnVv (c : Bool) (p : PReg) (d a b : VReg) : Statement (.vssubnVv c p d a b) := fun ok _ => by
  show decode 4 (Bits.vssubnVv c p d a b) = _
  obtain ⟨g0, g1, hc, hp, hd, ha, hb⟩ := shape22 (k0 := 172) (k1 := 24) c p d a b (w := Bits.vssubnVv c p d a b) (by decide) (by decide) (by simp only [Bits.vssubnVv, sh]; try omega)
  generalize Bits.vssubnVv c p d a b = bw at *
  rw [decode32_44 (by unfold fld; omega), decVintVV_24 (by unfold fld; omega)]
  rw [hc, hp, hd, ha, hb]
theorem vssubnVx (c : Bool) (p : PReg) (d : VReg) (a : SReg) (b : VReg) : Statement (.vssubnVx c p d a b) := fun ok _ => by
  show decode 4 (Bits.vssubnVx c p d a b) = _
  obtain ⟨g0, g1, hc, hp, hd, ha, hb⟩ := shape22 (k0 := 173) (k1 := 24) c p d a b (w := Bits.vssubnVx c p d a b) (by decide) (by decide) (by simp only [Bits.vssubnVx, sh]; try omega)
  generalize Bits.vssubnVx c p d a b = bw at *
  rw [decode32_45 (by unfold fld; omega), decVintVX_24 (by unfold fld; omega)]
  rw [hc, hp, hd, ha, hb]
theorem vssubnVi (c : Bool) (p : PReg) (d : VReg) (i : BitVec 5) (b : VReg) : Statement (.vssubnVi c p d i b) := fun ok _ => by
  show decode 4 (Bits.vssubnVi c p d i b) = _
  obtain ⟨g0, g1, hc, hp, hd, hi, hb⟩ := shape23 (k0 := 174) (k1 := 24) c p d i b (w := Bits.vssubnVi c p d i b) (by decide) (by decide) (by simp only [Bits.vssubnVi, sh]; try omega)
  generalize Bits.vssubnVi c p d i b = bw at *
  rw [decode32_46 (by unfold fld; omega), decVintVI_24 (by unfold fld; omega)]
  rw [hc, hp, hd, hi, hb]
theorem vabsdVv (c : Bool) (p : PReg) (d a b : VReg) : Statement (.vabsdVv c p d a b) := fun ok _ => by
  show decode 4 (Bits.vabsdVv c p d a b) = _
  obtain ⟨g0, g1, hc, hp, hd, ha, hb⟩ := shape22 (k0 := 172) (k1 := 25) c p d a b (w := Bits.vabsdVv c p d a b) (by decide) (by decide) (by simp only [Bits.vabsdVv, sh]; try omega)
  generalize Bits.vabsdVv c p d a b = bw at *
  rw [decode32_44 (by unfold fld; omega), decVintVV_25 (by unfold fld; omega)]
  rw [hc, hp, hd, ha, hb]
theorem vabsdVx (c : Bool) (p : PReg) (d : VReg) (a : SReg) (b : VReg) : Statement (.vabsdVx c p d a b) := fun ok _ => by
  show decode 4 (Bits.vabsdVx c p d a b) = _
  obtain ⟨g0, g1, hc, hp, hd, ha, hb⟩ := shape22 (k0 := 173) (k1 := 25) c p d a b (w := Bits.vabsdVx c p d a b) (by decide) (by decide) (by simp only [Bits.vabsdVx, sh]; try omega)
  generalize Bits.vabsdVx c p d a b = bw at *
  rw [decode32_45 (by unfold fld; omega), decVintVX_25 (by unfold fld; omega)]
  rw [hc, hp, hd, ha, hb]
theorem vabsdVi (c : Bool) (p : PReg) (d : VReg) (i : BitVec 5) (b : VReg) : Statement (.vabsdVi c p d i b) := fun ok _ => by
  show decode 4 (Bits.vabsdVi c p d i b) = _
  obtain ⟨g0, g1, hc, hp, hd, hi, hb⟩ := shape23 (k0 := 174) (k1 := 25) c p d i b (w := Bits.vabsdVi c p d i b) (by decide) (by decide) (by simp only [Bits.vabsdVi, sh]; try omega)
  generalize Bits.vabsdVi c p d i b = bw at *
  rw [decode32_46 (by unfold fld; omega), decVintVI_25 (by unfold fld; omega)]
  rw [hc, hp, hd, hi, hb]
theorem vmergeVv (c : Bool) (p : PReg) (d a b : VReg) : Statement (.vmergeVv c p d a b) := fun ok _ => by
  show decode 4 (Bits.vmergeVv c p d a b) = _
  obtain ⟨g0, g1, hc, hp, hd, ha, hb⟩ := shape22 (k0 := 172) (k1 := 26) c p d a b (w := Bits.vmergeVv c p d a b) (by decide) (by decide) (by simp only [Bits.vmergeVv, sh]; try omega)
  generalize Bits.vmergeVv c p d a b = bw at *
  rw [decode32_44 (by unfold fld; omega), decVintVV_26 (by unfold fld; omega)]
  rw [hc, hp, hd, ha, hb]
theorem vmergeVx (c : Bool) (p : PReg) (d : VReg) (a : SReg) (b : VReg) : Statement (.vmergeVx c p d a b) := fun ok _ => by
  show decode 4 (Bits.vmergeVx c p d a b) = _
  obtain ⟨g0, g1, hc, hp, hd, ha, hb⟩ := shape22 (k0 := 173) (k1 := 26) c p d a b (w := Bits.vmergeVx c p d a b) (by decide) (by decide) (by simp only [Bits.vmergeVx, sh]; try omega)
  generalize Bits.vmergeVx c p d a b = bw at *
  rw [decode32_45 (by unfold fld; omega), decVintVX_26 (by unfold fld; omega)]
  rw [hc, hp, hd, ha, hb]
theorem vmergeVi (c : Bool) (p : PReg) (d : VReg) (i : BitVec 5) (b : VReg) : Statement (.vmergeVi c p d i b) := fun ok _ => by
  show decode 4 (Bits.vmergeVi c p d i b) = _
  obtain ⟨g0, g1, hc, hp, hd, hi, hb⟩ := shape23 (k0 := 174) (k1 := 26) c p d i b (w := Bits.vmergeVi c p d i b) (by decide) (by decide) (by simp only [Bits.vmergeVi, sh]; try omega)
  generalize Bits.vmergeVi c p d i b = bw at *
  rw [decode32_46 (by unfold fld; omega), decVintVI_26 (by unfold fld; omega)]
  rw [hc, hp, hd, hi, hb]
theorem vmovVv (c : Bool) (p : PReg) (d a : VReg) : Statement (.vmovVv c p d a) := fun ok _ => by
  show decode 4 (Bits.vmovVv c p d a) = _
  obtain ⟨g0, g1, hc, hp, hd, ha⟩ := shape24 (k0 := 172) (k1 := 27) c p d a (w := Bits.vmovVv c p d a) (by decide) (by decide) (by simp only [Bits.vmovVv, sh]; try omega)
  generalize Bits.vmovVv c p d a = bw at *
  rw [decode32_44 (by unfold fld; omega), decVintVV_27 (by unfold fld; omega)]
  rw [unused_of (by unfold fld; omega)]
  rw [hc, hp, hd, ha]
theorem vmovVx (c : Bool) (p : PReg) (d : VReg) (a : SReg) : Statement (.vmovVx c p d a) := fun ok _ => by
  show decode 4 (Bits.vmovVx c p d a) = _
  obtain ⟨g0, g1, hc, hp, hd, ha⟩ := shape24 (k0 := 173) (k1 := 27) c p d a (w := Bits.vmovVx c p d a) (by decide) (by decide) (by simp only [Bits.vmovVx, sh]; try omega)
  generalize Bits.vmovVx c p d a = bw at *
  rw [decode32_45 (by unfold fld; omega), decVintVX_27 (by unfold fld; omega)]
  rw [unused_of (by unfold fld; omega)]
  rw [hc, hp, hd, ha]
theorem vmovVi (c : Bool) (p : PReg) (d : VReg) (i : BitVec 5) : Statement (.vmovVi c p d i) := fun ok _ => by
  show decode 4 (Bits.vmovVi c p d i) = _
  obtain ⟨g0, g1, hc, hp, hd, hi⟩ := shape25 (k0 := 174) (k1 := 27) c p d i (w := Bits.vmovVi c p d i) (by decide) (by decide) (by simp only [Bits.vmovVi, sh]; try omega)
  generalize Bits.vmovVi c p d i = bw at *
  rw [decode32_46 (by unfold fld; omega), decVintVI_27 (by unfold fld; omega)]
  rw [unused_of (by unfold fld; omega)]
  rw [hc, hp, hd, hi]
theorem vfaddVv (c : Bool) (p : PReg) (d a b : VReg) : Statement (.vfaddVv c p d a b) := fun ok _ => by
  show decode 4 (Bits.vfaddVv c p d a b) = _
  obtain ⟨g0, g1, hc, hp, hd, ha, hb⟩ := shape22 (k0 := 175) (k1 := 0) c p d a b (w := Bits.vfaddVv c p d a b) (by decide) (by decide) (by simp only [Bits.vfaddVv, sh]; try omega)
  generalize Bits.vfaddVv c p d a b = bw at *
  rw [decode32_47 (by unfold fld; omega), decVfpVV_0 (by unfold fld; omega)]
  rw [hc, hp, hd, ha, hb]
theorem vfaddVx (c : Bool) (p : PReg) (d : VReg) (a : SReg) (b : VReg) : Statement (.vfaddVx c p d a b) := fun ok _ => by
  show decode 4 (Bits.vfaddVx c p d a b) = _
  obtain ⟨g0, g1, hc, hp, hd, ha, hb⟩ := shape22 (k0 := 176) (k1 := 0) c p d a b (w := Bits.vfaddVx c p d a b) (by decide) (by decide) (by simp only [Bits.vfaddVx, sh]; try omega)
  generalize Bits.vfaddVx c p d a b = bw at *
  rw [decode32_48 (by unfold fld; omega), decVfpVX_0 (by unfold fld; omega)]
  rw [hc, hp, hd, ha, hb]
theorem vfsubVv (c : Bool) (p : PReg) (d a b : VReg) : Statement (.vfsubVv c p d a b) := fun ok _ => by
  show decode 4 (Bits.vfsubVv c p d a b) = _
  obtain ⟨g0, g1, hc, hp, hd, ha, hb⟩ := shape22 (k0 := 175) (k1 := 1) c p d a b (w := Bits.vfsubVv c p d a b) (by decide) (by decide) (by simp only [Bits.vfsubVv, sh]; try omega)
  generalize Bits.vfsubVv c p d a b = bw at *
  rw [decode32_47 (by unfold fld; omega), decVfpVV_1 (by unfold fld; omega)]
  rw [hc, hp, hd, ha, hb]
theorem vfsubVx (c : Bool) (p : PReg) (d : VReg) (a : SReg) (b : VReg) : Statement (.vfsubVx c p d a b) := fun ok _ => by
  show decode 4 (Bits.vfsubVx c p d a b) = _
  obtain ⟨g0, g1, hc, hp, hd, ha, hb⟩ := shape22 (k0 := 176) (k1 := 1) c p d a b (w := Bits.vfsubVx c p d a b) (by decide) (by decide) (by simp only [Bits.vfsubVx, sh]; try omega)
  generalize Bits.vfsubVx c p d a b = bw at *
  rw [decode32_48 (by unfold fld; omega), decVfpVX_1 (by unfold fld; omega)]
  rw [hc, hp, hd, ha, hb]
theorem vfmulVv (c : Bool) (p : PReg) (d a b : VReg) : Statement (.vfmulVv c p d a b) := fun ok _ => by
  show decode 4 (Bits.vfmulVv c p d a b) = _
  obtain ⟨g0, g1, hc, hp, hd, ha, hb⟩ := shape22 (k0 := 175) (k1 := 2) c p d a b (w := Bits.vfmulVv c p d a b) (by decide) (by decide) (by simp only [Bits.vfmulVv, sh]; try omega)
  generalize Bits.vfmulVv c p d a b = bw at *
  rw [decode32_47 (by unfold fld; omega), decVfpVV_2 (by unfold fld; omega)]
  rw [hc, hp, hd, ha, hb]
theorem vfmulVx (c : Bool) (p : PReg) (d : VReg) (a : SReg) (b : VReg) : Statement (.vfmulVx c p d a b) := fun ok _ => by
  show decode 4 (Bits.vfmulVx c p d a b) = _
  obtain ⟨g0, g1, hc, hp, hd, ha, hb⟩ := shape22 (k0 := 176) (k1 := 2) c p d a b (w := Bits.vfmulVx c p d a b) (by decide) (by decide) (by simp only [Bits.vfmulVx, sh]; try omega)
  generalize Bits.vfmulVx c p d a b = bw at *
  rw [decode32_48 (by unfold fld; omega), decVfpVX_2 (by unfold fld; omega)]
  rw [hc, hp, hd, ha, hb]
theorem vfdivVv (c : Bool) (p : PReg) (d a b : VReg) : Statement (.vfdivVv c p d a b) := fun ok _ => by
  show decode 4 (Bits.vfdivVv c p d a b) = _
  obtain ⟨g0, g1, hc, hp, hd, ha, hb⟩ := shape22 (k0 := 175) (k1 := 3) c p d a b (w := Bits.vfdivVv c p d a b) (by decide) (by decide) (by simp only [Bits.vfdivVv, sh]; try omega)
  generalize Bits.vfdivVv c p d a b = bw at *
  rw [decode32_47 (by unfold fld; omega), decVfpVV_3 (by unfold fld; omega)]
  rw [hc, hp, hd, ha, hb]
theorem vfdivVx (c : Bool) (p : PReg) (d : VReg) (a : SReg) (b : VReg) : Statement (.vfdivVx c p d a b) := fun ok _ => by
  show decode 4 (Bits.vfdivVx c p d a b) = _
  obtain ⟨g0, g1, hc, hp, hd, ha, hb⟩ := shape22 (k0 := 176) (k1 := 3) c p d a b (w := Bits.vfdivVx c p d a b) (by decide) (by decide) (by simp only [Bits.vfdivVx, sh]; try omega)
  generalize Bits.vfdivVx c p d a b = bw at *
  rw [decode32_48 (by unfold fld; omega), decVfpVX_3 (by unfold fld; omega)]
  rw [hc, hp, hd, ha, hb]
theorem vfsqrt (c : Bool) (p : PReg) (d b : VReg) : Statement (.vfsqrt c p d b) := fun ok _ => by
  show decode 4 (Bits.vfsqrt c p d b) = _
  obtain ⟨g0, g1, g2, hc, hp, hd, hb⟩ := shape26 (k0 := 175) (k1 := 0) (k2 := 4) c p d b (w := Bits.vfsqrt c p d b) (by decide) (by decide) (by decide) (by simp only [Bits.vfsqrt, sh]; try omega)
  generalize Bits.vfsqrt c p d b = bw at *
  rw [decode32_47 (by unfold fld; omega), decVfpVV_4 (by unfold fld; omega)]
  rw [unused_of (by unfold fld; omega)]
  rw [hc, hp, hd, hb]
theorem vfmaVv (c : Bool) (p : PReg) (d a b : VReg) : Statement (.vfmaVv c p d a b) := fun ok _ => by
  show decode 4 (Bits.vfmaVv c p d a b) = _
  obtain ⟨g0, g1, hc, hp, hd, ha, hb⟩ := shape22 (k0 := 175) (k1 := 5) c p d a b (w := Bits.vfmaVv c p d a b) (by decide) (by decide) (by simp only [Bits.vfmaVv, sh]; try omega)
  generalize Bits.vfmaVv c p d a b = bw at *
  rw [decode32_47 (by unfold fld; omega), decVfpVV_5 (by unfold fld; omega)]
  rw [hc, hp, hd, ha, hb]
theorem vfmaVx (c : Bool) (p : PReg) (d : VReg) (a : SReg) (b : VReg) : Statement (.vfmaVx c p d a b) := fun ok _ => by
  show decode 4 (Bits.vfmaVx c p d a b) = _
  obtain ⟨g0, g1, hc, hp, hd, ha, hb⟩ := shape22 (k0 := 176) (k1 := 5) c p d a b (w := Bits.vfmaVx c p d a b) (by decide) (by decide) (by simp only [Bits.vfmaVx, sh]; try omega)
  generalize Bits.vfmaVx c p d a b = bw at *
  rw [decode32_48 (by unfold fld; omega), decVfpVX_5 (by unfold fld; omega)]
  rw [hc, hp, hd, ha, hb]
theorem vfmsVv (c : Bool) (p : PReg) (d a b : VReg) : Statement (.vfmsVv c p d a b) := fun ok _ => by
  show decode 4 (Bits.vfmsVv c p d a b) = _
  obtain ⟨g0, g1, hc, hp, hd, ha, hb⟩ := shape22 (k0 := 175) (k1 := 6) c p d a b (w := Bits.vfmsVv c p d a b) (by decide) (by decide) (by simp only [Bits.vfmsVv, sh]; try omega)
  generalize Bits.vfmsVv c p d a b = bw at *
  rw [decode32_47 (by unfold fld; omega), decVfpVV_6 (by unfold fld; omega)]
  rw [hc, hp, hd, ha, hb]
theorem vfmsVx (c : Bool) (p : PReg) (d : VReg) (a : SReg) (b : VReg) : Statement (.vfmsVx c p d a b) := fun ok _ => by
  show decode 4 (Bits.vfmsVx c p d a b) = _
  obtain ⟨g0, g1, hc, hp, hd, ha, hb⟩ := shape22 (k0 := 176) (k1 := 6) c p d a b (w := Bits.vfmsVx c p d a b) (by decide) (by decide) (by simp only [Bits.vfmsVx, sh]; try omega)
  generalize Bits.vfmsVx c p d a b = bw at *
  rw [decode32_48 (by unfold fld; omega), decVfpVX_6 (by unfold fld; omega)]
  rw [hc, hp, hd, ha, hb]
theorem vfnmaVv (c : Bool) (p : PReg) (d a b : VReg) : Statement (.vfnmaVv c p d a b) := fun ok _ => by
  show decode 4 (Bits.vfnmaVv c p d a b) = _
  obtain ⟨g0, g1, hc, hp, hd, ha, hb⟩ := shape22 (k0 := 175) (k1 := 7) c p d a b (w := Bits.vfnmaVv c p d a b) (by decide) (by decide) (by simp only [Bits.vfnmaVv, sh]; try omega)
  generalize Bits.vfnmaVv c p d a b = bw at *
  rw [decode32_47 (by unfold fld; omega), decVfpVV_7 (by unfold fld; omega)]
  rw [hc, hp, hd, ha, hb]
theorem vfnmaVx (c : Bool) (p : PReg) (d : VReg) (a : SReg) (b : VReg) : Statement (.vfnmaVx c p d a b) := fun ok _ => by
  show decode 4 (Bits.vfnmaVx c p d a b) = _
  obtain ⟨g0, g1, hc, hp, hd, ha, hb⟩ := shape22 (k0 := 176) (k1 := 7) c p d a b (w := Bits.vfnmaVx c p d a b) (by decide) (by decide) (by simp only [Bits.vfnmaVx, sh]; try omega)
  generalize Bits.vfnmaVx c p d a b = bw at *
  rw [decode32_48 (by unfold fld; omega), decVfpVX_7 (by unfold fld; omega)]
  rw [hc, hp, hd, ha, hb]
theorem vfminVv (c : Bool) (p : PReg) (d a b : VReg) : Statement (.vfminVv c p d a b) := fun ok _ => by
  show decode 4 (Bits.vfminVv c p d a b) = _
  obtain ⟨g0, g1, hc, hp, hd, ha, hb⟩ := shape22 (k0 := 175) (k1 := 8) c p d a b (w := Bits.vfminVv c p d a b) (by decide) (by decide) (by simp only [Bits.vfminVv, sh]; try omega)
  generalize Bits.vfminVv c p d a b = bw at *
  rw [decode32_47 (by unfold fld; omega), decVfpVV_8 (by unfold fld; omega)]
  rw [hc, hp, hd, ha, hb]
theorem vfminVx (c : Bool) (p : PReg) (d : VReg) (a : SReg) (b : VReg) : Statement (.vfminVx c p d a b) := fun ok _ => by
  show decode 4 (Bits.vfminVx c p d a b) = _
  obtain ⟨g0, g1, hc, hp, hd, ha, hb⟩ := shape22 (k0 := 176) (k1 := 8) c p d a b (w := Bits.vfminVx c p d a b) (by decide) (by decide) (by simp only [Bits.vfminVx, sh]; try omega)
  generalize Bits.vfminVx c p d a b = bw at *
  rw [decode32_48 (by unfold fld; omega), decVfpVX_8 (by unfold fld; omega)]
  rw [hc, hp, hd, ha, hb]
theorem vfmaxVv (c : Bool) (p : PReg) (d a b : VReg) : Statement (.vfmaxVv c p d a b) := fun ok _ => by
  show decode 4 (Bits.vfmaxVv c p d a b) = _
  obtain ⟨g0, g1, hc, hp, hd, ha, hb⟩ := shape22 (k0 := 175) (k1 := 9) c p d a b (w := Bits.vfmaxVv c p d a b) (by decide) (by decide) (by simp only [Bits.vfmaxVv, sh]; try omega)
  generalize Bits.vfmaxVv c p d a b = bw at *
  rw [decode32_47 (by unfold fld; omega), decVfpVV_9 (by unfold fld; omega)]
  rw [hc, hp, hd, ha, hb]
theorem vfmaxVx (c : Bool) (p : PReg) (d : VReg) (a : SReg) (b : VReg) : Statement (.vfmaxVx c p d a b) := fun ok _ => by
  show decode 4 (Bits.vfmaxVx c p d a b) = _
  obtain ⟨g0, g1, hc, hp, hd, ha, hb⟩ := shape22 (k0 := 176) (k1 := 9) c p d a b (w := Bits.vfmaxVx c p d a b) (by decide) (by decide) (by simp only [Bits.vfmaxVx, sh]; try omega)
  generalize Bits.vfmaxVx c p d a b = bw at *
  rw [decode32_48 (by unfold fld; omega), decVfpVX_9 (by unfold fld; omega)]
  rw [hc, hp, hd, ha, hb]
theorem vfabs (c : Bool) (p : PReg) (d b : VReg) : Statement (.vfabs c p d b) := fun ok _ => by
  show decode 4 (Bits.vfabs c p d b) = _
  obtain ⟨g0, g1, g2, hc, hp, hd, hb⟩ := shape26 (k0 := 175) (k1 := 0) (k2 := 10) c p d b (w := Bits.vfabs c p d b) (by decide) (by decide) (by decide) (by simp only [Bits.vfabs, sh]; try omega)
  generalize Bits.vfabs c p d b = bw at *
  rw [decode32_47 (by unfold fld; omega), decVfpVV_10 (by unfold fld; omega)]
  rw [unused_of (by unfold fld; omega)]
  rw [hc, hp, hd, hb]
theorem vfneg (c : Bool) (p : PReg) (d b : VReg) : Statement (.vfneg c p d b) := fun ok _ => by
  show decode 4 (Bits.vfneg c p d b) = _
  obtain ⟨g0, g1, g2, hc, hp, hd, hb⟩ := shape26 (k0 := 175) (k1 := 0) (k2 := 11) c p d b (w := Bits.vfneg c p d b) (by decide) (by decide) (by decide) (by simp only [Bits.vfneg, sh]; try omega)
  generalize Bits.vfneg c p d b = bw at *
  rw [decode32_47 (by unfold fld; omega), decVfpVV_11 (by unfold fld; omega)]
  rw [unused_of (by unfold fld; omega)]
  rw [hc, hp, hd, hb]
theorem vfrcp (c : Bool) (p : PReg) (d b : VReg) : Statement (.vfrcp c p d b) := fun ok _ => by
  show decode 4 (Bits.vfrcp c p d b) = _
  obtain ⟨g0, g1, g2, hc, hp, hd, hb⟩ := shape26 (k0 := 175) (k1 := 0) (k2 := 12) c p d b (w := Bits.vfrcp c p d b) (by decide) (by decide) (by decide) (by simp only [Bits.vfrcp, sh]; try omega)
  generalize Bits.vfrcp c p d b = bw at *
  rw [decode32_47 (by unfold fld; omega), decVfpVV_12 (by unfold fld; omega)]
  rw [unused_of (by unfold fld; omega)]
  rw [hc, hp, hd, hb]
theorem vfrsq (c : Bool) (p : PReg) (d b : VReg) : Statement (.vfrsq c p d b) := fun ok _ => by
  show decode 4 (Bits.vfrsq c p d b) = _
  obtain ⟨g0, g1, g2, hc, hp, hd, hb⟩ := shape26 (k0 := 175) (k1 := 0) (k2 := 13) c p d b (w := Bits.vfrsq c p d b) (by decide) (by decide) (by decide) (by simp only [Bits.vfrsq, sh]; try omega)
  generalize Bits.vfrsq c p d b = bw at *
  rw [decode32_47 (by unfold fld; omega), decVfpVV_13 (by unfold fld; omega)]
  rw [unused_of (by unfold fld; omega)]
  rw [hc, hp, hd, hb]
theorem vfexp2 (c : Bool) (p : PReg) (d b : VReg) : Statement (.vfexp2 c p d b) := fun ok _ => by
  show decode 4 (Bits.vfexp2 c p d b) = _
  obtain ⟨g0, g1, g2, hc, hp, hd, hb⟩ := shape26 (k0 := 175) (k1 := 0) (k2 := 14) c p d b (w := Bits.vfexp2 c p d b) (by decide) (by decide) (by decide) (by simp only [Bits.vfexp2, sh]; try omega)
  generalize Bits.vfexp2 c p d b = bw at *
  rw [decode32_47 (by unfold fld; omega), decVfpVV_14 (by unfold fld; omega)]
  rw [unused_of (by unfold fld; omega)]
  rw [hc, hp, hd, hb]
theorem vflog2 (c : Bool) (p : PReg) (d b : VReg) : Statement (.vflog2 c p d b) := fun ok _ => by
  show decode 4 (Bits.vflog2 c p d b) = _
  obtain ⟨g0, g1, g2, hc, hp, hd, hb⟩ := shape26 (k0 := 175) (k1 := 0) (k2 := 15) c p d b (w := Bits.vflog2 c p d b) (by decide) (by decide) (by decide) (by simp only [Bits.vflog2, sh]; try omega)
  generalize Bits.vflog2 c p d b = bw at *
  rw [decode32_47 (by unfold fld; omega), decVfpVV_15 (by unfold fld; omega)]
  rw [unused_of (by unfold fld; omega)]
  rw [hc, hp, hd, hb]
theorem vfclass (c : Bool) (p : PReg) (d b : VReg) : Statement (.vfclass c p d b) := fun ok _ => by
  show decode 4 (Bits.vfclass c p d b) = _
  obtain ⟨g0, g1, g2, hc, hp, hd, hb⟩ := shape26 (k0 := 175) (k1 := 0) (k2 := 16) c p d b (w := Bits.vfclass c p d b) (by decide) (by decide) (by decide) (by simp only [Bits.vfclass, sh]; try omega)
  generalize Bits.vfclass c p d b = bw at *
  rw [decode32_47 (by unfold fld; omega), decVfpVV_16 (by unfold fld; omega)]
  rw [unused_of (by unfold fld; omega)]
  rw [hc, hp, hd, hb]
theorem vcmpEq (c : Bool) (p : PReg) (s : Bool) (q : PReg) (a : Fin 32) (b : VReg) (n : Bool) : Statement (.vcmpEq c p s q a b n) := fun ok _ => by
  show decode 4 (Bits.vcmpEq c p s q a b n) = _
  obtain ⟨g0, g1, g2, g3, hc, hp, hs, hq, ha, hb, hn⟩ := shape27 (k0 := 177) (k1 := 0) (k2 := 0) (k3 := 0) c p s q a b n (w := Bits.vcmpEq c p s q a b n) (by decide) (by decide) (by decide) (by decide) (by simp only [Bits.vcmpEq, sh]; try omega)
  generalize Bits.vcmpEq c p s q a b n = bw at *
  rw [decode32_49 (by unfold fld; omega), decVcmp_0_0 (by unfold fld; omega) (by unfold fld; omega)]
  rw [unused_of (by unfold fld; omega)]
  rw [hc, hp, hs, hq, ha, hb, hn]
theorem vcmpNe (c : Bool) (p : PReg) (s : Bool) (q : PReg) (a : Fin 32) (b : VReg) (n : Bool) : Statement (.vcmpNe c p s q a b n) := fun ok _ => by
  show decode 4 (Bits.vcmpNe c p s q a b n) = _
  obtain ⟨g0, g1, g2, g3, hc, hp, hs, hq, ha, hb, hn⟩ := shape27 (k0 := 177) (k1 := 0) (k2 := 0) (k3 := 1) c p s q a b n (w := Bits.vcmpNe c p s q a b n) (by decide) (by decide) (by decide) (by decide) (by simp only [Bits.vcmpNe, sh]; try omega)
  generalize Bits.vcmpNe c p s q a b n = bw at *
  rw [decode32_49 (by unfold fld; omega), decVcmp_0_1 (by unfold fld; omega) (by unfold fld; omega)]
  rw [unused_of (by unfold fld; omega)]
  rw [hc, hp, hs, hq, ha, hb, hn]
theorem vcmpLt (c : Bool) (p : PReg) (s : Bool) (q : PReg) (a : Fin 32) (b : VReg) (n : Bool) : Statement (.vcmpLt c p s q a b n) := fun ok _ => by
  show decode 4 (Bits.vcmpLt c p s q a b n) = _
  obtain ⟨g0, g1, g2, g3, hc, hp, hs, hq, ha, hb, hn⟩ := shape27 (k0 := 177) (k1 := 0) (k2 := 0) (k3 := 2) c p s q a b n (w := Bits.vcmpLt c p s q a b n) (by decide) (by decide) (by decide) (by decide) (by simp only [Bits.vcmpLt, sh]; try omega)
  generalize Bits.vcmpLt c p s q a b n = bw at *
  rw [decode32_49 (by unfold fld; omega), decVcmp_0_2 (by unfold fld; omega) (by unfold fld; omega)]
  rw [unused_of (by unfold fld; omega)]
  rw [hc, hp, hs, hq, ha, hb, hn]
theorem vcmpLe (c : Bool) (p : PReg) (s : Bool) (q : PReg) (a : Fin 32) (b : VReg) (n : Bool) : Statement (.vcmpLe c p s q a b n) := fun ok _ => by
  show decode 4 (Bits.vcmpLe c p s q a b n) = _
  obtain ⟨g0, g1, g2, g3, hc, hp, hs, hq, ha, hb, hn⟩ := shape27 (k0 := 177) (k1 := 0) (k2 := 0) (k3 := 3) c p s q a b n (w := Bits.vcmpLe c p s q a b n) (by decide) (by decide) (by decide) (by decide) (by simp only [Bits.vcmpLe, sh]; try omega)
  generalize Bits.vcmpLe c p s q a b n = bw at *
  rw [decode32_49 (by unfold fld; omega), decVcmp_0_3 (by unfold fld; omega) (by unfold fld; omega)]
  rw [unused_of (by unfold fld; omega)]
  rw [hc, hp, hs, hq, ha, hb, hn]
theorem vcmpGt (c : Bool) (p : PReg) (s : Bool) (q : PReg) (a : Fin 32) (b : VReg) (n : Bool) : Statement (.vcmpGt c p s q a b n) := fun ok _ => by
  show decode 4 (Bits.vcmpGt c p s q a b n) = _
  obtain ⟨g0, g1, g2, g3, hc, hp, hs, hq, ha, hb, hn⟩ := shape27 (k0 := 177) (k1 := 0) (k2 := 0) (k3 := 4) c p s q a b n (w := Bits.vcmpGt c p s q a b n) (by decide) (by decide) (by decide) (by decide) (by simp only [Bits.vcmpGt, sh]; try omega)
  generalize Bits.vcmpGt c p s q a b n = bw at *
  rw [decode32_49 (by unfold fld; omega), decVcmp_0_4 (by unfold fld; omega) (by unfold fld; omega)]
  rw [unused_of (by unfold fld; omega)]
  rw [hc, hp, hs, hq, ha, hb, hn]
theorem vcmpGe (c : Bool) (p : PReg) (s : Bool) (q : PReg) (a : Fin 32) (b : VReg) (n : Bool) : Statement (.vcmpGe c p s q a b n) := fun ok _ => by
  show decode 4 (Bits.vcmpGe c p s q a b n) = _
  obtain ⟨g0, g1, g2, g3, hc, hp, hs, hq, ha, hb, hn⟩ := shape27 (k0 := 177) (k1 := 0) (k2 := 0) (k3 := 5) c p s q a b n (w := Bits.vcmpGe c p s q a b n) (by decide) (by decide) (by decide) (by decide) (by simp only [Bits.vcmpGe, sh]; try omega)
  generalize Bits.vcmpGe c p s q a b n = bw at *
  rw [decode32_49 (by unfold fld; omega), decVcmp_0_5 (by unfold fld; omega) (by unfold fld; omega)]
  rw [unused_of (by unfold fld; omega)]
  rw [hc, hp, hs, hq, ha, hb, hn]
theorem vcmpxEq (c : Bool) (p : PReg) (s : Bool) (q : PReg) (a : Fin 32) (b : VReg) (n : Bool) : Statement (.vcmpxEq c p s q a b n) := fun ok _ => by
  show decode 4 (Bits.vcmpxEq c p s q a b n) = _
  obtain ⟨g0, g1, g2, g3, hc, hp, hs, hq, ha, hb, hn⟩ := shape27 (k0 := 177) (k1 := 0) (k2 := 1) (k3 := 0) c p s q a b n (w := Bits.vcmpxEq c p s q a b n) (by decide) (by decide) (by decide) (by decide) (by simp only [Bits.vcmpxEq, sh]; try omega)
  generalize Bits.vcmpxEq c p s q a b n = bw at *
  rw [decode32_49 (by unfold fld; omega), decVcmp_1_0 (by unfold fld; omega) (by unfold fld; omega)]
  rw [unused_of (by unfold fld; omega)]
  rw [hc, hp, hs, hq, ha, hb, hn]
theorem vcmpxNe (c : Bool) (p : PReg) (s : Bool) (q : PReg) (a : Fin 32) (b : VReg) (n : Bool) : Statement (.vcmpxNe c p s q a b n) := fun ok _ => by
  show decode 4 (Bits.vcmpxNe c p s q a b n) = _
  obtain ⟨g0, g1, g2, g3, hc, hp, hs, hq, ha, hb, hn⟩ := shape27 (k0 := 177) (k1 := 0) (k2 := 1) (k3 := 1) c p s q a b n (w := Bits.vcmpxNe c p s q a b n) (by decide) (by decide) (by decide) (by decide) (by simp only [Bits.vcmpxNe, sh]; try omega)
  generalize Bits.vcmpxNe c p s q a b n = bw at *
  rw [decode32_49 (by unfold fld; omega), decVcmp_1_1 (by unfold fld; omega) (by unfold fld; omega)]
  rw [unused_of (by unfold fld; omega)]
  rw [hc, hp, hs, hq, ha, hb, hn]
theorem vcmpxLt (c : Bool) (p : PReg) (s : Bool) (q : PReg) (a : Fin 32) (b : VReg) (n : Bool) : Statement (.vcmpxLt c p s q a b n) := fun ok _ => by
  show decode 4 (Bits.vcmpxLt c p s q a b n) = _
  obtain ⟨g0, g1, g2, g3, hc, hp, hs, hq, ha, hb, hn⟩ := shape27 (k0 := 177) (k1 := 0) (k2 := 1) (k3 := 2) c p s q a b n (w := Bits.vcmpxLt c p s q a b n) (by decide) (by decide) (by decide) (by decide) (by simp only [Bits.vcmpxLt, sh]; try omega)
  generalize Bits.vcmpxLt c p s q a b n = bw at *
  rw [decode32_49 (by unfold fld; omega), decVcmp_1_2 (by unfold fld; omega) (by unfold fld; omega)]
  rw [unused_of (by unfold fld; omega)]
  rw [hc, hp, hs, hq, ha, hb, hn]
theorem vcmpxLe (c : Bool) (p : PReg) (s : Bool) (q : PReg) (a : Fin 32) (b : VReg) (n : Bool) : Statement (.vcmpxLe c p s q a b n) := fun ok _ => by
  show decode 4 (Bits.vcmpxLe c p s q a b n) = _
  obtain ⟨g0, g1, g2, g3, hc, hp, hs, hq, ha, hb, hn⟩ := shape27 (k0 := 177) (k1 := 0) (k2 := 1) (k3 := 3) c p s q a b n (w := Bits.vcmpxLe c p s q a b n) (by decide) (by decide) (by decide) (by decide) (by simp only [Bits.vcmpxLe, sh]; try omega)
  generalize Bits.vcmpxLe c p s q a b n = bw at *
  rw [decode32_49 (by unfold fld; omega), decVcmp_1_3 (by unfold fld; omega) (by unfold fld; omega)]
  rw [unused_of (by unfold fld; omega)]
  rw [hc, hp, hs, hq, ha, hb, hn]
theorem vcmpxGt (c : Bool) (p : PReg) (s : Bool) (q : PReg) (a : Fin 32) (b : VReg) (n : Bool) : Statement (.vcmpxGt c p s q a b n) := fun ok _ => by
  show decode 4 (Bits.vcmpxGt c p s q a b n) = _
  obtain ⟨g0, g1, g2, g3, hc, hp, hs, hq, ha, hb, hn⟩ := shape27 (k0 := 177) (k1 := 0) (k2 := 1) (k3 := 4) c p s q a b n (w := Bits.vcmpxGt c p s q a b n) (by decide) (by decide) (by decide) (by decide) (by simp only [Bits.vcmpxGt, sh]; try omega)
  generalize Bits.vcmpxGt c p s q a b n = bw at *
  rw [decode32_49 (by unfold fld; omega), decVcmp_1_4 (by unfold fld; omega) (by unfold fld; omega)]
  rw [unused_of (by unfold fld; omega)]
  rw [hc, hp, hs, hq, ha, hb, hn]
theorem vcmpxGe (c : Bool) (p : PReg) (s : Bool) (q : PReg) (a : Fin 32) (b : VReg) (n : Bool) : Statement (.vcmpxGe c p s q a b n) := fun ok _ => by
  show decode 4 (Bits.vcmpxGe c p s q a b n) = _
  obtain ⟨g0, g1, g2, g3, hc, hp, hs, hq, ha, hb, hn⟩ := shape27 (k0 := 177) (k1 := 0) (k2 := 1) (k3 := 5) c p s q a b n (w := Bits.vcmpxGe c p s q a b n) (by decide) (by decide) (by decide) (by decide) (by simp only [Bits.vcmpxGe, sh]; try omega)
  generalize Bits.vcmpxGe c p s q a b n = bw at *
  rw [decode32_49 (by unfold fld; omega), decVcmp_1_5 (by unfold fld; omega) (by unfold fld; omega)]
  rw [unused_of (by unfold fld; omega)]
  rw [hc, hp, hs, hq, ha, hb, hn]
theorem pand (c : Bool) (p d a b : PReg) : Statement (.pand c p d a b) := fun ok _ => by
  show decode 4 (Bits.pand c p d a b) = _
  obtain ⟨g0, g1, g2, g3, g4, hc, hp, hd, ha, hb⟩ := shape28 (k0 := 178) (k1 := 0) (k2 := 0) (k3 := 0) (k4 := 0) c p d a b (w := Bits.pand c p d a b) (by decide) (by decide) (by decide) (by decide) (by decide) (by simp only [Bits.pand, sh]; try omega)
  generalize Bits.pand c p d a b = bw at *
  rw [decode32_50 (by unfold fld; omega), decVpred_0 (by unfold fld; omega)]
  rw [unused_of (by unfold fld; omega)]
  rw [hc, hp, hd, ha, hb]
theorem por (c : Bool) (p d a b : PReg) : Statement (.por c p d a b) := fun ok _ => by
  show decode 4 (Bits.por c p d a b) = _
  obtain ⟨g0, g1, g2, g3, g4, hc, hp, hd, ha, hb⟩ := shape28 (k0 := 178) (k1 := 0) (k2 := 0) (k3 := 0) (k4 := 1) c p d a b (w := Bits.por c p d a b) (by decide) (by decide) (by decide) (by decide) (by decide) (by simp only [Bits.por, sh]; try omega)
  generalize Bits.por c p d a b = bw at *
  rw [decode32_50 (by unfold fld; omega), decVpred_1 (by unfold fld; omega)]
  rw [unused_of (by unfold fld; omega)]
  rw [hc, hp, hd, ha, hb]
theorem pxor (c : Bool) (p d a b : PReg) : Statement (.pxor c p d a b) := fun ok _ => by
  show decode 4 (Bits.pxor c p d a b) = _
  obtain ⟨g0, g1, g2, g3, g4, hc, hp, hd, ha, hb⟩ := shape28 (k0 := 178) (k1 := 0) (k2 := 0) (k3 := 0) (k4 := 2) c p d a b (w := Bits.pxor c p d a b) (by decide) (by decide) (by decide) (by decide) (by decide) (by simp only [Bits.pxor, sh]; try omega)
  generalize Bits.pxor c p d a b = bw at *
  rw [decode32_50 (by unfold fld; omega), decVpred_2 (by unfold fld; omega)]
  rw [unused_of (by unfold fld; omega)]
  rw [hc, hp, hd, ha, hb]
theorem pandn (c : Bool) (p d a b : PReg) : Statement (.pandn c p d a b) := fun ok _ => by
  show decode 4 (Bits.pandn c p d a b) = _
  obtain ⟨g0, g1, g2, g3, g4, hc, hp, hd, ha, hb⟩ := shape28 (k0 := 178) (k1 := 0) (k2 := 0) (k3 := 0) (k4 := 3) c p d a b (w := Bits.pandn c p d a b) (by decide) (by decide) (by decide) (by decide) (by decide) (by simp only [Bits.pandn, sh]; try omega)
  generalize Bits.pandn c p d a b = bw at *
  rw [decode32_50 (by unfold fld; omega), decVpred_3 (by unfold fld; omega)]
  rw [unused_of (by unfold fld; omega)]
  rw [hc, hp, hd, ha, hb]
theorem pnot (c : Bool) (p d b : PReg) : Statement (.pnot c p d b) := fun ok _ => by
  show decode 4 (Bits.pnot c p d b) = _
  obtain ⟨g0, g1, g2, g3, hc, hp, hd, hb⟩ := shape29 (k0 := 178) (k1 := 0) (k2 := 0) (k3 := 4) c p d b (w := Bits.pnot c p d b) (by decide) (by decide) (by decide) (by decide) (by simp only [Bits.pnot, sh]; try omega)
  generalize Bits.pnot c p d b = bw at *
  rw [decode32_50 (by unfold fld; omega), decVpred_4 (by unfold fld; omega)]
  rw [unused_of (by unfold fld; omega)]
  rw [hc, hp, hd, hb]
theorem pmov (c : Bool) (p d b : PReg) : Statement (.pmov c p d b) := fun ok _ => by
  show decode 4 (Bits.pmov c p d b) = _
  obtain ⟨g0, g1, g2, g3, hc, hp, hd, hb⟩ := shape29 (k0 := 178) (k1 := 0) (k2 := 0) (k3 := 5) c p d b (w := Bits.pmov c p d b) (by decide) (by decide) (by decide) (by decide) (by simp only [Bits.pmov, sh]; try omega)
  generalize Bits.pmov c p d b = bw at *
  rw [decode32_50 (by unfold fld; omega), decVpred_5 (by unfold fld; omega)]
  rw [unused_of (by unfold fld; omega)]
  rw [hc, hp, hd, hb]
theorem pset (c : Bool) (p d : PReg) : Statement (.pset c p d) := fun ok _ => by
  show decode 4 (Bits.pset c p d) = _
  obtain ⟨g0, g1, g2, hc, hp, hd⟩ := shape30 (k0 := 178) (k1 := 0) (k2 := 6) c p d (w := Bits.pset c p d) (by decide) (by decide) (by decide) (by simp only [Bits.pset, sh]; try omega)
  generalize Bits.pset c p d = bw at *
  rw [decode32_50 (by unfold fld; omega), decVpred_6 (by unfold fld; omega)]
  rw [unused_of (by unfold fld; omega)]
  rw [hc, hp, hd]
theorem psbf (c : Bool) (p d b : PReg) : Statement (.psbf c p d b) := fun ok _ => by
  show decode 4 (Bits.psbf c p d b) = _
  obtain ⟨g0, g1, g2, g3, hc, hp, hd, hb⟩ := shape29 (k0 := 178) (k1 := 0) (k2 := 0) (k3 := 7) c p d b (w := Bits.psbf c p d b) (by decide) (by decide) (by decide) (by decide) (by simp only [Bits.psbf, sh]; try omega)
  generalize Bits.psbf c p d b = bw at *
  rw [decode32_50 (by unfold fld; omega), decVpred_7 (by unfold fld; omega)]
  rw [unused_of (by unfold fld; omega)]
  rw [hc, hp, hd, hb]
theorem psif (c : Bool) (p d b : PReg) : Statement (.psif c p d b) := fun ok _ => by
  show decode 4 (Bits.psif c p d b) = _
  obtain ⟨g0, g1, g2, g3, hc, hp, hd, hb⟩ := shape29 (k0 := 178) (k1 := 0) (k2 := 0) (k3 := 8) c p d b (w := Bits.psif c p d b) (by decide) (by decide) (by decide) (by decide) (by simp only [Bits.psif, sh]; try omega)
  generalize Bits.psif c p d b = bw at *
  rw [decode32_50 (by unfold fld; omega), decVpred_8 (by unfold fld; omega)]
  rw [unused_of (by unfold fld; omega)]
  rw [hc, hp, hd, hb]
theorem psof (c : Bool) (p d b : PReg) : Statement (.psof c p d b) := fun ok _ => by
  show decode 4 (Bits.psof c p d b) = _
  obtain ⟨g0, g1, g2, g3, hc, hp, hd, hb⟩ := shape29 (k0 := 178) (k1 := 0) (k2 := 0) (k3 := 9) c p d b (w := Bits.psof c p d b) (by decide) (by decide) (by decide) (by decide) (by simp only [Bits.psof, sh]; try omega)
  generalize Bits.psof c p d b = bw at *
  rw [decode32_50 (by unfold fld; omega), decVpred_9 (by unfold fld; omega)]
  rw [unused_of (by unfold fld; omega)]
  rw [hc, hp, hd, hb]
theorem ppopc (c : Bool) (p : PReg) (d : SReg) (b : PReg) : Statement (.ppopc c p d b) := fun ok _ => by
  show decode 4 (Bits.ppopc c p d b) = _
  obtain ⟨g0, g1, g2, hc, hp, hd, hb⟩ := shape31 (k0 := 178) (k1 := 0) (k2 := 10) c p d b (w := Bits.ppopc c p d b) (by decide) (by decide) (by decide) (by simp only [Bits.ppopc, sh]; try omega)
  generalize Bits.ppopc c p d b = bw at *
  rw [decode32_50 (by unfold fld; omega), decVpred_10 (by unfold fld; omega)]
  rw [unused_of (by unfold fld; omega)]
  rw [hc, hp, hd, hb]
theorem pfirst (c : Bool) (p : PReg) (d : SReg) (b : PReg) : Statement (.pfirst c p d b) := fun ok _ => by
  show decode 4 (Bits.pfirst c p d b) = _
  obtain ⟨g0, g1, g2, hc, hp, hd, hb⟩ := shape31 (k0 := 178) (k1 := 0) (k2 := 11) c p d b (w := Bits.pfirst c p d b) (by decide) (by decide) (by decide) (by simp only [Bits.pfirst, sh]; try omega)
  generalize Bits.pfirst c p d b = bw at *
  rw [decode32_50 (by unfold fld; omega), decVpred_11 (by unfold fld; omega)]
  rw [unused_of (by unfold fld; omega)]
  rw [hc, hp, hd, hb]
theorem vrsum (c : Bool) (p : PReg) (d a : SReg) (b : VReg) : Statement (.vrsum c p d a b) := fun ok _ => by
  show decode 4 (Bits.vrsum c p d a b) = _
  obtain ⟨g0, g1, hc, hp, hd, ha, hb⟩ := shape22 (k0 := 179) (k1 := 0) c p d a b (w := Bits.vrsum c p d a b) (by decide) (by decide) (by simp only [Bits.vrsum, sh]; try omega)
  generalize Bits.vrsum c p d a b = bw at *
  rw [decode32_51 (by unfold fld; omega), decVred_0 (by unfold fld; omega)]
  rw [hc, hp, hd, ha, hb]
theorem vrsumO (c : Bool) (p : PReg) (d a : SReg) (b : VReg) : Statement (.vrsumO c p d a b) := fun ok _ => by
  show decode 4 (Bits.vrsumO c p d a b) = _
  obtain ⟨g0, g1, hc, hp, hd, ha, hb⟩ := shape22 (k0 := 179) (k1 := 1) c p d a b (w := Bits.vrsumO c p d a b) (by decide) (by decide) (by simp only [Bits.vrsumO, sh]; try omega)
  generalize Bits.vrsumO c p d a b = bw at *
  rw [decode32_51 (by unfold fld; omega), decVred_1 (by unfold fld; omega)]
  rw [hc, hp, hd, ha, hb]
theorem vrmax (c : Bool) (p : PReg) (d a : SReg) (b : VReg) : Statement (.vrmax c p d a b) := fun ok _ => by
  show decode 4 (Bits.vrmax c p d a b) = _
  obtain ⟨g0, g1, hc, hp, hd, ha, hb⟩ := shape22 (k0 := 179) (k1 := 2) c p d a b (w := Bits.vrmax c p d a b) (by decide) (by decide) (by simp only [Bits.vrmax, sh]; try omega)
  generalize Bits.vrmax c p d a b = bw at *
  rw [decode32_51 (by unfold fld; omega), decVred_2 (by unfold fld; omega)]
  rw [hc, hp, hd, ha, hb]
theorem vrmin (c : Bool) (p : PReg) (d a : SReg) (b : VReg) : Statement (.vrmin c p d a b) := fun ok _ => by
  show decode 4 (Bits.vrmin c p d a b) = _
  obtain ⟨g0, g1, hc, hp, hd, ha, hb⟩ := shape22 (k0 := 179) (k1 := 3) c p d a b (w := Bits.vrmin c p d a b) (by decide) (by decide) (by simp only [Bits.vrmin, sh]; try omega)
  generalize Bits.vrmin c p d a b = bw at *
  rw [decode32_51 (by unfold fld; omega), decVred_3 (by unfold fld; omega)]
  rw [hc, hp, hd, ha, hb]
theorem vrmaxn (c : Bool) (p : PReg) (d a : SReg) (b : VReg) : Statement (.vrmaxn c p d a b) := fun ok _ => by
  show decode 4 (Bits.vrmaxn c p d a b) = _
  obtain ⟨g0, g1, hc, hp, hd, ha, hb⟩ := shape22 (k0 := 179) (k1 := 4) c p d a b (w := Bits.vrmaxn c p d a b) (by decide) (by decide) (by simp only [Bits.vrmaxn, sh]; try omega)
  generalize Bits.vrmaxn c p d a b = bw at *
  rw [decode32_51 (by unfold fld; omega), decVred_4 (by unfold fld; omega)]
  rw [hc, hp, hd, ha, hb]
theorem vrminn (c : Bool) (p : PReg) (d a : SReg) (b : VReg) : Statement (.vrminn c p d a b) := fun ok _ => by
  show decode 4 (Bits.vrminn c p d a b) = _
  obtain ⟨g0, g1, hc, hp, hd, ha, hb⟩ := shape22 (k0 := 179) (k1 := 5) c p d a b (w := Bits.vrminn c p d a b) (by decide) (by decide) (by simp only [Bits.vrminn, sh]; try omega)
  generalize Bits.vrminn c p d a b = bw at *
  rw [decode32_51 (by unfold fld; omega), decVred_5 (by unfold fld; omega)]
  rw [hc, hp, hd, ha, hb]
theorem vrand (c : Bool) (p : PReg) (d a : SReg) (b : VReg) : Statement (.vrand c p d a b) := fun ok _ => by
  show decode 4 (Bits.vrand c p d a b) = _
  obtain ⟨g0, g1, hc, hp, hd, ha, hb⟩ := shape22 (k0 := 179) (k1 := 6) c p d a b (w := Bits.vrand c p d a b) (by decide) (by decide) (by simp only [Bits.vrand, sh]; try omega)
  generalize Bits.vrand c p d a b = bw at *
  rw [decode32_51 (by unfold fld; omega), decVred_6 (by unfold fld; omega)]
  rw [hc, hp, hd, ha, hb]
theorem vror (c : Bool) (p : PReg) (d a : SReg) (b : VReg) : Statement (.vror c p d a b) := fun ok _ => by
  show decode 4 (Bits.vror c p d a b) = _
  obtain ⟨g0, g1, hc, hp, hd, ha, hb⟩ := shape22 (k0 := 179) (k1 := 7) c p d a b (w := Bits.vror c p d a b) (by decide) (by decide) (by simp only [Bits.vror, sh]; try omega)
  generalize Bits.vror c p d a b = bw at *
  rw [decode32_51 (by unfold fld; omega), decVred_7 (by unfold fld; omega)]
  rw [hc, hp, hd, ha, hb]
theorem vrxor (c : Bool) (p : PReg) (d a : SReg) (b : VReg) : Statement (.vrxor c p d a b) := fun ok _ => by
  show decode 4 (Bits.vrxor c p d a b) = _
  obtain ⟨g0, g1, hc, hp, hd, ha, hb⟩ := shape22 (k0 := 179) (k1 := 8) c p d a b (w := Bits.vrxor c p d a b) (by decide) (by decide) (by simp only [Bits.vrxor, sh]; try omega)
  generalize Bits.vrxor c p d a b = bw at *
  rw [decode32_51 (by unfold fld; omega), decVred_8 (by unfold fld; omega)]
  rw [hc, hp, hd, ha, hb]
theorem vslup (c : Bool) (p : PReg) (d : VReg) (a : SReg) (b : VReg) : Statement (.vslup c p d a b) := fun ok _ => by
  show decode 4 (Bits.vslup c p d a b) = _
  obtain ⟨g0, g1, hc, hp, hd, ha, hb⟩ := shape22 (k0 := 180) (k1 := 0) c p d a b (w := Bits.vslup c p d a b) (by decide) (by decide) (by simp only [Bits.vslup, sh]; try omega)
  generalize Bits.vslup c p d a b = bw at *
  rw [decode32_52 (by unfold fld; omega), decVpermx_0 (by unfold fld; omega)]
  rw [hc, hp, hd, ha, hb]
theorem vsldn (c : Bool) (p : PReg) (d : VReg) (a : SReg) (b : VReg) : Statement (.vsldn c p d a b) := fun ok _ => by
  show decode 4 (Bits.vsldn c p d a b) = _
  obtain ⟨g0, g1, hc, hp, hd, ha, hb⟩ := shape22 (k0 := 180) (k1 := 1) c p d a b (w := Bits.vsldn c p d a b) (by decide) (by decide) (by simp only [Bits.vsldn, sh]; try omega)
  generalize Bits.vsldn c p d a b = bw at *
  rw [decode32_52 (by unfold fld; omega), decVpermx_1 (by unfold fld; omega)]
  rw [hc, hp, hd, ha, hb]
theorem vperm (c : Bool) (p : PReg) (d a b : VReg) : Statement (.vperm c p d a b) := fun ok _ => by
  show decode 4 (Bits.vperm c p d a b) = _
  obtain ⟨g0, g1, hc, hp, hd, ha, hb⟩ := shape22 (k0 := 180) (k1 := 2) c p d a b (w := Bits.vperm c p d a b) (by decide) (by decide) (by simp only [Bits.vperm, sh]; try omega)
  generalize Bits.vperm c p d a b = bw at *
  rw [decode32_52 (by unfold fld; omega), decVpermx_2 (by unfold fld; omega)]
  rw [hc, hp, hd, ha, hb]
theorem vcomp (c : Bool) (p : PReg) (d b : VReg) : Statement (.vcomp c p d b) := fun ok _ => by
  show decode 4 (Bits.vcomp c p d b) = _
  obtain ⟨g0, g1, g2, hc, hp, hd, hb⟩ := shape26 (k0 := 180) (k1 := 0) (k2 := 3) c p d b (w := Bits.vcomp c p d b) (by decide) (by decide) (by decide) (by simp only [Bits.vcomp, sh]; try omega)
  generalize Bits.vcomp c p d b = bw at *
  rw [decode32_52 (by unfold fld; omega), decVpermx_3 (by unfold fld; omega)]
  rw [unused_of (by unfold fld; omega)]
  rw [hc, hp, hd, hb]
theorem vxpnd (c : Bool) (p : PReg) (d b : VReg) : Statement (.vxpnd c p d b) := fun ok _ => by
  show decode 4 (Bits.vxpnd c p d b) = _
  obtain ⟨g0, g1, g2, hc, hp, hd, hb⟩ := shape26 (k0 := 180) (k1 := 0) (k2 := 4) c p d b (w := Bits.vxpnd c p d b) (by decide) (by decide) (by decide) (by simp only [Bits.vxpnd, sh]; try omega)
  generalize Bits.vxpnd c p d b = bw at *
  rw [decode32_52 (by unfold fld; omega), decVpermx_4 (by unfold fld; omega)]
  rw [unused_of (by unfold fld; omega)]
  rw [hc, hp, hd, hb]
theorem vmvs (c : Bool) (d a : SReg) (b : VReg) : Statement (.vmvs c d a b) := fun ok _ => by
  show decode 4 (Bits.vmvs c d a b) = _
  obtain ⟨g0, g1, g2, hc, hd, ha, hb⟩ := shape32 (k0 := 180) (k1 := 0) (k2 := 5) c d a b (w := Bits.vmvs c d a b) (by decide) (by decide) (by decide) (by simp only [Bits.vmvs, sh]; try omega)
  generalize Bits.vmvs c d a b = bw at *
  rw [decode32_52 (by unfold fld; omega), decVpermx_5 (by unfold fld; omega)]
  rw [unused_of (by unfold fld; omega)]
  rw [hc, hd, ha, hb]
theorem vmvv (c : Bool) (d : VReg) (a b : SReg) : Statement (.vmvv c d a b) := fun ok _ => by
  show decode 4 (Bits.vmvv c d a b) = _
  obtain ⟨g0, g1, g2, hc, hd, ha, hb⟩ := shape32 (k0 := 180) (k1 := 0) (k2 := 6) c d a b (w := Bits.vmvv c d a b) (by decide) (by decide) (by decide) (by simp only [Bits.vmvv, sh]; try omega)
  generalize Bits.vmvv c d a b = bw at *
  rw [decode32_52 (by unfold fld; omega), decVpermx_6 (by unfold fld; omega)]
  rw [unused_of (by unfold fld; omega)]
  rw [hc, hd, ha, hb]
theorem viota (c : Bool) (p : PReg) (d : VReg) : Statement (.viota c p d) := fun ok _ => by
  show decode 4 (Bits.viota c p d) = _
  obtain ⟨g0, g1, hc, hp, hd⟩ := shape33 (k0 := 180) (k1 := 7) c p d (w := Bits.viota c p d) (by decide) (by decide) (by simp only [Bits.viota, sh]; try omega)
  generalize Bits.viota c p d = bw at *
  rw [decode32_52 (by unfold fld; omega), decVpermx_7 (by unfold fld; omega)]
  rw [unused_of (by unfold fld; omega)]
  rw [hc, hp, hd]
theorem vscan (c : Bool) (p : PReg) (d : VReg) (a : SReg) (b : VReg) : Statement (.vscan c p d a b) := fun ok _ => by
  show decode 4 (Bits.vscan c p d a b) = _
  obtain ⟨g0, g1, hc, hp, hd, ha, hb⟩ := shape22 (k0 := 180) (k1 := 8) c p d a b (w := Bits.vscan c p d a b) (by decide) (by decide) (by simp only [Bits.vscan, sh]; try omega)
  generalize Bits.vscan c p d a b = bw at *
  rw [decode32_52 (by unfold fld; omega), decVpermx_8 (by unfold fld; omega)]
  rw [hc, hp, hd, ha, hb]
theorem vcvt (c : Bool) (p : PReg) (d : VReg) (t : ECode) (b : VReg) (o q g : Bool) (r : Fin 4) : Statement (.vcvt c p d t b o q g r) := fun ok _ => by
  show decode 4 (Bits.vcvt c p d t b o q g r) = _
  obtain ⟨g0, hc, hp, hd, ht, hb, ho, hq, hg, hr⟩ := shape34 (k0 := 181) c p d t b o q g r (w := Bits.vcvt c p d t b o q g r) (by decide) (by simp only [Bits.vcvt, sh]; try omega)
  generalize Bits.vcvt c p d t b o q g r = bw at *
  have hv : (decide (t.val ≠ 15) && (o || decide (r.val = 0))) = true := ok; have h0 := fld_r2 hr; rw [Bool.and_eq_true] at hv
  rw [decode32_53 (by unfold fld; omega)]
  rw [listed_of (by rw [fld_r5 ht]; exact hv.1)]
  rw [ho, unused_of (by
    split
    · rfl
    · rename_i hn; have h2 := of_decide_eq_true ((Bool.or_eq_true_iff.mp hv.2).resolve_left hn); unfold fld at *; omega)]
  rw [hc, hp, hd, ht, hb, hq, hg, hr]
theorem vqadd (c : Bool) (p : PReg) (d a b : VReg) : Statement (.vqadd c p d a b) := fun ok _ => by
  show decode 4 (Bits.vqadd c p d a b) = _
  obtain ⟨g0, g1, hc, hp, hd, ha, hb⟩ := shape22 (k0 := 182) (k1 := 0) c p d a b (w := Bits.vqadd c p d a b) (by decide) (by decide) (by simp only [Bits.vqadd, sh]; try omega)
  generalize Bits.vqadd c p d a b = bw at *
  rw [decode32_54 (by unfold fld; omega), decVq_0 (by unfold fld; omega)]
  rw [hc, hp, hd, ha, hb]
theorem vqsub (c : Bool) (p : PReg) (d a b : VReg) : Statement (.vqsub c p d a b) := fun ok _ => by
  show decode 4 (Bits.vqsub c p d a b) = _
  obtain ⟨g0, g1, hc, hp, hd, ha, hb⟩ := shape22 (k0 := 182) (k1 := 1) c p d a b (w := Bits.vqsub c p d a b) (by decide) (by decide) (by simp only [Bits.vqsub, sh]; try omega)
  generalize Bits.vqsub c p d a b = bw at *
  rw [decode32_54 (by unfold fld; omega), decVq_1 (by unfold fld; omega)]
  rw [hc, hp, hd, ha, hb]
theorem vqmul (c : Bool) (p : PReg) (d a b : VReg) : Statement (.vqmul c p d a b) := fun ok _ => by
  show decode 4 (Bits.vqmul c p d a b) = _
  obtain ⟨g0, g1, hc, hp, hd, ha, hb⟩ := shape22 (k0 := 182) (k1 := 2) c p d a b (w := Bits.vqmul c p d a b) (by decide) (by decide) (by simp only [Bits.vqmul, sh]; try omega)
  generalize Bits.vqmul c p d a b = bw at *
  rw [decode32_54 (by unfold fld; omega), decVq_2 (by unfold fld; omega)]
  rw [hc, hp, hd, ha, hb]
theorem vqmac (c : Bool) (p : PReg) (d a b : VReg) : Statement (.vqmac c p d a b) := fun ok _ => by
  show decode 4 (Bits.vqmac c p d a b) = _
  obtain ⟨g0, g1, hc, hp, hd, ha, hb⟩ := shape22 (k0 := 182) (k1 := 3) c p d a b (w := Bits.vqmac c p d a b) (by decide) (by decide) (by simp only [Bits.vqmac, sh]; try omega)
  generalize Bits.vqmac c p d a b = bw at *
  rw [decode32_54 (by unfold fld; omega), decVq_3 (by unfold fld; omega)]
  rw [hc, hp, hd, ha, hb]
theorem vqdot (c : Bool) (p : PReg) (d a b : VReg) : Statement (.vqdot c p d a b) := fun ok _ => by
  show decode 4 (Bits.vqdot c p d a b) = _
  obtain ⟨g0, g1, hc, hp, hd, ha, hb⟩ := shape22 (k0 := 182) (k1 := 4) c p d a b (w := Bits.vqdot c p d a b) (by decide) (by decide) (by simp only [Bits.vqdot, sh]; try omega)
  generalize Bits.vqdot c p d a b = bw at *
  rw [decode32_54 (by unfold fld; omega), decVq_4 (by unfold fld; omega)]
  rw [hc, hp, hd, ha, hb]
theorem vqshr (c : Bool) (p : PReg) (d a b : VReg) : Statement (.vqshr c p d a b) := fun ok _ => by
  show decode 4 (Bits.vqshr c p d a b) = _
  obtain ⟨g0, g1, hc, hp, hd, ha, hb⟩ := shape22 (k0 := 182) (k1 := 5) c p d a b (w := Bits.vqshr c p d a b) (by decide) (by decide) (by simp only [Bits.vqshr, sh]; try omega)
  generalize Bits.vqshr c p d a b = bw at *
  rw [decode32_54 (by unfold fld; omega), decVq_5 (by unfold fld; omega)]
  rw [hc, hp, hd, ha, hb]
theorem vsclLd (c : Bool) (k : EReg) (a : SReg) : Statement (.vsclLd c k a) := fun ok _ => by
  show decode 4 (Bits.vsclLd c k a) = _
  obtain ⟨g0, g1, g2, hc, hk, ha⟩ := shape35 (k0 := 183) (k1 := 0) (k2 := 0) c k a (w := Bits.vsclLd c k a) (by decide) (by decide) (by decide) (by simp only [Bits.vsclLd, sh]; try omega)
  generalize Bits.vsclLd c k a = bw at *
  rw [decode32_55 (by unfold fld; omega), decVscl_0 (by unfold fld; omega)]
  rw [unused_of (by unfold fld; omega)]
  rw [hc, hk, ha]
theorem vsclSt (c : Bool) (k : EReg) (a : SReg) : Statement (.vsclSt c k a) := fun ok _ => by
  show decode 4 (Bits.vsclSt c k a) = _
  obtain ⟨g0, g1, g2, hc, hk, ha⟩ := shape35 (k0 := 183) (k1 := 0) (k2 := 1) c k a (w := Bits.vsclSt c k a) (by decide) (by decide) (by decide) (by simp only [Bits.vsclSt, sh]; try omega)
  generalize Bits.vsclSt c k a = bw at *
  rw [decode32_55 (by unfold fld; omega), decVscl_1 (by unfold fld; omega)]
  rw [unused_of (by unfold fld; omega)]
  rw [hc, hk, ha]
theorem vsclFit (c : Bool) (p : PReg) (k : EReg) (b : VReg) : Statement (.vsclFit c p k b) := fun ok _ => by
  show decode 4 (Bits.vsclFit c p k b) = _
  obtain ⟨g0, g1, g2, g3, hc, hp, hk, hb⟩ := shape36 (k0 := 183) (k1 := 0) (k2 := 0) (k3 := 2) c p k b (w := Bits.vsclFit c p k b) (by decide) (by decide) (by decide) (by decide) (by simp only [Bits.vsclFit, sh]; try omega)
  generalize Bits.vsclFit c p k b = bw at *
  rw [decode32_55 (by unfold fld; omega), decVscl_2 (by unfold fld; omega)]
  rw [unused_of (by unfold fld; omega)]
  rw [hc, hp, hk, hb]
theorem vsclMov (c : Bool) (k j : EReg) : Statement (.vsclMov c k j) := fun ok _ => by
  show decode 4 (Bits.vsclMov c k j) = _
  obtain ⟨g0, g1, g2, g3, hc, hk, hj⟩ := shape37 (k0 := 183) (k1 := 0) (k2 := 0) (k3 := 3) c k j (w := Bits.vsclMov c k j) (by decide) (by decide) (by decide) (by decide) (by simp only [Bits.vsclMov, sh]; try omega)
  generalize Bits.vsclMov c k j = bw at *
  rw [decode32_55 (by unfold fld; omega), decVscl_3 (by unfold fld; omega)]
  rw [unused_of (by unfold fld; omega)]
  rw [hc, hk, hj]
theorem vsett (d a b : SReg) : Statement (.vsett d a b) := fun ok _ => by
  show decode 4 (Bits.vsett d a b) = _
  obtain ⟨g0, g1, hd, ha, hb⟩ := shape0 (k0 := 184) (k1 := 0) d a b (w := Bits.vsett d a b) (by decide) (by decide) (by simp only [Bits.vsett, sh]; try omega)
  generalize Bits.vsett d a b = bw at *
  rw [decode32_56 (by unfold fld; omega), decVmisc_0 (by unfold fld; omega)]
  rw [hd, ha, hb]
theorem vsetb (d : SReg) (n : Bob) (b : SReg) : Statement (.vsetb d n b) := fun ok _ => by
  show decode 4 (Bits.vsetb d n b) = _
  obtain ⟨g0, g1, hd, hn, hb⟩ := shape0 (k0 := 184) (k1 := 1) d n b (w := Bits.vsetb d n b) (by decide) (by decide) (by simp only [Bits.vsetb, sh]; try omega)
  generalize Bits.vsetb d n b = bw at *
  rw [decode32_56 (by unfold fld; omega), decVmisc_1 (by unfold fld; omega)]
  rw [hd, hn, hb]
theorem vctxSv (a : SReg) : Statement (.vctxSv a) := fun ok _ => by
  show decode 4 (Bits.vctxSv a) = _
  obtain ⟨g0, g1, ha⟩ := shape8 (k0 := 5888) (k1 := 2) a (w := Bits.vctxSv a) (by decide) (by decide) (by simp only [Bits.vctxSv, sh]; try omega)
  generalize Bits.vctxSv a = bw at *
  rw [decode32_56 (by unfold fld; omega), decVmisc_2 (by unfold fld; omega)]
  rw [unused_of (by unfold fld; omega)]
  rw [ha]
theorem vctxRs (a : SReg) : Statement (.vctxRs a) := fun ok _ => by
  show decode 4 (Bits.vctxRs a) = _
  obtain ⟨g0, g1, ha⟩ := shape8 (k0 := 5888) (k1 := 3) a (w := Bits.vctxRs a) (by decide) (by decide) (by simp only [Bits.vctxRs, sh]; try omega)
  generalize Bits.vctxRs a = bw at *
  rw [decode32_56 (by unfold fld; omega), decVmisc_3 (by unfold fld; omega)]
  rw [unused_of (by unfold fld; omega)]
  rw [ha]
theorem matAtt (d a : SReg) : Statement (.matAtt d a) := fun ok _ => by
  show decode 4 (Bits.matAtt d a) = _
  obtain ⟨g0, g1, hd, ha⟩ := shape1 (k0 := 185) (k1 := 0) d a (w := Bits.matAtt d a) (by decide) (by decide) (by simp only [Bits.matAtt, sh]; try omega)
  generalize Bits.matAtt d a = bw at *
  rw [decode32_57 (by unfold fld; omega), decMat_0 (by unfold fld; omega)]
  rw [unused_of (by unfold fld; omega)]
  rw [hd, ha]
theorem matDet : Statement (.matDet) := fun ok _ => by
  show decode 4 (Bits.matDet) = _
  have g0 := shape12 (k0 := 3103784961) (w := Bits.matDet) (by decide) (by simp only [Bits.matDet]; try omega)
  generalize Bits.matDet = bw at *
  rw [decode32_57 (by unfold fld; omega), decMat_1 (by unfold fld; omega)]
  rw [unused_of (by unfold fld; omega)]
theorem matShp (d a : SReg) : Statement (.matShp d a) := fun ok _ => by
  show decode 4 (Bits.matShp d a) = _
  obtain ⟨g0, g1, hd, ha⟩ := shape1 (k0 := 185) (k1 := 2) d a (w := Bits.matShp d a) (by decide) (by decide) (by simp only [Bits.matShp, sh]; try omega)
  generalize Bits.matShp d a = bw at *
  rw [decode32_57 (by unfold fld; omega), decMat_2 (by unfold fld; omega)]
  rw [unused_of (by unfold fld; omega)]
  rw [hd, ha]
theorem cpyMs (n : Bob) (a b c : SReg) : Statement (.cpyMs n a b c) := fun ok _ => by
  show decode 4 (Bits.cpyMs n a b c) = _
  obtain ⟨g0, g1, hn, ha, hb, hc⟩ := shape38 (k0 := 186) (k1 := 0) n a b c (w := Bits.cpyMs n a b c) (by decide) (by decide) (by simp only [Bits.cpyMs, sh]; try omega)
  generalize Bits.cpyMs n a b c = bw at *
  rw [decode32_58 (by unfold fld; omega), decCpy_0 (by unfold fld; omega)]
  rw [hn, ha, hb, hc]
theorem cpySm (n : Bob) (a b c : SReg) : Statement (.cpySm n a b c) := fun ok _ => by
  show decode 4 (Bits.cpySm n a b c) = _
  obtain ⟨g0, g1, hn, ha, hb, hc⟩ := shape38 (k0 := 186) (k1 := 1) n a b c (w := Bits.cpySm n a b c) (by decide) (by decide) (by simp only [Bits.cpySm, sh]; try omega)
  generalize Bits.cpySm n a b c = bw at *
  rw [decode32_58 (by unfold fld; omega), decCpy_1 (by unfold fld; omega)]
  rw [hn, ha, hb, hc]
theorem cpyMr (n : Bob) (a b c : SReg) : Statement (.cpyMr n a b c) := fun ok _ => by
  show decode 4 (Bits.cpyMr n a b c) = _
  obtain ⟨g0, g1, hn, ha, hb, hc⟩ := shape38 (k0 := 186) (k1 := 2) n a b c (w := Bits.cpyMr n a b c) (by decide) (by decide) (by simp only [Bits.cpyMr, sh]; try omega)
  generalize Bits.cpyMr n a b c = bw at *
  rw [decode32_58 (by unfold fld; omega), decCpy_2 (by unfold fld; omega)]
  rw [hn, ha, hb, hc]
theorem cpyRm (n : Bob) (a b c : SReg) : Statement (.cpyRm n a b c) := fun ok _ => by
  show decode 4 (Bits.cpyRm n a b c) = _
  obtain ⟨g0, g1, hn, ha, hb, hc⟩ := shape38 (k0 := 186) (k1 := 3) n a b c (w := Bits.cpyRm n a b c) (by decide) (by decide) (by simp only [Bits.cpyRm, sh]; try omega)
  generalize Bits.cpyRm n a b c = bw at *
  rw [decode32_58 (by unfold fld; omega), decCpy_3 (by unfold fld; omega)]
  rw [hn, ha, hb, hc]
theorem cpyRr (n : Bob) (a b c : SReg) : Statement (.cpyRr n a b c) := fun ok _ => by
  show decode 4 (Bits.cpyRr n a b c) = _
  obtain ⟨g0, g1, hn, ha, hb, hc⟩ := shape38 (k0 := 186) (k1 := 4) n a b c (w := Bits.cpyRr n a b c) (by decide) (by decide) (by simp only [Bits.cpyRr, sh]; try omega)
  generalize Bits.cpyRr n a b c = bw at *
  rw [decode32_58 (by unfold fld; omega), decCpy_4 (by unfold fld; omega)]
  rw [hn, ha, hb, hc]
theorem cpyMm (n : Bob) (a b c : SReg) : Statement (.cpyMm n a b c) := fun ok _ => by
  show decode 4 (Bits.cpyMm n a b c) = _
  obtain ⟨g0, g1, hn, ha, hb, hc⟩ := shape38 (k0 := 186) (k1 := 5) n a b c (w := Bits.cpyMm n a b c) (by decide) (by decide) (by simp only [Bits.cpyMm, sh]; try omega)
  generalize Bits.cpyMm n a b c = bw at *
  rw [decode32_58 (by unfold fld; omega), decCpy_5 (by unfold fld; omega)]
  rw [hn, ha, hb, hc]
theorem cpyGs (n : Bob) (a b c : SReg) : Statement (.cpyGs n a b c) := fun ok _ => by
  show decode 4 (Bits.cpyGs n a b c) = _
  obtain ⟨g0, g1, hn, ha, hb, hc⟩ := shape38 (k0 := 186) (k1 := 6) n a b c (w := Bits.cpyGs n a b c) (by decide) (by decide) (by simp only [Bits.cpyGs, sh]; try omega)
  generalize Bits.cpyGs n a b c = bw at *
  rw [decode32_58 (by unfold fld; omega), decCpy_6 (by unfold fld; omega)]
  rw [hn, ha, hb, hc]
theorem cpyLz (n : Bob) (a b c : SReg) : Statement (.cpyLz n a b c) := fun ok _ => by
  show decode 4 (Bits.cpyLz n a b c) = _
  obtain ⟨g0, g1, hn, ha, hb, hc⟩ := shape38 (k0 := 186) (k1 := 7) n a b c (w := Bits.cpyLz n a b c) (by decide) (by decide) (by simp only [Bits.cpyLz, sh]; try omega)
  generalize Bits.cpyLz n a b c = bw at *
  rw [decode32_58 (by unfold fld; omega), decCpy_7 (by unfold fld; omega)]
  rw [hn, ha, hb, hc]
theorem bwait (n : Bob) : Statement (.bwait n) := fun ok _ => by
  show decode 4 (Bits.bwait n) = _
  obtain ⟨g0, g1, hn⟩ := shape8 (k0 := 5984) (k1 := 0) n (w := Bits.bwait n) (by decide) (by decide) (by simp only [Bits.bwait, sh]; try omega)
  generalize Bits.bwait n = bw at *
  rw [decode32_59 (by unfold fld; omega), decBob_0 (by unfold fld; omega)]
  rw [unused_of (by unfold fld; omega)]
  rw [hn]
theorem bchk (d : PReg) (n : Bob) (b : SReg) : Statement (.bchk d n b) := fun ok _ => by
  show decode 4 (Bits.bchk d n b) = _
  obtain ⟨g0, g1, hd, hn, hb⟩ := shape39 (k0 := 748) (k1 := 1) d n b (w := Bits.bchk d n b) (by decide) (by decide) (by simp only [Bits.bchk, sh]; try omega)
  generalize Bits.bchk d n b = bw at *
  rw [decode32_59 (by unfold fld; omega), decBob_1 (by unfold fld; omega)]
  rw [unused_of (by unfold fld; omega)]
  rw [hd, hn, hb]
theorem brel (n : Bob) : Statement (.brel n) := fun ok _ => by
  show decode 4 (Bits.brel n) = _
  obtain ⟨g0, g1, hn⟩ := shape8 (k0 := 5984) (k1 := 2) n (w := Bits.brel n) (by decide) (by decide) (by simp only [Bits.brel, sh]; try omega)
  generalize Bits.brel n = bw at *
  rw [decode32_59 (by unfold fld; omega), decBob_2 (by unfold fld; omega)]
  rw [unused_of (by unfold fld; omega)]
  rw [hn]
theorem bstat (d : SReg) (n : Bob) (b : SReg) : Statement (.bstat d n b) := fun ok _ => by
  show decode 4 (Bits.bstat d n b) = _
  obtain ⟨g0, g1, hd, hn, hb⟩ := shape0 (k0 := 187) (k1 := 3) d n b (w := Bits.bstat d n b) (by decide) (by decide) (by simp only [Bits.bstat, sh]; try omega)
  generalize Bits.bstat d n b = bw at *
  rw [decode32_59 (by unfold fld; omega), decBob_3 (by unfold fld; omega)]
  rw [hd, hn, hb]
theorem lzOpen (d a b : SReg) : Statement (.lzOpen d a b) := fun ok _ => by
  show decode 4 (Bits.lzOpen d a b) = _
  obtain ⟨g0, g1, hd, ha, hb⟩ := shape0 (k0 := 188) (k1 := 0) d a b (w := Bits.lzOpen d a b) (by decide) (by decide) (by simp only [Bits.lzOpen, sh]; try omega)
  generalize Bits.lzOpen d a b = bw at *
  rw [decode32_60 (by unfold fld; omega), decLz_0 (by unfold fld; omega)]
  rw [hd, ha, hb]
theorem lzClose (a : SReg) : Statement (.lzClose a) := fun ok _ => by
  show decode 4 (Bits.lzClose a) = _
  obtain ⟨g0, g1, ha⟩ := shape8 (k0 := 6016) (k1 := 1) a (w := Bits.lzClose a) (by decide) (by decide) (by simp only [Bits.lzClose, sh]; try omega)
  generalize Bits.lzClose a = bw at *
  rw [decode32_60 (by unfold fld; omega), decLz_1 (by unfold fld; omega)]
  rw [unused_of (by unfold fld; omega)]
  rw [ha]
theorem lzResv (d a b : SReg) : Statement (.lzResv d a b) := fun ok _ => by
  show decode 4 (Bits.lzResv d a b) = _
  obtain ⟨g0, g1, hd, ha, hb⟩ := shape0 (k0 := 188) (k1 := 2) d a b (w := Bits.lzResv d a b) (by decide) (by decide) (by simp only [Bits.lzResv, sh]; try omega)
  generalize Bits.lzResv d a b = bw at *
  rw [decode32_60 (by unfold fld; omega), decLz_2 (by unfold fld; omega)]
  rw [hd, ha, hb]
theorem lzWait (d a : SReg) : Statement (.lzWait d a) := fun ok _ => by
  show decode 4 (Bits.lzWait d a) = _
  obtain ⟨g0, g1, hd, ha⟩ := shape1 (k0 := 188) (k1 := 3) d a (w := Bits.lzWait d a) (by decide) (by decide) (by simp only [Bits.lzWait, sh]; try omega)
  generalize Bits.lzWait d a = bw at *
  rw [decode32_60 (by unfold fld; omega), decLz_3 (by unfold fld; omega)]
  rw [unused_of (by unfold fld; omega)]
  rw [hd, ha]
theorem lzFree (a : SReg) : Statement (.lzFree a) := fun ok _ => by
  show decode 4 (Bits.lzFree a) = _
  obtain ⟨g0, g1, ha⟩ := shape8 (k0 := 6016) (k1 := 4) a (w := Bits.lzFree a) (by decide) (by decide) (by simp only [Bits.lzFree, sh]; try omega)
  generalize Bits.lzFree a = bw at *
  rw [decode32_60 (by unfold fld; omega), decLz_4 (by unfold fld; omega)]
  rw [unused_of (by unfold fld; omega)]
  rw [ha]
theorem lzStat (d a : SReg) : Statement (.lzStat d a) := fun ok _ => by
  show decode 4 (Bits.lzStat d a) = _
  obtain ⟨g0, g1, hd, ha⟩ := shape1 (k0 := 188) (k1 := 5) d a (w := Bits.lzStat d a) (by decide) (by decide) (by simp only [Bits.lzStat, sh]; try omega)
  generalize Bits.lzStat d a = bw at *
  rw [decode32_60 (by unfold fld; omega), decLz_5 (by unfold fld; omega)]
  rw [unused_of (by unfold fld; omega)]
  rw [hd, ha]
theorem ctrAdd (d a b : SReg) : Statement (.ctrAdd d a b) := fun ok _ => by
  show decode 4 (Bits.ctrAdd d a b) = _
  obtain ⟨g0, g1, hd, ha, hb⟩ := shape0 (k0 := 189) (k1 := 0) d a b (w := Bits.ctrAdd d a b) (by decide) (by decide) (by simp only [Bits.ctrAdd, sh]; try omega)
  generalize Bits.ctrAdd d a b = bw at *
  rw [decode32_61 (by unfold fld; omega), decEvt_0 (by unfold fld; omega)]
  rw [hd, ha, hb]
theorem ctrRd (d a : SReg) : Statement (.ctrRd d a) := fun ok _ => by
  show decode 4 (Bits.ctrRd d a) = _
  obtain ⟨g0, g1, hd, ha⟩ := shape1 (k0 := 189) (k1 := 1) d a (w := Bits.ctrRd d a) (by decide) (by decide) (by simp only [Bits.ctrRd, sh]; try omega)
  generalize Bits.ctrRd d a = bw at *
  rw [decode32_61 (by unfold fld; omega), decEvt_1 (by unfold fld; omega)]
  rw [unused_of (by unfold fld; omega)]
  rw [hd, ha]
theorem ctrSet (d a b : SReg) : Statement (.ctrSet d a b) := fun ok _ => by
  show decode 4 (Bits.ctrSet d a b) = _
  obtain ⟨g0, g1, hd, ha, hb⟩ := shape0 (k0 := 189) (k1 := 2) d a b (w := Bits.ctrSet d a b) (by decide) (by decide) (by simp only [Bits.ctrSet, sh]; try omega)
  generalize Bits.ctrSet d a b = bw at *
  rw [decode32_61 (by unfold fld; omega), decEvt_2 (by unfold fld; omega)]
  rw [hd, ha, hb]
theorem ctrWait (a b : SReg) : Statement (.ctrWait a b) := fun ok _ => by
  show decode 4 (Bits.ctrWait a b) = _
  obtain ⟨g0, g1, ha, hb⟩ := shape40 (k0 := 6048) (k1 := 3) a b (w := Bits.ctrWait a b) (by decide) (by decide) (by simp only [Bits.ctrWait, sh]; try omega)
  generalize Bits.ctrWait a b = bw at *
  rw [decode32_61 (by unfold fld; omega), decEvt_3 (by unfold fld; omega)]
  rw [unused_of (by unfold fld; omega)]
  rw [ha, hb]
theorem trdlArm (d a b : SReg) : Statement (.trdlArm d a b) := fun ok _ => by
  show decode 4 (Bits.trdlArm d a b) = _
  obtain ⟨g0, g1, hd, ha, hb⟩ := shape0 (k0 := 189) (k1 := 4) d a b (w := Bits.trdlArm d a b) (by decide) (by decide) (by simp only [Bits.trdlArm, sh]; try omega)
  generalize Bits.trdlArm d a b = bw at *
  rw [decode32_61 (by unfold fld; omega), decEvt_4 (by unfold fld; omega)]
  rw [hd, ha, hb]
theorem trdlX (d a : SReg) : Statement (.trdlX d a) := fun ok _ => by
  show decode 4 (Bits.trdlX d a) = _
  obtain ⟨g0, g1, hd, ha⟩ := shape1 (k0 := 189) (k1 := 5) d a (w := Bits.trdlX d a) (by decide) (by decide) (by simp only [Bits.trdlX, sh]; try omega)
  generalize Bits.trdlX d a = bw at *
  rw [decode32_61 (by unfold fld; omega), decEvt_5 (by unfold fld; omega)]
  rw [unused_of (by unfold fld; omega)]
  rw [hd, ha]
theorem trdlStat (d a : SReg) : Statement (.trdlStat d a) := fun ok _ => by
  show decode 4 (Bits.trdlStat d a) = _
  obtain ⟨g0, g1, hd, ha⟩ := shape1 (k0 := 189) (k1 := 6) d a (w := Bits.trdlStat d a) (by decide) (by decide) (by simp only [Bits.trdlStat, sh]; try omega)
  generalize Bits.trdlStat d a = bw at *
  rw [decode32_61 (by unfold fld; omega), decEvt_6 (by unfold fld; omega)]
  rw [unused_of (by unfold fld; omega)]
  rw [hd, ha]
theorem eqPop (d b : SReg) : Statement (.eqPop d b) := fun ok _ => by
  show decode 4 (Bits.eqPop d b) = _
  obtain ⟨g0, g1, g2, hd, hb⟩ := shape41 (k0 := 189) (k1 := 0) (k2 := 7) d b (w := Bits.eqPop d b) (by decide) (by decide) (by decide) (by simp only [Bits.eqPop, sh]; try omega)
  generalize Bits.eqPop d b = bw at *
  rw [decode32_61 (by unfold fld; omega), decEvt_7 (by unfold fld; omega)]
  rw [unused_of (by unfold fld; omega)]
  rw [hd, hb]
theorem eqCnt (d b : SReg) : Statement (.eqCnt d b) := fun ok _ => by
  show decode 4 (Bits.eqCnt d b) = _
  obtain ⟨g0, g1, g2, hd, hb⟩ := shape41 (k0 := 189) (k1 := 0) (k2 := 8) d b (w := Bits.eqCnt d b) (by decide) (by decide) (by decide) (by simp only [Bits.eqCnt, sh]; try omega)
  generalize Bits.eqCnt d b = bw at *
  rw [decode32_61 (by unfold fld; omega), decEvt_8 (by unfold fld; omega)]
  rw [unused_of (by unfold fld; omega)]
  rw [hd, hb]
theorem fabQuiet (d : SReg) : Statement (.fabQuiet d) := fun ok _ => by
  show decode 4 (Bits.fabQuiet d) = _
  obtain ⟨g0, g1, hd⟩ := shape13 (k0 := 189) (k1 := 9) d (w := Bits.fabQuiet d) (by decide) (by decide) (by simp only [Bits.fabQuiet, sh]; try omega)
  generalize Bits.fabQuiet d = bw at *
  rw [decode32_61 (by unfold fld; omega), decEvt_9 (by unfold fld; omega)]
  rw [unused_of (by unfold fld; omega)]
  rw [hd]
theorem ownSet (d a : SReg) : Statement (.ownSet d a) := fun ok _ => by
  show decode 4 (Bits.ownSet d a) = _
  obtain ⟨g0, g1, hd, ha⟩ := shape1 (k0 := 190) (k1 := 0) d a (w := Bits.ownSet d a) (by decide) (by decide) (by simp only [Bits.ownSet, sh]; try omega)
  generalize Bits.ownSet d a = bw at *
  rw [decode32_62 (by unfold fld; omega), decAcct_0 (by unfold fld; omega)]
  rw [unused_of (by unfold fld; omega)]
  rw [hd, ha]
theorem harmRd (d a b : SReg) : Statement (.harmRd d a b) := fun ok _ => by
  show decode 4 (Bits.harmRd d a b) = _
  obtain ⟨g0, g1, hd, ha, hb⟩ := shape0 (k0 := 190) (k1 := 1) d a b (w := Bits.harmRd d a b) (by decide) (by decide) (by simp only [Bits.harmRd, sh]; try omega)
  generalize Bits.harmRd d a b = bw at *
  rw [decode32_62 (by unfold fld; omega), decAcct_1 (by unfold fld; omega)]
  rw [hd, ha, hb]
theorem dmxRd (d a b : SReg) : Statement (.dmxRd d a b) := fun ok _ => by
  show decode 4 (Bits.dmxRd d a b) = _
  obtain ⟨g0, g1, hd, ha, hb⟩ := shape0 (k0 := 190) (k1 := 2) d a b (w := Bits.dmxRd d a b) (by decide) (by decide) (by simp only [Bits.dmxRd, sh]; try omega)
  generalize Bits.dmxRd d a b = bw at *
  rw [decode32_62 (by unfold fld; omega), decAcct_2 (by unfold fld; omega)]
  rw [hd, ha, hb]
theorem dmxAgg (d a b : SReg) : Statement (.dmxAgg d a b) := fun ok _ => by
  show decode 4 (Bits.dmxAgg d a b) = _
  obtain ⟨g0, g1, hd, ha, hb⟩ := shape0 (k0 := 190) (k1 := 3) d a b (w := Bits.dmxAgg d a b) (by decide) (by decide) (by simp only [Bits.dmxAgg, sh]; try omega)
  generalize Bits.dmxAgg d a b = bw at *
  rw [decode32_62 (by unfold fld; omega), decAcct_3 (by unfold fld; omega)]
  rw [hd, ha, hb]
theorem eneRd (d a b : SReg) : Statement (.eneRd d a b) := fun ok _ => by
  show decode 4 (Bits.eneRd d a b) = _
  obtain ⟨g0, g1, hd, ha, hb⟩ := shape0 (k0 := 190) (k1 := 4) d a b (w := Bits.eneRd d a b) (by decide) (by decide) (by simp only [Bits.eneRd, sh]; try omega)
  generalize Bits.eneRd d a b = bw at *
  rw [decode32_62 (by unfold fld; omega), decAcct_4 (by unfold fld; omega)]
  rw [hd, ha, hb]
theorem mop (p : PReg) (tl : TReg) (va vb : VReg) (aty bty : ECode) (sc : Bool) (ea eb : EReg) : Statement (.mop p tl va vb aty bty sc ea eb) := fun ok _ => by
  show decode 8 (Bits.mop p tl va vb aty bty sc ea eb) = _
  obtain ⟨g0, g1, g2, hp, htl, hva, hvb, haty, hbty, hsc, hea, heb⟩ := shape42 (k0 := 384) (k1 := 0) (k2 := 0) p tl va vb aty bty sc ea eb (w := Bits.mop p tl va vb aty bty sc ea eb) (by decide) (by decide) (by decide) (by simp only [Bits.mop, sh]; try omega)
  generalize Bits.mop p tl va vb aty bty sc ea eb = bw at *
  have hv : (mopType aty.val && mopType bty.val && (sc || decide (ea.val = 0 ∧ eb.val = 0))) = true := ok; have h0 := fld_r3 hea; have h1 := fld_r3 heb; rw [Bool.and_eq_true] at hv
  rw [decode64_0 (by unfold fld; omega)]
  rw [listed_of (by rw [fld_r5 haty, fld_r5 hbty]; exact hv.1)]
  rw [hsc, unused_of (by
    split
    · unfold fld; omega
    · rename_i hn; have h2 := of_decide_eq_true ((Bool.or_eq_true_iff.mp hv.2).resolve_left hn); unfold fld at *; omega)]
  rw [hp, htl, hva, hvb, haty, hbty, hea, heb]
theorem mops (p : PReg) (tl : TReg) (va vb : VReg) (aty bty : ECode) : Statement (.mops p tl va vb aty bty) := fun ok _ => by
  show decode 8 (Bits.mops p tl va vb aty bty) = _
  obtain ⟨g0, g1, g2, hp, htl, hva, hvb, haty, hbty⟩ := shape43 (k0 := 386) (k1 := 0) (k2 := 0) p tl va vb aty bty (w := Bits.mops p tl va vb aty bty) (by decide) (by decide) (by decide) (by simp only [Bits.mops, sh]; try omega)
  generalize Bits.mops p tl va vb aty bty = bw at *
  rw [decode64_1 (by unfold fld; omega)]
  rw [listed_of (by rw [fld_r5 haty, fld_r5 hbty]; exact ok)]
  rw [unused_of (by unfold fld; omega)]
  rw [hp, htl, hva, hvb, haty, hbty]
theorem mzero (tl : TReg) : Statement (.mzero tl) := fun ok _ => by
  show decode 8 (Bits.mzero tl) = _
  obtain ⟨g0, g1, htl⟩ := shape44 (k0 := 3104) (k1 := 0) tl (w := Bits.mzero tl) (by decide) (by decide) (by simp only [Bits.mzero, sh]; try omega)
  generalize Bits.mzero tl = bw at *
  rw [decode64_2 (by unfold fld; omega)]
  rw [unused_of (by unfold fld; omega)]
  rw [htl]
theorem mtld (tl : TReg) (sa sb : SReg) : Statement (.mtld tl sa sb) := fun ok _ => by
  show decode 8 (Bits.mtld tl sa sb) = _
  obtain ⟨g0, g1, g2, g3, htl, hsa, hsb⟩ := shape45 (k0 := 3120) (k1 := 0) (k2 := 0) (k3 := 0) tl sa sb (w := Bits.mtld tl sa sb) (by decide) (by decide) (by decide) (by decide) (by simp only [Bits.mtld, sh]; try omega)
  generalize Bits.mtld tl sa sb = bw at *
  rw [decode64_3 (by unfold fld; omega)]
  rw [unused_of (by unfold fld; omega)]
  rw [htl, hsa, hsb]
theorem mtst (tl : TReg) (sa sb : SReg) : Statement (.mtst tl sa sb) := fun ok _ => by
  show decode 8 (Bits.mtst tl sa sb) = _
  obtain ⟨g0, g1, g2, g3, htl, hsa, hsb⟩ := shape45 (k0 := 3136) (k1 := 0) (k2 := 0) (k3 := 0) tl sa sb (w := Bits.mtst tl sa sb) (by decide) (by decide) (by decide) (by decide) (by simp only [Bits.mtst, sh]; try omega)
  generalize Bits.mtst tl sa sb = bw at *
  rw [decode64_4 (by unfold fld; omega)]
  rw [unused_of (by unfold fld; omega)]
  rw [htl, hsa, hsb]
theorem mrow (tl : TReg) (va : VReg) (sa : SReg) : Statement (.mrow tl va sa) := fun ok _ => by
  show decode 8 (Bits.mrow tl va sa) = _
  obtain ⟨g0, g1, g2, htl, hva, hsa⟩ := shape46 (k0 := 3152) (k1 := 0) (k2 := 0) tl va sa (w := Bits.mrow tl va sa) (by decide) (by decide) (by decide) (by simp only [Bits.mrow, sh]; try omega)
  generalize Bits.mrow tl va sa = bw at *
  rw [decode64_5 (by unfold fld; omega)]
  rw [unused_of (by unfold fld; omega)]
  rw [htl, hva, hsa]
theorem mwrow (tl : TReg) (va : VReg) (sa : SReg) : Statement (.mwrow tl va sa) := fun ok _ => by
  show decode 8 (Bits.mwrow tl va sa) = _
  obtain ⟨g0, g1, g2, htl, hva, hsa⟩ := shape46 (k0 := 3168) (k1 := 0) (k2 := 0) tl va sa (w := Bits.mwrow tl va sa) (by decide) (by decide) (by decide) (by simp only [Bits.mwrow, sh]; try omega)
  generalize Bits.mwrow tl va sa = bw at *
  rw [decode64_6 (by unfold fld; omega)]
  rw [unused_of (by unfold fld; omega)]
  rw [htl, hva, hsa]
theorem cAddi (r : SReg) (i : BitVec 6) : Statement (.cAddi r i) := fun ok _ => by
  show decode 2 (Bits.cAddi r i) = _
  obtain ⟨g0, hr, hi⟩ := shape47 (k0 := 0) r i (w := Bits.cAddi r i) (by decide) (by simp only [Bits.cAddi, sh]; try omega)
  generalize Bits.cAddi r i = bw at *
  have hv : r.val ≠ 0 := of_decide_eq_true ok
  rw [decode16_0 (by unfold fld; omega)]
  rw [writesRg_of (by rw [fld_r5 hr]; exact hv)]
  rw [hr, hi]
theorem cLi (r : SReg) (i : BitVec 6) : Statement (.cLi r i) := fun ok _ => by
  show decode 2 (Bits.cLi r i) = _
  obtain ⟨g0, hr, hi⟩ := shape47 (k0 := 1) r i (w := Bits.cLi r i) (by decide) (by simp only [Bits.cLi, sh]; try omega)
  generalize Bits.cLi r i = bw at *
  have hv : r.val ≠ 0 := of_decide_eq_true ok
  rw [decode16_1 (by unfold fld; omega)]
  rw [writesRg_of (by rw [fld_r5 hr]; exact hv)]
  rw [hr, hi]
theorem cMov (r s : SReg) : Statement (.cMov r s) := fun ok _ => by
  show decode 2 (Bits.cMov r s) = _
  obtain ⟨g0, g1, hr, hs⟩ := shape48 (k0 := 2) (k1 := 0) r s (w := Bits.cMov r s) (by decide) (by decide) (by simp only [Bits.cMov, sh]; try omega)
  generalize Bits.cMov r s = bw at *
  have hv : r.val ≠ 0 := of_decide_eq_true ok
  rw [decode16_2 (by unfold fld; omega)]
  rw [unused_of (by unfold fld; omega)]
  rw [writesRg_of (by rw [fld_r5 hr]; exact hv)]
  rw [hr, hs]
theorem cAdd (r s : SReg) : Statement (.cAdd r s) := fun ok _ => by
  show decode 2 (Bits.cAdd r s) = _
  obtain ⟨g0, g1, hr, hs⟩ := shape48 (k0 := 3) (k1 := 0) r s (w := Bits.cAdd r s) (by decide) (by decide) (by simp only [Bits.cAdd, sh]; try omega)
  generalize Bits.cAdd r s = bw at *
  have hv : r.val ≠ 0 := of_decide_eq_true ok
  rw [decode16_3 (by unfold fld; omega)]
  rw [unused_of (by unfold fld; omega)]
  rw [writesRg_of (by rw [fld_r5 hr]; exact hv)]
  rw [hr, hs]
theorem cSub (r s : SReg) : Statement (.cSub r s) := fun ok _ => by
  show decode 2 (Bits.cSub r s) = _
  obtain ⟨g0, g1, hr, hs⟩ := shape48 (k0 := 4) (k1 := 0) r s (w := Bits.cSub r s) (by decide) (by decide) (by simp only [Bits.cSub, sh]; try omega)
  generalize Bits.cSub r s = bw at *
  have hv : r.val ≠ 0 := of_decide_eq_true ok
  rw [decode16_4 (by unfold fld; omega)]
  rw [unused_of (by unfold fld; omega)]
  rw [writesRg_of (by rw [fld_r5 hr]; exact hv)]
  rw [hr, hs]
theorem cAnd (r s : SReg) : Statement (.cAnd r s) := fun ok _ => by
  show decode 2 (Bits.cAnd r s) = _
  obtain ⟨g0, g1, hr, hs⟩ := shape48 (k0 := 5) (k1 := 0) r s (w := Bits.cAnd r s) (by decide) (by decide) (by simp only [Bits.cAnd, sh]; try omega)
  generalize Bits.cAnd r s = bw at *
  have hv : r.val ≠ 0 := of_decide_eq_true ok
  rw [decode16_5 (by unfold fld; omega)]
  rw [unused_of (by unfold fld; omega)]
  rw [writesRg_of (by rw [fld_r5 hr]; exact hv)]
  rw [hr, hs]
theorem cShli (r : SReg) (n : BitVec 6) : Statement (.cShli r n) := fun ok _ => by
  show decode 2 (Bits.cShli r n) = _
  obtain ⟨g0, hr, hn⟩ := shape47 (k0 := 6) r n (w := Bits.cShli r n) (by decide) (by simp only [Bits.cShli, sh]; try omega)
  generalize Bits.cShli r n = bw at *
  have hv : r.val ≠ 0 := of_decide_eq_true ok
  rw [decode16_6 (by unfold fld; omega)]
  rw [writesRg_of (by rw [fld_r5 hr]; exact hv)]
  rw [hr, hn]
theorem cShri (r : SReg) (n : BitVec 6) : Statement (.cShri r n) := fun ok _ => by
  show decode 2 (Bits.cShri r n) = _
  obtain ⟨g0, hr, hn⟩ := shape47 (k0 := 7) r n (w := Bits.cShri r n) (by decide) (by simp only [Bits.cShri, sh]; try omega)
  generalize Bits.cShri r n = bw at *
  have hv : r.val ≠ 0 := of_decide_eq_true ok
  rw [decode16_7 (by unfold fld; omega)]
  rw [writesRg_of (by rw [fld_r5 hr]; exact hv)]
  rw [hr, hn]
theorem cLdsp (r : SReg) (o : BitVec 6) : Statement (.cLdsp r o) := fun ok _ => by
  show decode 2 (Bits.cLdsp r o) = _
  obtain ⟨g0, hr, ho⟩ := shape47 (k0 := 8) r o (w := Bits.cLdsp r o) (by decide) (by simp only [Bits.cLdsp, sh]; try omega)
  generalize Bits.cLdsp r o = bw at *
  have hv : r.val ≠ 0 := of_decide_eq_true ok
  rw [decode16_8 (by unfold fld; omega)]
  rw [writesRg_of (by rw [fld_r5 hr]; exact hv)]
  rw [hr, ho]
theorem cStsp (r : SReg) (o : BitVec 6) : Statement (.cStsp r o) := fun ok _ => by
  show decode 2 (Bits.cStsp r o) = _
  obtain ⟨g0, hr, ho⟩ := shape47 (k0 := 9) r o (w := Bits.cStsp r o) (by decide) (by simp only [Bits.cStsp, sh]; try omega)
  generalize Bits.cStsp r o = bw at *
  rw [decode16_9 (by unfold fld; omega)]
  rw [hr, ho]
theorem cBeqz (r : SReg) (o : BitVec 6) : Statement (.cBeqz r o) := fun ok _ => by
  show decode 2 (Bits.cBeqz r o) = _
  obtain ⟨g0, hr, ho⟩ := shape47 (k0 := 10) r o (w := Bits.cBeqz r o) (by decide) (by simp only [Bits.cBeqz, sh]; try omega)
  generalize Bits.cBeqz r o = bw at *
  rw [decode16_10 (by unfold fld; omega)]
  rw [hr, ho]
theorem cBnez (r : SReg) (o : BitVec 6) : Statement (.cBnez r o) := fun ok _ => by
  show decode 2 (Bits.cBnez r o) = _
  obtain ⟨g0, hr, ho⟩ := shape47 (k0 := 11) r o (w := Bits.cBnez r o) (by decide) (by simp only [Bits.cBnez, sh]; try omega)
  generalize Bits.cBnez r o = bw at *
  rw [decode16_11 (by unfold fld; omega)]
  rw [hr, ho]
theorem cJ (o : BitVec 11) : Statement (.cJ o) := fun ok _ => by
  show decode 2 (Bits.cJ o) = _
  obtain ⟨g0, ho⟩ := shape49 (k0 := 12) o (w := Bits.cJ o) (by decide) (by simp only [Bits.cJ]; try omega)
  generalize Bits.cJ o = bw at *
  rw [decode16_12 (by unfold fld; omega)]
  rw [ho]
theorem cJr (r : SReg) : Statement (.cJr r) := fun ok _ => by
  show decode 2 (Bits.cJr r) = _
  obtain ⟨g0, g1, hr⟩ := shape50 (k0 := 13) (k1 := 0) r (w := Bits.cJr r) (by decide) (by decide) (by simp only [Bits.cJr, sh]; try omega)
  generalize Bits.cJr r = bw at *
  rw [decode16_13 (by unfold fld; omega)]
  rw [unused_of (by unfold fld; omega)]
  rw [hr]
theorem cNop : Statement (.cNop) := fun ok _ => by
  show decode 2 (Bits.cNop) = _
  have g0 := shape51 (k0 := 28672) (w := Bits.cNop) (by decide) (by simp only [Bits.cNop]; try omega)
  generalize Bits.cNop = bw at *
  rw [decode16_14 (by unfold fld; omega)]
  rw [unused_of (by unfold fld; omega)]
theorem asyncTrapEntry : Statement (.asyncTrapEntry) := fun _ h => nomatch h
theorem launchWindowWrite (fn off len data : Nat) : Statement (.launchWindowWrite fn off len data) := fun _ h => nomatch h
theorem shuttlePlacement : Statement (.shuttlePlacement) := fun _ h => nomatch h
theorem shuttleEnd (core slot : Nat) : Statement (.shuttleEnd core slot) := fun _ h => nomatch h
theorem lendHandover (core slot : Nat) : Statement (.lendHandover core slot) := fun _ h => nomatch h
theorem preemption (core slot b : Nat) : Statement (.preemption core slot b) := fun _ h => nomatch h
theorem preemptAfterFailToFit (part key b : Nat) : Statement (.preemptAfterFailToFit part key b) := fun _ h => nomatch h
theorem convoyCloseTimeout (core : Nat) : Statement (.convoyCloseTimeout core) := fun _ h => nomatch h
theorem laneReturn (core : Nat) : Statement (.laneReturn core) := fun _ h => nomatch h
theorem executeClusterRequest (core slot : Nat) : Statement (.executeClusterRequest core slot) := fun _ h => nomatch h
theorem heddleReclaim (core : Nat) : Statement (.heddleReclaim core) := fun _ h => nomatch h
theorem convoyProbe (core slot : Nat) : Statement (.convoyProbe core slot) := fun _ h => nomatch h
theorem elementGroupCommit (core slot : Nat) : Statement (.elementGroupCommit core slot) := fun _ h => nomatch h
theorem loadDataReturn (core slot : Nat) : Statement (.loadDataReturn core slot) := fun _ h => nomatch h
theorem pageResponseS1 (fn v : Nat) : Statement (.pageResponseS1 fn v) := fun _ h => nomatch h
theorem pageResponseS2 (fn v : Nat) : Statement (.pageResponseS2 fn v) := fun _ h => nomatch h
theorem inv1Page (fn page : Nat) (glob : Bool) : Statement (.inv1Page fn page glob) := fun _ h => nomatch h
theorem inv1All (fn : Nat) (glob : Bool) : Statement (.inv1All fn glob) := fun _ h => nomatch h
theorem inv2Page (fn page : Nat) (glob : Bool) : Statement (.inv2Page fn page glob) := fun _ h => nomatch h
theorem inv2All (fn : Nat) (glob : Bool) : Statement (.inv2All fn glob) := fun _ h => nomatch h
theorem invalidationComplete (fn : Nat) : Statement (.invalidationComplete fn) := fun _ h => nomatch h
theorem migrationAccept (part gpage : Nat) : Statement (.migrationAccept part gpage) := fun _ h => nomatch h
theorem hostMigrationRequest (part gpage ppn : Nat) : Statement (.hostMigrationRequest part gpage ppn) := fun _ h => nomatch h
theorem migrationCopyComplete (part gpage : Nat) (ok : Bool) : Statement (.migrationCopyComplete part gpage ok) := fun _ h => nomatch h
theorem dampingExpiry (part gpage : Nat) : Statement (.dampingExpiry part gpage) := fun _ h => nomatch h
theorem cowGranuleCopy (part gpage : Nat) : Statement (.cowGranuleCopy part gpage) := fun _ h => nomatch h
theorem copyCommandStart (loom : Nat) : Statement (.copyCommandStart loom) := fun _ h => nomatch h
theorem copyDataArrival (loom key lo n : Nat) (rdata : List (BitVec 8)) (rpois : Nat) : Statement (.copyDataArrival loom key lo n rdata rpois) := fun _ h => nomatch h
theorem copyDone (loom key : Nat) : Statement (.copyDone loom key) := fun _ h => nomatch h
theorem copyFailed (loom key : Nat) (why : CopyEnd) (outcome : Nat) : Statement (.copyFailed loom key why outcome) := fun _ h => nomatch h
theorem lzResvArrival (src tenant name len : Nat) : Statement (.lzResvArrival src tenant name len) := fun _ h => nomatch h
theorem lzArrival (src tenant token len cpctl : Nat) (rdata : List (BitVec 8)) (rpois : Nat) : Statement (.lzArrival src tenant token len cpctl rdata rpois) := fun _ h => nomatch h
theorem lzCloseComplete (core zone : Nat) : Statement (.lzCloseComplete core zone) := fun _ h => nomatch h
theorem treadleComplete (idx : Nat) (ok : Bool) (cause outcome : Nat) : Statement (.treadleComplete idx ok cause outcome) := fun _ h => nomatch h
theorem remoteRequestArrival (src tenant op : Nat) (addrs : FarAddrs) (size : Nat) (data cmp rpois : List Nat) : Statement (.remoteRequestArrival src tenant op addrs size data cmp rpois) := fun _ h => nomatch h
theorem remoteReply (core slot key : Nat) (ok : Bool) (rdata : List (BitVec 8)) (poison cause outcome : Nat) : Statement (.remoteReply core slot key ok rdata poison cause outcome) := fun _ h => nomatch h
theorem remoteAck (core slot key : Nat) (ok : Bool) (cause outcome : Nat) : Statement (.remoteAck core slot key ok cause outcome) := fun _ h => nomatch h
theorem flitSend (load : FlitLoad) : Statement (.flitSend load) := fun _ h => nomatch h
theorem flitReceive (chip hdr body tag requests : Nat) (decodes auth : Bool) : Statement (.flitReceive chip hdr body tag requests decodes auth) := fun _ h => nomatch h
theorem negativeAcknowledgement (chip seq : Nat) : Statement (.negativeAcknowledgement chip seq) := fun _ h => nomatch h
theorem acknowledgementTimer (chip : Nat) : Statement (.acknowledgementTimer chip) := fun _ h => nomatch h
theorem retryTimeout (chip : Nat) : Statement (.retryTimeout chip) := fun _ h => nomatch h
theorem reestablishmentComplete (chip : Nat) : Statement (.reestablishmentComplete chip) := fun _ h => nomatch h
theorem reestablishmentTimeout (chip : Nat) : Statement (.reestablishmentTimeout chip) := fun _ h => nomatch h
theorem rekeyTimeout (chip : Nat) : Statement (.rekeyTimeout chip) := fun _ h => nomatch h
theorem linkFailure (chip : Nat) (erased : Erased) : Statement (.linkFailure chip erased) := fun _ h => nomatch h
theorem grantHashCompare (agree : Bool) : Statement (.grantHashCompare agree) := fun _ h => nomatch h
theorem resynchronisationComplete : Statement (.resynchronisationComplete) := fun _ h => nomatch h
theorem pathLost (chip : Nat) (peer : Bool) : Statement (.pathLost chip peer) := fun _ h => nomatch h
theorem pathKeyExchange (chip kslot : Nat) (rekey : Option Nat) : Statement (.pathKeyExchange chip kslot rekey) := fun _ h => nomatch h
theorem arbiterGrant (key : Nat) (arrivals : List Arrival) (out : OutputClock) : Statement (.arbiterGrant key arrivals out) := fun _ h => nomatch h
theorem settlementPeriodEnd : Statement (.settlementPeriodEnd) := fun _ h => nomatch h
theorem settlementBroadcast : Statement (.settlementBroadcast) := fun _ h => nomatch h
theorem matrixBlockOffer (loom : Nat) : Statement (.matrixBlockOffer loom) := fun _ h => nomatch h
theorem matrixReclaim (loom : Nat) : Statement (.matrixReclaim loom) := fun _ h => nomatch h
theorem tileOperationExecute (core : Nat) : Statement (.tileOperationExecute core) := fun _ h => nomatch h
theorem laneResidueMismatch (core slot lane k : Nat) (array : Bool) : Statement (.laneResidueMismatch core slot lane k array) := fun _ h => nomatch h
theorem uncorrectableError (kind a b : Nat) : Statement (.uncorrectableError kind a b) := fun _ h => nomatch h
theorem rollback (part : Nat) : Statement (.rollback part) := fun _ h => nomatch h
theorem checkpointPeriod (part : Nat) : Statement (.checkpointPeriod part) := fun _ h => nomatch h
theorem checkpointCapture (part : Nat) : Statement (.checkpointCapture part) := fun _ h => nomatch h
theorem functionLevelReset (fn : Nat) : Statement (.functionLevelReset fn) := fun _ h => nomatch h
theorem feqstatRead (fn : Nat) : Statement (.feqstatRead fn) := fun _ h => nomatch h
theorem modeWrite (fn v : Nat) : Statement (.modeWrite fn v) := fun _ h => nomatch h
theorem feataccWrite (fn : Nat) (hi : Bool) (v : Nat) : Statement (.feataccWrite fn hi v) := fun _ h => nomatch h
theorem watchWrite (fn idx v : Nat) : Statement (.watchWrite fn idx v) := fun _ h => nomatch h
theorem coalesceTimer (fn vec : Nat) : Statement (.coalesceTimer fn vec) := fun _ h => nomatch h
theorem msixUnmask (fn vec : Nat) : Statement (.msixUnmask fn vec) := fun _ h => nomatch h
theorem loomsWrite (part v : Nat) : Statement (.loomsWrite part v) := fun _ h => nomatch h
theorem pcgsWrite (part v : Nat) : Statement (.pcgsWrite part v) := fun _ h => nomatch h
theorem csliceWrite (part v : Nat) : Statement (.csliceWrite part v) := fun _ h => nomatch h
theorem tsliceWrite (part v : Nat) : Statement (.tsliceWrite part v) := fun _ h => nomatch h
theorem identWrite (part v : Nat) : Statement (.identWrite part v) := fun _ h => nomatch h
theorem release (part v : Nat) : Statement (.release part v) := fun _ h => nomatch h
theorem force (part v : Nat) : Statement (.force part v) := fun _ h => nomatch h
theorem releaseComplete (part : Nat) : Statement (.releaseComplete part) := fun _ h => nomatch h
theorem scrubGo (r : Nat) : Statement (.scrubGo r) := fun _ h => nomatch h
theorem scrubComplete (r : Nat) : Statement (.scrubComplete r) := fun _ h => nomatch h
theorem pwrcapWrite (v : Nat) : Statement (.pwrcapWrite v) := fun _ h => nomatch h
theorem pwrfloorWrite (v : Nat) : Statement (.pwrfloorWrite v) := fun _ h => nomatch h
theorem registerWrite (bar fn : Nat) (at_ : RegAccess) (v : Nat) : Statement (.registerWrite bar fn at_ v) := fun _ h => nomatch h
theorem hostCxlMemAccess (wr : Bool) (addr size data : Nat) : Statement (.hostCxlMemAccess wr addr size data) := fun _ h => nomatch h
theorem ident (v : Nat) : Statement (.ident v) := fun _ h => nomatch h
theorem quote (v : Nat) : Statement (.quote v) := fun _ h => nomatch h
theorem lease (v : Nat) : Statement (.lease v) := fun _ h => nomatch h
theorem keyload (v : Nat) : Statement (.keyload v) := fun _ h => nomatch h
theorem fwload (v : Nat) : Statement (.fwload v) := fun _ h => nomatch h
theorem domain (v : Nat) : Statement (.domain v) := fun _ h => nomatch h
theorem leaseExpiry : Statement (.leaseExpiry) := fun _ h => nomatch h
theorem budgetUpdate (caps : List Nat) : Statement (.budgetUpdate caps) := fun _ h => nomatch h
theorem sensorSample (therm cur : List Int) : Statement (.sensorSample therm cur) := fun _ h => nomatch h
theorem droopDetect (loom : Nat) : Statement (.droopDetect loom) := fun _ h => nomatch h
theorem droopCapExpiry (loom : Nat) : Statement (.droopCapExpiry loom) := fun _ h => nomatch h
theorem powerGood (okA okB : Bool) (verA verB : Nat) : Statement (.powerGood okA okB verA verB) := fun _ h => nomatch h
theorem deviceReset : Statement (.deviceReset) := fun _ h => nomatch h
theorem stage0Complete : Statement (.stage0Complete) := fun _ h => nomatch h
theorem loomPass (loom : Nat) : Statement (.loomPass loom) := fun _ h => nomatch h
theorem stage1Complete (coef : Nat) : Statement (.stage1Complete coef) := fun _ h => nomatch h
theorem rateBucketRefill (part : Nat) : Statement (.rateBucketRefill part) := fun _ h => nomatch h
theorem illegalEncoding (len bits reason : Nat) : Statement (.illegalEncoding len bits reason) := fun _ h => nomatch h
theorem mbcmdDiscarded (v : Nat) : Statement (.mbcmdDiscarded v) := fun _ h => nomatch h

end RoundTrip
end Sys2Proof.Laws
end

