-- ==== Sys2Proof/Laws/Vector.lean ====
section
/-!
SUPPORT. Sys2Proof/Laws/Vector.lean: how a vector member runs once it issues.
-/
namespace Sys2Proof.Machine

/-- An instruction passes its ILLEGAL checks: whatever its bits, the state is as it was. -/
theorem legal_ok {ibits : Nat} {rs : List (Option Nat)} {fs : List Nat} {s t : State} {x : Unit}
    (h : legal ibits rs fs s = .ok x t) (b : Nat) : legal b rs fs s = .ok () t := by
  unfold legal at h ⊢
  simp only [get_bind] at h ⊢
  generalize List.foldl _ none rs = r at h ⊢
  cases r with
  | some r => cases h
  | none =>
    generalize fs.find? _ = f at h ⊢
    cases f with
    | some f => cases h
    | none => exact h

/-- It passes them where none holds and its features are accepted. -/
theorem legal_pass {rs : List (Option Nat)} {fs : List Nat} {s : State} (hr : ∀ x ∈ rs, x = none)
    (hf : ∀ f ∈ fs, s.feature s.cur.place.part f = true) (b : Nat) : legal b rs fs s = .ok () s := by
  unfold legal
  simp only [get_bind]
  have h1 : ∀ f : Option Nat → Option Nat → Option Nat, f none none = none → rs.foldl f none = none := by
    intro f h0
    induction rs with
    | nil => rfl
    | cons a l ih => rw [List.foldl_cons, hr a (by simp), h0]; exact ih fun x hx => hr x (by simp [hx])
  have h2 : fs.find? (fun f => !s.feature s.cur.place.part f) = none := by
    rw [List.find?_eq_none]
    intro f h
    simp [hf f h]
  generalize h3 : List.foldl _ none rs = r
  obtain rfl : r = none := h3.symm.trans (h1 _ rfl)
  show (match fs.find? _ with
    | some f => noFeature b f
    | none => pure () : M Unit) s = _
  rw [h2]
  rfl

/-- Where it joins or opens a convoy without a limit in its way, its bits do not matter. -/
theorem beginMember_ok {ibits : Nat} {u : Uses} {s t : State} {x : Unit} (h : beginMember ibits u s = .ok x t) (b : Nat) :
    beginMember b u s = .ok () t := by
  unfold beginMember at h ⊢
  simp only [get_bind] at h ⊢
  have last : ∀ e : State, (match limitBroken e.cur.convoy u with
      | some r => (trap cCONVOY (w64 ibits) (w64 (r * 2 ^ 60 + e.cur.convoy.count)) : M Unit)
      | none => pure ()) e = .ok x t → (match limitBroken e.cur.convoy u with
      | some r => (trap cCONVOY (w64 b) (w64 (r * 2 ^ 60 + e.cur.convoy.count)) : M Unit)
      | none => pure ()) e = .ok () t := by
    intro e h
    cases hl : limitBroken e.cur.convoy u with
    | some r => rw [hl] at h; cases h
    | none => rw [hl] at h; exact h
  by_cases hc : (u.c || !s.cur.convoy.isOpen) = true
  · rw [if_pos hc] at h ⊢
    cases he : endConvoy s with
    | ok y e =>
      rw [bind_ok he] at h ⊢
      exact last e h
    | error y e =>
      rw [bind_error he] at h
      cases h
  · rw [if_neg hc] at h ⊢
    exact last s h

theorem startMember_ok {ibits : Nat} {u : Uses} {rs : List (Option Nat)} {fs : List Nat} {s t : State} {x : Unit}
    (h : startMember ibits u rs fs s = .ok x t) (b : Nat) : startMember b u rs fs s = .ok () t := by
  unfold startMember at h ⊢
  cases h1 : legal ibits rs fs s with
  | error y e => rw [bind_error h1] at h; cases h
  | ok y e =>
    rw [bind_ok h1] at h
    rw [bind_ok (legal_ok h1 b)]
    cases h2 : beginMember ibits u e with
    | error y e => rw [bind_error h2] at h; cases h
    | ok y e' =>
      rw [bind_ok h2] at h
      rw [bind_ok (beginMember_ok h2 b)]
      exact h

/-- A member that has issued, and whose effect succeeds, is over. -/
theorem run_member {ibits : Nat} {u : Uses} {rs : List (Option Nat)} {fs : List Nat} {body : M Trace} {s s1 s2 : State}
    {tr : Trace} (h : startMember 0 u rs fs s = .ok () s1) (hb : body s1 = .ok tr s2) :
    run (member ibits u rs fs body) s = .next (endMember ibits u s1.cur tr s2) := by
  apply run_ok
  unfold member
  rw [bind_ok (startMember_ok h ibits)]
  simp only [get_bind]
  rw [bind_ok hb]
  rfl

end Sys2Proof.Machine
end

