-- ==== Sys2Proof/Laws/Waits.lean ====
section
/-!
SUPPORT. Sys2Proof/Laws/Waits.lean: what the shared waits of the meanings do where they let an instruction go on.
-/
namespace Sys2Proof.Machine

/-- A blocking wait (R38) closes the vector queue and asks for the lanes of the core to return. -/
theorem blockingWait_run (s : State) : blockingWait s = .ok () (wantReturn s.closed s.cur.place.core) := by
  have place : (closeQueue s s.cur.place.core s.cur.uid).cur.place = s.cur.place :=
    (closeQueue_only s s.cur.place.core s.cur.uid).get (fun s => s.cur.place) (fun _ _ _ => rfl)
  show EStateM.Result.ok () (wantReturn s.closed s.closed.cur.place.core) = _
  unfold State.closed; rw [place]

/-- With no posted request of the KINDs or of the earlier set outstanding, waiting for them ends at once. -/
theorem waitKinds_run {k a} {s : State} (h : s.awaiting s.cur k a = false) : waitKinds k a s = .ok () s := by
  unfold waitKinds; simp only [get_bind, h]; rfl
theorem waitPosted_run {k} {s : State} (h : s.awaiting s.cur (kindMask k) k = false) : waitPosted k s = .ok () s := waitKinds_run h
/-- No shuttle has a posted request: none is outstanding. -/
theorem awaiting_none {s : State} (h : s.cur.posted = []) (ho : ∀ sh ∈ s.others ++ s.away, sh.posted = []) (k a : Nat) :
    s.awaiting s.cur k a = false := by
  have : ∀ t, s.unacked t = false := fun t => by
    unfold State.unacked
    rw [List.any_eq_false]
    intro sh hs
    rcases List.mem_cons.1 hs with rfl | hs
    · simp [h]
    · simp [ho sh hs]
  simp [State.awaiting, h, this]

/-- With no tile operation of the shuttle in the matrix queue, waiting for them ends at once. -/
theorem waitTiles_run {s : State} (h : ((s.core s.cur.place.core).matQueue.contains s.cur.uid) = false) : waitTiles s = .ok () s := by
  unfold waitTiles; simp only [get_bind, h]; rfl

/-- Where no register is held, the interlock (R239) lets the instruction go on. -/
theorem interlock_run {s : State} {a b} (h : s.interlocked s.cur a b = false) : interlock a b s = .ok () s := by
  unfold interlock; simp only [get_bind, h]; rfl

end Sys2Proof.Machine
end

