-- ==== Sys2Proof/Machine/HostReads.lean ====
section
/-!
DEFINITION. Sys2Proof/Machine/HostReads.lean: what the host reads in BAR 0 of a function (Tables 21-2 and 24-3) and in BAR 2
of the physical function (Tables 21-4, 21-6, 22-4, 23-1 and 24-2, R383). A read changes nothing, but for FEQSTAT, whose read
is the event FEQSTAT_READ. A write-only register reads as zero. Log entry 66, DEDUCED.
-/
namespace Sys2Proof.Machine

/-- The pending bits of the MSI-X vectors: messages that are due and masked (R349). -/
def State.msixPba (s : State) (fn : Nat) : Word :=
  w64 (((List.range 64).filter fun v => (s.func fn).masked v && s.vectorDue fn v).foldl (fun acc v => acc + 2 ^ v) 0)

/-- An 8-byte read in BAR 0 of a function (R346). -/
def State.readBar0 (s : State) (fn off : Nat) : Word :=
  let f := s.func fn
  if off % 8 ≠ 0 ∨ off < 0x1000 then 0
  else if 0x2000 ≤ off ∧ off < 0x2400 then tget 0 f.msix ((off - 0x2000) / 8)
  else if 0x2800 ≤ off ∧ off < 0x2A00 then tget 0 f.coal ((off - 0x2800) / 8)
  else if 0x2A00 ≤ off ∧ off < 0x2B00 then tget 0 f.watch ((off - 0x2A00) / 8)
  else match off with
    | 0x1000 => f.feqBase
    | 0x1008 => w64 f.feqHead
    | 0x1010 => w64 (f.feqWrite + f.feqLost * 2 ^ 32)
    | 0x1018 => f.prqBase
    | 0x1020 => w64 f.prqHead
    | 0x1030 => f.s1root
    | 0x1040 => if f.invPending.isEmpty then 0 else 1
    | 0x1048 => f.mode
    | 0x1050 => s.featAdv fn
    | 0x1060 => f.featLo
    | 0x1068 => f.featHi
    | 0x2400 => s.msixPba fn
    | _ => 0

/-- A read in a partition block (Tables 21-4 and 22-4); the system set's has RATE, HBASE, CTXBASE and CTXCNT alone. -/
def State.readBlock (s : State) (n off : Nat) : Word :=
  let p := s.part n
  match off with
  | 0x030 => w64 (p.rate + p.bucket * 2 ^ 32)
  | 0x038 => p.hbase
  | 0x040 => p.ctxBase
  | 0x048 => w64 p.ctxCount
  | _ =>
    if n = 16 then 0
    else match off with
      | 0x000 => w64 p.looms
      | 0x008 => w64 p.pcgs
      | 0x010 => w64 (p.cbase + p.ccount * 2 ^ 32)
      | 0x018 => w64 (p.tbase + p.tcount * 2 ^ 32)
      | 0x020 => w64 p.owners
      | 0x028 => w64 (p.tenant + p.remoteOwner * 2 ^ 16 + p.cap.toNat * 2 ^ 24)
      | 0x050 => p.s2root
      | 0x060 => p.prqBase
      | 0x068 => w64 p.prqHead
      | 0x078 => p.fpBase
      | 0x080 => w64 p.fpProd
      | 0x088 => w64 p.fpCons
      | 0x098 => w64 (p.qstat + p.zonesSeen * 2 ^ 8)
      | 0x0A0 => p.ckBase
      | 0x0A8 => w64 p.ckSize
      | 0x0B0 => w64 p.ckPer
      | _ => 0

/-- The codes of SCRUB.STATE (Table 21-6). -/
def scrubCode : ScrubSt → Nat
  | .clean => 0
  | .scrubbing => 1
  | .pending => 2
/-- SCRUBr (Table 21-6); there is no register 40 to 63. -/
def State.scrubWord (s : State) (r : Nat) : Word :=
  let x := s.scrub r
  if 40 ≤ r ∧ r < 64 then 0 else w64 (scrubCode x.st * 2 ^ 62 + x.last * 2 ^ 56 + x.prog)

/-- MBSTAT (R383). -/
def State.mbstat (s : State) : Word :=
  w64 (s.mailbox.st + s.mailbox.err * 2 ^ 8 + s.mailbox.outLen * 2 ^ 32)

/-- An 8-byte read in BAR 2, which does not answer before stage 0 has completed (R351, R379). Accounting values are those of
the latest broadcast (R325). -/
def State.readBar2 (s : State) (off : Nat) : Option Word :=
  if !s.boot.stage0 then none
  else some <|
    if off % 8 ≠ 0 then 0
    else if 0x8000 ≤ off ∧ off < 0x8200 then w64 (tget 0 s.acct.ent ((off - 0x8000) / 8))
    else if 0x9000 ≤ off ∧ off < 0x9380 then s.scrubWord ((off - 0x9000) / 8)
    else if off = 0xA000 then s.pwrstat
    else if off = 0xA008 then w64 s.power.cap
    else if off = 0xA010 then w64 s.power.floor
    else if off = 0xA018 then w64 s.power.ectot
    else if off = 0xA020 then w64 s.power.coef
    else if off = 0xB020 then s.bootstat
    else if off = 0xC008 then s.mbstat
    else if 0xD000 ≤ off ∧ off < 0xE000 then w64 (bits s.mailbox.data (8 * (off - 0xD000)) 64)
    else if 0x10000 ≤ off ∧ off < 0x20000 then s.readBlock ((off - 0x10000) / 0x1000) (off % 0x1000)
    else if 0x20000 ≤ off ∧ off < 0x28000 then w64 (s.cell ((off - 0x20000) / 512) ((off - 0x20000) / 8 % 64))
    else if 0x28000 ≤ off ∧ off < 0x28200 then BitVec.ofInt 64 (tget 0 s.acct.hSeen ((off - 0x28000) / 8))
    else if 0x28200 ≤ off ∧ off < 0x28A00 ∧ (off - 0x28200) / 8 % 4 < 3 then
      w64 (tget 0 s.acct.energySeen (4 * ((off - 0x28200) / 32) + (off - 0x28200) / 8 % 4) / 2 ^ 28)
    else if 0x30000 ≤ off ∧ off < 0x31000 then s.readBlock 16 (off % 0x1000)
    else 0

end Sys2Proof.Machine
end

