-- ==== Sys2Proof/Tests/Slice0.lean ====
section
/-!
SUPPORT. Sys2Proof/Tests/Slice0.lean: tests: terms that are not well-formed, words written out from Tables 3-1 to 3-8, steps
whose results the spec states, and for each statement with hypotheses a state and operands that meet them
(`test_hyp_<the statement>`).
-/
namespace Sys2Proof.Tests
open Sys2Proof Sys2Proof.Machine
set_option Elab.async false

/-! ## Helpers -/

/-- A run has ended well, and what it left satisfies `P`. -/
def holds {α : Type} (r : EStateM.Result Stop State α) (P : α → State → Bool) : Bool :=
  match r with
  | .ok a u => P a u
  | .error _ _ => false
theorem of_holds {α : Type} {r : EStateM.Result Stop State α} {P : α → State → Bool} (h : holds r P = true) :
    ∃ a u, r = .ok a u ∧ P a u = true := by
  cases r with
  | ok a u => exact ⟨a, u, rfl, h⟩
  | error e u => cases h
theorem of_holds1 {r : EStateM.Result Stop State Unit} {P : State → Bool} (h : holds r (fun _ => P) = true) :
    ∃ u, r = .ok () u ∧ P u = true := by
  obtain ⟨_, u, h1, h2⟩ := of_holds h
  exact ⟨u, h1, h2⟩
/-- The instruction answers a next state that satisfies `P`. -/
def after (r : Host.Outcome State Fault Refusal) (P : State → Bool) : Bool :=
  match r with
  | .next t => P t
  | _ => false

/-- A shuttle of the system set at privilege S: 32 vector and 8 scale registers of 512 bytes, VL 4, elements I32. -/
def sh0 : Shuttle :=
  { uid := 1, status := .ready, place := { vregs := 32, escl := 8 }, priv := .s, pc := 0x1000, vl := 4, vtype := 2 }
/-- A machine in stage 2 with every feature accepted, where that shuttle issues. -/
def s0 : State :=
  { cur := sh0, funcs := [(16, { featLo := 0x3FF1F })], boot := { powered := true, stage0 := true, stage := 2 },
    clock := 10 ^ 9, nextKey := 2 }
/-- The same with another issuing shuttle, with s[r] set, with registers set from s1 on. -/
def shuttle (f : Shuttle → Shuttle) : State := { s0 with cur := f sh0 }
def reg (r : SReg) (v : Word) (s : State) : State := s.wr r v
def regs (vs : List Word) : State := vs.zipIdx.foldl (fun s x => s.wr (Fin.ofNat 32 (x.2 + 1)) x.1) s0
/-- With an open convoy of one member, which has read s2 and written s3. -/
def spanned0 : State := shuttle fun sh => { sh with convoy := { isOpen := true, count := 1, spanRead := 4, spanWrite := 8 } }

/-! ## States and operands that meet the hypotheses of the statements -/

theorem test_endConvoy : ∃ u, endConvoy s0 = .ok () u ∧ u.closed.cur.regs = sh0.regs := ⟨_, rfl, rfl⟩
/-- With a convoy open too. -/
theorem test_endConvoy_open : ∃ u, endConvoy spanned0 = .ok () u ∧ (!u.cur.convoy.isOpen) = true :=
  of_holds1 (by decide +kernel)

theorem test_hyp_IntegerThreeRegisters :
    s0.breaksSpan (sMask 2 ||| sMask 4) (sMask 1) = false ∧ spanned0.breaksSpan (sMask 2 ||| sMask 4) (sMask 1) = false ∧
    spanned0.breaksSpan (sMask 2 ||| sMask 4) (sMask 2) = true ∧ spanned0.breaksSpan (sMask 3) (sMask 1) = true := by
  decide +kernel
theorem test_hyp_IntegerImmediates :
    spanned0.breaksSpan (sMask 2) (sMask 1) = false ∧ spanned0.breaksSpan 0 (sMask 1) = false ∧
    s0.breaksSpan (sMask 31 ||| sMask 2) (sMask 31) = false ∧ (0x3000 < 2 ^ 24 ∧ 0x3000 / 2 ^ 12 % 4 = 3) := by
  decide +kernel
theorem test_hyp_Jumps :
    (∃ u, endConvoy (regs [0x2000]) = .ok () u ∧ ((u.reg 1).toNat % 2 == 0) = true) ∧
    (∃ u, endConvoy (regs [0x2001]) = .ok () u ∧ ((u.reg 1).toNat % 2 == 1) = true) :=
  ⟨of_holds1 (by decide +kernel), of_holds1 (by decide +kernel)⟩
theorem test_hyp_TrapEntry :
    (s0.cur.convoy = {} ∧ s0.cur.estat.toNat / 8 % 2 = 0 ∧ s0.cur.estat.toNat < 256) ∧
    (let s := shuttle fun sh => { sh with estat := 8 }
     s.cur.convoy = {} ∧ s.cur.estat.toNat / 8 % 2 = 1 ∧
     let w := closeQueue { s with cur := { s.cur with vstart := if endsConvoy s.cur 3 0 then 0 else s.cur.vstart } } s.cur.place.core s.cur.uid
     ∃ s', saveContext false { w with cur := w.cur.settled } = .ok () s' ∧ true = true) :=
  ⟨by decide +kernel, by decide +kernel, by decide +kernel, of_holds1 (by decide +kernel)⟩
theorem test_hyp_ReturnFromTrap :
    (s0.cur.priv = .s ∧ ∃ u, endConvoy s0 = .ok () u ∧ (u.cur.priv == .s && u.cur.epc.toNat % 2 == 0) = true) ∧
    (shuttle fun sh => { sh with priv := .u }).cur.priv = .u ∧
    ∃ u, endConvoy (shuttle fun sh => { sh with epc := 0x1001 }) = .ok () u ∧ (u.cur.epc.toNat % 2 == 1) = true :=
  ⟨⟨rfl, of_holds1 (by decide +kernel)⟩, rfl, of_holds1 (by decide +kernel)⟩
theorem test_hyp_AsynchronousEntry : ([0x42, 0x82, 0xC2] : List Word).all (fun e =>
    let sh := { sh0 with estat := e }
    sh.status == .ready && sh.between && sh.stopping.isNone && sh.killed.isNone && decide (sh.estat.toNat < 256) && sh.estat.toNat / 2 % 2 == 1 &&
    sh.estat.toNat / 64 != 0) = true := by decide +kernel
theorem test_hyp_ControlRegisters :
    cregListed 0x106 = true ∧ cregReads .s 0x106 = true ∧ cregWrites .s 0x106 = true ∧
    (∃ u, endConvoy s0 = .ok () u ∧ (holds (waitTiles u) fun _ w => holds (writeCreg 0 0x106 (s0.reg 4) w) fun _ _ =>
      holds (writeCreg 0 0x106 (w.creg 0x106 ||| s0.reg 4) w) fun _ _ =>
      holds (writeCreg 0 0x106 (w.creg 0x106 &&& ~~~s0.reg 4) w) fun _ _ => true) = true) ∧
    cregReads .u 0x106 = false ∧ cregReads .s 0x003 = true ∧ cregWrites .s 0x003 = false ∧ cregListed 0x10C = false :=
  ⟨by decide +kernel, by decide +kernel, by decide +kernel, of_holds1 (by decide +kernel), by decide +kernel⟩
/-- A shuttle with elements left, of a launch that is a weave and of one that is not. -/
def strips (weave : Bool) (srem : Word) : State :=
  shuttle fun sh => { sh with srem := srem, place := { sh.place with weave := weave } }
/-- A shuttle of partition 2, which has checkpoints enabled and has taken its third capture, at a CKPT or waiting in one. -/
def checkpointed (st : Status) : State :=
  { shuttle (fun sh => { sh with status := st, place := { sh.place with part := 2 } }) with
    parts := [(2, { ckSize := 1000, ckSeq := 3, pcgs := 1 })], funcs := [(2, { featLo := 0x8 }), (16, { featLo := 0x3FF1F })] }
theorem test_hyp_SystemInstructions_ckpt :
    ([.waiting (.capture 3), .waiting (.capture 2), .ready] : List Status).all (fun st => holds (endConvoy (checkpointed st)) fun _ u =>
      u.cur.status == st && (u.part u.cur.place.part).ckSeq == 3 && u.ckEnabled u.cur.place.part) = true := by decide +kernel
/-- CKPT completes once its capture has been taken: it answers its number (R140). -/
theorem test_ckpt_answers : after (exec (.ckpt 5) (checkpointed (.waiting (.capture 3)))) (fun t => t.reg 5 == 3 && t.cur.pc == 0x1004) = true := by
  decide +kernel
theorem test_hyp_SystemInstructions :
    (∃ u, endConvoy s0 = .ok () u ∧ (!u.ckEnabled u.cur.place.part && u.cur.status == .ready && u.readyPeers.isEmpty) = true) ∧
    ([(false, 4), (false, 9), (true, 9)] : List (Bool × Word)).all (fun x => holds (endConvoy (strips x.1 x.2)) fun _ u =>
      u.closed.cur.place.weave == x.1 &&
        (u.closed.cur.srem.toNat - min u.closed.cur.vl.toNat u.closed.cur.srem.toNat != 0 || x.2 == 4)) = true :=
  ⟨of_holds1 (by decide +kernel), by decide +kernel⟩
/-- Two stores of the issuing shuttle, one of its scalar unit and one of its vector unit, that loads may still miss. -/
def stored0 : State :=
  let r : Store := { id := 1, t := 1, src := 1, agent := 1, core := some 0, key := 8, old := [(0, false)], vis := [], seen := [(1, 1)], atom := false, fetchable := false }
  { s0 with stores := [{ r with id := 2, t := 2, agent := 2, key := 16, seen := [(1, 2)] }, r], now := 2 }
theorem test_hyp_FenceOrders : ([0, 1, 2, 3, 4] : List (Fin 8)).all (fun sc => ([0, 1, 2, 3] : List (Fin 4)).all fun k =>
    (holds (endConvoy stored0) fun _ u =>
      let early := if k.val = 0 then 1 else if k.val = 3 then 23 else 6
      !u.awaiting u.cur (kindMask early) early) && after (exec (.fence sc k) stored0) fun t =>
      t.stores.any fun x => x.seenBy 1 (if k.val = 0 then 1 else if k.val = 3 then 3 else 2)) = true := by decide +kernel
/-- A launch record of one shuttle at an even entry, one vector register, all looms (Table 2-1). -/
def record : Nat := 0x2000 + 63 * 2 ^ 156 + 2 ^ 164 + 2 ^ 192 + (2 ^ 40 - 1) * 2 ^ 472
/-- A machine whose memory holds the record at 0x3000, s4 pointing there. -/
def launching (f : State → State) (r : Nat) : State :=
  f (reg 4 0x3000 { s0 with mem := writeLE [] 0x3000 r 64 })
def fullQueue (s : State) : State :=
  match parseLaunch s0 16 record with
  | some l => s.setPart 16 { s.part 16 with queue := (List.range 256).map fun k => { l with key := k + 10 } }
  | none => s
/-- The same where the shuttle has a child already. -/
def lentFull (s : State) : State :=
  let t := fullQueue s
  { t with cur := { t.cur with lend := parseLaunch s0 16 record } }
theorem test_hyp_Launches :
    (∃ u, endConvoy (launching id 0) = .ok () u ∧ (holds (loadRecord (u.reg 4) u) fun r w => (parseLaunch w w.cur.place.part r).isNone) = true) ∧
    (∃ u, endConvoy (launching id record) = .ok () u ∧ (holds (loadRecord (u.reg 4) u) fun r w =>
      match parseLaunch w w.cur.place.part r with
      | some l => !w.awaiting w.cur (kindMask 23) 23 && decide ((w.part l.part).inClass l.cls < 256)
      | none => false) = true) ∧
    (∃ u, endConvoy (launching lentFull record) = .ok () u ∧ (holds (loadRecord (u.reg 4) u) fun r w =>
      match parseLaunch w w.cur.place.part r with
      | some l => !w.awaiting w.cur (kindMask 23) 23 && decide (256 ≤ (w.part l.part).inClass l.cls) && (lendChild w l).1 == 1
      | none => false) = true) ∧
    (∃ u, endConvoy (launching fullQueue record) = .ok () u ∧ (holds (loadRecord (u.reg 4) u) fun r w =>
      match parseLaunch w w.cur.place.part r with
      | some l => !w.awaiting w.cur (kindMask 23) 23 && decide (256 ≤ (w.part l.part).inClass l.cls) && (lendChild w l).1 != 1
      | none => false) = true) :=
  ⟨of_holds1 (by decide +kernel), of_holds1 (by decide +kernel), of_holds1 (by decide +kernel), of_holds1 (by decide +kernel)⟩
/-- A clean record in the window. -/
theorem test_hyp_Launches_window : s0.cur.convoy = {} ∧ Cert.noPosted s0 ∧ Cert.inWindowAt s0 0x00FFFF0000000040 64 (2 ^ 52 + 64) ∧
    markedAny s0.poisoned (2 ^ 52 + 64) 64 = false ∧ s0.disputed (2 ^ 52 + 64) 64 = false := by
  simp only [Cert.inWindowAt, Cert.noPosted]
  decide +kernel
theorem test_hyp_ScalarFloatingPoint :
    s0.breaksSpan (sMask 2 ||| sMask 4) (sMask 1) = false ∧ spanned0.breaksSpan (sMask 2) (sMask 1) = false ∧
    spanned0.breaksSpan (sMask 2 ||| sMask 4 ||| sMask 5) (sMask 1) = false := by decide +kernel
/-- s4 holds an address of memory, s5 the base of the window, s6 an address that is not aligned. -/
def addressed : State := reg 6 0x3001 (reg 5 0x00FFFF0000000000 (reg 4 0x3000 (reg 2 0x3000 s0)))
/-- Aligned bytes at both ends of the local window of core 0. -/
theorem test_windowKey : ∀ n ∈ [1, 2, 4, 8, 64], Cert.windowKey s0 0x00FFFF0000000000 n (2 ^ 52) ∧
    Cert.windowKey s0 (0x00FFFF0000000000 + 2 ^ 22 - n) n (2 ^ 52 + 2 ^ 22 - n) := by
  simp only [Cert.windowKey, Cert.inWindowAt]
  decide +kernel
/-- s2 and s4 hold the window's base, with a small offset in reach of each instruction, s6 the last word, memory canonical. -/
def windowed0 : State := reg 6 0x00FFFF00003FFFF8 (reg 4 0x00FFFF0000000000 (reg 2 0x00FFFF0000000000 s0))
theorem test_hyp_window : windowed0.cur.convoy = {} ∧ Cert.noPosted windowed0 ∧ (∀ k n, windowed0.disputed k n = false) ∧
    windowed0.poisoned = s0.poisoned ∧ windowed0.cur.place = s0.cur.place ∧ windowed0.Canonical ∧
    (windowed0.ea 4 0).toNat = 0x00FFFF0000000000 ∧ (windowed0.reg 2 + 0).toNat = 0x00FFFF0000000000 ∧
    (windowed0.reg 6).toNat = 0x00FFFF0000000000 + 2 ^ 22 - 8 ∧ (windowed0.ea 6 4).toNat = 0x00FFFF0000000000 + 2 ^ 22 - 4 :=
  ⟨rfl, rfl, fun _ _ => rfl, rfl, rfl, ⟨rfl, rfl⟩, by decide +kernel⟩
theorem test_hyp_ScalarLoads :
    (∃ u, endConvoy addressed = .ok () u ∧ ((u.ea 4 8).toNat % widthBytes 3 == 0 &&
      (holds (translate (u.ea 4 8).toNat 0 u) fun p x => p.remote.isNone &&
        holds (loadPlace agScalar p (widthBytes 3) x) fun r _ => !r.pois)) = true) ∧
    (∃ u, endConvoy addressed = .ok () u ∧ (holds (translate (u.reg 2 + BitVec.ofNat 64 (8 * 63)).toNat 0 u) fun p x =>
      p.remote.isNone && holds (loadPlace agScalar p 8 x) fun r _ => !r.pois) = true) :=
  ⟨of_holds1 (by decide +kernel), of_holds1 (by decide +kernel)⟩
theorem test_hyp_ScalarStores :
    (∃ u, endConvoy addressed = .ok () u ∧ ((u.ea 4 8).toNat % 2 ^ 3 == 0 && (holds (translate (u.ea 4 8).toNat 1 u) fun p x =>
      p.remote.isNone && !x.awaiting x.cur (kindMask 23) 23 && Memory.wf x.mem && rising x.poisoned && !x.disputed p.key 8)) = true) ∧
    (∃ u, endConvoy addressed = .ok () u ∧ (holds (translate (u.reg 2 + BitVec.ofNat 64 0).toNat 1 u) fun p _ =>
      p.remote.isNone) = true) :=
  ⟨of_holds1 (by decide +kernel), of_holds1 (by decide +kernel)⟩
theorem test_hyp_ScalarAtomics :
    (∃ u, endConvoy addressed = .ok () u ∧ (holds (scalarAtomic (u.reg 4) 8 3 true 1 (toBytes 5 8) (fun y => some (amoResult 1 8 y 5)) u)
      fun _ _ => true) = true) ∧
    (∃ u, endConvoy addressed = .ok () u ∧ (holds (scalarAtomic (u.reg 4) 4 0 true 9 (toBytes 0 4 ++ toBytes 5 4)
      (fun y => if y = 0 then some 5 else none) u) fun _ _ => true) = true) ∧
    (holds (translate 0x3000 2 s0) fun p x => p.remote.isNone && !markedAny x.poisoned p.key 8 && Memory.wf x.mem && rising x.poisoned) = true :=
  ⟨of_holds1 (by decide +kernel), of_holds1 (by decide +kernel), by decide +kernel⟩
theorem test_hyp_ScalarAccessTraps :
    ∃ u, endConvoy addressed = .ok () u ∧ ((u.ea 6 0).toNat % widthBytes 1 != 0 && (u.ea 6 0).toNat % 2 ^ 1 != 0 && (u.reg 6).toNat % 4 != 0) = true :=
  of_holds1 (by decide +kernel)
/-- A member in an open convoy of `n` members with so many loads, stores and cross-element members. -/
def inConvoy (n l st x : Nat) : State :=
  shuttle fun sh => { sh with convoy := { isOpen := true, count := n, loads := l, stores := st, cross := x } }
/-- A shuttle whose VTYPE and VL are these, from VSTART on. -/
def vec (vtype vl : Word) (vstart : Word := 0) : State := shuttle fun sh => { sh with vtype := vtype, vl := vl, vstart := vstart }
/-- The member issues, with no fault met. -/
def issues (s : State) (u : Uses) (cs : List (Option Nat)) (fs : List Nat) (P : State → Bool := fun _ => true) : Bool :=
  holds (startMember 0 u cs fs s) fun _ s1 => s1.cur.convoy.fault.isNone && P s1

theorem test_hyp_MemberIssues :
    (∃ e, endConvoy s0 = .ok () e ∧ (limitBroken e.cur.convoy { c := true } == none && !e.queueTaken e.cur && !e.interlocked e.cur 6 1 &&
      s0.feature s0.cur.place.part 10) = true) ∧
    limitBroken (inConvoy 7 2 1 1).cur.convoy { c := false, rV := 6, wV := 1 } = none ∧
    limitBroken (inConvoy 8 2 1 1).cur.convoy { c := false, load := true } = some 1 ∧
    limitBroken (inConvoy 7 2 1 1).cur.convoy { c := false, load := true } = some 2 ∧
    limitBroken (inConvoy 7 2 1 1).cur.convoy { c := false, store := true } = some 3 ∧
    limitBroken (inConvoy 7 2 1 1).cur.convoy { c := false, cross := true } = some 4 :=
  ⟨of_holds1 (by decide +kernel), by decide +kernel⟩
/-- VADD_VV, VADD_VX and VADD_VI, VMADD_VV, VMOV and VMERGE issue, also from an element other than 0. -/
theorem test_hyp_VectorInteger : [vec 2 4, vec 2 128 3, vec 0xC3 512].all (fun s =>
    [(Opnd.v 16, false), (.x 5, false), (.i 31 true, true)].all fun q =>
      issues s (Cert.binUses s true 8 q.1 24 q.2) [typeBad s.cur vintType, groupBad s.cur 8 s.cur.group, q.1.bad s.cur,
        groupBad s.cur 24 s.cur.group] [] fun s1 => !s1.cur.sat && decide (s1.cur.vl.toNat ≤ s1.cur.vlmax)) = true ∧
    [vec 2 4, vec 0x0E 8].all (fun s => [Opnd.v 16, .x 5, .i 31 true].all fun q =>
      issues s (Cert.binUses s true 8 q 24 false) [typeBad s.cur moveType, groupBad s.cur 8 s.cur.group, q.bad s.cur,
        groupBad s.cur 24 s.cur.group] [] &&
      issues s { c := true, rV := q.vmask s.cur.group, wV := regMask 8 s.cur.group, sR := q.smask }
        [typeBad s.cur moveType, groupBad s.cur 8 s.cur.group, q.bad s.cur, none] []) = true := by
  constructor <;> decide +kernel
theorem test_hyp_VectorFloatingPoint :
    [vec 0x0B 4, vec 0x0E 64 1].all (fun s => [(Opnd.v 16, false), (.x 5, true)].all fun q =>
      issues s (Cert.binUses s true 8 q.1 24 q.2) [typeBad s.cur vfpType, groupBad s.cur 8 s.cur.group, q.1.bad s.cur,
        groupBad s.cur 24 s.cur.group] []) = true ∧
    [(vec 0x0E 4, vfpType), (vec 0x0D 4, isF32)].all (fun x =>
      issues x.1 { c := true, rV := regMask 24 1, wV := regMask 8 1 } [typeBad x.1.cur x.2, groupBad x.1.cur 8 1, none,
        groupBad x.1.cur 24 1] []) = true ∧
    (let s := vec 0x0D 4
     let e : ECode := 0x12
     issues s { c := true, rV := regMask 24 (grpOf s.cur.vlen e.val s.cur.vlmax), wV := regMask 8 s.cur.group }
      [unless2 (e.val != 0x0F), groupBad s.cur 8 s.cur.group, groupBad s.cur 24 (grpOf s.cur.vlen e.val s.cur.vlmax),
       scaleBad s.cur 24 e.val, scaleBad s.cur 8 s.cur.ety] [10, 17]) = true := by
  refine ⟨?_, ?_, ?_⟩ <;> decide +kernel
/-- A group of 4 clean elements, and one whose element 2 is poisoned. -/
def poisoned2 : State := shuttle fun sh => { sh with v := sh.v.set 24 { bits := 5, poison := 0xF00 } }
theorem test_hyp_VectorCompares :
    [Opnd.v 16, .x 5].all (fun x => [false, true].all fun cross =>
      let s := vec 2 4
      issues s { c := true, cross := cross, rV := x.vmask s.cur.group ||| regMask 24 s.cur.group, wP := 2, sR := x.smask }
        [typeBad s.cur (cmpType true), x.bad s.cur, groupBad s.cur 24 s.cur.group] [] fun s1 =>
          (s1.cur.below (s1.cur.active 0)).length == 4 && (s1.cur.present 0).all fun e =>
            !(x.get s1.cur s1.cur.ety e).2 && !s1.cur.elemPois 24 s1.cur.ety e) = true ∧
    issues poisoned2 { c := true, rV := regMask 16 1 ||| regMask 24 1, wP := 2 }
      [typeBad poisoned2.cur (cmpType false), groupBad poisoned2.cur 16 1, groupBad poisoned2.cur 24 1] [] (fun s1 =>
        !s1.cur.convoy.unsettled 2 && (s1.cur.active 0).find? (fun e => s1.cur.elemPois 16 s1.cur.ety e || s1.cur.elemPois 24 s1.cur.ety e) == some 2) = true := by
  constructor <;> decide +kernel
theorem test_hyp_PredicateLogic :
    issues (vec 2 4) { c := true, rP := 6, wP := 8 } [] [] = true ∧ issues (vec 2 4) { c := true, rP := 0, wP := 0 } [] [] = true ∧
    issues (vec 2 4) { c := true, cross := true, rP := 2, wP := 8 } [] [] = true ∧
    issues (vec 2 4) { c := true, cross := true, rP := 2, sW := 2 } [] [] = true := by
  refine ⟨?_, ?_, ?_, ?_⟩ <;> decide +kernel
theorem test_hyp_Reductions :
    [(vec 2 4, sumType), (vec 0x0D 4, sumType), (vec 7 4, isInt)].all (fun x =>
      issues x.1 { c := true, cross := true, rV := regMask 24 1, sR := sMask 4, sW := sMask 5 }
        [typeBad x.1.cur x.2, groupBad x.1.cur 24 1] [] fun s1 =>
          (s1.cur.present 0).length == 4 && (s1.cur.present 0).all fun e => !s1.cur.elemPois 24 s1.cur.ety e) = true ∧
    (isInt 2 = true ∧ 5 < 2 ^ ebits 2 ∧ ∀ x ∈ [some 1, none, some (2 ^ 32 - 1)], ∀ v, x = some v → v < 2 ^ ebits 2) := by
  constructor
  · decide +kernel
  · refine ⟨rfl, by decide, ?_⟩
    intro x hx v hv
    subst hv
    simp at hx
    rcases hx with rfl | rfl <;> decide
theorem test_hyp_Permutes :
    [([24], permType), ([16, 24], permType), ([], isInt), ([24], sumType)].all (fun (q : List VReg × (Nat → Bool)) =>
      let s := vec 2 4
      let rV := q.1.foldl (fun m r => m ||| regMask r.val s.cur.group) 0
      issues s { c := true, cross := true, rV := rV, wV := regMask 8 s.cur.group, sR := 16 }
        ([typeBad s.cur q.2, groupBad s.cur 8 s.cur.group, unless2 ((rV &&& regMask 8 s.cur.group) == 0)] ++
          q.1.map fun r => groupBad s.cur r.val s.cur.group) [] fun s1 =>
            (s1.cur.present 0).all fun e => !s1.cur.elemPois 16 s1.cur.ety e) = true ∧
    issues (vec 2 4) { c := true, cross := true, rV := regMask 24 1, sR := 16, sW := 2 }
      [typeBad (vec 2 4).cur permType, groupBad (vec 2 4).cur 24 1] [] (fun s1 =>
        decide ((s1.reg 4).toNat < s1.cur.vl.toNat) && !s1.cur.elemPois 24 2 (s1.reg 4).toNat) = true ∧
    issues (vec 2 4) { c := true, cross := true, wV := regMask 8 1, sR := 48 }
      [typeBad (vec 2 4).cur permType, groupBad (vec 2 4).cur 8 1] [] = true := by
  refine ⟨?_, ?_, ?_⟩ <;> decide +kernel
theorem test_hyp_NarrowFamily :
    (let s := vec 0x13 4
     let g := s.cur.group
     [false, true].all (fun acc => issues s { c := true, rV := regMask 16 g ||| regMask 24 g ||| (if acc then regMask 8 g else 0), wV := regMask 8 g }
       [typeBad s.cur isQ, groupBad s.cur 8 g, groupBad s.cur 16 g, groupBad s.cur 24 g] [10]) &&
     issues s { c := true, rV := regMask 16 g ||| regMask 24 g, wV := regMask 8 1 }
       [typeBad s.cur isQ, groupBad s.cur 8 1, groupBad s.cur 16 g, groupBad s.cur 24 g,
        unless2 (((regMask 16 g ||| regMask 24 g) &&& regMask 8 1) == 0)] [10] fun s1 =>
          decide (ceilDiv s1.cur.vstart.toNat 32 ≤ 0 ∧ 0 < ceilDiv s1.cur.vl.toNat 32 ∧ 0 < perOf s1.cur.vlen 0x02)) = true ∧
    (let s := vec 0x08 64
     let g := grpOf s.cur.vlen cF32 s.cur.vlmax
     issues s { c := true, cross := true, rV := regMask 24 g, wE := 4 }
       [unless2 (scalable s.cur.ety), scaleRegBad s.cur 2, groupBad s.cur 24 g] [11] &&
     issues s { c := true, rE := 2, wE := 4 } [scaleRegBad s.cur 2, scaleRegBad s.cur 1] [11] fun s1 =>
       !s1.cur.scaleBytes.isEmpty && s1.cur.scaleBytes.all fun i => decide (32 * i < 2 ^ 64)) = true := by
  constructor <;> decide +kernel

/-! The probes of a load and of a store find every element in this chip's storage. -/
/-- s4 is aligned, s5 the stride; v16 and v17 hold the indexes of VLEN elements. -/
def memory (vtype : Word) : State := reg 5 8 (reg 4 0x3000 (shuttle fun sh => { sh with vtype := vtype, v := sh.v.set 16 { bits := 0x30000000200000001000000000 } }))
/-- `Cert.allLocal`, as one Bool. -/
def localAll (s : State) (xs : List (Item × Probed)) : Bool :=
  !xs.isEmpty && xs.all fun x => match x.2 with
    | .good ps => ps.all fun q => q.2.remote.isNone && (!q.2.win || !s.cur.chained (q.1.va - windowBase) q.1.n) &&
        !s.disputed q.2.key q.1.n &&
        s.cur.convoy.buffer.all fun b => b.remote.isSome || decide (b.key + b.n ≤ q.2.key ∨ q.2.key + q.1.n ≤ b.key)
    | _ => false
/-- Every element of a store has been found, and holds no poison in group `d` (or, with `sc`, in scale register `d`). -/
def cleanAll (s : State) (sc : Bool) (d : Nat) (xs : List (Item × Probed)) : Bool :=
  !xs.isEmpty && xs.all fun x => match x.2 with
    | .good _ => !(if sc then s.cur.scalePois d x.1.i else s.cur.elemPois d s.cur.ety x.1.i)
    | _ => false
theorem test_hyp_VectorLoads :
    [(memory 2, Mode.unit, false), (memory 2, .unit, true), (memory 2, .strided 5, false), (memory 2, .indexed 16, false),
      (memory 0x13, .plane 0, false)].all (fun (x : State × Mode × Bool) =>
      let s := x.1
      issues s { c := true, load := true, rV := x.2.1.index s.cur, wV := regMask 8 s.cur.group, index := x.2.1.index s.cur,
                 sR := sMask 4 ||| x.2.1.smask }
        [unless2 (x.2.1.typeOk s.cur.ety), groupBad s.cur 8 s.cur.group, x.2.1.bad s.cur,
         unless2 ((regMask 8 s.cur.group &&& x.2.1.index s.cur) == 0)] x.2.1.feats fun s1 =>
          holds (probe 0 2 x.2.2 (candidates s1.cur true 0) (x.2.1.hint s1.cur)
            (probed s1.cur (candidates s1.cur true 0) 0 (x.2.1.item s1.cur (s1.reg 4).toNat)) s1) fun r s2 =>
              r.2.isNone && s2.cur.requests.isEmpty && s2.cur.convoy.fault.isNone &&
              localAll s2 (onlyActive s1.cur 0 r.1)) = true := by decide +kernel
theorem test_hyp_VectorLoads_scale :
    (let s := memory 8
     issues s { c := true, load := true, wE := 4, sR := sMask 4 } [scaleRegBad s.cur 2] [11] fun s1 =>
      holds (probe 0 2 false false (scaleHint s1.cur) (s1.cur.scaleBytes.map (scaleItem (s1.reg 4).toNat)) s1) fun r s2 =>
        r.2.isNone && s2.cur.requests.isEmpty && s2.cur.convoy.fault.isNone && localAll s2 r.1) = true := by decide +kernel
theorem test_hyp_VectorLoads_misaligned :
    (let s := reg 4 0x3001 (vec 2 4)
     issues s { c := true, load := true, wV := regMask 8 1, sR := sMask 4 } [none, groupBad s.cur 8 1, none, none] [] fun s1 =>
      !candidates s1.cur true 0 && s1.cur.active 0 == [0, 1, 2, 3] && (s1.reg 4).toNat % 4 != 0) = true := by decide +kernel
theorem test_hyp_VectorStores :
    [(memory 2, Mode.unit), (memory 2, .strided 5), (memory 2, .indexed 16), (memory 0x13, .plane 0)].all (fun (x : State × Mode) =>
      let s := x.1
      issues s { c := true, store := true, rV := x.2.index s.cur ||| regMask 8 s.cur.group, index := x.2.index s.cur,
                 sR := sMask 4 ||| x.2.smask }
        [unless2 (x.2.typeOk s.cur.ety), groupBad s.cur 8 s.cur.group, x.2.bad s.cur] x.2.feats fun s1 =>
          holds (probe 1 2 false (candidates s1.cur true 0) (x.2.hint s1.cur)
            (probed s1.cur (candidates s1.cur true 0) 0 (x.2.item s1.cur (s1.reg 4).toNat)) s1) fun r s2 =>
              r.2.isNone && s2.cur.convoy.fault.isNone && cleanAll s2 false 8 (onlyActive s1.cur 0 r.1)) = true ∧
    (let s := memory 8
     issues s { c := true, store := true, rE := 4, sR := sMask 4 } [scaleRegBad s.cur 2] [11] fun s1 =>
      holds (probe 1 2 false false (scaleHint s1.cur) (s1.cur.scaleBytes.map (scaleItem (s1.reg 4).toNat)) s1) fun r s2 =>
        r.2.isNone && s2.cur.convoy.fault.isNone && cleanAll s2 true 2 r.1) = true := by
  constructor <;> decide +kernel
theorem test_hyp_VectorAtomics :
    [false, true].all (fun ret =>
      let s := memory 6
      let m := Mode.indexed 16
      let dm := regMask 8 s.cur.group
      issues s { c := true, load := true, store := true, rV := m.index s.cur ||| dm, wV := if ret then dm else 0,
                 index := m.index s.cur, sR := sMask 4 }
        [unless2 (s.cur.ety == 0x02 || s.cur.ety == 0x03 || s.cur.ety == 0x06 || s.cur.ety == 0x07),
         groupBad s.cur 8 s.cur.group, m.bad s.cur, unless2 (!ret || (dm &&& m.index s.cur) == 0)] [] fun s1 =>
          decide (s1.cur.vl.toNat ≤ s1.cur.vlmax) && !s1.cur.convoy.isOpen &&
          holds (probe 2 6 false (candidates s1.cur true 0) (m.hint s1.cur)
            (probed s1.cur (candidates s1.cur true 0) 0 (m.item s1.cur (s1.reg 4).toNat)) s1) fun r s2 =>
              r.2.isNone && s2.cur.convoy.fault.isNone && s2.cur.requests.isEmpty && s2.cur.posted.isEmpty &&
              s2.cur.convoy.wants.isEmpty && s2.cur.again.isNone && Memory.wf s2.mem && rising s2.poisoned &&
              localAll s2 (onlyActive s1.cur 0 r.1) && (onlyActive s1.cur 0 r.1).all fun x => match x.2 with
                | .good [(_, ph)] => ph.key == 0x3000 + 16 * x.1.e && !markedAny s2.poisoned ph.key 4
                | _ => false) = true := by decide +kernel
theorem test_hyp_VectorAtomics_clean (e : Nat) : (memory 6).cur.elemPois 8 6 e = false := by
  have h (n : Nat) : ((memory 6).cur.vreg n).poison = 0 := by
    by_cases hn : n < 32
    · exact (by decide +kernel : ∀ i : Fin 32, ((memory 6).cur.vreg i).poison = 0) ⟨n, hn⟩
    · simp [Shuttle.vreg, Vector.getElem?_eq_none (by omega : 32 ≤ n)]
  unfold Shuttle.elemPois VecReg.pois
  rw [h]
  simp

theorem test_hyp_SetVectorLength :
    (∃ u, endConvoy s0 = .ok () u ∧ (vtypeBad s0 s0.cur.place.part (wordSet s0.cur.vtype 0 14 0x0D).toNat == none &&
      vtypeBad s0 s0.cur.place.part 0xC3 == none && !u.interlocked u.cur (2 ^ 32 - 1) (2 ^ 32 - 1) &&
      !(u.core u.cur.place.core).matQueue.contains u.cur.uid && u.cur.ctxptr.toNat % 256 == 0) = true) ∧
    ∃ u, endConvoy (reg 6 0x3001 s0) = .ok () u ∧ ((u.reg 6).toNat % 256 != 0) = true :=
  ⟨of_holds1 (by decide +kernel), of_holds1 (by decide +kernel)⟩
/-- Bobbin 7 in a state, with 64 bytes of which the first ones of a mask have been written. -/
def bobbin (st : BobSt) (written : Nat) : State := shuttle fun sh => { sh with
  bobbins := sh.bobbins.set 7 { st := st, form := 5, len := 64, written := written, dst := 64, fcause := 4 } }
theorem test_hyp_SetVectorLength_bobbin :
    [(BobSt.done, 2 ^ 64 - 1), (.busy, 0xFFFF), (.failed, 0), (.failed, 0xFF), (.idle, 0), (.done, 0)].all (fun x =>
      holds (endConvoy (bobbin x.1 x.2)) fun _ u =>
        u.cur.bobbins[(7 : Bob)].st == x.1 && (8 * (u.cur.bobbins[(7 : Bob)].prefixLen - (u.reg 4).toNat) / ebits u.cur.ety != 0) == (x.2 != 0)) =
      true := by decide +kernel
/-- A vector section in memory, clean, at a multiple of 256. -/
theorem test_hyp_SetVectorLength_context :
    (∃ u, endConvoy (reg 6 0x8000 s0) = .ok () u ∧
      (holds (saveVector .va true 2 (u.reg 6).toNat (u.cur.homeIsCtx == false && u.cur.homeBase == u.reg 6) u) fun _ _ => true) = true) := 
  of_holds1 (by decide +kernel)
/-- The local window's base in s6: a section there, of a shuttle whose registers fit. -/
theorem test_hyp_SetVectorLength_window :
    (let s := reg 6 0x00FFFF0000000000 s0
     s.cur.convoy = {} ∧ s.Canonical ∧ (s.core s.cur.place.core).matQueue.contains s.cur.uid = false ∧
     s.interlocked s.cur (2 ^ 32 - 1) (2 ^ 32 - 1) = false ∧ (s.reg 6).toNat % 256 = 0 ∧ 0x00FFFF0000000000 ≤ (s.reg 6).toNat ∧
     (s.reg 6).toNat + (256 + 47 * s.cur.vlen) ≤ 0x00FFFF0000000000 + 2 ^ 22 ∧ s.disputed (2 ^ 52) (256 + 47 * s.cur.vlen) = false ∧
     (∀ i, i < 40 → (s.cur.sreg i).extent ≤ s.cur.vlen) ∧ sectionBad s (readLE s.mem (2 ^ 52) 64) (readLE s.mem (2 ^ 52 + 64) 160) = none ∧
     markedAny s.poisoned (2 ^ 52) (256 + 47 * s.cur.vlen) = false) :=
  ⟨rfl, ⟨rfl, rfl⟩, by decide +kernel⟩
/-- An attached shuttle, of a shape of 128 rows and 8 columns of F64, in whose core no other attachment stands. -/
def matrix (attached : Bool) (q : Word) (acc : Nat) : State :=
  reg 4 q { s0 with cur := { sh0 with attached := attached, matReq := 128, mshape := shapeWord (8 * 2 ^ 8 + 4 * acc) },
                    cores := if attached then [(0, { attached := some 1 })] else [] }
theorem test_hyp_MatrixAttachment :
    s0.feature s0.cur.place.part 8 = true ∧
    ([0, 1152, 200] : List Word).all (fun q => holds (endConvoy (matrix false q 0)) fun _ u =>
      !(u.core u.cur.place.core).matQueue.contains u.cur.uid &&
      ((u.reg 4).toNat == 0 || decide (1024 < (u.reg 4).toNat) || (u.reg 4).toNat % 128 != 0)) = true ∧
    ([(128, false), (1024, false), (128, true)] : List (Nat × Bool)).all (fun q => holds (endConvoy
        (let s := matrix false (BitVec.ofNat 64 q.1) 0
         if q.2 then { s with cur := { s.cur with status := .waiting .matrixGrant } } else s)) fun _ u => (u.core 0).attached == none && (u.core 0).claim == none &&
      (let k1 := if u.cur.attached then u.core 0 else (u.core 0).zeroTiles
       let since := if u.cur.status == .waiting .matrixGrant then (u.core 0).matSince else u.clock
       let u1 := u.setCore u.cur.place.core { k1 with attached := some u.cur.uid, matReq := q.1, matSince := since }
       let w := arrangeRows { u1 with cur := { u.cur with attached := true, matReq := q.1 } } 0
       decide (min q.1 (w.fairShare 0) ≤ (w.loom 0).rows 0))) = true ∧
    (holds (endConvoy { matrix false 128 0 with cores := [(0, { attached := some 9 })] }) fun _ u =>
      (u.core 0).attached == some 9 && u.cur.lentFrom != some 9) = true ∧
    (holds (endConvoy (matrix true 128 0)) fun _ u => u.cur.attached && !(u.core 0).matQueue.contains u.cur.uid) = true ∧
    (holds (endConvoy (matrix false 128 0)) fun _ u => !u.cur.attached) = true ∧
    shapeBad (8 * 2 ^ 8) = false ∧ shapeBad (512 * 2 ^ 8 + 3) = false := by
  refine ⟨?_, ?_, ?_, ?_, ?_, ?_, ?_, ?_⟩ <;> decide +kernel
/-- The premises of `Cert.tileIssues`, as one Bool. -/
def tileOk (s : State) (tl : TReg) (cs : List (Option Nat)) (fs : List Nat) (rV wV : Nat) (P : State → Bool := fun _ => true) : Bool :=
  (tileBad s.cur tl :: cs).all (· == none) && (8 :: fs).all (s.feature s.cur.place.part) &&
    holds (endConvoy s) fun _ u => u.cur.attached && decide ((u.core u.cur.place.core).matQueue.length < 16) && !u.interlocked u.cur rV wV && P u
theorem tileOk_issues {s : State} {tl : TReg} {cs : List (Option Nat)} {fs : List Nat} {rV wV : Nat} {P : State → Bool}
    (h : tileOk s tl cs fs rV wV P = true) : ∃ u, Cert.tileIssues s u tl cs fs rV wV ∧ P u = true := by
  simp only [tileOk, Bool.and_eq_true, List.all_eq_true, beq_iff_eq] at h
  obtain ⟨⟨h1, h2⟩, h3⟩ := h
  obtain ⟨u, h4, h5⟩ := of_holds1 h3
  simp only [Bool.and_eq_true, decide_eq_true_eq, Bool.not_eq_true'] at h5
  exact ⟨u, ⟨h1, h2, h4, h5.1.1.1, h5.1.1.2, h5.1.2⟩, h5.2⟩
theorem test_hyp_TileOperations :
    (∃ u, Cert.tileIssues (matrix true 127 0) u 0 [] [] 0 0 ∧ (u.cur.mshape == (matrix true 127 0).cur.mshape) = true) ∧
    (∃ u, Cert.tileIssues (matrix true 127 0) u 3 [unless2 (decide (127 < shapeRows 0x800)), groupBad sh0 8 1] [] 0 (regMask 8 1) ∧ true = true) ∧
    (∃ u, Cert.tileIssues (matrix true 127 0) u 3 [unless2 (decide (127 < shapeRows 0x800)), groupBad sh0 8 1] [] (regMask 8 1) 0 ∧ true = true) :=
  ⟨tileOk_issues (by decide +kernel), tileOk_issues (by decide +kernel), tileOk_issues (by decide +kernel)⟩
theorem test_hyp_TileOperations_products :
    (∃ u, Cert.tileIssues (matrix true 0 2) u 0 [unless2 (mopPair 0x808 0 4 false), unless2 (decide (4 ≤ shapeRows 0x808)), none, none,
      groupBad sh0 8 1, groupBad sh0 16 1] [] (regMask 8 1 ||| regMask 16 1) 0 ∧ (shapeAcc u.cur.mshape.toNat == 2) = true) ∧
    (∃ u, Cert.tileIssues (matrix true 0 0) u 0 [unless2 (mopPair 0x800 8 0x12 true), unless2 (decide (4 ≤ shapeRows 0x800)), none, none,
      groupBad sh0 8 1, groupBad sh0 16 1] [10, 11] (regMask 8 1 ||| regMask 16 1) 0 ∧ (shapeAcc u.cur.mshape.toNat == 0) = true) ∧
    (∃ u, Cert.tileIssues (matrix true 0 1) u 0 [unless2 (shapeAcc 0x804 == 1), unless2 (decide (4 ≤ shapeRows 0x804)),
      groupBad sh0 8 1, groupBad sh0 16 1] [9] (regMask 8 1 ||| regMask 16 1) 0 ∧ (shapeAcc u.cur.mshape.toNat == 1) = true) ∧
    (tileBad (matrix false 0 0).cur 0 = none ∧ ∃ u, endConvoy (matrix false 0 0) = .ok () u ∧ (!u.cur.attached) = true) ∧
    (([(0, Machine.Num.num false 1 1, false), (5, .nan false, true)] : List (Nat × Machine.Num × Bool)).map (·.1)).Nodup :=
  ⟨tileOk_issues (by decide +kernel), tileOk_issues (by decide +kernel), tileOk_issues (by decide +kernel),
   ⟨by decide +kernel, of_holds1 (by decide +kernel)⟩, by decide⟩
/-- A tile of 128 rows and one column in memory. -/
def column : State := reg 5 4 (reg 4 0x3000 { matrix true 0 0 with cur := { sh0 with attached := true, mshape := shapeWord (2 ^ 8) } })
theorem test_hyp_TileMemory : [0, 1].all (fun kind => tileOk column 0 [] [] 0 0 fun u =>
    holds (tileProbe kind (accBytes u.cur.mshape.toNat) (tileAccesses u.cur.mshape.toNat (u.reg 4) (u.reg 5)) u) fun xs x =>
      Memory.wf x.mem && rising x.poisoned && xs.length == 128 &&
      xs.all fun y => !(u.tile 0).pois u.cur.mshape.toNat y.1.1 y.1.2.1 && !x.disputed y.2.key 4) = true ∧
    (tileOk (reg 4 0x00FFFF00003FFE00 column) 0 [] [] 0 0 fun u =>
      (tileAccesses u.cur.mshape.toNat (u.reg 4) (u.reg 5)).all fun y =>
        y.2.2 % accBytes u.cur.mshape.toNat == 0 && inWindow y.2.2) = true := by
  constructor <;> decide +kernel
theorem restore_any {r : Route} {a V : Nat} {u x y : State} {c e : Nat × Nat} (h1 : r.get a V 64 u = .ok c x)
    (h2 : r.get a (V + 64) 160 x = .ok e y) (h3 : sectionBad u c.1 e.1 = none) (bad : Nat × Nat → M Unit) :
    restoreVector r a V bad u = restoreVector r a V (fun _ => pure ()) u := by
  unfold restoreVector
  simp only [get_bind]
  rw [bind_ok h1, bind_ok h1, bind_ok h2, bind_ok h2]
  simp only [h3]
/-- A clean section that fits can be restored, whatever is done where one does not. -/
theorem test_hyp_SetVectorLength_restore :
    ∃ t, ∀ bad : Nat × Nat → M Unit, restoreVector .va 2 0x8000 bad s0 = .ok () t := by
  obtain ⟨c, x, h1, h⟩ := of_holds (r := Route.va.get 2 0x8000 64 s0)
    (P := fun c x => holds (Route.va.get 2 (0x8000 + 64) 160 x) fun e _ => (sectionBad s0 c.1 e.1).isNone) (by decide +kernel)
  obtain ⟨e, y, h2, h3⟩ := of_holds h
  obtain ⟨t, h4, -⟩ := of_holds1 (r := restoreVector .va 2 0x8000 (fun _ => pure ()) s0) (P := fun _ => true) (by decide +kernel)
  exact ⟨t, fun bad => (restore_any h1 h2 (by simpa using h3) bad).trans h4⟩

/-- Operands of a copy of each form, the destination first. -/
def copying (a b c : Word) (cp : Word := 0) (st : BobSt := .idle) : State :=
  reg 6 c (reg 5 b (reg 4 a { s0 with cur := { sh0 with cpctl := cp, bobbins := sh0.bobbins.set 7 { st := st } } }))
def copyOf (form : Nat) (s : State) : CopyIn :=
  { form := form, a := s.reg 4, b := s.reg 5, c := s.reg 6, fa := 4, fb := 5, fc := 6 }
def windowed : Word := 0x00FFFF0000000100
theorem test_hyp_CopyIssue :
    ([(0, windowed, 0x3000, 64, 0), (1, 0x3000, windowed, 64, 0), (2, 0, 0x3000, 32, 0), (3, 0x3000, 0, 32, 0), (4, 0x120, 0, 32, 0),
      (5, 0x8000, 0x3000, 0, 0x80), (5, 0x2000000, 0x3000, 16777216, 0), (6, windowed, 0x3000, 0, 0x3000000), (7, 0, 0x3000, 1, 0)] :
      List (Nat × Word × Word × Word × Word)).all (fun x =>
      let s := copying x.2.1 x.2.2.1 x.2.2.2.1 x.2.2.2.2
      let y := copyOf x.1 s
      (y.groupBad s.cur).isNone && s.feature s.cur.place.part 12 && s.feature s.cur.place.part 13 &&
      holds (endConvoy s) fun _ u => holds (buildCmd y 7 (some 7) u) fun _ w =>
        !w.interlocked w.cur (y.regs w.cur).1 (y.regs w.cur).2 && decide (w.copyQueued w.cur.place.core < 64)) = true ∧
    (let s := copying 0x8000 0x3000 16777217
     (copyOf 5 s).lenBad s.cur) = true ∧
    (let s := copying 0x8000 0x3001 16 0x203
     (copyOf 5 s).foldBad s.cur && !(copyOf 5 s).lenBad s.cur) = true ∧
    (let s := copying 0x3000 0x3010 64
     (copyOf 5 s).operandBad s.cur [] && !(copyOf 5 s).lenBad s.cur && !(copyOf 5 s).foldBad s.cur) = true ∧
    (let s := copying 0x8000 0x3000 64 0 .done
     let x := copyOf 5 s
     !x.lenBad s.cur && !x.foldBad s.cur && !x.operandBad s.cur [] &&
      (x.ranges s.cur []).all (fun r => !inHole r.1 || decide (r.1 + r.2 ≤ windowBase + spadBytes)) && !cpCen s.cur.cpctl) = true ∧
    (let s := copying 0x8000 0x3000 64 0x80
     cpCen s.cur.cpctl && s.counterHolder (cpCtr s.cur.cpctl) == s.cur.place.part) = true := by
  refine ⟨?_, ?_, ?_, ?_, ?_, ?_⟩ <;> decide +kernel
theorem test_hyp_BobbinInstructions : [BobSt.idle, .busy, .done, .failed].all (fun st =>
    (bobbin st 0xF).feature 16 12 && holds (endConvoy (bobbin st 0xF)) fun _ u => u.cur.bobbins[(7 : Bob)].st == st) = true := by
  decide +kernel
/-- A zone of two slots of 256 bytes that the shuttle owns, slot 1 in a state. -/
def zone0 (st : SlotSt) : Zone :=
  { core := 0, num := 3, gen := 2, base := 0x00FFFF0000000100, szlg := 8, cen := false, ctr := 0, uid := 1, part := 16, closing := false,
    slots := [{ st := .reserved, len := 8 }, { st := st, len := 8 }] }
def zoned (st : SlotSt) : State := reg 5 8 (reg 4 (zoneName 0 0 1 2 3) { s0 with zones := [zone0 st] })
theorem test_hyp_LandingZones :
    (holds (endConvoy (reg 5 0x801 (reg 4 windowed s0))) fun _ u => !u.openBad (u.reg 4) (u.reg 5) && !bit (u.reg 5).toNat 16) = true ∧
    (holds (endConvoy (reg 5 0x701 (reg 4 windowed s0))) fun _ u => u.openBad (u.reg 4) (u.reg 5)) = true ∧
    (let zs := (List.range 16).map fun i => { zone0 .free with num := i, base := 0x00FFFF0000000000 + 4096 + 512 * i }
     holds (endConvoy (reg 5 0x801 (reg 4 windowed { s0 with zones := zs }))) fun _ u => !u.openBad (u.reg 4) (u.reg 5)) = true ∧
    [SlotSt.free, .reserved, .complete, .torn].all (fun st => holds (endConvoy (zoned st)) fun _ u =>
      nameChip (u.reg 4) == u.chip && u.loomHolder (nameCore (u.reg 4) / 4) == u.cur.place.part &&
      holds (localZone (u.reg 4) u) fun z v => decide (v = u) && !u.landing z && nameSlot (u.reg 4) == 1 && (z.slot 1).st == st) = true ∧
    (let s := zoned .free
     let any : Word := zoneName 0 0 0 2 3 + 2 ^ 47
     s.zone any == some (zone0 .free) && nameAny any && (s.zone 0).isNone && (zoned .reserved).zone any == some (zone0 .reserved)) = true := by
  refine ⟨?_, ?_, ?_, ?_, ?_⟩ <;> decide +kernel
/-- Counter 9 holds 5; s4 names it, s5 is the other operand. -/
def counting (v : Word) : State := reg 5 v (reg 4 9 { s0 with counters := [(9, 5)] })
theorem test_hyp_CounterInstructions :
    ([5, 6] : List Word).all (fun v => holds (endConvoy (counting v)) fun _ u => holds (counterRef (u.reg 4) u) fun x w =>
      x == (9, none) && decide (w = u) && (counting v).reg 4 == u.reg 4 && (counting v).reg 5 == u.reg 5 && u.cur.posted.isEmpty && !u.awaiting u.cur (kindMask 23) 23 &&
      u.cur.status == .ready && decide ((u.reg 5).toNat ≤ (u.counter 9).toNat) == (v == 5)) = true ∧
    s0.feature s0.cur.place.part 15 = true ∧
    (holds (endConvoy (shuttle fun sh => { sh with eq := [(1, 2), (3, 4)], lost := 1 })) fun _ u => u.cur.eq == [(1, 2), (3, 4)]) = true := by
  refine ⟨?_, ?_, ?_⟩ <;> decide +kernel
/-- At the pc + 4 stands CTR.ADD s0, s5, s6 (0x3D in the major field), with s4 naming a counter. -/
def arming (full : Bool) : State :=
  let s := reg 6 1 (reg 5 9 (reg 4 9 { s0 with mem := writeLE (writeLE [] 0x1004 0xBD01 2) 0x1006 0x4C00 2 }))
  if full then s.setPart 0 { s.part 0 with tbase := 0, tcount := 16384 } else s
def treadle0 (st : TrdlSt) : Treadle :=
  { idx := 16383, part := 16, shid := 0, launchId := 0, st := st, ctr := 9, thr := 7, order := 1, fired := 2, uid := 1, owner := 63, core := 0,
    ctx := ⟨16, .s⟩, op := .ctrAdd 9 1, cause := 0, outcome := 0, parked := [], sent := false }
theorem test_hyp_TreadleInstructions :
    [false, true].all (fun full => (arming full).feature 16 14 && holds (fetchFrom ((arming full).cur.pc + 4) (arming full)) fun x f =>
      x.1 == 4 && f.feature 16 14 && !(capture (arming full) x.1 x.2).illegal (arming full) && holds (endConvoy f) fun _ u =>
        holds (localRef ((arming full).reg 4) u) fun c w => c == 9 && decide (w = u) &&
          holds ((capture (arming full) x.1 x.2).op u) fun op v => op.isSome && (v.freeTreadle v.cur.place.part).isNone == full &&
            !v.awaiting v.cur (kindMask 23) 23) = true ∧
    [TrdlSt.armed, .firing, .failed, .free].all (fun st =>
      let s := reg 4 16383 { s0 with treadles := if st = .free then [] else [treadle0 st] }
      holds (endConvoy s) fun _ u => decide ((u.reg 4).toNat < 16384) && u.treadleHolder (u.reg 4).toNat == u.cur.place.part &&
        (u.treadles.find? fun (t : Treadle) => t.idx == (u.reg 4).toNat) == (if st = .free then none else some (treadle0 st))) = true := by
  constructor <;> decide +kernel
/-- A shuttle of partition 2, which has the owners 5 and 6, at privilege S. -/
def accounts (a b : Word) : State :=
  reg 5 b (reg 4 a { s0 with cur := { sh0 with owner := 5, place := { sh0.place with part := 2 } }, parts := [(2, { owners := 0x60 })],
                             funcs := [(2, { featLo := 0x3FF1F })] })
theorem test_hyp_AccountingInstructions :
    ([63, 7, 6, 62 + 2 ^ 6] : List Word).all (fun v => holds (endConvoy (accounts v 0)) fun _ u =>
      decide ((u.reg 4).toNat ≤ 62) && u.ownerOf u.cur.place.part (u.reg 4).toNat == (v == 6) || v != 6) = true ∧
    ([(6, 0), (6, 4), (64, 0), (5 + 256 * 6, 0), (5 + 256 * 63, 0), (5 + 65536, 0), (7, 0)] : List (Word × Word)).all (fun x =>
      let s := accounts x.1 x.2
      s.cur.priv == .s && s.feature s.cur.place.part 16 && holds (endConvoy s) fun _ u => s.reg 4 == u.reg 4 && s.reg 5 == u.reg 5 &&
        (u.reg 5).toNat % 2 == 0 && u.mine 5 && u.mine 6 && !u.mine 7) = true := by
  constructor <;> decide +kernel

/-! ### Events -/

/-- A launch of one shuttle that adds 1 to counter 9 when done. -/
def launch0 : Launch :=
  { key := 5, part := 16, entry := 0x2000, args := 77, vllo := 0, vlhi := 1, spad := 0, weave := false, cls := 1, owner := 63, vregs := 4,
    escl := 0, nshut := 1, total := 0, disp := 0, strlm1 := 0, dep0 := 0, dep0t := 0, dep1 := 0, dep1t := 0, done := 9, dadd := 1,
    lmask := 2 ^ 40 - 1, launchId := 1, met0 := true, met1 := true, since := 0, placed := 0 }
/-- A machine with loom 0 passed, context areas, and that launch queued. -/
def queued (l : Launch) (cur : Shuttle) : State :=
  { s0 with cur := cur, looms := [(0, { passed := true })], parts := [(16, { ctxBase := 0x100000, ctxCount := 64, queue := [l] })] }
theorem test_hyp_ShuttleEvents :
    (decide (16 ≤ 16 ∧ 4032 < 4096 ∧ 4032 % 64 = 0) && !(s0.func 16).needScrub && s0.boot.stage == 2 && (parseLaunch s0 16 (0 % 2 ^ 512)).isNone &&
      [s0, fullQueue s0].all fun s => match parseLaunch s 16 (record % 2 ^ 512) with
        | some l => decide ((s.part 16).inClass l.cls < 256) == (s.parts.isEmpty)
        | none => false) = true ∧
    (let s := queued launch0 {}
     !(s.arb 7 0).accounted s.clock && (match s.placeable with
      | [c] => decide (c.what = .launch launch0)
      | _ => false) && !launch0.weave && (s.fit launch0).isSome && (s.freeArea 16).isSome) = true ∧
    (let s := { queued launch0 {} with arbs := [(arbKey 7 0, { clocks := 10 ^ 9 + 1 })] }
     (s.arb 7 0).accounted s.clock) = true ∧
    (let s := { s0 with cur := { sh0 with status := .ending } }
     (s.at 0 0).isSome && mayEnd (s.focus 1) (s.focus 1).cur && s.cur.lentFrom.isNone) = true ∧
    (let s := queued launch0 { sh0 with status := .waiting (.counter 9 1 false), lend := some launch0, ctxptr := 0x100000 }
     !s.cur.attached && decide (1 ≤ (s.counter 9 + BitVec.ofNat 64 launch0.dadd).toNat) && !copyHolds s s.cur &&
      !(s.core s.cur.place.core).matQueue.contains s.cur.uid && (s.freeArea 16).isSome &&
      ((List.range (launch0.vlhi - launch0.vllo + 1)).find? fun d => decide ((launch0.vregs + launch0.escl) * 512 * 2 ^ (launch0.vlhi - d) ≤
        s.cur.sliceBytes + s.cur.lendBytes + s.vrfFree s.cur.place.core)).isSome &&
      holds (saveContext false (closeQueue s s.cur.place.core s.cur.uid)) fun _ _ => true) = true ∧
    (let s := { s0 with cores := [(0, { matQueue := [1] })] }
     s.cur.live && s.cur.killed.isNone && !s.cur.convoy.isOpen && s.cur.again.isNone && s.cur.lentFrom.isNone && s.heldUp s.cur) = true ∧
    [inConvoy 1 0 0 0, queued launch0 { sh0 with ctxptr := 0x100000 }].all (fun s => s.cur.live && s.cur.status == .ready && s.cur.killed.isNone &&
      !s.heldUp s.cur && s.cur.requests.isEmpty && s.cur.again.isNone && s.cur.lentFrom.isNone && !s.cur.attached &&
      (s.cur.convoy.isOpen || holds (saveContext (!staysInPlace s s.cur) (closeQueue s s.cur.place.core s.cur.uid)) fun _ _ => true)) = true := by
  refine ⟨?_, ?_, ?_, ?_, ?_, ?_, ?_⟩ <;> decide +kernel
/-- A launch that needs the register file of a whole core, where each core of loom 0 holds a shuttle of a later class. -/
def crowded : State :=
  let l := { launch0 with cls := 0, vllo := 6, vlhi := 6, vregs := 32, lmask := 1 }
  let sh (k : Nat) : Shuttle := { sh0 with uid := k + 1, place := { sh0.place with core := k, cls := 3, vregs := 1, escl := 0 } }
  { queued l (sh 0) with others := [sh 1, sh 2, sh 3] }
theorem test_hyp_ShuttleEvents_crowded :
    (match crowded.starvedLaunch 16 5 with
      | some l => match crowded.victim l with
        | some sh => decide (crowded.at sh.place.core sh.place.slot = some sh)
        | none => false
      | none => false) = true := by decide +kernel
/-- Loom 0 with clusters and blocks by core. -/
def lanes (clusters blocks : Tab Nat) (cores : Tab Core) (cur : Shuttle := sh0) : State :=
  { s0 with cur := cur, looms := [(0, { clusters := clusters, blocks := blocks })], cores := cores }
/-- A core's request for `n` clusters. -/
def lane0 (n : Nat) (marked : Option Nat) : LaneReq := { n := n, owner := 63, since := 0, marked := marked }
theorem noRequest (clusters blocks : Tab Nat) (k : Core) (h : k.laneReq = none) (c : Nat) :
    ((lanes clusters blocks [(0, k)]).core (4 * (0 / 4) + c)).laneReq = none := by
  simp only [lanes, State.core, tget]
  split
  · exact h
  · rfl
theorem test_hyp_LaneEvents_queue :
    (let s := lanes [] [] [(0, { vqOwner := some 1, vqSince := 10 ^ 9 - 63 })]
     decide (s.clock < (s.core 0).vqSince + 64)) = true ∧
    (let s := lanes [] [] [(0, { vqOwner := some 1, vqSince := 10 ^ 9 - 64 })]
     decide ((s.core 0).vqSince + 64 ≤ s.clock) && !(s.core 0).laneReturn) = true ∧
    (let s := lanes [(0, 3)] [] [(0, { laneReturn := true })]
     (s.core 0).vqOwner.isNone && (s.core 0).laneReturn) = true ∧
    (let s := { inConvoy 1 0 0 0 with looms := [] }
     (s.at 0 0).isSome && (s.loom 0).held 0 == 0 && (s.focus 1).cur.convoy.isOpen && (s.core 0).laneReq.isNone) = true := by
  refine ⟨?_, ?_, ?_, ?_⟩ <;> decide +kernel
theorem test_hyp_LaneEvents_heddle :
    (let s := lanes [(0, 3)] [] [(2, { laneReq := some (lane0 2 none) })]
     (s.core 2).laneReq == some (lane0 2 none) && (s.loom 0).held 2 == 0 && !(s.loom 0).pool.isEmpty) = true ∧
    (let s := lanes [(0, 0xFFFF)] [] [(2, { laneReq := some (lane0 2 (some 0)) })]
     (s.core 2).laneReq == some (lane0 2 (some 0)) && (s.loom 0).held 0 != 0 && (s.loom 0).held 2 == 0 &&
      (List.range 4).all fun d => d == 2 || (s.core d).laneReq.isNone) = true := by
  constructor <;> decide +kernel
theorem test_hyp_LaneEvents_matrix :
    ([[], [1]] : List (List Nat)).all (fun q =>
      let s := lanes [] [(0, 1)] [(0, { attached := some 1, matReq := 256, matQueue := q })]
      s.attachedCores 0 == [0] && (s.loom 0).offers.head? == some 1 && decide ((s.loom 0).coming 0 < (s.core 0).matReq) &&
        ((s.core 0).attached.bind s.byUid).isSome && s.sweeping 0 == !q.isEmpty) = true ∧
    (let s := { s0 with looms := [(0, { blocks := [(0, 0x7F)], pend := [(7, 2)] })] }
     (s.loom 0).offers.isEmpty && (s.loom 0).pend == [(7, 2)] && (s.markedHolder 0).isNone &&
      decide (128 * popc (tget 0 (s.loom 0).blocks 2 ||| 2 ^ 7) 8 ≤ s.fairShare 0)) = true ∧
    (let s := { lanes [] [(0, 0xFF)] [(0, { attached := some 1, matReq := 1024 }), (2, { attached := some 2, matReq := 256 })] with
        others := [{ sh0 with uid := 2, place := { sh0.place with core := 2 } }] }
     let l := s.loom 0
     let F := s.fairShare 0
     l.offers.isEmpty && l.pend.isEmpty && s.deficits 0 == [2] && ((s.core 2).attached.bind s.byUid).isSome && decide (F < l.rows 0) &&
      (List.range 4).all (fun k => decide (l.rows k ≤ l.rows 0 ∧ (k < 0 → l.rows k < l.rows 0)))) = true ∧
    ((lanes [] [] [(0, { matQueue := [1, 1] })]).core 0).matQueue = [1, 1] := by
  refine ⟨?_, ?_, ?_, ?_⟩ <;> decide +kernel
/-- A request of a load that has been answered. -/
def request1 : Request :=
  { peer := 2, tenant := 0xFFF, owner := 63, tag := 63, sent := true, key := 4, op := .load, addrs := [(0x20000000, 8)], data := [], va := 0, reply := .data [1] 0 }
def buffered0 (e : Nat) : Buffered :=
  { elem := e, packet := 0, va := 0x3000, key := 0x3000 + 4 * e, remote := none, n := 4, v := 9, mask := 2 ^ 32 - 1, pois := false, yields := false, kind := 2, amo := none }
def posted0 (kind : Nat) : Posted :=
  { peer := 2, tenant := 0xFFF, owner := 63, tag := 63, sent := true, key := 4, kind := kind, op := .store, addr := 8, elems := [] }
/-- A full convoy that has read 7 where storage holds 0, or that has a store to make. -/
def full (reads : List LogRead) (serial : Bool) (posted : List Posted) : State :=
  let s := inConvoy 8 1 1 0
  { s with cur := { s.cur with posted := posted, convoy := { s.cur.convoy with reads := reads, serial := serial, buffer := [buffered0 0] } } }
theorem test_hyp_LaneEvents_waits :
    [Status.waiting (.page [(16, 3)] []), .waiting (.page [] [⟨2, 5, 0x50000, false, []⟩]), .waiting .remote].all (fun st =>
      let s := shuttle fun sh => { sh with status := st, requests := [request1] }
      (s.at 0 0).isSome && (s.focus 1).cur.status == st && !(s.focus 1).cur.convoy.isOpen &&
        (match st with
          | .waiting w => waitOver (s.focus 1) (s.focus 1).cur w
          | _ => false) && (s.focus 1).cur.requests.all fun q => q.reply != .waiting) = true ∧
    ([(full [] false [], 0), (full [] true [posted0 2], 1),
      (full [{ elem := 0, key := 0x3000, n := 4, v := 7, pois := false, late := false, atom := true, plain := false }] false [], 2)] : List (State × Nat)).all (fun x =>
      let s := x.1
      let u := (s.focus 1)
      (s.at 0 0).isSome && u.cur.convoy.isOpen && u.cur.convoy.count == 8 && !u.cur.convoy.ordered && u.cur.convoy.fault.isNone &&
        u.cur.convoy.wants.isEmpty && u.cur.convoy.buffer.all (fun y => y.remote.isNone) && decide (0 < u.cur.convoy.group) &&
        (match commitTo u (min u.cur.vl.toNat (u.cur.convoy.committed + u.cur.convoy.group)) with
          | (.done, _) => x.2 == 0
          | (.waits, _) => x.2 == 1
          | (.redo _, _) => x.2 == 2)) = true := by
  constructor <;> decide +kernel
/-- A translation that a probe has found. -/
def found0 (vpage kind key : Nat) (remote : Option Nat) : Found :=
  { vpage := vpage, kind := kind, phys := { key := key, remote := remote, mtype := if remote.isSome then 4 else 0, pcap := true, win := false, span := 65536 } }
/-- A command of CPY.MM that copies 16 bytes from 0x3000 on to 0x8000. -/
def cmd0 (st : CmdSt) (moved : Nat) (b : Word := 0x3000) : Cmd :=
  { key := 8, core := 0, owner := 63, form := 5, uid := 1, bob := some 7, trdl := none, a := 0x8000, b := b, len := 16, rows := [], rowlg := 0,
    regA := 4, regB := 5, fold := 0, ftype := 0, frm := 0, cen := false, ctr := 0, ctx := ⟨16, .s⟩, st := st, since := 0, aim := 0,
    pins := if st = .running then [found0 0 0 0 none, found0 0 1 0 none] else [], missed := [], moved := moved, accepted := false, acc := 0, accPoison := false,
    floor := 0, sent := false, blame := { owner := 63, tag := 63, next := 63, nextAt := 0 } }
def copies (c : Cmd) : State := { s0 with cmds := [c] }
/-- A domain with chip 2, keys for whose path have been loaded, from which a request has arrived. -/
def domain2 (s : State) : State := s.setPath 2 { lost := false, keys := [(0, 1), (2, 3)], arrived := 1 }
/-- What the probe of a command that the engine of loom 0 would choose finds. -/
def probeOf (s : State) (c : Cmd) : Probe × State := probeFrom c.ctx c.core c.probeList { found := c.pins, missed := c.missed } s
/-- A copy whose source is memory of chip 2. -/
def farCopy (moved : Nat) : Cmd := { cmd0 .running moved with pins := [found0 0 0 (2 * 2 ^ 44) (some 2), found0 0 1 0 none] }
theorem test_hyp_CopyEvents :
    (let s := copies (cmd0 .queued 0)
     !(ranked s (s.arb 4 0) (s.copyContenders 0)).isEmpty && !(s.arb 4 0).accounted s.clock &&
      ({ s with arbs := [(arbKey 4 0, { clocks := 10 ^ 9 + 1 })] }.arb 4 0).accounted s.clock) = true ∧
    (let c := { cmd0 .queued 0 with form := 4, a := 0x120 }
     c.form == 4 && (copies c).rrBad c) = true ∧
    (let s := copies (cmd0 .queued 0)
     let (r, w) := probeOf s (cmd0 .queued 0)
     !r.waits && r.leaf.isNone && r.fault.isNone && (({ cmd0 .queued 0 with pins := r.found } : Cmd).peers w.chip).isEmpty) = true ∧
    (let c := { farCopy 0 with st := .queued, aim := 0 }
     let (r, w) := probeOf (copies c) c
     !r.waits && r.leaf.isNone && r.fault.isNone && (({ c with pins := r.found } : Cmd).peers w.chip) == [2] && (w.path 2).lost) = true ∧
    (let c := cmd0 .queued 0 0x00F0000000000000
     let (r, _) := probeOf (copies c) c
     !r.waits && r.leaf.isNone && r.fault.any fun q => q.1 != cSOURCE) = true ∧
    (let c := cmd0 .running 0xFF
     let s := copies c
     (s.cmds.find? fun c => c.key == 8 && c.st == .running && s.engineLoom c == 0) == some c && !c.strict && bits c.moved 8 8 == 0 &&
      c.whole 8 8 && (c.readBytes 8 8 [] 0 s).1 == (0, 0) && c.uid == s.cur.uid) = true ∧
    (let c := { cmd0 .running 0 with pins := [found0 0 0 0 none, { found0 0 1 0 none with phys := { (found0 0 1 0 none).phys with pcap := false } }] }
     c.strict && trailingOnes c.moved == 0) = true ∧
    [false, true].all (fun cen =>
      let c := { cmd0 .running 0xFFFF with cen := cen }
      let s := copies c
      (s.cmds.find? fun c => c.key == 8 && c.st == .running && s.engineLoom c == 0) == some c && c.moved == 2 ^ c.len - 1 && decide (c.fold < 4) && !s.unacked c.floor) = true ∧
    (let c := farCopy 0
     let s := copies c
     (s.cmds.find? fun c => c.key == 8 && c.st == .running && s.engineLoom c == 0 && (c.peers s.chip).contains 2) == some c && c.trdl.isNone) = true := by
  refine ⟨?_, ?_, ?_, ?_, ?_, ?_, ?_, ?_, ?_⟩ <;> decide +kernel
/-- A probe of a partition whose walk misses parks the command, and one that meets a leaf under migration is held by it. -/
theorem test_hyp_CopyEvents_parked :
    (let c : Cmd := { cmd0 .queued 0 with ctx := ⟨2, .s⟩ }
     (probeOf { copies c with parts := [(2, { s2root := 0x8001 })] } c).1.waits) = true ∧
    (let c : Cmd := { cmd0 .queued 0 with ctx := ⟨2, .s⟩ }
     let m := [(0x8000, 0x9001), (0x9000, 0xA001), (0xA000, 0xB001), (0xB000, 0xC001), (0xC000, 7 + 2 ^ 63)].foldl (fun m (x : Nat × Nat) => writeLE m x.1 x.2 8) []
     let r := (probeOf { copies c with mem := m, parts := [(2, { s2root := 0x8001 })] } c).1
     !r.waits && r.leaf.isSome) = true := by
  constructor <;> decide +kernel
theorem test_hyp_ZoneEvents :
    (let s := domain2 (zoned .reserved)
     let tok := zoneName 0 0 1 2 3
     (s.path 2).arrived != 0 && (s.path 3).arrived == 0 && nameChip tok == s.chip && s.tenantOf (s.loomHolder (nameCore tok / 4)) == 0xFFF &&
      s.tenantOf (s.loomHolder (nameCore tok / 4)) != 5 &&
      (match acceptArrival s tok 8 0 with
        | .inr z => (z.slot 1).claimed == 8
        | _ => false) && (match acceptArrival s tok 9 0 with
        | .inl q => q == 8
        | _ => false) && decide ([1, 2, 3, 4, 5, 6, 7, (8 : Byte)].length ≤ 8) && cpFold (BitVec.ofNat 64 0) == 0 &&
      (s.zone tok).any fun z => (z.slot 1).st == .reserved && (z.slot 1).arr + 8 == (z.slot 1).len && !z.cen) = true ∧
    (let s := { s0 with zones := [{ zone0 .free with closing := true }] }
     (s.zones.find? fun (z : Zone) => z.core == 0 && z.num == 3 && z.closing).any fun z => !s.landing z) = true ∧
    ([.ending, .waiting (.zone 3)] : List Status).all (fun st =>
      ({ shuttle (fun (sh : Shuttle) => { sh with status := st }) with zones := [{ zone0 .free with closing := true }] } : State).byUid 1 |>.any fun (sh : Shuttle) => sh.status == st) = true ∧
    ([TOp.ctrAdd 9 1, .st 8 0x3000 5, .amo 1 true 0x3000 5, .amo 8 false 0x3004 5, .st 8 0x00FFFF0000000000 5]).all (fun op =>
      let t := { treadle0 .firing with op := op }
      let s := { s0 with treadles := [t] }
      (s.treadles.find? fun (x : Treadle) => x.idx == 16383 && x.st == .firing) == some t &&
        s.treadles.all (fun (x : Treadle) => !(x.st == .firing && x.ctr == t.ctr && decide (x.fired < t.fired))) &&
        [0x3000, 0x00FFFF0000000000].all fun a => [1, 2].all fun kind => match xlate t.ctx t.core a kind [] t.parked [] (0, 0) s with
          | (.ok p, w) => p.remote.isNone && (!p.win || w.loomHolder (t.core / 4) == t.part) && !((w.readNewest (trdlObs t.order) p.key 8).load p.key 8).2
          | _ => false) = true := by
  refine ⟨?_, ?_, ?_, ?_⟩ <;> decide +kernel
/-- Partition 2 with the hardware pulls of feature 4, and a stage-2 leaf of guest page 0 that holds `e`. -/
def paged (e : Nat) (p : Part := {}) (mig : MigUnit := {}) : State :=
  { s0 with mem := writeLE (writeLE (writeLE (writeLE (writeLE [] 0x8000 0x9001 8) 0x9000 0xA001 8) 0xA000 0xB001 8) 0xB000 0xC001 8) 0xC000 e 8
            parts := [(2, { p with s2root := 0x8001 })], funcs := [(2, { featLo := 0x10 }), (16, { featLo := 0x3FF1F })], mig := mig }
def request0 (q : Nat) : PageReq := { key := 7, id := 3, queue := q, page := 5, queued := true, words := [] }
def heldPage (part : Nat) : Held := { part := part, stage := 1, place := 0xD000, level := 0, addr := 0x10000, entry := 7 }
theorem test_hyp_PageEvents :
    ([0, 65535] : List Nat).all (fun v => [1, 2].all fun q =>
      let s := s0.setFunc 2 { s0.func 2 with reqs := [{ request0 1 with id := v, queue := q }] }
      ((s.func 2).reqs.find? fun r => r.id == v && r.queue == q && r.queued).isSome && (s.func 2).reqs.all fun r => r.queued && decide (r.id < 65536)) = true ∧
    (let s := { s0.setFunc 2 { s0.func 2 with invPending := [(1, 1, false)] } with held := [heldPage 2, heldPage 3] }
     !(s.func 2).invPending.isEmpty && (s.func 2).invPending.all fun i => !s.pinned 2 i) = true ∧
    (let s := { s0 with cmds := [{ cmd0 .running 0 with ctx := ⟨2, .u⟩ }], funcs := [(2, { invPending := [(2, 0, true)] })] }
     !(s.func 2).invPending.isEmpty && (s.func 2).invPending.any fun i => s.pinned 2 i) = true := by
  refine ⟨?_, ?_, ?_⟩ <;> decide +kernel
def image0 : Image :=
  { seq := 1, shuttles := [{ sh0 with place := { sh0.place with part := 2 } }], spad := [], spadPoison := [], counters := [(9, 5)], treadles := [], zones := [],
    queue := [], held := [], tracks := [], cmds := [], fired := [], rooms := [], log := [], base := 0, room := 10, size := 4 }
def migration0 : Migration := { part := 2, gpage := 0, leaf := 0xC000, oldLeaf := 0, src := 0x10000, dst := 0x20000, pull := none, host := false }
theorem test_hyp_MigrationEvents :
    (let e := 6 + 2 ^ 60
     let s := paged e { fpProd := 1 }
     s.entry2 2 0 == (0xC000, 0, e) && readEntry 2 0 e == .pull 1 && decide (e / 2 ^ 63 % 2 = 0) && !s.migrating 2 0 && s.hardwareMig 2 &&
      !s.damped 2 0 && (s.part 2).fpProd != (s.part 2).fpCons && (s.aheadOf 2 0).isEmpty &&
      (paged e).hardwareMig 2 && ((paged e).part 2).fpProd == ((paged e).part 2).fpCons) = true ∧
    (let e := 6 + 2 ^ 60
     let s := paged e {} { damped := [(2, 0, 10 ^ 9 + 1)] }
     s.entry2 2 0 == (0xC000, 0, e) && !s.migrating 2 0 && s.hardwareMig 2 && s.damped 2 0) = true ∧
    (let e := 7 + 2 ^ 16
     let s := paged e
     s.entry2 2 0 == (0xC000, 0, e) && !s.migrating 2 0 && !s.damped 2 0 && readEntry 2 0 e == .leaf && s.chip == 0 &&
      (paged e {} { damped := [(2, 0, 10 ^ 9 + 1)] }).damped 2 0 && (paged (e + 2 ^ 63)).entry2 2 0 == (0xC000, 0, e + 2 ^ 63) &&
      decide (e / 2 ^ 16 % 2 ^ 36 * 2 ^ 16 % 2 ^ 44 + 65536 ≤ hbmBytes ∧ 2 ^ 27 < 2 ^ 36 ∧ 2 ^ 43 ≤ 2 ^ 27 * 2 ^ 16 % 2 ^ 44)) = true ∧
    (let s := paged (7 + 2 ^ 63 + 2 ^ 16) {} { active := [migration0] }
     (s.mig.active.find? fun m => m.part == 2 && m.gpage == 0) == some migration0 && !migration0.host && migration0.pull.isNone) = true ∧
    ([(10, 10, true, true), (10, 4, true, false), (0, 4, false, false)] : List (Nat × Nat × Bool × Bool)).all (fun x =>
      let i := { image0 with base := 0x1000000, room := x.2.1 }
      let s := paged (7 + 2 ^ 62) { image := some i, ckBase := 0x1000000, ckSize := x.1, pcgs := 1 }
      s.entry2 2 0 == (0xC000, 0, 7 + 2 ^ 62) && readEntry 2 0 (7 + 2 ^ 62) == .leaf && !s.logged 2 0 && (s.part 2).image == some i &&
      s.bankOk 2 == x.2.2.1 && s.bankRoom 2 == x.2.2.2) = true := by
  refine ⟨?_, ?_, ?_, ?_, ?_⟩ <;> decide +kernel
theorem test_hyp_RemoteEvents :
    (let s := domain2 s0
     (s.path 2).arrived != 0 && (s.path 3).arrived == 0 && Memory.wf s.mem && decide (hbmBytes - 8 + 8 ≤ hbmBytes) &&
      ([0x3000, hbmBytes - 8].all fun a => a / 2 ^ 44 == s.chip && a % 8 == 0 && (s.blockHolders (a % 2 ^ 44) 8).all (fun h => s.tenantOf h == 0xFFF) &&
        (s.blockHolders (a % 2 ^ 44) 8).any (fun h => s.tenantOf h != 5) && !markedAny s.poisoned a 8 && !s.disputed a 8 && (s.unlogged a 8).isEmpty) &&
      [0, 65535].all fun i => s.tenantOf (s.counterHolder i) == 0xFFF && s.tenantOf (s.counterHolder i) != 5) = true ∧
    (reported 3 0 && reported 4 0 && reported 5 0 && !reported 1 0 && !reported 2 3 && !reported 4 1 && (posted0 1).sent) = true ∧
    (let s := shuttle fun sh => { sh with posted := [posted0 1] }
     (s.at 0 0).isSome && ((s.resident ++ s.away).find? fun sh => sh.place.core == 0 && sh.place.slot == 0 && sh.posted.any fun p => p.key == 4) == some s.cur &&
      (s.cur.posted.find? fun p => p.key == 4) == some (posted0 1)) = true := by
  refine ⟨?_, ?_, ?_⟩ <;> decide +kernel
/-- A data flit of chip 2 for this chip. -/
def flit0 (seq src dst : Nat) : Flit :=
  { typ := 1, src := src, dst := dst, kslot := 0, seq := seq, ackseq := 0, blen := 4, body := 2 ^ 1536 - 1, tag := 9, copies := copiesOf dst }
theorem test_hyp_FlitEvents_word : [flit0 1 2 0, flit0 (2 ^ 32 - 1) 255 143].all (fun f => Flit.ofWord f.word == f) = true := by decide +kernel
theorem test_hyp_FlitEvents_send :
    (let p : Path := { (domain2 s0).path 2 with owed := 1 }
     let s := { s0.setPath 2 p with cur := { sh0 with posted := [posted0 1] } }
     s.path 2 == p && !p.lost && !p.reest && !s.fabric.resync && !p.replaying && p.keyed && s.bufferRoom p &&
      decide (tget 0 p.inv p.kslot < p.rekey) && [4].all (s.carries 2) && s.inOrder 2 [4] && decide (1 ≤ p.owed)) = true ∧
    [[1], []].all (fun fresh =>
      let p : Path := { lost := false, keys := [(0, 1), (2, 3)], rekey := 4, inv := [(0, 4)], fresh := fresh }
      let s := s0.setPath 2 p
      p.keyed && p.spare == !fresh.isEmpty && s.bufferRoom p && decide (p.rekey ≤ tget 0 p.inv p.kslot)) = true ∧
    (({ lost := false, replaying := true } : Path).replaying && !({ lost := false, replaying := true } : Path).reest) = true := by
  refine ⟨?_, ?_, ?_⟩ <;> decide +kernel
theorem test_hyp_FlitEvents_again :
    [6, 7].all (fun n =>
      let p : Path := { lost := false, unacked := [flit0 5 0 2, flit0 6 0 2, flit0 7 0 2], progressAt := 10 ^ 9 - 25000, replays := n }
      p.unacked.findIdx? (·.seq == 5) == some 0 && p.unacked.drop 1 == [flit0 6 0 2, flit0 7 0 2] && decide (p.progressAt + 25000 ≤ s0.clock) &&
        decide (p.replays < 7) == (n == 6)) = true ∧
    [(128, 10 ^ 9), (1, 10 ^ 9 - 2500), (127, 10 ^ 9 - 2499), (0, 0)].all (fun (x : Nat × Nat) =>
      let p : Path := { lost := false, ackDue := x.1, ackSince := x.2, keys := [(0, 1), (2, 3)], rekey := 4 }
      !p.reest && !s0.fabric.resync && p.keyed && decide (tget 0 p.inv p.kslot < p.rekey) && decide (128 ≤ p.ackDue ∨ p.ackDue ≠ 0 ∧ p.ackSince + 2500 ≤ s0.clock) == (x.1 == 128 || x.1 == 1)) = true ∧
    (let p : Path := { lost := false, reest := true }
     !p.lost && p.reest) = true ∧ ({ s0 with fabric := { resync := true } }).fabric.resync = true := by
  refine ⟨?_, ?_, ?_, ?_⟩ <;> decide +kernel
theorem test_hyp_FlitEvents_receive :
    (let p : Path := { lost := false, accepted := 2 ^ 32 - 1, keys := [(0, 1), (2, 3)], rekey := 4 }
     let f := Flit.ofWord (flit0 0 2 0).word
     f.dst == s0.chip && f.src == 2 && f.typ == 1 && f.kslot == p.rxSlot && f.seq == (p.accepted + 1) % 2 ^ 32 && p.lastNak.isNone && !p.reest && !s0.fabric.resync && p.keyed &&
      decide (tget 0 p.inv p.kslot < p.rekey) &&
      (Flit.ofWord (flit0 1 2 0).word).seq != (p.accepted + 1) % 2 ^ 32 && (Flit.ofWord (flit0 0 2 3).word).dst != s0.chip &&
      (Flit.ofWord (flit0 0 3 0).word).src != 2) = true ∧
    (let p : Path := { lost := false, authSeq := 7, authFails := 2 }
     p.authSeq == (Flit.ofWord (flit0 7 2 0).word).seq && decide (2 ≤ p.authFails)) = true := by
  constructor <;> decide +kernel
theorem test_hyp_PathEvents :
    (domain2 s0).inDomain 2 = true ∧
    (let s := s0.setPath 2 { lost := false, reest := true, reestSince := 10 ^ 9 - 2500000 }
     !(s.path 2).lost && (s.path 2).reest && decide ((s.path 2).reestSince + 2500000 ≤ s.clock)) = true ∧
    (let s := s0.setPath 2 { lost := false, rekeySince := some (10 ^ 9 - 25000000) }
     (s.path 2).rekeySince == some 975000000 && decide (975000000 + 25000000 ≤ s.clock)) = true ∧
    [(0, 0, 0), (1, 1, 1), (1, 2, 2), (1, 2, 4), (2 ^ 35, 2, 4)].all (fun (x : Nat × Nat × Nat) =>
      let s := domain2 s0
      let w := State.setPath { s with fabric := { s.fabric with dead := x.1, links := x.2.1 } } 2 { s.path 2 with links := x.2.2 }
      let n := popc (x.1 ||| x.2.1 ||| x.2.2) 36
      decide (3 ≤ n) || w.fabric.paths.all fun e => w.pathMode e.1 != .down) = true ∧
    (decide (143 < 144) && (143 != s0.chip) && !bit (s0.func 16).mode.toNat 4 && (domain2 s0).keySlotOk 2 1 && !((domain2 s0).path 2).lost &&
      s0.keySlotOk 143 0 && (s0.path 143).lost && !s0.inDomain 143) = true := by
  refine ⟨?_, ?_, ?_, ?_, ?_⟩ <;> decide +kernel
/-- Two requests at an L2 slice port, of which the first misses. -/
def arrivals0 : List Arrival :=
  [{ id := 1, input := 0, owner := 5, part := none, addr := 0x3000, op := 0, miss := true, bytes := 256 },
   { id := 2, input := 1, owner := 6, part := none, addr := 0x3100, op := 1, miss := false, bytes := 256 }]
/-- A machine whose cores 0 and 1 belong to owners 5 and 6. -/
def owned : State :=
  { s0 with cur := { sh0 with owner := 5 }, others := [{ sh0 with uid := 2, owner := 6, place := { sh0.place with core := 1 } }] }
/-- An arbiter in a clock, as the statement computes it. -/
def clockOf (s : State) (key : Nat) (xs : List Arrival) : State × Arb × List (Contender Waiter) :=
  let xs := xs.filter (s.mayArrive (key % 8) (key / 8))
  let w := xs.foldl State.launchFlight s
  let b := xs.foldl (Arb.arrive (key % 8) (key / 8) s.clock) ((s.arbOf key).refreshed s.clock)
  (w, b, (b.waiting.filter (w.eligible (key % 8) b)).map Waiter.contender)
theorem test_hyp_AccountingEvents_clock :
    (let x := clockOf owned 8 arrivals0
     !(owned.arbOf 8).accounted owned.clock && x.2.1.holder.isNone && !(ranked x.1 x.2.1 x.2.2).isEmpty && x.2.1.waiting.length == 2) = true ∧
    (let s := { s0 with arbs := [(8, { clocks := 10 ^ 9 + 1 }), (16, { holder := some (7, 10 ^ 9 + 2) })] }
     (s.arbOf 8).accounted s.clock && !(s.arbOf 16).accounted s.clock && (clockOf s 16 arrivals0).2.1.holder.isSome &&
      (clockOf s 24 []).2.2.isEmpty) = true ∧
    (let w : Waiter := { id := 1, input := 2, owner := 5, since := 0, part := some 3, chan := 0, line := 0, op := 0, miss := false, bytes := 256 }
     let s := { domain2 s0 with parts := [(3, { rate := 1, tokens := 255 })] }
     s.withheld w && !s0.withheld w && !s0.injectable w.input && (domain2 s0).injectable w.input && !(domain2 s0).withheld w) = true := by
  refine ⟨?_, ?_, ?_⟩ <;> decide +kernel
theorem test_hyp_AccountingEvents_bucket : s0.clock / 256 = (s0.setPart 2 { refills := 3906249 } |>.part 2).refills + 1 ∧
    s0.clock / 256 ≤ (s0.setPart 2 { refills := 3906250 } |>.part 2).refills := by decide +kernel
theorem test_hyp_AccountingEvents :
    (let s := { s0 with clock := 4096 }
     s.acct.periods == s.acct.broadcasts && decide (4096 * (s.acct.periods + 1) ≤ s.clock)) = true ∧
    (let s := { s0 with clock := 4352, acct := { periods := 1 } }
     decide (s.acct.broadcasts < s.acct.periods ∧ 4096 * (s.acct.broadcasts + 1) + 256 ≤ s.clock)) = true := by
  constructor <;> decide +kernel
/-- Partition 2 with checkpoints enabled and a shuttle of its own. -/
def checked (p : Part) (cur : Shuttle := { sh0 with place := { sh0.place with part := 2 }, ctxptr := 0x100000 }) : State :=
  { s0 with cur := cur, parts := [(2, { p with ckSize := 100, pcgs := 1 })], funcs := [(2, { featLo := 0x8 }), (16, { featLo := 0x3FF1F })] }
theorem test_hyp_FailureEvents :
    (let s := lanes [] [] [(0, { matQueue := [1] })]
     !(s.core 0).matQueue.isEmpty && !bit (s.loom 0).arrayFailed 0) = true ∧
    (let s := inConvoy 2 0 0 0
     let s := { s with
       looms := [(0, { clusters := [(0, 1)] })]
       cur := { s.cur with convoy := { s.cur.convoy with members := [{ k := 1, code := 2, base := 8, per := 8, wrote := [], vregs := [], eregs := [], preg := none, flags := [] }] } } }
     (s.at 0 0) == some s.cur && (s.focus 1).cur == s.cur && s.boot.stage != 1 && s.cur.convoy.isOpen &&
      decide (s.cur.convoy.committed ≤ 3 ∧ 3 < s.cur.vl.toNat) && s.failing s.cur 3 3 == some 0 && !s.cur.convoy.unsettled 3 && s.cur.convoy.fault.isNone &&
      (match prepare s 2 3 with
        | .nothing _ => true
        | _ => false)) = true ∧
    ([none, some 2] : List (Option Nat)).all (fun n =>
      let s := checked { image := n.map fun _ => { image0 with base := 0x1000000 } }
      s.imageHolder 0x1000008 == n && (s.areaHolder 0x1000008).isNone) = true ∧
    (s0.imageHolder 0x100008 = none ∧ (shuttle fun sh => { sh with ctxptr := 0x100000 }).areaHolder 0x100008 = some 16) ∧
    (!(s0.loom 0).retired.contains 255 && decide (4 ≤ ((List.range 16).filter ({ s0.loom 0 with retired := [255] } : Loom).inService).length)) = true ∧
    (let s := checked { ckPer := 2000, lastCapture := 10 ^ 9 - 5000000 }
     s.ckEnabled 2 && !(s.part 2).capturing && decide ((s.part 2).lastCapture + 2500 * (s.part 2).ckPer ≤ s.clock)) = true ∧
    (let s := checked { capturing := true } {}
     let r := captureShuttles ((s.resident.filter fun sh => sh.live && sh.place.part == 2).map (·.uid)) s
     (s.part 2).capturing && s.ckEnabled 2 && s.quiet 2 && r.1 && r.2.quiet 2) = true ∧
    (let s := checked { image := some image0 }
     s.ckEnabled 2 && (s.part 2).image == some image0 && image0.shuttles.all (fun sh => !sh.inPlace) && image0.treadles.isEmpty) = true := by
  refine ⟨?_, ?_, ?_, ?_, ?_, ?_, ?_, ?_⟩ <;> decide +kernel
theorem test_hyp_FunctionEvents :
    ((s0.setFunc 2 { launched := true }).func 2).launched = true ∧ (s0.func 2).launched = false ∧ (s0.func 16).launched = false ∧
    (s0.counterHolder (9 + 2 ^ 16) = 16 ∧ (5 + 2 ^ 16 * 5) / 2 ^ 16 % 2 ^ 32 ≤ ({ s0 with counters := [(5, 5)] }.counter 5).toNat) ∧
    (let s := s0.setFunc 2 { msixPend := [(3, 1)] }
     s.vectorDue 2 3 && !(s.func 2).masked 3 && !s.vectorDue 2 4 && (s.func 2).recent 3 s.clock == 0) = true ∧
    (∀ k, k < 16 → k ≠ 2 → bit (({ s0 with parts := [(2, { owners := 1 })] } : State).part k).owners 0 = false) ∧
    (s0.boot.stage0 = true ∧ State.reset.boot.stage0 = false ∧ bit (s0.func 16).featLo.toNat 1 = true) := by
  refine ⟨?_, ?_, ?_, ?_, ?_, ?_⟩ <;> decide +kernel
/-- Regions 3 and 70 are clean and no partition's; partition 2 holds looms 0 and 1, groups 4 and 5 and slices. -/
def regions : State :=
  { s0 with scrubs := [(3, { st := .clean }), (70, { st := .clean })],
            parts := [(2, { looms := 3, pcgs := 0x30, cbase := 100, ccount := 10, tbase := 100, tcount := 10 })] }
theorem test_hyp_RegionEvents :
    (regions.boot.stage == 2 && maskOk regions 2 (regions.part 2).looms 0xB 0 40 regions.loomHolder &&
      maskOk regions 2 (regions.part 2).pcgs 0x70 64 48 regions.groupHolder &&
      sliceOk regions 2 65536 100 10 100 20 (fun q => (q.cbase, q.ccount)) && sliceOk regions 2 16384 100 10 100 20 (fun q => (q.tbase, q.tcount)) &&
      State.reset.boot.stage != 2) = true ∧
    ((regions.part 2).release.isNone && bit (regions.part 2).looms 1 && popc (regions.part 2).looms 40 != 1 && !bit (regions.part 2).looms 39 &&
      bit (regions.part 2).pcgs (69 - 64) && popc (regions.part 2).pcgs 48 != 1 && (regions.part 2).tcount != 0) = true ∧
    [69, 128, 129].all (fun r =>
      let s := regions.setPart 2 { regions.part 2 with release := some (r, 4) }
      (s.part 2).release == some (r, 4) && (s.part 2).withdrawing.isEmpty && s.treadles.isEmpty && !s.mapsGroup 2 (69 - 64) && !s.namesCounter 2 (100 + 10 - 4) (100 + 10)) = true ∧
    (let s := { s0 with funcs := [(16, { mode := 8 })], looms := [(0, { passed := true })], scrubs := [(64, { st := .scrubbing })] }
     (s.scrub 0).st == .pending && bit (s.func 16).mode.toNat 3 && s.boot.stage == 2 && (s.loom 0).passed && (s.scrub 64).st == .scrubbing) = true := by
  refine ⟨?_, ?_, ?_, ?_⟩ <;> decide +kernel
theorem test_hyp_PowerEvents :
    (let s := { s0 with mailbox := { data := 7 } }
     s.boot.stage0 && s.boot.stage != 3 && !bit (s.func 16).mode.toNat 5 && decide (s.power.lastSeq < s.mailbox.data % 2 ^ (8 * 14) % 2 ^ 64)) = true ∧
    (let s := { s0 with power := { leased := true, expiry := 10 ^ 9 } }
     s.power.leased && decide (s.power.expiry ≤ s.clock) && !bit (s.func 16).mode.toNat 5) = true ∧
    (List.range 40).all (fun l => !voteOut s0 0 l (List.replicate 40 60) && !voteOut s0 1 l (List.replicate 40 60)) = true ∧
    (s0.loom 0).droopUntil ≤ s0.clock ∧ (let s := s0.setLoom 0 { droopUntil := 10 ^ 9 + 1 }
      decide (s.clock < (s.loom 0).droopUntil)) = true := by
  refine ⟨?_, ?_, ?_, ?_, ?_⟩ <;> decide +kernel
/-- A device whose power is good, with slot images that verify or not, at a fused minimum version of 3. -/
def booting (okA okB : Bool) (verA verB stage : Nat) : State :=
  { State.reset with boot := { powered := true, okA := okA, okB := okB, verA := verA, verB := verB, fuse := 3, stage := stage } }
theorem test_hyp_StartUp :
    State.reset.boot.powered = false ∧ (booting true false 3 0 0).boot.stage0 = false ∧
    (decide ((booting true false 3 0 0).boot.fuse ≤ 3) && decide (2 < (booting true true 2 3 0).boot.fuse) && !(booting false false 3 3 0).boot.okB) = true ∧
    (booting true true 3 3 1).boot.stage = 1 ∧ State.reset.boot.chip = 0 := by
  refine ⟨?_, ?_, ?_, ?_, ?_⟩ <;> decide +kernel
theorem test_hyp_MailboxCommands :
    (s0.boot.stage0 = true ∧ s0.boot.stage ≠ 3) ∧
    (let s := { domain2 s0 with funcs := [(16, { mode := 16 })], mailbox := { data := 0 + 2 ^ 8 * 2 + 2 ^ 16 * 1 + 2 ^ 24 * 5 } }
     s.boot.stage == 2 && bit (s.func 16).mode.toNat 4 && decide (s.chip < 256 ∧ 2 ≠ s.chip) && !(s.path 2).lost && s.keySlotOk 2 1 &&
      s.mailbox.data == s.chip + 2 ^ 8 * 2 + 2 ^ 16 * 1 + 2 ^ 24 * 5) = true ∧
    (let s := { s0 with boot := { s0.boot with fw := some (8, 16) }, mailbox := { data := 77 } }
     s.boot.fw == some (8, 16) && (16 + 2 ^ 64 * (s.mailbox.data % 2 ^ 64)) % 2 ^ 64 == 8 + 8) = true ∧
    (let s := { s0 with boot := { s0.boot with stage := 0, chip := 5 }, mailbox := { data := 5 + 256 * 9 } }
     s.boot.stage == 0 && !s.boot.gate && s.mailbox.data % 2 ^ 136 % 256 == s.boot.chip && s.mailbox.data % 2 ^ 136 / 256 % 2 ^ 128 != 0) = true ∧
    (s0.offers 7 = false ∧ mbValid (1 + 2 ^ 10) = false) := by
  refine ⟨?_, ?_, ?_, ?_, ?_⟩ <;> decide +kernel

theorem test_hyp_DecodeOfEncode : (Instr.bext 1 2 31 32).wf = true ∧ (Instr.bext 1 2 31 32).hasEncoding = true := by decide
/-- A step at the reset machine with ADDI s4, s0, 16 placed, one at an asynchronous cause, one at an event that is due. -/
theorem test_hyp_StepRunsDecoded :
    (let s := State.reset.withFetchWord 32 0x82200010
     s.struck.isEmpty && s.agenda.isEmpty && s.cur.live && !asyncReady s.cur && canIssue s s.cur && s.cur.killed.isNone && !s.cur.stops &&
      s.cur.again.isNone && holds (fetchFrom s.cur.pc s) fun x _ => x == (4, 0x82200010)) = true ∧
    (let s := shuttle fun sh => { sh with again := some ⟨0, false, none⟩, span := [⟨0x1000, 4, 0x82200010⟩] }
     canIssue s s.cur && !s.cur.stops && (s.cur.span.find? fun x => x.pc == s.cur.pc).isSome) = true ∧
    (let s := shuttle fun sh => { sh with stopping := some .tiles }
     canIssue s s.cur && s.cur.killed.isNone && s.cur.stops && canIssue s { s.cur with killed := some 3 } && !asyncReady s.cur) = true ∧
    (let s := shuttle fun sh => { sh with pc := 0x00FFFF0000800000 }
     s.agenda.isEmpty && s.cur.live && !asyncReady s.cur && canIssue s s.cur && (match fetchFrom s.cur.pc s with
      | .error (.trap c _ _) _ => c == 6
      | _ => false)) = true ∧
    (let s := shuttle fun sh => { sh with estat := 0x42 }
     s.cur.live && asyncReady s.cur) = true ∧
    (Instr.settlementPeriodEnd.hasEncoding = false ∧ Instr.settlementPeriodEnd.wf = true) ∧
    (holds (translate 0x3000 3 s0) fun p u => p.remote.isNone && !u.disputed p.key 2 && !markedAny u.poisoned p.key 2 &&
      holds (fetchParcel 0x3000 s0) fun _ u => holds (fetchParcel (0x3000 + 2) u) fun _ _ => true) = true := by
  refine ⟨?_, ?_, ?_, ?_, ?_, ?_, ?_⟩ <;> decide +kernel
theorem test_hyp_StepKeepsCanonical : State.reset.Canonical ∧ ∃ t, step State.reset = .next t :=
  ⟨⟨rfl, rfl⟩, by
    unfold step
    exact ⟨turn State.reset 0, rfl⟩⟩

/-! ## Terms that are not well-formed, one for each check -/

def r0 : Fin 32 := 0
def r1 : Fin 32 := 1
def r2' : Fin 32 := 2
def r3' : Fin 32 := 3
def r4 : Fin 32 := 4
def r5' : Fin 32 := 5
def r6 : Fin 32 := 6
def r8 : Fin 32 := 8
def r9 : Fin 32 := 9
def r16 : Fin 32 := 16
def r24 : Fin 32 := 24
def p0 : Fin 8 := 0
def p1 : Fin 8 := 1
def p2 : Fin 8 := 2
def w7 : Fin 8 := 7

theorem test_wf_words : ([.bext r1 r2' 32 32, .bextS r1 r2' 63 1, .bins r1 r2' 60 5, .ld r1 r2' w7 0, .st r1 r2' 4 0, .lda r1 r2' 0 0,
    .stl r1 r2' 1 0, .fence 5 0, .crr r1 0x1A, .crw r1 r2' 0x10C, .crs r1 r2' 0xFF, .crc r1 r2' 0x400, .vcvt true p0 r1 15 r2' true false false 0,
    .vcvt true p0 r1 r4 r2' false false false 1, .mop p0 0 r1 r2' 14 15 true 0 0, .mop p0 0 r1 r2' 7 r8 true 0 0, .mop p0 0 r1 r2' r8 r8 false p1 0,
    .mops p0 0 r1 r2' 14 13, .cAddi r0 1, .cLi r0 1, .cMov r0 r1, .cAdd r0 r1, .cSub r0 r1, .cAnd r0 r1, .cShli r0 1, .cShri r0 1,
    .cLdsp r0 1] : List Instr).all (fun i => !i.wf) = true := by decide +kernel
theorem test_wf_events : ([.launchWindowWrite 17 0 64 0, .launchWindowWrite 0 4064 64 0, .launchWindowWrite 0 0 0 0, .launchWindowWrite 0 0 1 256,
    .shuttleEnd 160 0, .shuttleEnd 0 8, .lendHandover 160 0, .preemption 0 8 1, .preemptAfterFailToFit 17 0 0, .convoyCloseTimeout 160,
    .laneReturn 160, .executeClusterRequest 160 0, .heddleReclaim 160, .convoyProbe 0 8, .elementGroupCommit 160 0, .loadDataReturn 0 8,
    .pageResponseS1 17 0, .pageResponseS1 0 (2 ^ 64), .pageResponseS2 17 0, .inv1Page 17 0 true, .inv1All 17 true, .inv2Page 17 0 true,
    .inv2All 17 true, .invalidationComplete 17, .migrationAccept 17 0, .hostMigrationRequest 17 0 0, .migrationCopyComplete 17 0 true,
    .dampingExpiry 17 0, .cowGranuleCopy 17 0, .copyCommandStart 40, .copyDataArrival 40 0 0 1 [] 0, .copyDone 40 0, .copyFailed 40 0 ⟨0, 1⟩ 0, .copyFailed 0 0 ⟨144, 1⟩ 0,
    .copyFailed 0 0 ⟨0, 32⟩ 0, .copyFailed 0 0 ⟨0, 1⟩ 3, .lzResvArrival 144 0 0 0, .lzResvArrival 0 4096 0 0, .lzArrival 144 0 0 0 0 [] 0,
    .lzCloseComplete 0 16, .treadleComplete 0 false 0 0, .treadleComplete 0 false 7 0, .treadleComplete 0 false 1 3, .lzResvArrival 0 4096 0 0, .lzArrival 0 4096 0 0 0 [] 0] : List Instr).all (fun i => !i.wf) = true := by decide +kernel
theorem test_wf_fabric_events : ([.remoteRequestArrival 144 0 0 (.listed [0]) 8 [0] [0] [0], .remoteRequestArrival 0 4096 0 (.listed [0]) 8 [0] [0] [0],
    .remoteReply 160 0 0 true [] 0 0 0, .remoteReply 0 0 0 false [] 0 0 0, .remoteReply 0 0 0 false [] 0 7 0, .remoteReply 0 0 0 false [] 0 1 3,
    .remoteAck 0 8 0 true 0 0, .remoteAck 0 0 0 false 0 0, .remoteAck 0 0 0 false 1 3, .flitSend ⟨144, [], 0, 0⟩, .flitSend ⟨0, [], 0, 193⟩,
    .flitReceive 144 0 0 0 0 true true, .flitReceive 0 (2 ^ 128) 0 0 0 true true, .flitReceive 0 0 (2 ^ 1536) 0 0 true true,
    .flitReceive 0 0 0 (2 ^ 128) 0 true true, .negativeAcknowledgement 0 (2 ^ 32), .acknowledgementTimer 144,
    .retryTimeout 144, .reestablishmentComplete 144, .reestablishmentTimeout 144, .rekeyTimeout 144, .linkFailure 144 ⟨0, 0, 0⟩,
    .linkFailure 0 ⟨2 ^ 36, 0, 0⟩, .linkFailure 0 ⟨0, 2 ^ 36, 0⟩, .linkFailure 0 ⟨0, 0, 2 ^ 36⟩, .pathLost 144 true,
    .pathKeyExchange 144 0 (some (2 ^ 20)), .pathKeyExchange 0 2 (some (2 ^ 20)), .pathKeyExchange 0 0 (some (2 ^ 20 - 1)),
    .pathKeyExchange 0 0 (some (2 ^ 40 + 1)), .matrixBlockOffer 40, .matrixReclaim 40, .tileOperationExecute 160,
    .laneResidueMismatch 0 0 256 0 true, .rollback 17, .checkpointPeriod 17, .checkpointCapture 17] : List Instr).all (fun i => !i.wf) = true := by
  decide +kernel
/-- An arbiter of an instance or a kind that Table 1-3 does not list, and arrivals that it has no input, owner, size or address for. -/
theorem test_wf_arbiters : ([.arbiterGrant (arbKey 0 640) [] ⟨0, none⟩, .arbiterGrant (arbKey 1 768) [] ⟨0, none⟩, .arbiterGrant (arbKey 4 0) [] ⟨0, none⟩,
    .arbiterGrant 0 [{ id := 1, input := 202, owner := 0, part := none, addr := 0, op := 0, miss := false, bytes := 1 }] ⟨0, none⟩,
    .arbiterGrant 0 [{ id := 1, input := 0, owner := 64, part := none, addr := 0, op := 0, miss := false, bytes := 1 }] ⟨0, none⟩,
    .arbiterGrant 0 [{ id := 1, input := 0, owner := 0, part := some 17, addr := 0, op := 0, miss := false, bytes := 1 }] ⟨0, none⟩,
    .arbiterGrant 0 [{ id := 1, input := 0, owner := 0, part := none, addr := 576000000000, op := 0, miss := false, bytes := 1 }] ⟨0, none⟩,
    .arbiterGrant 0 [{ id := 1, input := 0, owner := 0, part := none, addr := 0, op := 0, miss := false, bytes := 257 }] ⟨0, none⟩] : List Instr).all
      (fun i => !i.wf) = true := by decide +kernel
theorem test_wf_host_events : ([.functionLevelReset 17, .feqstatRead 17, .modeWrite 17 0,
    .modeWrite 0 (2 ^ 64), .feataccWrite 17 true 0, .watchWrite 0 32 0, .coalesceTimer 0 64, .msixUnmask 0 64, .loomsWrite 17 0, .pcgsWrite 17 0,
    .csliceWrite 17 0, .tsliceWrite 17 0, .identWrite 17 0, .release 17 0, .force 17 0, .releaseComplete 17, .scrubGo 40, .scrubGo 112,
    .scrubComplete 63, .pwrcapWrite (2 ^ 64), .pwrfloorWrite (2 ^ 64), .registerWrite 1 0 ⟨0, 8⟩ 0, .registerWrite 2 0 ⟨0, 8⟩ 0, .registerWrite 2 15 ⟨0, 8⟩ 0, .registerWrite 0 0 ⟨0, 4⟩ (2 ^ 32),
    .hostCxlMemAccess true 576000000000 1 0, .hostCxlMemAccess true 0 1 256, .ident (2 ^ 64), .quote (2 ^ 64), .lease (2 ^ 64), .keyload (2 ^ 64),
    .fwload (2 ^ 64), .domain (2 ^ 64), .budgetUpdate [], .budgetUpdate (List.replicate 40 8), .budgetUpdate (List.replicate 40 272),
    .sensorSample [] [], .droopDetect 40, .droopCapExpiry 40, .loomPass 40, .rateBucketRefill 17, .illegalEncoding 4 0 1, .illegalEncoding 2 (2 ^ 15) 1,
    .illegalEncoding 8 0 1, .illegalEncoding 2 0 5, .mbcmdDiscarded (2 ^ 64)] : List Instr).all (fun i => !i.wf) = true := by decide +kernel

/-! ## Words: the match value of each row of the opcode table, with every operand at its place in the word (Tables 3-2 to 3-8) -/

/-- A match value with operands, each given by the lowest bit of its place and its value. -/
def word (m : Nat) (fs : List (Nat × Nat)) : Nat := fs.foldl (fun w f => w + f.2 * 2 ^ f.1) m

def x12 : Fin 32 := 12
def x14 : Fin 32 := 14
def x17 : Fin 32 := 17
def x18 : Fin 32 := 18
def x25 : Fin 32 := 25
def x3 : Fin 32 := 3
def x6 : Fin 32 := 6
def x8 : Fin 32 := 8
def y2 : Fin 8 := 2
def y3 : Fin 8 := 3
def y5 : Fin 8 := 5
def y6 : Fin 8 := 6
def z2 : Fin 4 := 2

theorem test_words_add :
    decode 4 (word 0x81000000 [(19, 3), (14, 6), (9, 12)]) = .ok (.add x3 x6 x12) ∧
    decode 4 (word 0x81000001 [(19, 3), (14, 6), (9, 12)]) = .ok (.sub x3 x6 x12) ∧
    decode 4 (word 0x81000002 [(19, 3), (14, 6), (9, 12)]) = .ok (.and x3 x6 x12) ∧
    decode 4 (word 0x81000003 [(19, 3), (14, 6), (9, 12)]) = .ok (.or x3 x6 x12) ∧
    decode 4 (word 0x81000004 [(19, 3), (14, 6), (9, 12)]) = .ok (.xor x3 x6 x12) ∧
    decode 4 (word 0x81000005 [(19, 3), (14, 6), (9, 12)]) = .ok (.andn x3 x6 x12) ∧
    decode 4 (word 0x81000006 [(19, 3), (14, 6), (9, 12)]) = .ok (.orn x3 x6 x12) ∧
    decode 4 (word 0x81000007 [(19, 3), (14, 6), (9, 12)]) = .ok (.shl x3 x6 x12) ∧
    decode 4 (word 0x81000008 [(19, 3), (14, 6), (9, 12)]) = .ok (.shr x3 x6 x12) ∧
    decode 4 (word 0x81000009 [(19, 3), (14, 6), (9, 12)]) = .ok (.sar x3 x6 x12) ∧
    decode 4 (word 0x8100000a [(19, 3), (14, 6), (9, 12)]) = .ok (.rol x3 x6 x12) ∧
    decode 4 (word 0x8100000b [(19, 3), (14, 6), (9, 12)]) = .ok (.ror x3 x6 x12) ∧
    decode 4 (word 0x8100000c [(19, 3), (14, 6), (9, 12)]) = .ok (.slt x3 x6 x12) ∧
    decode 4 (word 0x8100000d [(19, 3), (14, 6), (9, 12)]) = .ok (.sltn x3 x6 x12) ∧
    decode 4 (word 0x8100000e [(19, 3), (14, 6), (9, 12)]) = .ok (.min x3 x6 x12) ∧
    decode 4 (word 0x8100000f [(19, 3), (14, 6), (9, 12)]) = .ok (.max x3 x6 x12) ∧
    decode 4 (word 0x81000010 [(19, 3), (14, 6), (9, 12)]) = .ok (.minn x3 x6 x12) ∧
    decode 4 (word 0x81000011 [(19, 3), (14, 6), (9, 12)]) = .ok (.maxn x3 x6 x12) ∧
    decode 4 (word 0x81000012 [(19, 3), (14, 6), (9, 12)]) = .ok (.mul x3 x6 x12) ∧
    decode 4 (word 0x81000013 [(19, 3), (14, 6), (9, 12)]) = .ok (.mulh x3 x6 x12) ∧
    decode 4 (word 0x81000014 [(19, 3), (14, 6), (9, 12)]) = .ok (.mulhn x3 x6 x12) ∧
    decode 4 (word 0x81000015 [(19, 3), (14, 6), (9, 12)]) = .ok (.div x3 x6 x12) ∧
    decode 4 (word 0x81000016 [(19, 3), (14, 6), (9, 12)]) = .ok (.divn x3 x6 x12) ∧
    decode 4 (word 0x81000017 [(19, 3), (14, 6), (9, 12)]) = .ok (.rem x3 x6 x12) ∧
    decode 4 (word 0x81000018 [(19, 3), (14, 6), (9, 12)]) = .ok (.remn x3 x6 x12) ∧
    decode 4 (word 0x81000019 [(19, 3), (14, 6)]) = .ok (.clz x3 x6) ∧
    decode 4 (word 0x8100001a [(19, 3), (14, 6)]) = .ok (.ctz x3 x6) ∧
    decode 4 (word 0x8100001b [(19, 3), (14, 6)]) = .ok (.popc x3 x6) ∧
    decode 4 (word 0x8100001c [(19, 3), (14, 6), (9, 12)]) = .ok (.sext x3 x6 x12) := by
  refine ⟨?_, ?_, ?_, ?_, ?_, ?_, ?_, ?_, ?_, ?_, ?_, ?_, ?_, ?_, ?_, ?_, ?_, ?_, ?_, ?_, ?_, ?_, ?_, ?_, ?_, ?_, ?_, ?_, ?_⟩ <;> rfl
theorem test_words_addi :
    decode 4 (word 0x82000000 [(19, 3), (14, 6), (0, 8197)]) = .ok (.addi x3 x6 8197) ∧
    decode 4 (word 0x83000000 [(19, 3), (14, 6), (0, 8197)]) = .ok (.andi x3 x6 8197) ∧
    decode 4 (word 0x84000000 [(19, 3), (14, 6), (0, 8197)]) = .ok (.ori x3 x6 8197) ∧
    decode 4 (word 0x85000000 [(19, 3), (14, 6), (0, 8197)]) = .ok (.xori x3 x6 8197) ∧
    decode 4 (word 0x86000000 [(19, 3), (14, 6), (0, 37)]) = .ok (.shli x3 x6 37) ∧
    decode 4 (word 0x86001000 [(19, 3), (14, 6), (0, 37)]) = .ok (.shri x3 x6 37) ∧
    decode 4 (word 0x86002000 [(19, 3), (14, 6), (0, 37)]) = .ok (.sari x3 x6 37) ∧
    decode 4 (word 0x87000000 [(19, 3), (14, 6), (0, 8197)]) = .ok (.slti x3 x6 8197) ∧
    decode 4 (word 0x88000000 [(19, 3), (14, 6), (0, 8197)]) = .ok (.sltni x3 x6 8197) ∧
    decode 4 (word 0x89000000 [(19, 3), (0, 262149)]) = .ok (.lui x3 262149) ∧
    decode 4 (word 0x8a000000 [(19, 3), (0, 262149)]) = .ok (.adpc x3 262149) ∧
    decode 4 (word 0x8b000000 [(19, 3), (14, 6), (6, 29), (0, 34)]) = .ok (.bext x3 x6 29 34) ∧
    decode 4 (word 0x8b001000 [(19, 3), (14, 6), (6, 29), (0, 34)]) = .ok (.bextS x3 x6 29 34) ∧
    decode 4 (word 0x8b002000 [(19, 3), (14, 6), (6, 29), (0, 34)]) = .ok (.bins x3 x6 29 34) ∧
    decode 4 (word 0x8c000000 [(19, 3), (14, 6), (11, 3), (0, 1029)]) = .ok (.ld x3 x6 y3 1029) ∧
    decode 4 (word 0x8d000000 [(19, 3), (14, 6), (11, 2), (0, 1029)]) = .ok (.st x3 x6 y2 1029) ∧
    decode 4 (word 0x8e000000 [(19, 3), (14, 6), (11, 6), (0, 1029)]) = .ok (.lda x3 x6 y6 1029) ∧
    decode 4 (word 0x8f000000 [(19, 3), (14, 6), (11, 3), (0, 1029)]) = .ok (.stl x3 x6 y3 1029) ∧
    decode 4 (word 0x90000000 [(19, 3), (14, 6), (0, 8197)]) = .ok (.beq x3 x6 8197) ∧
    decode 4 (word 0x91000000 [(19, 3), (14, 6), (0, 8197)]) = .ok (.bne x3 x6 8197) ∧
    decode 4 (word 0x92000000 [(19, 3), (14, 6), (0, 8197)]) = .ok (.blt x3 x6 8197) ∧
    decode 4 (word 0x93000000 [(19, 3), (14, 6), (0, 8197)]) = .ok (.bge x3 x6 8197) ∧
    decode 4 (word 0x94000000 [(19, 3), (14, 6), (0, 8197)]) = .ok (.bltn x3 x6 8197) ∧
    decode 4 (word 0x95000000 [(19, 3), (14, 6), (0, 8197)]) = .ok (.bgen x3 x6 8197) ∧
    decode 4 (word 0x96000000 [(0, 8388613)]) = .ok (.jmp 8388613) ∧
    decode 4 (word 0x97000000 [(0, 8388613)]) = .ok (.call 8388613) := by
  refine ⟨?_, ?_, ?_, ?_, ?_, ?_, ?_, ?_, ?_, ?_, ?_, ?_, ?_, ?_, ?_, ?_, ?_, ?_, ?_, ?_, ?_, ?_, ?_, ?_, ?_, ?_⟩ <;> rfl
theorem test_words_jr :
    decode 4 (word 0x98000000 [(14, 3)]) = .ok (.jr x3) ∧
    decode 4 (word 0x98000001 [(19, 3), (14, 6)]) = .ok (.callr x3 x6) ∧
    decode 4 (word 0x99000000 [(19, 3), (14, 6), (9, 12), (5, 2), (4, 1)]) = .ok (.amoSwap x3 x6 x12 z2 true) ∧
    decode 4 (word 0x99000001 [(19, 3), (14, 6), (9, 12), (5, 2), (4, 1)]) = .ok (.amoAdd x3 x6 x12 z2 true) ∧
    decode 4 (word 0x99000002 [(19, 3), (14, 6), (9, 12), (5, 2), (4, 1)]) = .ok (.amoAnd x3 x6 x12 z2 true) ∧
    decode 4 (word 0x99000003 [(19, 3), (14, 6), (9, 12), (5, 2), (4, 1)]) = .ok (.amoOr x3 x6 x12 z2 true) ∧
    decode 4 (word 0x99000004 [(19, 3), (14, 6), (9, 12), (5, 2), (4, 1)]) = .ok (.amoXor x3 x6 x12 z2 true) ∧
    decode 4 (word 0x99000005 [(19, 3), (14, 6), (9, 12), (5, 2), (4, 1)]) = .ok (.amoMin x3 x6 x12 z2 true) ∧
    decode 4 (word 0x99000006 [(19, 3), (14, 6), (9, 12), (5, 2), (4, 1)]) = .ok (.amoMax x3 x6 x12 z2 true) ∧
    decode 4 (word 0x99000007 [(19, 3), (14, 6), (9, 12), (5, 2), (4, 1)]) = .ok (.amoMinn x3 x6 x12 z2 true) ∧
    decode 4 (word 0x99000008 [(19, 3), (14, 6), (9, 12), (5, 2), (4, 1)]) = .ok (.amoMaxn x3 x6 x12 z2 true) ∧
    decode 4 (word 0x9a000000 [(19, 3), (14, 6), (9, 12), (4, 25), (1, 2), (0, 1)]) = .ok (.cas x3 x6 x12 x25 z2 true) ∧
    decode 4 (word 0x9b000000 [(2, 3), (0, 2)]) = .ok (.fence y3 z2) ∧
    decode 4 (word 0x9c000000 [(14, 3)]) = .ok (.trap x3) ∧
    decode 4 (word 0x9c000001 []) = .ok (.rett) ∧
    decode 4 (word 0x9c000002 [(19, 3)]) = .ok (.ckpt x3) ∧
    decode 4 (word 0x9c000003 []) = .ok (.exit) ∧
    decode 4 (word 0x9c000004 []) = .ok (.yield) ∧
    decode 4 (word 0x9c000005 [(14, 3)]) = .ok (.sloop x3) ∧
    decode 4 (word 0x9d000000 [(19, 3), (2, 263)]) = .ok (.crr x3 263) ∧
    decode 4 (word 0x9d000001 [(19, 3), (14, 6), (2, 263)]) = .ok (.crw x3 x6 263) ∧
    decode 4 (word 0x9d000002 [(19, 3), (14, 6), (2, 263)]) = .ok (.crs x3 x6 263) ∧
    decode 4 (word 0x9d000003 [(19, 3), (14, 6), (2, 263)]) = .ok (.crc x3 x6 263) ∧
    decode 4 (word 0x9e000000 [(0, 8388613)]) = .ok (.snext 8388613) ∧
    decode 4 (word 0x9f000000 [(19, 3), (14, 6)]) = .ok (.launch x3 x6) ∧
    decode 4 (word 0x9f000001 [(19, 3), (14, 6)]) = .ok (.launchLend x3 x6) := by
  refine ⟨?_, ?_, ?_, ?_, ?_, ?_, ?_, ?_, ?_, ?_, ?_, ?_, ?_, ?_, ?_, ?_, ?_, ?_, ?_, ?_, ?_, ?_, ?_, ?_, ?_, ?_⟩ <;> rfl
theorem test_words_fadd :
    decode 4 (word 0xa0000000 [(19, 3), (14, 6), (9, 12), (7, 1)]) = .ok (.fadd x3 x6 x12 true) ∧
    decode 4 (word 0xa0000001 [(19, 3), (14, 6), (9, 12), (7, 1)]) = .ok (.fsub x3 x6 x12 true) ∧
    decode 4 (word 0xa0000002 [(19, 3), (14, 6), (9, 12), (7, 1)]) = .ok (.fmul x3 x6 x12 true) ∧
    decode 4 (word 0xa0000003 [(19, 3), (14, 6), (9, 12), (7, 1)]) = .ok (.fdiv x3 x6 x12 true) ∧
    decode 4 (word 0xa0000004 [(19, 3), (14, 6), (7, 1)]) = .ok (.fsqrt x3 x6 true) ∧
    decode 4 (word 0xa0000005 [(19, 3), (14, 6), (9, 12), (7, 1)]) = .ok (.fmin x3 x6 x12 true) ∧
    decode 4 (word 0xa0000006 [(19, 3), (14, 6), (9, 12), (7, 1)]) = .ok (.fmax x3 x6 x12 true) ∧
    decode 4 (word 0xa0000007 [(19, 3), (14, 6), (9, 12), (7, 1)]) = .ok (.fcmpEq x3 x6 x12 true) ∧
    decode 4 (word 0xa0000008 [(19, 3), (14, 6), (9, 12), (7, 1)]) = .ok (.fcmpLt x3 x6 x12 true) ∧
    decode 4 (word 0xa0000009 [(19, 3), (14, 6), (9, 12), (7, 1)]) = .ok (.fcmpLe x3 x6 x12 true) ∧
    decode 4 (word 0xa000000a [(19, 3), (14, 6), (7, 1)]) = .ok (.fclass x3 x6 true) ∧
    decode 4 (word 0xa000000b [(19, 3), (14, 6), (7, 1)]) = .ok (.fcvtF x3 x6 true) ∧
    decode 4 (word 0xa000000c [(19, 3), (14, 6), (7, 1)]) = .ok (.fcvtI64 x3 x6 true) ∧
    decode 4 (word 0xa000000d [(19, 3), (14, 6), (7, 1)]) = .ok (.fcvtN64 x3 x6 true) ∧
    decode 4 (word 0xa000000e [(19, 3), (14, 6), (7, 1)]) = .ok (.fcvtFi x3 x6 true) ∧
    decode 4 (word 0xa000000f [(19, 3), (14, 6), (7, 1)]) = .ok (.fcvtFn x3 x6 true) ∧
    decode 4 (word 0xa1000000 [(19, 3), (14, 6), (9, 12), (4, 25), (2, 1)]) = .ok (.fma x3 x6 x12 x25 true) ∧
    decode 4 (word 0xa1000001 [(19, 3), (14, 6), (9, 12), (4, 25), (2, 1)]) = .ok (.fms x3 x6 x12 x25 true) ∧
    decode 4 (word 0xa1000002 [(19, 3), (14, 6), (9, 12), (4, 25), (2, 1)]) = .ok (.fnma x3 x6 x12 x25 true) ∧
    decode 4 (word 0xa1000003 [(19, 3), (14, 6), (9, 12), (4, 25), (2, 1)]) = .ok (.fnms x3 x6 x12 x25 true) ∧
    decode 4 (word 0xa8000000 [(19, 3), (14, 6), (0, 8197)]) = .ok (.vsetl x3 x6 8197) ∧
    decode 4 (word 0xa9000000 [(23, 1), (20, 5), (15, 3), (10, 6), (3, 1)]) = .ok (.vld true y5 x3 x6 true) ∧
    decode 4 (word 0xa9000001 [(23, 1), (20, 5), (15, 3), (10, 6), (5, 12), (3, 1)]) = .ok (.vldS true y5 x3 x6 x12 true) ∧
    decode 4 (word 0xa9000002 [(23, 1), (20, 5), (15, 3), (10, 6), (5, 12), (3, 1)]) = .ok (.vldX true y5 x3 x6 x12 true) ∧
    decode 4 (word 0xa9000003 [(23, 1), (20, 5), (15, 3), (10, 6), (3, 1)]) = .ok (.vldFf true y5 x3 x6 true) ∧
    decode 4 (word 0xa9000004 [(23, 1), (20, 5), (15, 3), (10, 6), (5, 12), (3, 1)]) = .ok (.vldP true y5 x3 x6 x12 true) := by
  refine ⟨?_, ?_, ?_, ?_, ?_, ?_, ?_, ?_, ?_, ?_, ?_, ?_, ?_, ?_, ?_, ?_, ?_, ?_, ?_, ?_, ?_, ?_, ?_, ?_, ?_, ?_⟩ <;> rfl
theorem test_words_vst :
    decode 4 (word 0xaa000000 [(23, 1), (20, 5), (15, 3), (10, 6), (3, 1)]) = .ok (.vst true y5 x3 x6 true) ∧
    decode 4 (word 0xaa000001 [(23, 1), (20, 5), (15, 3), (10, 6), (5, 12), (3, 1)]) = .ok (.vstS true y5 x3 x6 x12 true) ∧
    decode 4 (word 0xaa000002 [(23, 1), (20, 5), (15, 3), (10, 6), (5, 12), (3, 1)]) = .ok (.vstX true y5 x3 x6 x12 true) ∧
    decode 4 (word 0xaa000003 [(23, 1), (20, 5), (15, 3), (10, 6), (5, 12), (3, 1)]) = .ok (.vstXo true y5 x3 x6 x12 true) ∧
    decode 4 (word 0xaa000004 [(23, 1), (20, 5), (15, 3), (10, 6), (5, 12), (3, 1)]) = .ok (.vstP true y5 x3 x6 x12 true) ∧
    decode 4 (word 0xab000000 [(23, 1), (20, 5), (15, 3), (10, 6), (5, 12), (4, 1)]) = .ok (.vamoSwap true y5 x3 x6 x12 true) ∧
    decode 4 (word 0xab000001 [(23, 1), (20, 5), (15, 3), (10, 6), (5, 12), (4, 1)]) = .ok (.vamoAdd true y5 x3 x6 x12 true) ∧
    decode 4 (word 0xab000002 [(23, 1), (20, 5), (15, 3), (10, 6), (5, 12), (4, 1)]) = .ok (.vamoAnd true y5 x3 x6 x12 true) ∧
    decode 4 (word 0xab000003 [(23, 1), (20, 5), (15, 3), (10, 6), (5, 12), (4, 1)]) = .ok (.vamoOr true y5 x3 x6 x12 true) ∧
    decode 4 (word 0xab000004 [(23, 1), (20, 5), (15, 3), (10, 6), (5, 12), (4, 1)]) = .ok (.vamoXor true y5 x3 x6 x12 true) ∧
    decode 4 (word 0xab000005 [(23, 1), (20, 5), (15, 3), (10, 6), (5, 12), (4, 1)]) = .ok (.vamoMin true y5 x3 x6 x12 true) ∧
    decode 4 (word 0xab000006 [(23, 1), (20, 5), (15, 3), (10, 6), (5, 12), (4, 1)]) = .ok (.vamoMax true y5 x3 x6 x12 true) ∧
    decode 4 (word 0xab000007 [(23, 1), (20, 5), (15, 3), (10, 6), (5, 12), (4, 1)]) = .ok (.vamoMinn true y5 x3 x6 x12 true) ∧
    decode 4 (word 0xab000008 [(23, 1), (20, 5), (15, 3), (10, 6), (5, 12), (4, 1)]) = .ok (.vamoMaxn true y5 x3 x6 x12 true) ∧
    decode 4 (word 0xac000000 [(23, 1), (20, 5), (15, 3), (10, 6), (5, 12)]) = .ok (.vaddVv true y5 x3 x6 x12) ∧
    decode 4 (word 0xad000000 [(23, 1), (20, 5), (15, 3), (10, 6), (5, 12)]) = .ok (.vaddVx true y5 x3 x6 x12) ∧
    decode 4 (word 0xae000000 [(23, 1), (20, 5), (15, 3), (10, 21), (5, 12)]) = .ok (.vaddVi true y5 x3 21 x12) ∧
    decode 4 (word 0xac000001 [(23, 1), (20, 5), (15, 3), (10, 6), (5, 12)]) = .ok (.vsubVv true y5 x3 x6 x12) ∧
    decode 4 (word 0xad000001 [(23, 1), (20, 5), (15, 3), (10, 6), (5, 12)]) = .ok (.vsubVx true y5 x3 x6 x12) ∧
    decode 4 (word 0xae000001 [(23, 1), (20, 5), (15, 3), (10, 21), (5, 12)]) = .ok (.vsubVi true y5 x3 21 x12) ∧
    decode 4 (word 0xac000002 [(23, 1), (20, 5), (15, 3), (10, 6), (5, 12)]) = .ok (.vrsubVv true y5 x3 x6 x12) ∧
    decode 4 (word 0xad000002 [(23, 1), (20, 5), (15, 3), (10, 6), (5, 12)]) = .ok (.vrsubVx true y5 x3 x6 x12) ∧
    decode 4 (word 0xae000002 [(23, 1), (20, 5), (15, 3), (10, 21), (5, 12)]) = .ok (.vrsubVi true y5 x3 21 x12) ∧
    decode 4 (word 0xac000003 [(23, 1), (20, 5), (15, 3), (10, 6), (5, 12)]) = .ok (.vmulVv true y5 x3 x6 x12) ∧
    decode 4 (word 0xad000003 [(23, 1), (20, 5), (15, 3), (10, 6), (5, 12)]) = .ok (.vmulVx true y5 x3 x6 x12) ∧
    decode 4 (word 0xae000003 [(23, 1), (20, 5), (15, 3), (10, 21), (5, 12)]) = .ok (.vmulVi true y5 x3 21 x12) := by
  refine ⟨?_, ?_, ?_, ?_, ?_, ?_, ?_, ?_, ?_, ?_, ?_, ?_, ?_, ?_, ?_, ?_, ?_, ?_, ?_, ?_, ?_, ?_, ?_, ?_, ?_, ?_⟩ <;> rfl
theorem test_words_vmulhVv :
    decode 4 (word 0xac000004 [(23, 1), (20, 5), (15, 3), (10, 6), (5, 12)]) = .ok (.vmulhVv true y5 x3 x6 x12) ∧
    decode 4 (word 0xad000004 [(23, 1), (20, 5), (15, 3), (10, 6), (5, 12)]) = .ok (.vmulhVx true y5 x3 x6 x12) ∧
    decode 4 (word 0xae000004 [(23, 1), (20, 5), (15, 3), (10, 21), (5, 12)]) = .ok (.vmulhVi true y5 x3 21 x12) ∧
    decode 4 (word 0xac000005 [(23, 1), (20, 5), (15, 3), (10, 6), (5, 12)]) = .ok (.vmulhnVv true y5 x3 x6 x12) ∧
    decode 4 (word 0xad000005 [(23, 1), (20, 5), (15, 3), (10, 6), (5, 12)]) = .ok (.vmulhnVx true y5 x3 x6 x12) ∧
    decode 4 (word 0xae000005 [(23, 1), (20, 5), (15, 3), (10, 21), (5, 12)]) = .ok (.vmulhnVi true y5 x3 21 x12) ∧
    decode 4 (word 0xac000006 [(23, 1), (20, 5), (15, 3), (10, 6), (5, 12)]) = .ok (.vmaddVv true y5 x3 x6 x12) ∧
    decode 4 (word 0xad000006 [(23, 1), (20, 5), (15, 3), (10, 6), (5, 12)]) = .ok (.vmaddVx true y5 x3 x6 x12) ∧
    decode 4 (word 0xae000006 [(23, 1), (20, 5), (15, 3), (10, 21), (5, 12)]) = .ok (.vmaddVi true y5 x3 21 x12) ∧
    decode 4 (word 0xac000007 [(23, 1), (20, 5), (15, 3), (10, 6), (5, 12)]) = .ok (.vdivVv true y5 x3 x6 x12) ∧
    decode 4 (word 0xad000007 [(23, 1), (20, 5), (15, 3), (10, 6), (5, 12)]) = .ok (.vdivVx true y5 x3 x6 x12) ∧
    decode 4 (word 0xae000007 [(23, 1), (20, 5), (15, 3), (10, 21), (5, 12)]) = .ok (.vdivVi true y5 x3 21 x12) ∧
    decode 4 (word 0xac000008 [(23, 1), (20, 5), (15, 3), (10, 6), (5, 12)]) = .ok (.vdivnVv true y5 x3 x6 x12) ∧
    decode 4 (word 0xad000008 [(23, 1), (20, 5), (15, 3), (10, 6), (5, 12)]) = .ok (.vdivnVx true y5 x3 x6 x12) ∧
    decode 4 (word 0xae000008 [(23, 1), (20, 5), (15, 3), (10, 21), (5, 12)]) = .ok (.vdivnVi true y5 x3 21 x12) ∧
    decode 4 (word 0xac000009 [(23, 1), (20, 5), (15, 3), (10, 6), (5, 12)]) = .ok (.vremVv true y5 x3 x6 x12) ∧
    decode 4 (word 0xad000009 [(23, 1), (20, 5), (15, 3), (10, 6), (5, 12)]) = .ok (.vremVx true y5 x3 x6 x12) ∧
    decode 4 (word 0xae000009 [(23, 1), (20, 5), (15, 3), (10, 21), (5, 12)]) = .ok (.vremVi true y5 x3 21 x12) ∧
    decode 4 (word 0xac00000a [(23, 1), (20, 5), (15, 3), (10, 6), (5, 12)]) = .ok (.vremnVv true y5 x3 x6 x12) ∧
    decode 4 (word 0xad00000a [(23, 1), (20, 5), (15, 3), (10, 6), (5, 12)]) = .ok (.vremnVx true y5 x3 x6 x12) ∧
    decode 4 (word 0xae00000a [(23, 1), (20, 5), (15, 3), (10, 21), (5, 12)]) = .ok (.vremnVi true y5 x3 21 x12) ∧
    decode 4 (word 0xac00000b [(23, 1), (20, 5), (15, 3), (10, 6), (5, 12)]) = .ok (.vandVv true y5 x3 x6 x12) ∧
    decode 4 (word 0xad00000b [(23, 1), (20, 5), (15, 3), (10, 6), (5, 12)]) = .ok (.vandVx true y5 x3 x6 x12) ∧
    decode 4 (word 0xae00000b [(23, 1), (20, 5), (15, 3), (10, 21), (5, 12)]) = .ok (.vandVi true y5 x3 21 x12) ∧
    decode 4 (word 0xac00000c [(23, 1), (20, 5), (15, 3), (10, 6), (5, 12)]) = .ok (.vorVv true y5 x3 x6 x12) ∧
    decode 4 (word 0xad00000c [(23, 1), (20, 5), (15, 3), (10, 6), (5, 12)]) = .ok (.vorVx true y5 x3 x6 x12) := by
  refine ⟨?_, ?_, ?_, ?_, ?_, ?_, ?_, ?_, ?_, ?_, ?_, ?_, ?_, ?_, ?_, ?_, ?_, ?_, ?_, ?_, ?_, ?_, ?_, ?_, ?_, ?_⟩ <;> rfl
theorem test_words_vorVi :
    decode 4 (word 0xae00000c [(23, 1), (20, 5), (15, 3), (10, 21), (5, 12)]) = .ok (.vorVi true y5 x3 21 x12) ∧
    decode 4 (word 0xac00000d [(23, 1), (20, 5), (15, 3), (10, 6), (5, 12)]) = .ok (.vxorVv true y5 x3 x6 x12) ∧
    decode 4 (word 0xad00000d [(23, 1), (20, 5), (15, 3), (10, 6), (5, 12)]) = .ok (.vxorVx true y5 x3 x6 x12) ∧
    decode 4 (word 0xae00000d [(23, 1), (20, 5), (15, 3), (10, 21), (5, 12)]) = .ok (.vxorVi true y5 x3 21 x12) ∧
    decode 4 (word 0xac00000e [(23, 1), (20, 5), (15, 3), (10, 6), (5, 12)]) = .ok (.vshlVv true y5 x3 x6 x12) ∧
    decode 4 (word 0xad00000e [(23, 1), (20, 5), (15, 3), (10, 6), (5, 12)]) = .ok (.vshlVx true y5 x3 x6 x12) ∧
    decode 4 (word 0xae00000e [(23, 1), (20, 5), (15, 3), (10, 21), (5, 12)]) = .ok (.vshlVi true y5 x3 21 x12) ∧
    decode 4 (word 0xac00000f [(23, 1), (20, 5), (15, 3), (10, 6), (5, 12)]) = .ok (.vshrVv true y5 x3 x6 x12) ∧
    decode 4 (word 0xad00000f [(23, 1), (20, 5), (15, 3), (10, 6), (5, 12)]) = .ok (.vshrVx true y5 x3 x6 x12) ∧
    decode 4 (word 0xae00000f [(23, 1), (20, 5), (15, 3), (10, 21), (5, 12)]) = .ok (.vshrVi true y5 x3 21 x12) ∧
    decode 4 (word 0xac000010 [(23, 1), (20, 5), (15, 3), (10, 6), (5, 12)]) = .ok (.vsarVv true y5 x3 x6 x12) ∧
    decode 4 (word 0xad000010 [(23, 1), (20, 5), (15, 3), (10, 6), (5, 12)]) = .ok (.vsarVx true y5 x3 x6 x12) ∧
    decode 4 (word 0xae000010 [(23, 1), (20, 5), (15, 3), (10, 21), (5, 12)]) = .ok (.vsarVi true y5 x3 21 x12) ∧
    decode 4 (word 0xac000011 [(23, 1), (20, 5), (15, 3), (10, 6), (5, 12)]) = .ok (.vminVv true y5 x3 x6 x12) ∧
    decode 4 (word 0xad000011 [(23, 1), (20, 5), (15, 3), (10, 6), (5, 12)]) = .ok (.vminVx true y5 x3 x6 x12) ∧
    decode 4 (word 0xae000011 [(23, 1), (20, 5), (15, 3), (10, 21), (5, 12)]) = .ok (.vminVi true y5 x3 21 x12) ∧
    decode 4 (word 0xac000012 [(23, 1), (20, 5), (15, 3), (10, 6), (5, 12)]) = .ok (.vmaxVv true y5 x3 x6 x12) ∧
    decode 4 (word 0xad000012 [(23, 1), (20, 5), (15, 3), (10, 6), (5, 12)]) = .ok (.vmaxVx true y5 x3 x6 x12) ∧
    decode 4 (word 0xae000012 [(23, 1), (20, 5), (15, 3), (10, 21), (5, 12)]) = .ok (.vmaxVi true y5 x3 21 x12) ∧
    decode 4 (word 0xac000013 [(23, 1), (20, 5), (15, 3), (10, 6), (5, 12)]) = .ok (.vminnVv true y5 x3 x6 x12) ∧
    decode 4 (word 0xad000013 [(23, 1), (20, 5), (15, 3), (10, 6), (5, 12)]) = .ok (.vminnVx true y5 x3 x6 x12) ∧
    decode 4 (word 0xae000013 [(23, 1), (20, 5), (15, 3), (10, 21), (5, 12)]) = .ok (.vminnVi true y5 x3 21 x12) ∧
    decode 4 (word 0xac000014 [(23, 1), (20, 5), (15, 3), (10, 6), (5, 12)]) = .ok (.vmaxnVv true y5 x3 x6 x12) ∧
    decode 4 (word 0xad000014 [(23, 1), (20, 5), (15, 3), (10, 6), (5, 12)]) = .ok (.vmaxnVx true y5 x3 x6 x12) ∧
    decode 4 (word 0xae000014 [(23, 1), (20, 5), (15, 3), (10, 21), (5, 12)]) = .ok (.vmaxnVi true y5 x3 21 x12) ∧
    decode 4 (word 0xac000015 [(23, 1), (20, 5), (15, 3), (10, 6), (5, 12)]) = .ok (.vsaddVv true y5 x3 x6 x12) := by
  refine ⟨?_, ?_, ?_, ?_, ?_, ?_, ?_, ?_, ?_, ?_, ?_, ?_, ?_, ?_, ?_, ?_, ?_, ?_, ?_, ?_, ?_, ?_, ?_, ?_, ?_, ?_⟩ <;> rfl
theorem test_words_vsaddVx :
    decode 4 (word 0xad000015 [(23, 1), (20, 5), (15, 3), (10, 6), (5, 12)]) = .ok (.vsaddVx true y5 x3 x6 x12) ∧
    decode 4 (word 0xae000015 [(23, 1), (20, 5), (15, 3), (10, 21), (5, 12)]) = .ok (.vsaddVi true y5 x3 21 x12) ∧
    decode 4 (word 0xac000016 [(23, 1), (20, 5), (15, 3), (10, 6), (5, 12)]) = .ok (.vssubVv true y5 x3 x6 x12) ∧
    decode 4 (word 0xad000016 [(23, 1), (20, 5), (15, 3), (10, 6), (5, 12)]) = .ok (.vssubVx true y5 x3 x6 x12) ∧
    decode 4 (word 0xae000016 [(23, 1), (20, 5), (15, 3), (10, 21), (5, 12)]) = .ok (.vssubVi true y5 x3 21 x12) ∧
    decode 4 (word 0xac000017 [(23, 1), (20, 5), (15, 3), (10, 6), (5, 12)]) = .ok (.vsaddnVv true y5 x3 x6 x12) ∧
    decode 4 (word 0xad000017 [(23, 1), (20, 5), (15, 3), (10, 6), (5, 12)]) = .ok (.vsaddnVx true y5 x3 x6 x12) ∧
    decode 4 (word 0xae000017 [(23, 1), (20, 5), (15, 3), (10, 21), (5, 12)]) = .ok (.vsaddnVi true y5 x3 21 x12) ∧
    decode 4 (word 0xac000018 [(23, 1), (20, 5), (15, 3), (10, 6), (5, 12)]) = .ok (.vssubnVv true y5 x3 x6 x12) ∧
    decode 4 (word 0xad000018 [(23, 1), (20, 5), (15, 3), (10, 6), (5, 12)]) = .ok (.vssubnVx true y5 x3 x6 x12) ∧
    decode 4 (word 0xae000018 [(23, 1), (20, 5), (15, 3), (10, 21), (5, 12)]) = .ok (.vssubnVi true y5 x3 21 x12) ∧
    decode 4 (word 0xac000019 [(23, 1), (20, 5), (15, 3), (10, 6), (5, 12)]) = .ok (.vabsdVv true y5 x3 x6 x12) ∧
    decode 4 (word 0xad000019 [(23, 1), (20, 5), (15, 3), (10, 6), (5, 12)]) = .ok (.vabsdVx true y5 x3 x6 x12) ∧
    decode 4 (word 0xae000019 [(23, 1), (20, 5), (15, 3), (10, 21), (5, 12)]) = .ok (.vabsdVi true y5 x3 21 x12) ∧
    decode 4 (word 0xac00001a [(23, 1), (20, 5), (15, 3), (10, 6), (5, 12)]) = .ok (.vmergeVv true y5 x3 x6 x12) ∧
    decode 4 (word 0xad00001a [(23, 1), (20, 5), (15, 3), (10, 6), (5, 12)]) = .ok (.vmergeVx true y5 x3 x6 x12) ∧
    decode 4 (word 0xae00001a [(23, 1), (20, 5), (15, 3), (10, 21), (5, 12)]) = .ok (.vmergeVi true y5 x3 21 x12) ∧
    decode 4 (word 0xac00001b [(23, 1), (20, 5), (15, 3), (10, 6)]) = .ok (.vmovVv true y5 x3 x6) ∧
    decode 4 (word 0xad00001b [(23, 1), (20, 5), (15, 3), (10, 6)]) = .ok (.vmovVx true y5 x3 x6) ∧
    decode 4 (word 0xae00001b [(23, 1), (20, 5), (15, 3), (10, 21)]) = .ok (.vmovVi true y5 x3 21) ∧
    decode 4 (word 0xaf000000 [(23, 1), (20, 5), (15, 3), (10, 6), (5, 12)]) = .ok (.vfaddVv true y5 x3 x6 x12) ∧
    decode 4 (word 0xb0000000 [(23, 1), (20, 5), (15, 3), (10, 6), (5, 12)]) = .ok (.vfaddVx true y5 x3 x6 x12) ∧
    decode 4 (word 0xaf000001 [(23, 1), (20, 5), (15, 3), (10, 6), (5, 12)]) = .ok (.vfsubVv true y5 x3 x6 x12) ∧
    decode 4 (word 0xb0000001 [(23, 1), (20, 5), (15, 3), (10, 6), (5, 12)]) = .ok (.vfsubVx true y5 x3 x6 x12) ∧
    decode 4 (word 0xaf000002 [(23, 1), (20, 5), (15, 3), (10, 6), (5, 12)]) = .ok (.vfmulVv true y5 x3 x6 x12) ∧
    decode 4 (word 0xb0000002 [(23, 1), (20, 5), (15, 3), (10, 6), (5, 12)]) = .ok (.vfmulVx true y5 x3 x6 x12) := by
  refine ⟨?_, ?_, ?_, ?_, ?_, ?_, ?_, ?_, ?_, ?_, ?_, ?_, ?_, ?_, ?_, ?_, ?_, ?_, ?_, ?_, ?_, ?_, ?_, ?_, ?_, ?_⟩ <;> rfl
theorem test_words_vfdivVv :
    decode 4 (word 0xaf000003 [(23, 1), (20, 5), (15, 3), (10, 6), (5, 12)]) = .ok (.vfdivVv true y5 x3 x6 x12) ∧
    decode 4 (word 0xb0000003 [(23, 1), (20, 5), (15, 3), (10, 6), (5, 12)]) = .ok (.vfdivVx true y5 x3 x6 x12) ∧
    decode 4 (word 0xaf000004 [(23, 1), (20, 5), (15, 3), (5, 6)]) = .ok (.vfsqrt true y5 x3 x6) ∧
    decode 4 (word 0xaf000005 [(23, 1), (20, 5), (15, 3), (10, 6), (5, 12)]) = .ok (.vfmaVv true y5 x3 x6 x12) ∧
    decode 4 (word 0xb0000005 [(23, 1), (20, 5), (15, 3), (10, 6), (5, 12)]) = .ok (.vfmaVx true y5 x3 x6 x12) ∧
    decode 4 (word 0xaf000006 [(23, 1), (20, 5), (15, 3), (10, 6), (5, 12)]) = .ok (.vfmsVv true y5 x3 x6 x12) ∧
    decode 4 (word 0xb0000006 [(23, 1), (20, 5), (15, 3), (10, 6), (5, 12)]) = .ok (.vfmsVx true y5 x3 x6 x12) ∧
    decode 4 (word 0xaf000007 [(23, 1), (20, 5), (15, 3), (10, 6), (5, 12)]) = .ok (.vfnmaVv true y5 x3 x6 x12) ∧
    decode 4 (word 0xb0000007 [(23, 1), (20, 5), (15, 3), (10, 6), (5, 12)]) = .ok (.vfnmaVx true y5 x3 x6 x12) ∧
    decode 4 (word 0xaf000008 [(23, 1), (20, 5), (15, 3), (10, 6), (5, 12)]) = .ok (.vfminVv true y5 x3 x6 x12) ∧
    decode 4 (word 0xb0000008 [(23, 1), (20, 5), (15, 3), (10, 6), (5, 12)]) = .ok (.vfminVx true y5 x3 x6 x12) ∧
    decode 4 (word 0xaf000009 [(23, 1), (20, 5), (15, 3), (10, 6), (5, 12)]) = .ok (.vfmaxVv true y5 x3 x6 x12) ∧
    decode 4 (word 0xb0000009 [(23, 1), (20, 5), (15, 3), (10, 6), (5, 12)]) = .ok (.vfmaxVx true y5 x3 x6 x12) ∧
    decode 4 (word 0xaf00000a [(23, 1), (20, 5), (15, 3), (5, 6)]) = .ok (.vfabs true y5 x3 x6) ∧
    decode 4 (word 0xaf00000b [(23, 1), (20, 5), (15, 3), (5, 6)]) = .ok (.vfneg true y5 x3 x6) ∧
    decode 4 (word 0xaf00000c [(23, 1), (20, 5), (15, 3), (5, 6)]) = .ok (.vfrcp true y5 x3 x6) ∧
    decode 4 (word 0xaf00000d [(23, 1), (20, 5), (15, 3), (5, 6)]) = .ok (.vfrsq true y5 x3 x6) ∧
    decode 4 (word 0xaf00000e [(23, 1), (20, 5), (15, 3), (5, 6)]) = .ok (.vfexp2 true y5 x3 x6) ∧
    decode 4 (word 0xaf00000f [(23, 1), (20, 5), (15, 3), (5, 6)]) = .ok (.vflog2 true y5 x3 x6) ∧
    decode 4 (word 0xaf000010 [(23, 1), (20, 5), (15, 3), (5, 6)]) = .ok (.vfclass true y5 x3 x6) := by
  refine ⟨?_, ?_, ?_, ?_, ?_, ?_, ?_, ?_, ?_, ?_, ?_, ?_, ?_, ?_, ?_, ?_, ?_, ?_, ?_, ?_⟩ <;> rfl
theorem test_words_vcmpEq :
    decode 4 (word 0xb1000000 [(23, 1), (20, 5), (19, 1), (15, 3), (10, 3), (5, 6), (3, 1)]) = .ok (.vcmpEq true y5 true y3 x3 x6 true) ∧
    decode 4 (word 0xb1000001 [(23, 1), (20, 5), (19, 1), (15, 3), (10, 3), (5, 6), (3, 1)]) = .ok (.vcmpNe true y5 true y3 x3 x6 true) ∧
    decode 4 (word 0xb1000002 [(23, 1), (20, 5), (19, 1), (15, 3), (10, 3), (5, 6), (3, 1)]) = .ok (.vcmpLt true y5 true y3 x3 x6 true) ∧
    decode 4 (word 0xb1000003 [(23, 1), (20, 5), (19, 1), (15, 3), (10, 3), (5, 6), (3, 1)]) = .ok (.vcmpLe true y5 true y3 x3 x6 true) ∧
    decode 4 (word 0xb1000004 [(23, 1), (20, 5), (19, 1), (15, 3), (10, 3), (5, 6), (3, 1)]) = .ok (.vcmpGt true y5 true y3 x3 x6 true) ∧
    decode 4 (word 0xb1000005 [(23, 1), (20, 5), (19, 1), (15, 3), (10, 3), (5, 6), (3, 1)]) = .ok (.vcmpGe true y5 true y3 x3 x6 true) ∧
    decode 4 (word 0xb1000010 [(23, 1), (20, 5), (19, 1), (15, 3), (10, 3), (5, 6), (3, 1)]) = .ok (.vcmpxEq true y5 true y3 x3 x6 true) ∧
    decode 4 (word 0xb1000011 [(23, 1), (20, 5), (19, 1), (15, 3), (10, 3), (5, 6), (3, 1)]) = .ok (.vcmpxNe true y5 true y3 x3 x6 true) ∧
    decode 4 (word 0xb1000012 [(23, 1), (20, 5), (19, 1), (15, 3), (10, 3), (5, 6), (3, 1)]) = .ok (.vcmpxLt true y5 true y3 x3 x6 true) ∧
    decode 4 (word 0xb1000013 [(23, 1), (20, 5), (19, 1), (15, 3), (10, 3), (5, 6), (3, 1)]) = .ok (.vcmpxLe true y5 true y3 x3 x6 true) ∧
    decode 4 (word 0xb1000014 [(23, 1), (20, 5), (19, 1), (15, 3), (10, 3), (5, 6), (3, 1)]) = .ok (.vcmpxGt true y5 true y3 x3 x6 true) ∧
    decode 4 (word 0xb1000015 [(23, 1), (20, 5), (19, 1), (15, 3), (10, 3), (5, 6), (3, 1)]) = .ok (.vcmpxGe true y5 true y3 x3 x6 true) ∧
    decode 4 (word 0xb2000000 [(23, 1), (20, 5), (15, 3), (10, 6), (5, 5)]) = .ok (.pand true y5 y3 y6 y5) ∧
    decode 4 (word 0xb2000001 [(23, 1), (20, 5), (15, 3), (10, 6), (5, 5)]) = .ok (.por true y5 y3 y6 y5) ∧
    decode 4 (word 0xb2000002 [(23, 1), (20, 5), (15, 3), (10, 6), (5, 5)]) = .ok (.pxor true y5 y3 y6 y5) ∧
    decode 4 (word 0xb2000003 [(23, 1), (20, 5), (15, 3), (10, 6), (5, 5)]) = .ok (.pandn true y5 y3 y6 y5) ∧
    decode 4 (word 0xb2000004 [(23, 1), (20, 5), (15, 3), (5, 6)]) = .ok (.pnot true y5 y3 y6) ∧
    decode 4 (word 0xb2000005 [(23, 1), (20, 5), (15, 3), (5, 6)]) = .ok (.pmov true y5 y3 y6) ∧
    decode 4 (word 0xb2000006 [(23, 1), (20, 5), (15, 3)]) = .ok (.pset true y5 y3) ∧
    decode 4 (word 0xb2000007 [(23, 1), (20, 5), (15, 3), (5, 6)]) = .ok (.psbf true y5 y3 y6) ∧
    decode 4 (word 0xb2000008 [(23, 1), (20, 5), (15, 3), (5, 6)]) = .ok (.psif true y5 y3 y6) ∧
    decode 4 (word 0xb2000009 [(23, 1), (20, 5), (15, 3), (5, 6)]) = .ok (.psof true y5 y3 y6) ∧
    decode 4 (word 0xb200000a [(23, 1), (20, 5), (15, 3), (5, 3)]) = .ok (.ppopc true y5 x3 y3) ∧
    decode 4 (word 0xb200000b [(23, 1), (20, 5), (15, 3), (5, 3)]) = .ok (.pfirst true y5 x3 y3) := by
  refine ⟨?_, ?_, ?_, ?_, ?_, ?_, ?_, ?_, ?_, ?_, ?_, ?_, ?_, ?_, ?_, ?_, ?_, ?_, ?_, ?_, ?_, ?_, ?_, ?_⟩ <;> rfl
theorem test_words_vrsum :
    decode 4 (word 0xb3000000 [(23, 1), (20, 5), (15, 3), (10, 6), (5, 12)]) = .ok (.vrsum true y5 x3 x6 x12) ∧
    decode 4 (word 0xb3000001 [(23, 1), (20, 5), (15, 3), (10, 6), (5, 12)]) = .ok (.vrsumO true y5 x3 x6 x12) ∧
    decode 4 (word 0xb3000002 [(23, 1), (20, 5), (15, 3), (10, 6), (5, 12)]) = .ok (.vrmax true y5 x3 x6 x12) ∧
    decode 4 (word 0xb3000003 [(23, 1), (20, 5), (15, 3), (10, 6), (5, 12)]) = .ok (.vrmin true y5 x3 x6 x12) ∧
    decode 4 (word 0xb3000004 [(23, 1), (20, 5), (15, 3), (10, 6), (5, 12)]) = .ok (.vrmaxn true y5 x3 x6 x12) ∧
    decode 4 (word 0xb3000005 [(23, 1), (20, 5), (15, 3), (10, 6), (5, 12)]) = .ok (.vrminn true y5 x3 x6 x12) ∧
    decode 4 (word 0xb3000006 [(23, 1), (20, 5), (15, 3), (10, 6), (5, 12)]) = .ok (.vrand true y5 x3 x6 x12) ∧
    decode 4 (word 0xb3000007 [(23, 1), (20, 5), (15, 3), (10, 6), (5, 12)]) = .ok (.vror true y5 x3 x6 x12) ∧
    decode 4 (word 0xb3000008 [(23, 1), (20, 5), (15, 3), (10, 6), (5, 12)]) = .ok (.vrxor true y5 x3 x6 x12) ∧
    decode 4 (word 0xb4000000 [(23, 1), (20, 5), (15, 3), (10, 6), (5, 12)]) = .ok (.vslup true y5 x3 x6 x12) ∧
    decode 4 (word 0xb4000001 [(23, 1), (20, 5), (15, 3), (10, 6), (5, 12)]) = .ok (.vsldn true y5 x3 x6 x12) ∧
    decode 4 (word 0xb4000002 [(23, 1), (20, 5), (15, 3), (10, 6), (5, 12)]) = .ok (.vperm true y5 x3 x6 x12) ∧
    decode 4 (word 0xb4000003 [(23, 1), (20, 5), (15, 3), (5, 6)]) = .ok (.vcomp true y5 x3 x6) ∧
    decode 4 (word 0xb4000004 [(23, 1), (20, 5), (15, 3), (5, 6)]) = .ok (.vxpnd true y5 x3 x6) ∧
    decode 4 (word 0xb4000005 [(23, 1), (15, 3), (10, 6), (5, 12)]) = .ok (.vmvs true x3 x6 x12) ∧
    decode 4 (word 0xb4000006 [(23, 1), (15, 3), (10, 6), (5, 12)]) = .ok (.vmvv true x3 x6 x12) ∧
    decode 4 (word 0xb4000007 [(23, 1), (20, 5), (15, 3)]) = .ok (.viota true y5 x3) ∧
    decode 4 (word 0xb4000008 [(23, 1), (20, 5), (15, 3), (10, 6), (5, 12)]) = .ok (.vscan true y5 x3 x6 x12) ∧
    decode 4 (word 0xb5000000 [(23, 1), (20, 5), (15, 3), (10, 18), (5, 12), (4, 1), (3, 1), (2, 1), (0, 2)]) = .ok (.vcvt true y5 x3 x18 x12 true true true z2) ∧
    decode 4 (word 0xb6000000 [(23, 1), (20, 5), (15, 3), (10, 6), (5, 12)]) = .ok (.vqadd true y5 x3 x6 x12) ∧
    decode 4 (word 0xb6000001 [(23, 1), (20, 5), (15, 3), (10, 6), (5, 12)]) = .ok (.vqsub true y5 x3 x6 x12) ∧
    decode 4 (word 0xb6000002 [(23, 1), (20, 5), (15, 3), (10, 6), (5, 12)]) = .ok (.vqmul true y5 x3 x6 x12) ∧
    decode 4 (word 0xb6000003 [(23, 1), (20, 5), (15, 3), (10, 6), (5, 12)]) = .ok (.vqmac true y5 x3 x6 x12) ∧
    decode 4 (word 0xb6000004 [(23, 1), (20, 5), (15, 3), (10, 6), (5, 12)]) = .ok (.vqdot true y5 x3 x6 x12) ∧
    decode 4 (word 0xb6000005 [(23, 1), (20, 5), (15, 3), (10, 6), (5, 12)]) = .ok (.vqshr true y5 x3 x6 x12) := by
  refine ⟨?_, ?_, ?_, ?_, ?_, ?_, ?_, ?_, ?_, ?_, ?_, ?_, ?_, ?_, ?_, ?_, ?_, ?_, ?_, ?_, ?_, ?_, ?_, ?_, ?_⟩ <;> rfl
theorem test_words_vsclLd :
    decode 4 (word 0xb7000000 [(23, 1), (15, 5), (10, 3)]) = .ok (.vsclLd true y5 x3) ∧
    decode 4 (word 0xb7000001 [(23, 1), (15, 5), (10, 3)]) = .ok (.vsclSt true y5 x3) ∧
    decode 4 (word 0xb7000002 [(23, 1), (20, 5), (15, 3), (5, 3)]) = .ok (.vsclFit true y5 y3 x3) ∧
    decode 4 (word 0xb7000003 [(23, 1), (15, 5), (5, 3)]) = .ok (.vsclMov true y5 y3) ∧
    decode 4 (word 0xb8000000 [(19, 3), (14, 6), (9, 12)]) = .ok (.vsett x3 x6 x12) ∧
    decode 4 (word 0xb8000001 [(19, 3), (14, 6), (9, 12)]) = .ok (.vsetb x3 x6 x12) ∧
    decode 4 (word 0xb8000002 [(14, 3)]) = .ok (.vctxSv x3) ∧
    decode 4 (word 0xb8000003 [(14, 3)]) = .ok (.vctxRs x3) ∧
    decode 4 (word 0xb9000000 [(19, 3), (14, 6)]) = .ok (.matAtt x3 x6) ∧
    decode 4 (word 0xb9000001 []) = .ok (.matDet) ∧
    decode 4 (word 0xb9000002 [(19, 3), (14, 6)]) = .ok (.matShp x3 x6) ∧
    decode 4 (word 0xba000000 [(19, 3), (14, 6), (9, 12), (4, 25)]) = .ok (.cpyMs x3 x6 x12 x25) ∧
    decode 4 (word 0xba000001 [(19, 3), (14, 6), (9, 12), (4, 25)]) = .ok (.cpySm x3 x6 x12 x25) ∧
    decode 4 (word 0xba000002 [(19, 3), (14, 6), (9, 12), (4, 25)]) = .ok (.cpyMr x3 x6 x12 x25) ∧
    decode 4 (word 0xba000003 [(19, 3), (14, 6), (9, 12), (4, 25)]) = .ok (.cpyRm x3 x6 x12 x25) ∧
    decode 4 (word 0xba000004 [(19, 3), (14, 6), (9, 12), (4, 25)]) = .ok (.cpyRr x3 x6 x12 x25) ∧
    decode 4 (word 0xba000005 [(19, 3), (14, 6), (9, 12), (4, 25)]) = .ok (.cpyMm x3 x6 x12 x25) ∧
    decode 4 (word 0xba000006 [(19, 3), (14, 6), (9, 12), (4, 25)]) = .ok (.cpyGs x3 x6 x12 x25) ∧
    decode 4 (word 0xba000007 [(19, 3), (14, 6), (9, 12), (4, 25)]) = .ok (.cpyLz x3 x6 x12 x25) ∧
    decode 4 (word 0xbb000000 [(14, 3)]) = .ok (.bwait x3) ∧
    decode 4 (word 0xbb000001 [(19, 5), (14, 3), (9, 6)]) = .ok (.bchk y5 x3 x6) ∧
    decode 4 (word 0xbb000002 [(14, 3)]) = .ok (.brel x3) ∧
    decode 4 (word 0xbb000003 [(19, 3), (14, 6), (9, 12)]) = .ok (.bstat x3 x6 x12) := by
  refine ⟨?_, ?_, ?_, ?_, ?_, ?_, ?_, ?_, ?_, ?_, ?_, ?_, ?_, ?_, ?_, ?_, ?_, ?_, ?_, ?_, ?_, ?_, ?_⟩ <;> rfl
theorem test_words_lzOpen :
    decode 4 (word 0xbc000000 [(19, 3), (14, 6), (9, 12)]) = .ok (.lzOpen x3 x6 x12) ∧
    decode 4 (word 0xbc000001 [(14, 3)]) = .ok (.lzClose x3) ∧
    decode 4 (word 0xbc000002 [(19, 3), (14, 6), (9, 12)]) = .ok (.lzResv x3 x6 x12) ∧
    decode 4 (word 0xbc000003 [(19, 3), (14, 6)]) = .ok (.lzWait x3 x6) ∧
    decode 4 (word 0xbc000004 [(14, 3)]) = .ok (.lzFree x3) ∧
    decode 4 (word 0xbc000005 [(19, 3), (14, 6)]) = .ok (.lzStat x3 x6) ∧
    decode 4 (word 0xbd000000 [(19, 3), (14, 6), (9, 12)]) = .ok (.ctrAdd x3 x6 x12) ∧
    decode 4 (word 0xbd000001 [(19, 3), (14, 6)]) = .ok (.ctrRd x3 x6) ∧
    decode 4 (word 0xbd000002 [(19, 3), (14, 6), (9, 12)]) = .ok (.ctrSet x3 x6 x12) ∧
    decode 4 (word 0xbd000003 [(14, 3), (9, 6)]) = .ok (.ctrWait x3 x6) ∧
    decode 4 (word 0xbd000004 [(19, 3), (14, 6), (9, 12)]) = .ok (.trdlArm x3 x6 x12) ∧
    decode 4 (word 0xbd000005 [(19, 3), (14, 6)]) = .ok (.trdlX x3 x6) ∧
    decode 4 (word 0xbd000006 [(19, 3), (14, 6)]) = .ok (.trdlStat x3 x6) ∧
    decode 4 (word 0xbd000007 [(19, 3), (9, 6)]) = .ok (.eqPop x3 x6) ∧
    decode 4 (word 0xbd000008 [(19, 3), (9, 6)]) = .ok (.eqCnt x3 x6) ∧
    decode 4 (word 0xbd000009 [(19, 3)]) = .ok (.fabQuiet x3) ∧
    decode 4 (word 0xbe000000 [(19, 3), (14, 6)]) = .ok (.ownSet x3 x6) ∧
    decode 4 (word 0xbe000001 [(19, 3), (14, 6), (9, 12)]) = .ok (.harmRd x3 x6 x12) ∧
    decode 4 (word 0xbe000002 [(19, 3), (14, 6), (9, 12)]) = .ok (.dmxRd x3 x6 x12) ∧
    decode 4 (word 0xbe000003 [(19, 3), (14, 6), (9, 12)]) = .ok (.dmxAgg x3 x6 x12) ∧
    decode 4 (word 0xbe000004 [(19, 3), (14, 6), (9, 12)]) = .ok (.eneRd x3 x6 x12) := by
  refine ⟨?_, ?_, ?_, ?_, ?_, ?_, ?_, ?_, ?_, ?_, ?_, ?_, ?_, ?_, ?_, ?_, ?_, ?_, ?_, ?_, ?_⟩ <;> rfl
theorem test_words_mop :
    decode 8 (word 0xc000000000000000 [(52, 5), (50, 2), (45, 3), (40, 6), (27, 8), (22, 18), (21, 1), (18, 3), (15, 6)]) = .ok (.mop y5 z2 x3 x6 x8 x18 true y3 y6) ∧
    decode 8 (word 0xc100000000000000 [(52, 5), (50, 2), (45, 3), (40, 6), (27, 14), (22, 14)]) = .ok (.mops y5 z2 x3 x6 x14 x14) ∧
    decode 8 (word 0xc200000000000000 [(50, 2)]) = .ok (.mzero z2) ∧
    decode 8 (word 0xc300000000000000 [(50, 2), (35, 3), (10, 6)]) = .ok (.mtld z2 x3 x6) ∧
    decode 8 (word 0xc400000000000000 [(50, 2), (35, 3), (10, 6)]) = .ok (.mtst z2 x3 x6) ∧
    decode 8 (word 0xc500000000000000 [(50, 2), (45, 3), (35, 6)]) = .ok (.mrow z2 x3 x6) ∧
    decode 8 (word 0xc600000000000000 [(50, 2), (45, 3), (35, 6)]) = .ok (.mwrow z2 x3 x6) := by
  refine ⟨?_, ?_, ?_, ?_, ?_, ?_, ?_⟩ <;> rfl
theorem test_words_cAddi :
    decode 2 (word 0x0 [(6, 17), (0, 37)]) = .ok (.cAddi x17 37) ∧
    decode 2 (word 0x800 [(6, 17), (0, 37)]) = .ok (.cLi x17 37) ∧
    decode 2 (word 0x1000 [(6, 17), (0, 6)]) = .ok (.cMov x17 x6) ∧
    decode 2 (word 0x1800 [(6, 17), (0, 6)]) = .ok (.cAdd x17 x6) ∧
    decode 2 (word 0x2000 [(6, 17), (0, 6)]) = .ok (.cSub x17 x6) ∧
    decode 2 (word 0x2800 [(6, 17), (0, 6)]) = .ok (.cAnd x17 x6) ∧
    decode 2 (word 0x3000 [(6, 17), (0, 37)]) = .ok (.cShli x17 37) ∧
    decode 2 (word 0x3800 [(6, 17), (0, 37)]) = .ok (.cShri x17 37) ∧
    decode 2 (word 0x4000 [(6, 17), (0, 37)]) = .ok (.cLdsp x17 37) ∧
    decode 2 (word 0x4800 [(6, 17), (0, 37)]) = .ok (.cStsp x17 37) ∧
    decode 2 (word 0x5000 [(6, 17), (0, 37)]) = .ok (.cBeqz x17 37) ∧
    decode 2 (word 0x5800 [(6, 17), (0, 37)]) = .ok (.cBnez x17 37) ∧
    decode 2 (word 0x6000 [(0, 1029)]) = .ok (.cJ 1029) ∧
    decode 2 (word 0x6800 [(6, 17)]) = .ok (.cJr x17) ∧
    decode 2 (word 0x7000 []) = .ok (.cNop) := by
  refine ⟨?_, ?_, ?_, ?_, ?_, ?_, ?_, ?_, ?_, ?_, ?_, ?_, ?_, ?_, ?_⟩ <;> rfl

/-! ## The words that the spec itself gives beside its examples -/

/-- A register number. -/
def w5 (n : Nat) : Fin 32 := Fin.ofNat 32 n

theorem test_spec_words_0 :
    decode 4 0x99394C31 = .ok (.amoAdd (w5 7) (w5 5) (w5 6) 1 true) ∧
    decode 4 0x9B000009 = .ok (.fence 2 1) ∧
    decode 2 0x4B02 = .ok (.cStsp (w5 12) 2) ∧
    decode 4 0xB5033454 = .ok (.vcvt false 0 (w5 6) (w5 13) (w5 2) true false true 0) ∧
    decode 4 0xA98214C1 = .ok (.vldS true 0 (w5 4) (w5 5) (w5 6) false) ∧
    decode 4 0xAB819451 = .ok (.vamoAdd true 0 (w5 3) (w5 5) (w5 2) true) ∧
    decode 4 0xAE0290AF = .ok (.vshrVi false 0 (w5 5) 4 (w5 5)) ∧
    decode 4 0xAF820865 = .ok (.vfmaVv true 0 (w5 4) (w5 2) (w5 3)) ∧
    decode 4 0xB2010027 = .ok (.psbf false 0 2 1) ∧
    decode 4 0xB3038060 = .ok (.vrsum false 0 (w5 7) 0 (w5 3)) := by
  decide +kernel

theorem test_spec_words_1 :
    decode 4 0xB8000002 = .ok (.vctxSv 0) ∧
    decode 4 0xB8050003 = .ok (.vctxRs (w5 20)) ∧
    decode 4 0xB9314000 = .ok (.matAtt (w5 6) (w5 5)) ∧
    decode 8 0xC208000000000000 = .ok (.mzero 2) ∧
    decode 8 0xC500802800000000 = .ok (.mrow 0 (w5 4) (w5 5)) ∧
    decode 8 0xC000220042208000 = .ok (.mop 0 0 (w5 1) (w5 2) (w5 8) (w5 8) true 0 1) ∧
    decode 8 0xC1050C0073800000 = .ok (.mops 0 1 (w5 8) (w5 12) (w5 14) (w5 14)) ∧
    decode 4 0xBA194C70 = .ok (.cpyMs (w5 3) (w5 5) (w5 6) (w5 7)) ∧
    decode 4 0xBA090A62 = .ok (.cpyMr (w5 1) (w5 4) (w5 5) (w5 6)) ∧
    decode 4 0xBA150A36 = .ok (.cpyGs (w5 2) (w5 20) (w5 5) (w5 3)) := by
  decide +kernel

theorem test_spec_words_2 :
    decode 4 0xBA1D0C77 = .ok (.cpyLz (w5 3) (w5 20) (w5 6) (w5 7)) ∧
    decode 4 0xBB00C000 = .ok (.bwait (w5 3)) ∧
    decode 4 0xBB10CC01 = .ok (.bchk 2 (w5 3) (w5 6)) ∧
    decode 4 0xBB00C002 = .ok (.brel (w5 3)) ∧
    decode 4 0xBB38CC03 = .ok (.bstat (w5 7) (w5 3) (w5 6)) ∧
    decode 4 0xB838CC01 = .ok (.vsetb (w5 7) (w5 3) (w5 6)) ∧
    decode 4 0xBC451200 = .ok (.lzOpen (w5 8) (w5 20) (w5 9)) ∧
    decode 4 0xBC520003 = .ok (.lzWait (w5 10) (w5 8)) ∧
    decode 4 0xBD394001 = .ok (.ctrRd (w5 7) (w5 5)) ∧
    decode 4 0xBD414C04 = .ok (.trdlArm (w5 8) (w5 5) (w5 6)) := by
  decide +kernel

theorem test_spec_words_3 :
    decode 4 0xBD380C07 = .ok (.eqPop (w5 7) (w5 6)) ∧
    decode 4 0xBE314000 = .ok (.ownSet (w5 6) (w5 5)) ∧
    decode 4 0x8D651800 = .ok (.st (w5 12) (w5 20) 3 0) ∧
    decode 4 0x8F751810 = .ok (.stl (w5 14) (w5 20) 3 16) ∧
    decode 4 0x8E891820 = .ok (.lda (w5 17) (w5 4) 3 32) ∧
    decode 4 0x9D024041 = .ok (.crw 0 (w5 9) 0x010) ∧
    decode 4 0xA831400D = .ok (.vsetl (w5 6) (w5 5) 13) ∧
    decode 4 0xB1889833 = .ok (.vcmpxLe true 0 true 1 (w5 6) (w5 1) false) := by
  decide +kernel


/-! ## Steps whose results the spec states, or that follow by hand from its tables -/

/-! Scalar instructions. s1 to s5 are set from the left. -/
theorem test_add_wraps : after (exec (.add r1 r2' r3') (regs [7, -1, 1])) (fun t => t.reg 1 == 0 && t.cur.pc == 0x1004) = true := by decide +kernel
theorem test_add_discards_s0 : after (exec (.add r0 r2' r3') (regs [7, 5, 1])) (fun t => t.reg 0 == 0 && t.reg 1 == 7) = true := by decide +kernel
theorem test_sar_takes_six_bits : after (exec (.sar r1 r2' r3') (regs [0, -8, 65])) (fun t => t.reg 1 == -4) = true := by decide +kernel
theorem test_slt_sltn_of_minus_one :
    after (exec (.slt r1 r2' r3') (regs [0, -1, 1])) (fun t => t.reg 1 == 1) = true ∧
    after (exec (.sltn r1 r2' r3') (regs [7, -1, 1])) (fun t => t.reg 1 == 0) = true := by constructor <;> decide +kernel
theorem test_mulh_mulhn :
    after (exec (.mulh r1 r2' r3') (regs [7, -1, -1])) (fun t => t.reg 1 == 0) = true ∧
    after (exec (.mulhn r1 r2' r3') (regs [7, -1, -1])) (fun t => t.reg 1 == -2) = true := by constructor <;> decide +kernel
theorem test_div_by_zero_and_overflow :
    after (exec (.div r1 r2' r3') (regs [7, 5, 0])) (fun t => t.reg 1 == -1) = true ∧
    after (exec (.div r1 r2' r3') (regs [7, 0x8000000000000000, -1])) (fun t => t.reg 1 == 0x8000000000000000) = true := by
  constructor <;> decide +kernel
theorem test_rem_sign_of_dividend :
    after (exec (.rem r1 r2' r3') (regs [7, -7, 2])) (fun t => t.reg 1 == -1) = true ∧
    after (exec (.rem r1 r2' r3') (regs [7, 5, 0])) (fun t => t.reg 1 == 5) = true := by constructor <;> decide +kernel
theorem test_sext_of_a_byte : after (exec (.sext r1 r2' r3') (regs [0, 0x180, 7])) (fun t => t.reg 1 == -128) = true := by decide +kernel
theorem test_clz_of_zero : after (exec (.clz r1 r2') (regs [0, 0])) (fun t => t.reg 1 == 64) = true := by decide +kernel
theorem test_bins_keeps_the_rest : after (exec (.bins r1 r2' 4 7) (regs [0xFFFF, 0x12])) (fun t => t.reg 1 == 0xF12F) = true := by decide +kernel
theorem test_beq_backwards : after (exec (.beq r1 r2' 0x3FFE) (regs [5, 5])) (fun t => t.cur.pc == 0xFFC) = true := by decide +kernel
theorem test_call_links : after (exec (.call 8) s0) (fun t => t.reg 1 == 0x1004 && t.cur.pc == 0x1010) = true := by decide +kernel
theorem test_callr_reads_before_it_writes : after (exec (.callr r1 r1) (regs [0x2000])) (fun t => t.reg 1 == 0x1004 && t.cur.pc == 0x2000) = true := by
  decide +kernel
/-- The worked example of a misaligned load at U. -/
theorem test_trap_of_a_misaligned_load :
    after (exec (.ld 7 r5' 3 4) (reg 5 0x100000 (reg 7 9 (shuttle fun sh => { sh with priv := .u })))) (fun t =>
      t.cur.ecause == 4 && t.cur.eaddr == 0x100004 && t.cur.einfo == 0 && t.cur.epc == 0x1000 && t.cur.estat == 12 && t.reg 7 == 9 &&
      t.cur.priv == .s) = true := by decide +kernel
/-- Its return, with EPC moved on by 4. -/
theorem test_return_of_a_misaligned_load :
    after (exec .rett (shuttle fun sh => { sh with epc := 0x1004, estat := 12 })) (fun t =>
      t.cur.priv == .u && t.cur.pc == 0x1004 && t.cur.estat == 6) = true := by decide +kernel
theorem test_trap_instruction : after (exec (.trap r2') (reg 2 77 (shuttle fun sh => { sh with tvec := 0x4500 }))) (fun t =>
    t.cur.ecause == 9 && t.cur.eaddr == 0 && t.cur.einfo == 77 && t.cur.pc == 0x4500 && t.cur.estat == 13) = true := by decide +kernel
theorem test_rett_at_u : after (exec .rett (shuttle fun sh => { sh with priv := .u })) (fun t => t.cur.ecause == 3 && t.cur.epc == 0x1000) = true := by
  decide +kernel
theorem test_crw_and_crc : after (exec (.crw r1 r2' 0x107) (regs [0, 0x5000])) (fun t => t.cur.ctxptr == 0x5000 && t.reg 1 == 0) = true ∧
    after (exec (.crc r0 r2' 0x100) (reg 2 8 (shuttle fun sh => { sh with estat := 13 }))) (fun t => t.cur.estat == 5) = true := by
  constructor <;> decide +kernel
theorem test_ld_sign_extends_a_byte : after (exec (.ld r1 r2' 0 1) (reg 2 0x3000 { s0 with mem := [(0x3001, 0x80)] })) (fun t => t.reg 1 == -128) = true := by
  decide +kernel
theorem test_st_lowest_byte_first : after (exec (.st r1 r2' 1 2) (regs [0x8899AABB, 0x3000])) (fun t =>
    t.mem == [(0x3002, 0xBB), (0x3003, 0xAA)]) = true := by decide +kernel
theorem test_amo_min_is_signed : after (exec (.amoMin r1 r2' r3' 0 false) (reg 3 1 (reg 2 0x3000 { s0 with mem := writeLE [] 0x3000 0xFFFFFFFF 4 })))
    (fun t => t.reg 1 == -1 && readLE t.mem 0x3000 4 == 0xFFFFFFFF) = true := by decide +kernel
theorem test_cas_that_fails : after (exec (.cas r1 r2' r3' r4 0 true) (reg 4 9 (reg 3 1 (reg 2 0x3000 { s0 with mem := writeLE [] 0x3000 2 8 }))))
    (fun t => t.reg 1 == 2 && readLE t.mem 0x3000 8 == 2) = true := by decide +kernel
/-- 1 + 2^-24 in F32: halfway, to even. -/
theorem test_fadd_rounds_to_even : after (exec (.fadd r1 r2' r3' false) (regs [0, 0x3F800000, 0x33800000])) (fun t =>
    t.reg 1 == 0x3F800000 && t.cur.fflags == 1) = true := by decide +kernel
theorem test_fma_rounds_once : after (exec (.fma r1 r2' r3' r4 false) (regs [0, 0x3F800001, 0x3F800001, 0xBF800002])) (fun t =>
    t.reg 1 == 0x28800000 && t.cur.fflags == 0) = true := by decide +kernel

/-! Vector instructions -/
/-- The elements of a group of type I32 at `n`. -/
def elems32 (n : Nat) (k : Nat) (t : State) : List Nat := (List.range k).map fun e => t.cur.elem n 2 e
/-- A shuttle with groups of I32 elements in v16 and v24, and VL 4. -/
def words (xs ys : List Nat) (vtype : Word := 2) (vl : Word := 4) : State :=
  let pack (l : List Nat) : VecReg := { bits := l.foldr (fun x acc => x + 2 ^ 32 * acc) 0, extent := 32 }
  shuttle fun sh => { sh with vtype := vtype, vl := vl, v := (sh.v.set 16 (pack xs)).set 24 (pack ys) }
theorem test_vadd_under_a_guard : after (exec (.vaddVv true p1 r8 r16 r24)
    (let s := words [2 ^ 32 - 1, 1, 2, 3] [1, 10, 20, 30]
     { s with cur := { s.cur with p := s.cur.p.set 1 0xD } })) (fun t => elems32 8 5 t == [0, 0, 22, 33, 0]) = true := by decide +kernel
theorem test_vdivn_by_zero : after (exec (.vdivnVv true p0 r8 r16 r24) (words [9, 8, 7, 6] [3, 0, 2, 1])) (fun t =>
    elems32 8 4 t == [3, 2 ^ 32 - 1, 3, 6] && t.cur.vflags == 0x08) = true := by decide +kernel
theorem test_vsadd_saturates : after (exec (.vsaddVv true p0 r8 r16 r24) (words [0x7FFFFFFF, 5, 0x80000000, 1] [1, 6, 0xFFFFFFFF, 1])) (fun t =>
    elems32 8 4 t == [0x7FFFFFFF, 11, 0x80000000, 2]) = true := by decide +kernel
theorem test_vcmp_signed_and_not : after (exec (.vcmpLt true p0 false p2 r16 r24 false) (words [0xFFFFFFFF, 5, 5, 5] [0, 5, 6, 4])) (fun t =>
    t.cur.p[2] == 5) = true ∧
    after (exec (.vcmpLt true p0 false p2 r16 r24 true) (words [0xFFFFFFFF, 5, 5, 5] [0, 5, 6, 4])) (fun t => t.cur.p[2] == 4) = true := by
  constructor <;> decide +kernel
theorem test_pfirst_of_none : after (exec (.pfirst true p0 r1 p2) (vec 2 4)) (fun t => t.reg 1 == -1) = true := by decide +kernel
/-- The worked example of R212. -/
def packed : State := let s := words [] [10, 20, 30, 40, 50, 60] 2 6
  { s with cur := { s.cur with p := s.cur.p.set 1 0x16 } }
theorem test_vcomp : after (exec (.vcomp true p1 r8 r24) packed) (fun t => elems32 8 4 t == [20, 30, 50, 0]) = true := by decide +kernel
theorem test_vxpnd : after (exec (.vxpnd true p1 r8 r24) packed) (fun t => elems32 8 6 t == [0, 10, 20, 0, 30, 0]) = true := by decide +kernel
theorem test_viota : after (exec (.viota true p1 r8) packed) (fun t => elems32 8 6 t == [0, 0, 1, 0, 2, 0]) = true := by decide +kernel
theorem test_vrsum : after (exec (.vrsum true p1 r1 r2' r24) (reg 2 1000 packed)) (fun t => t.reg 1 == 1100) = true := by decide +kernel
theorem test_vsetl_worked_example : decode 4 0xA8302088 = .ok (.vsetl r6 r0 0x2088) ∧
    after (exec (.vsetl r6 r0 0x2088) (shuttle fun sh => { sh with srem := 1000, place := { sh.place with vlenLog := 1 } })) (fun t =>
      t.cur.vl == 1000 && t.reg 6 == 1000 && t.cur.vtype == 0x2088) = true := ⟨by decide +kernel, by decide +kernel⟩
/-- The worked example of R203: the reciprocal of 3.0. -/
theorem test_vfrcp_of_three : after (exec (.vfrcp true p0 r8 r24) (words [] [0x40400000] 0x0D 1)) (fun t =>
    t.cur.elem 8 2 0 == 0x3EAAAAAB && t.cur.vflags == 1) = true := by decide +kernel
/-- The worked example of R173: 100.0 and 3.3 fitted to F8E4. -/
theorem test_vscl_fit : after (exec (.vsclFit true p0 p0 r24) (words [] [0x42C80000, 0x40533333] 0x2008 32)) (fun t => t.cur.scaleByte 0 0 == 125) = true := by
  decide +kernel
/-- Its second line: 384 with the even fraction, and 13. -/
theorem test_vcvt_scaled : after (exec (.vcvt true p0 r8 13 r24 false false false 0)
    (let s := words [] [0x42C80000, 0x40533333] 0x2008 32
     { s with cur := { s.cur with e := s.cur.e.set 2 { bits := 125, extent := 32 } } })) (fun t =>
      t.cur.elem 8 8 0 == 0x7C && t.cur.elem 8 8 1 == 0x55 && t.cur.vflags == 1) = true := by decide +kernel
/-- The worked example of R181: four elements of Q3 from bit 5 on. -/
theorem test_vldp_worked_example : after (exec (.vldP true p0 r8 r5' r6 false)
    (reg 6 5 (reg 5 0x3000 { vec 0x12 4 with mem := [(0x3000, 0x60), (0x3001, 0xA7)] }))) (fun t =>
      (t.cur.vreg 8).bits == 0x3 + 0xB * 2 ^ 1280 + 0x6 * 2 ^ 2560) = true := by decide +kernel
/-- The worked example of R180 on a smaller page: the trim of VLD.FF, where the next page is not there. -/
theorem test_vldff_trims : after (exec (.vldFf true p0 r8 r5' false)
    (reg 5 (0x00FFFF0000400000 - 8) (vec 2 4))) (fun t => t.cur.vl == 2 && t.cur.pc == 0x1004) = true := by decide +kernel
theorem test_vst_waits_for_its_convoy : after (exec (.vst true p0 r24 r5' false) (reg 5 0x3000 (words [] [1, 2, 3, 4]))) (fun t =>
    t.mem == [] && t.cur.convoy.buffer.length == 4 && t.cur.convoy.isOpen) = true := by decide +kernel
theorem test_vamo_returns_the_old : after (exec (.vamoAdd true p0 r24 r5' r16 true)
    (reg 5 0x3000 { words [8] [4] 2 1 with mem := writeLE (writeLE [] 0x3004 20 4) 0x3008 30 4 })) (fun t =>
      t.cur.elem 24 2 0 == 30 && readLE t.mem 0x3008 4 == 30 && holds (endConvoy t) fun _ v =>
        readLE v.mem 0x3004 4 == 20 && readLE v.mem 0x3008 4 == 34) = true := by
  decide +kernel
/-- The first case of the worked example of R63: reason 2, three members before. -/
theorem test_convoy_reason : limitBroken { isOpen := true, count := 3, loads := 2, wroteV := 14, spanWrite := 64 }
    { c := false, load := true, rV := 8, index := 8, sR := 64 } = some 2 := by decide
/-- The worked example of R43: the cut at 96. -/
theorem test_convoy_cut : (({ members := [8, 8, 32].map fun k => { k := k, code := 0, base := 0, per := 1, wrote := [], vregs := [], eregs := [], preg := none, flags := [] } } :
    Convoy).stop 70 200) = 96 := by decide

/-! The matrix unit, copies, the rest -/
/-- The worked examples of R234. -/
theorem test_shapes : shapeTiles (3 + 512 * 256) = 1 ∧ shapeBad (3 + 4 + 512 * 256) = true ∧ shapeTiles (8 * 256) = 4 := by decide +kernel
/-- The worked example of R242: 4,096 and the square of 1 + 2^-10. -/
theorem test_mop_worked_example : after (exec (.mop p0 2 r16 r24 11 11 false p0 p0)
    { matrix true 0 0 with cur := { (words [0x3C01] [0x3C01] 0x0B 1).cur with attached := true, mshape := shapeWord (8 * 256) },
                           cores := [(0, { attached := some 1, tiles := (Vector.replicate 4 {}).set 2 { bits := 0x45800000 } })] }) (fun t =>
      (t.tile 2).get 0x800 0 0 == 0x45800804 && t.cur.vflags == 1 && (t.tile 2).get 0x800 0 1 == 0 && t.cur.pc == 0x1008) = true := by decide +kernel
/-- The worked example of R263 and R269: 4,096 bytes of which chunks 0 to 20 and 23 have arrived. -/
def strip : State :=
  let b : Bobbin := { st := .busy, form := 0, len := 4096, dst := 4096, written := (2 ^ (21 * 64) - 1) + (2 ^ 64 - 1) * 2 ^ (23 * 64) }
  reg 6 1024 (shuttle fun sh => { sh with vtype := 0x0D, vl := 128, bobbins := sh.bobbins.set 3 b })
theorem test_bobbin_views : strip.cur.bobbins[(3 : Bob)].prefixLen = 1344 ∧
    after (exec (.bstat r1 3 r2') (reg 2 2 strip)) (fun t => t.reg 1 == 0x9FFFFF) = true := by constructor <;> decide +kernel
theorem test_vsetb_worked_example : after (exec (.vsetb 7 3 r6) strip) (fun t => t.cur.vl == 80 && t.reg 7 == 80) = true := by decide +kernel
theorem test_bchk_worked_example : after (exec (.bchk p2 3 r6) strip) (fun t => t.cur.p[2] == 2 ^ 80 - 1 + (2 ^ 128 - 2 ^ 112)) = true := by decide +kernel
theorem test_brel_of_a_busy_bobbin_waits : after (exec (.brel 3) strip) (fun t => t.cur.pc == 0x1000 && t.cur.status == .waiting (.arrival 3 (2 ^ 64))) = true := by
  decide +kernel
theorem test_lz_open_names_the_zone : after (exec (.lzOpen r1 r4 r5') (reg 5 0x801 (reg 4 windowed s0))) (fun t =>
    t.reg 1 == 0x1000000000 && t.zones.length == 1) = true := by decide +kernel
theorem test_ctr_add_wraps : after (exec (.ctrAdd r1 r2' r3') (reg 3 3 (reg 2 9 { s0 with counters := [(9, -1)] }))) (fun t =>
    t.reg 1 == -1 && t.counter 9 == 2) = true := by decide +kernel
/-- The worked example of R305: a reference with a reserved bit at TRDL.ARM. -/
theorem test_trdl_arm_reserved_reference : after (exec (.trdlArm r8 r5' r6)
    (reg 10 1 (reg 9 0x100014 (reg 6 3 (reg 5 7 { s0 with mem := writeLE (writeLE [] 0x1004 0xBD02 2) 0x1006 0x5400 2 })))))
    (fun t => t.cur.ecause == 6 && t.cur.einfo == 6 && t.treadles == [] && t.cur.epc == 0x1000) = true := by decide +kernel
theorem test_trdl_x_of_a_free_entry : after (exec (.trdlX r1 r2') (reg 2 5 s0)) (fun t => t.reg 1 == 3) = true := by decide +kernel
theorem test_own_set_of_a_strange_owner : after (exec (.ownSet r1 r2') (reg 2 7 s0)) (fun t => t.reg 1 == -1 && t.cur.owner == 63) = true := by decide +kernel
/-- The worked example of R382. -/
theorem test_featacc_worked_example : after (exec (.feataccWrite 16 false 0x11EF1F) s0) (fun t => (t.func 16).featLo == 0x1EF1F) = true := by decide +kernel
/-- The worked example of R83: where group 1 begins. -/
theorem test_groups : groupOf 0x2CB417800 = 1 ∧ groupOf 0x2CB4177FF = 0 := by decide +kernel

/-- Reset values of registers that the host reads (Tables 21-6, 22-4, 23-1, 24-4); BAR 2 answers from stage 0 on. -/
theorem test_host_reads : State.reset.readBar2 0xA000 = none ∧
    ([0x9000, 0x9278, 0xA000, 0xA008, 0x100B0].map fun o =>
      ({ State.reset with boot := { State.reset.boot with stage0 := true } } : State).readBar2 o) =
      [some 0x8000000000000000, some 0x8000000000000000, some 1800, some 3400, some 2000] ∧
    State.reset.readBar0 16 0x1050 = 0x3FF1F := by decide +kernel

/-! ## vycas, vyld and the loader: the worked encodings and programs of the spec -/

/-- The bits of one line, with no symbols, at offset 0 of `.text`. -/
def bitsOf (c : Bool) (text : String) : Option Nat :=
  (Tool.lineOf text).bind fun l => l.op.bind fun op => (l.args.mapM Tool.operandOf).bind fun os =>
    (Tool.codeOf (fun e => e.eval (fun _ => none) ⟨0, 1, 0⟩) 0 op l.guard c os).map (·.word)

/-- The examples of R52, R53, R59 and of chapters 6 to 9. -/
theorem test_written_scalar : bitsOf false "AMO.ADD.D.AQ s7, [s5], s6" = some 0x99394C31 ∧ bitsOf false "FENCE.VS.CHIP" = some 0x9B000009 ∧
    bitsOf false "C.STSP s12, [sp+16]" = some 0x4B02 ∧ bitsOf false "STL.64 s14, [s20+16]" = some 0x8F751810 := by decide +kernel
theorem test_written_vector : bitsOf true "?p3 VFADD.F32 v4, v2, v3 ; first of a convoy" = some 0xAFB20860 ∧
    bitsOf false "?p2 VST.XO.NR.F32 v8, [s20], v12" = some 0xAA24518B ∧
    bitsOf false "VSETL s6, zero, F8E4, g4, sc" = some 0xA8302088 ∧
    bitsOf false "VCVT.RNE.SR.F8E4.F32 v6, v2" = some 0xB5033454 ∧
    bitsOf true "VCMPX.LE.F32 p1, s6, v1" = some 0xB1889833 := by
  decide +kernel
/-- The examples of chapters 12, 14, 15 and 17. -/
theorem test_written_engine : bitsOf false "MOP.F8E4.F8E4 t0, v1, v2, e0, e1" = some 0xC000220042208000 ∧
    bitsOf false "CPY.GS b2, [s20], [s5], v3" = some 0xBA150A36 ∧ bitsOf false "BSTAT s7, b3, s6" = some 0xBB38CC03 ∧
    bitsOf false "ENE.RD s7, s5, s6" = some 0xBE394C04 := by
  decide +kernel
/-- Lines that are errors: an immediate that does not fit, a guard where no p field is, BFLD beyond bit 63 (R69, R70). -/
theorem test_written_errors : bitsOf false "ADDI s4, zero, 8192" = none ∧ bitsOf false "?p1 ADD s1, s2, s3" = none ∧
    bitsOf false "BEXT s6, s5, 60, 5" = none := by decide +kernel
/-- Every written form with no operand bits but those of its register fields decodes to an instruction; a type is set
where 0 is none, and rg is not s0. -/
theorem test_forms_decode : (Tool.forms.all fun f =>
    match decode f.len (f.base + if f.name == "MOPS" then 14 * 2 ^ 27 + 14 * 2 ^ 22
      else if f.len == 2 && f.name != "C.J" && f.name != "C.NOP" then 64 else 0) with
    | .ok _ => true
    | _ => false) = true := by decide +kernel
/-- R69: precedence as in C, arithmetic shifts, division toward zero. -/
theorem test_expressions : ((Tool.tokens "1 + 2 * 3 << 1 | ~0 - -1").bind Tool.exprOf).bind
      (fun e => (e.eval (fun _ => none) ⟨0, 0, 0⟩).map (·.v)) = some 14 ∧
    ((Tool.tokens "-7 / 2").bind Tool.exprOf).bind (fun e => (e.eval (fun _ => none) ⟨0, 0, 0⟩).map (·.v)) = some (-3) := by
  decide +kernel

/-- The program of chapter 4, shortened to what its header rests on. -/
def example4 : String :=
  " .lens 1024, 4096\n .sdata\nbias: .f32 0.5, 0.5, 0.5, 0.5\n .space 624\n .text\n .global go\n .entry go\n"
  ++ "go: .frame 2\n ADDI s5, zero, 4\n VSETL s6, s5, F32\n .cv\n VFADD.F32 v3, v1, v2\n EXIT\n"
/-- What the numbered paragraphs after that program say: VLLO, VLHI, SDSIZE, STKVL, VREGS, the least SPAD, the VSETL. -/
theorem test_example4 : ((Tool.vycas [] [example4]).bind fun u => (Tool.vyld u {}).bind fun f =>
    (Tool.readImage f 0).map fun i => ([i.head.vllo, i.head.vlhi, i.head.sdsize, i.head.stkvl, i.head.vregs, i.head.spad,
      i.sdAt 99], i.text.take 8)) =
    some ([1, 3, 640, 2, 4, 99, 24576], instrBytes 4 0x82280004 ++ instrBytes 4 0xA831400D) := by decide +kernel
/-- Note 8 of the same program: an sp write in a span that has read sp is an error of vycas (R61, R72). -/
theorem test_span_error : Tool.vycas [] [" .text\ngo: .cv\n VST v3, [sp]\n ADDI sp, sp, 64\n EXIT"] = none := by
  decide +kernel
/-- The second case of the example after R63, and the same with a `.cv` of its own. -/
theorem test_convoy_error : Tool.vycas [] [" .text\n .cv\n VFMA v3, v1, v2\n VRSUM s7, s0, v3\n"] = none ∧
    (Tool.vycas [] [" .text\n .cv\n VFMA v3, v1, v2\n .cv\n VRSUM s7, s0, v3\n"]).isSome = true := by decide +kernel
/-- R156: p0 discards its writes, so that the second member reads nothing that the first has written; p1 does not. -/
theorem test_convoy_p0 : (Tool.vycas [] [" .text\n .cv\n VCMP.EQ p0, v1, v2\n PPOPC s5, p0\n"]).isSome = true ∧
    Tool.vycas [] [" .text\n .cv\n VCMP.EQ p1, v1, v2\n PPOPC s5, p1\n"] = none := by decide +kernel
/-- R77, Table 3-11: vyld claims the feature bits that the instructions need: 8 for MZERO, 15 for EQ.CNT, and none for EXIT. -/
theorem test_featreq : (["MZERO t0", "EQ.CNT s1, zero", "EXIT"].map fun x => (Tool.vycas [] [" .text\ngo: " ++ x ++ "\n .entry go"]).map (·.feats)) =
    [some (2 ^ 8), some (2 ^ 15), some 0] := by decide +kernel
/-- R71: a type suffix that differs from the tracked type is an error; after a label the type is unknown. -/
theorem test_type_error : Tool.vycas [] [" .text\n VSETL s1, s2, F32\n VLD.I8 v1, [s3]\n"] = none ∧
    (Tool.vycas [] [" .text\n VSETL s1, s2, F32\nl: VLD.I8 v1, [s3]\n"]).isSome = true := by decide +kernel
/-- R74, R77: a `.dword` of a `.text` label in `.data` holds the label's offset and a relocation of base 1. -/
theorem test_relocation : ((Tool.vycas [] [" .data\n .dword 7, go+2\n .text\n C.NOP\ngo: EXIT\n .entry go"]).map fun u =>
    (u.relocs, u.data.reverse.drop 8, (Tool.relocate 0x10000 0x20000 u.data.reverse (8 + 2 ^ 63)).drop 8)) =
    some ([(8, true)], Tool.leBytes 8 4, Tool.leBytes 8 0x10004) := by decide +kernel
/-- R76: STKVL is the largest sum along a chain of calls. -/
theorem test_stkvl : ((Tool.vycas [] [" .text\n .entry a\na: .frame 2\n CALL b\n CALL c\n EXIT\nb: .frame 3\n JR lk\nc: .frame 4\n JR lk\n"]).bind
      fun u => u.stkvl 0 {}) = some 6 := by decide +kernel
/-- A file that is a header alone. -/
def bareImage (h : Tool.Header) : List Byte := Tool.leBytes 64 h.word
def bareHeader : Tool.Header := ⟨2, 16384, 0, 0, 0, 64, 0, 64, 0, 64, 0, 0, 4, 3, 1, 0, 1, 0x4D495857⟩
/-- R78: what the loader refuses. -/
theorem test_loader_refuses : (Tool.readImage (bareImage bareHeader) 3).isSome = true ∧
    Tool.readImage (bareImage bareHeader) 1 = none ∧
    Tool.readImage (bareImage { bareHeader with reserved := 2 ^ 23 }) 3 = none ∧
    Tool.readImage (bareImage { bareHeader with version := 2 }) 3 = none ∧
    Tool.readImage (0 :: (bareImage bareHeader).drop 1) 3 = none := by decide +kernel

end Sys2Proof.Tests
end

section
/-! The machine that a cold reset leaves (R6, R107, R356, R379). Nothing is listed in any of its tables, so that each read
of one gives what an unlisted entry reads as. -/
namespace Sys2Proof.Machine

/-- No byte is listed: every byte reads as an unlisted one (log entry 1). -/
theorem memRead_nil (k : Nat) : memRead [] k = emptyByte := rfl
/-- No entry is listed: every number reads as the table's reset value. -/
theorem tget_nil {α : Type} (d : α) (k : Nat) : tget d [] k = d := rfl

theorem reset_memRead (k : Nat) : memRead State.reset.mem k = 0 := memRead_nil k
theorem reset_counter (i : Nat) : State.reset.counter i = 0 := tget_nil _ i
theorem reset_scrub (r : Nat) : State.reset.scrub r = {} := tget_nil _ r

/-- The registers of a shuttle at its reset values: s0 by R105, the others by log entry 3. -/
theorem Shuttle.reg_default (r : SReg) : ({} : Shuttle).reg r = 0 := by
  unfold Shuttle.reg
  split
  · rfl
  · exact Vector.getElem_replicate _
theorem reset_reg (r : SReg) : State.reset.reg r = 0 := Shuttle.reg_default r

/-- Settles O59: storage by `reset_canonical`, what is read by number from the empty tables, the rest by the fields'
reset values. -/
theorem resetState : Obligations.ResetState := by
  unfold Obligations.ResetState
  have hscrub (r : Nat) : (State.reset.scrub r).st = .pending := congrArg Scrub.st (reset_scrub r)
  have hvacant : State.reset.cur.live = false := rfl
  exact ⟨reset_canonical, reset_memRead, hvacant, rfl, rfl, rfl, reset_counter, rfl, rfl, rfl, hscrub, rfl, reset_reg⟩

end Sys2Proof.Machine
end

section
/-! Decoding gives back what was encoded (R48 to R59): the lemmas of `RoundTrip`, one per constructor of `Instr`, together
are the statement of every instruction. -/
namespace Sys2Proof.Laws
namespace RoundTrip

/-- The case split along the constructors; each case is the lemma of the constructor's name, in the order of `Instr`. -/
theorem ofInstr (i : Instr) : Statement i :=
  i.casesOn (motive := Statement)
    add sub and or xor andn orn shl shr sar rol ror slt sltn min max minn maxn mul mulh mulhn div divn rem remn
    clz ctz popc sext addi andi ori xori shli shri sari slti sltni lui adpc bext bextS bins ld st lda stl beq
    bne blt bge bltn bgen jmp call jr callr amoSwap amoAdd amoAnd amoOr amoXor amoMin amoMax amoMinn amoMaxn cas
    fence trap rett ckpt exit yield sloop crr crw crs crc snext launch launchLend fadd fsub fmul fdiv fsqrt fmin
    fmax fcmpEq fcmpLt fcmpLe fclass fcvtF fcvtI64 fcvtN64 fcvtFi fcvtFn fma fms fnma fnms vsetl vld vldS vldX
    vldFf vldP vst vstS vstX vstXo vstP vamoSwap vamoAdd vamoAnd vamoOr vamoXor vamoMin vamoMax vamoMinn
    vamoMaxn vaddVv vaddVx vaddVi vsubVv vsubVx vsubVi vrsubVv vrsubVx vrsubVi vmulVv vmulVx vmulVi vmulhVv
    vmulhVx vmulhVi vmulhnVv vmulhnVx vmulhnVi vmaddVv vmaddVx vmaddVi vdivVv vdivVx vdivVi vdivnVv vdivnVx
    vdivnVi vremVv vremVx vremVi vremnVv vremnVx vremnVi vandVv vandVx vandVi vorVv vorVx vorVi vxorVv vxorVx
    vxorVi vshlVv vshlVx vshlVi vshrVv vshrVx vshrVi vsarVv vsarVx vsarVi vminVv vminVx vminVi vmaxVv vmaxVx
    vmaxVi vminnVv vminnVx vminnVi vmaxnVv vmaxnVx vmaxnVi vsaddVv vsaddVx vsaddVi vssubVv vssubVx vssubVi
    vsaddnVv vsaddnVx vsaddnVi vssubnVv vssubnVx vssubnVi vabsdVv vabsdVx vabsdVi vmergeVv vmergeVx vmergeVi
    vmovVv vmovVx vmovVi vfaddVv vfaddVx vfsubVv vfsubVx vfmulVv vfmulVx vfdivVv vfdivVx vfsqrt vfmaVv vfmaVx
    vfmsVv vfmsVx vfnmaVv vfnmaVx vfminVv vfminVx vfmaxVv vfmaxVx vfabs vfneg vfrcp vfrsq vfexp2 vflog2 vfclass
    vcmpEq vcmpNe vcmpLt vcmpLe vcmpGt vcmpGe vcmpxEq vcmpxNe vcmpxLt vcmpxLe vcmpxGt vcmpxGe pand por pxor
    pandn pnot pmov pset psbf psif psof ppopc pfirst vrsum vrsumO vrmax vrmin vrmaxn vrminn vrand vror vrxor
    vslup vsldn vperm vcomp vxpnd vmvs vmvv viota vscan vcvt vqadd vqsub vqmul vqmac vqdot vqshr vsclLd vsclSt
    vsclFit vsclMov vsett vsetb vctxSv vctxRs matAtt matDet matShp cpyMs cpySm cpyMr cpyRm cpyRr cpyMm cpyGs
    cpyLz bwait bchk brel bstat lzOpen lzClose lzResv lzWait lzFree lzStat ctrAdd ctrRd ctrSet ctrWait trdlArm
    trdlX trdlStat eqPop eqCnt fabQuiet ownSet harmRd dmxRd dmxAgg eneRd mop mops mzero mtld mtst mrow mwrow
    cAddi cLi cMov cAdd cSub cAnd cShli cShri cLdsp cStsp cBeqz cBnez cJ cJr cNop asyncTrapEntry
    launchWindowWrite shuttlePlacement shuttleEnd lendHandover preemption preemptAfterFailToFit
    convoyCloseTimeout laneReturn executeClusterRequest heddleReclaim convoyProbe elementGroupCommit
    loadDataReturn pageResponseS1 pageResponseS2 inv1Page inv1All inv2Page inv2All invalidationComplete
    migrationAccept hostMigrationRequest migrationCopyComplete dampingExpiry cowGranuleCopy copyCommandStart
    copyDataArrival copyDone copyFailed lzResvArrival lzArrival lzCloseComplete treadleComplete
    remoteRequestArrival remoteReply remoteAck flitSend flitReceive negativeAcknowledgement acknowledgementTimer
    retryTimeout reestablishmentComplete reestablishmentTimeout rekeyTimeout linkFailure grantHashCompare
    resynchronisationComplete pathLost pathKeyExchange arbiterGrant settlementPeriodEnd settlementBroadcast
    matrixBlockOffer matrixReclaim tileOperationExecute laneResidueMismatch uncorrectableError rollback
    checkpointPeriod checkpointCapture functionLevelReset feqstatRead modeWrite feataccWrite watchWrite
    coalesceTimer msixUnmask loomsWrite pcgsWrite csliceWrite tsliceWrite identWrite release force
    releaseComplete scrubGo scrubComplete pwrcapWrite pwrfloorWrite registerWrite hostCxlMemAccess ident quote
    lease keyload fwload domain leaseExpiry budgetUpdate sensorSample droopDetect droopCapExpiry powerGood
    deviceReset stage0Complete loomPass stage1Complete rateBucketRefill illegalEncoding mbcmdDiscarded

end RoundTrip

/-- Settles O57: each constructor's own lemma, by `RoundTrip.ofInstr`. -/
theorem decodeOfEncode : Obligations.DecodeOfEncode := by
  unfold Obligations.DecodeOfEncode
  exact RoundTrip.ofInstr

/-- Bits that are a well-formed instruction's encoding decode to it. -/
theorem decode_eq_ok {i : Instr} {w : Nat} (hw : encode i = w) (hwf : i.wf = true) (henc : i.hasEncoding = true) :
    decode (instrLen i) w = .ok i := hw ▸ RoundTrip.ofInstr i hwf henc

end Sys2Proof.Laws
end


section
/-! Bits that are no instruction (R50, R57, R59, R64), and the worked words (R48 to R59). -/
namespace Sys2Proof

/-- The major field of a 32-bit word whose top bits are `10` (R48, R50). -/
theorem fld_major {m k : Nat} (hm : m < 2 ^ 6) (hk : k < 2 ^ 24) : fld (2 ^ 31 + m * 2 ^ 24 + k) 24 6 = m := by
  unfold fld; omega
/-- The PMAJOR field of a 64-bit word whose top bits are `11` (R48, R57). -/
theorem fld_pmajor {m k : Nat} (hm : m < 2 ^ 6) (hk : k < 2 ^ 56) : fld (3 * 2 ^ 62 + m * 2 ^ 56 + k) 56 6 = m := by
  unfold fld; omega

/-- A reserved major gives REASON 1, whatever the other bits. -/
theorem decode32_reserved {w : Nat} (h : fld w 24 6 ∈ [0x00, 0x22, 0x23, 0x24, 0x25, 0x26, 0x27, 0x3F]) :
    decode 4 w = .bad 1 := by
  show decode32 w = _
  unfold decode32
  generalize fld w 24 6 = m at h ⊢
  simp only [List.mem_cons, List.not_mem_nil, or_false] at h
  obtain rfl | rfl | rfl | rfl | rfl | rfl | rfl | rfl := h <;> rfl
/-- So does a PMAJOR above 6. -/
theorem decode64_reserved {w : Nat} (h : 6 < fld w 56 6) : decode 8 w = .bad 1 := by
  show decode64 w = _
  unfold decode64
  split
  case h_8 => rfl
  all_goals omega
/-- So does compressed operation 15. -/
theorem decode16_15 {w : Nat} (h : fld w 11 4 = 15) : decode 2 w = .bad 1 := by
  show decode16 w = _; unfold decode16; rw [h]; rfl
/-- A copy whose form is not listed gives REASON 2. -/
theorem decCpy_8 {w : Nat} (h : fld w 0 4 = 8) : decCpy w = .bad 2 := by
  unfold decCpy; rw [h]; rfl

/-- The issue of bits that are no instruction traps with ILLEGAL, the bits in EADDR, the REASON in EINFO[63:60]. -/
theorem Machine.exec_illegalEncoding (len b r : Nat) (s : Machine.State) :
    Machine.exec (.illegalEncoding len b r) s =
      .next (Machine.takeTrap s Machine.cILLEGAL (Machine.w64 b) (Machine.w64 (r * 2 ^ 60))) := by
  show Machine.run (Machine.illegal b r) s = _
  exact Machine.run_trap (Machine.trap_run ..)

/-- Settles O56: a worked word is the encoding of its instruction, so it decodes to it; the others by their major, PMAJOR,
form or operation. -/
theorem sampleWordsDecode : Obligations.SampleWordsDecode := by
  unfold Obligations.SampleWordsDecode
  refine ⟨Laws.decode_eq_ok (i := .addi 4 0 16) rfl rfl rfl, Laws.decode_eq_ok (i := .vfaddVv true 3 4 2 3) rfl rfl rfl,
    Laws.decode_eq_ok (i := .cAddi 4 16) rfl rfl rfl, Laws.decode_eq_ok (i := .mzero 2) rfl rfl rfl,
    Laws.decode_eq_ok (i := .beq 1 2 0x3FFF) rfl rfl rfl, Laws.decode_eq_ok (i := .ld 7 8 6 8) rfl rfl rfl,
    Laws.decode_eq_ok (i := .crw 1 4 0x101) rfl rfl rfl, (decode32_58 rfl).trans (decCpy_8 rfl),
    Laws.decode_eq_ok (i := .cpyMm 1 2 3 4) rfl rfl rfl, ?major, ?pmajor, ?operation, Machine.exec_illegalEncoding⟩
  case major =>
    intro m hm k hk
    have bound : ∀ m ∈ [0x00, 0x22, 0x23, 0x24, 0x25, 0x26, 0x27, 0x3F], m < 2 ^ 6 := by decide
    exact decode32_reserved (by rwa [fld_major (bound m hm) hk])
  case pmajor =>
    intro m k hlow hm hk
    exact decode64_reserved (by rwa [fld_pmajor hm hk])
  case operation =>
    intro k hk
    exact decode16_15 (by unfold fld; omega)

end Sys2Proof
end

section
/-! How a vector member joins its convoy (R60, R62), and what it leaves beside its effect (R60, R45). -/
namespace Sys2Proof.Machine

/-! ## The limits of Table 3-9 -/

theorem limitBroken_members {c : Convoy} {u : Uses} (h : 8 ≤ c.count) : limitBroken c u = some 1 := if_pos h
theorem limitBroken_loads {c : Convoy} {u : Uses} (h : c.count < 8) (hu : u.load = true) (hl : 2 ≤ c.loads) :
    limitBroken c u = some 2 := by
  simp [limitBroken, Nat.not_le.2 h, hu, hl]
theorem limitBroken_stores {c : Convoy} {u : Uses} (h : c.count < 8) (hl : u.load = false) (hu : u.store = true)
    (hs : 1 ≤ c.stores) : limitBroken c u = some 3 := by
  simp [limitBroken, Nat.not_le.2 h, hl, hu, hs]
theorem limitBroken_cross {c : Convoy} {u : Uses} (h : c.count < 8) (hl : u.load = false) (hs : u.store = false)
    (hu : u.cross = true) (hc : 1 ≤ c.cross) : limitBroken c u = some 4 := by
  simp [limitBroken, Nat.not_le.2 h, hl, hs, hu, hc]

/-! ## The issue of a member -/

/-- A member that opens a convoy ends the one before it. -/
theorem beginMember_opens {b : Nat} {u : Uses} {s e : State} (h : u.c = true ∨ s.cur.convoy.isOpen = false)
    (he : endConvoy s = .ok () e) (hl : limitBroken e.cur.convoy u = none) : beginMember b u s = .ok () e := by
  have hc : (u.c || !s.cur.convoy.isOpen) = true := by simpa using h
  unfold beginMember
  simp only [get_bind]
  rw [if_pos hc, bind_ok he]
  simp only [get_bind, hl, pure_run]
/-- One that joins the open convoy without breaking a limit changes nothing yet. -/
theorem beginMember_joins {b : Nat} {u : Uses} {s : State} (h : ¬(u.c = true ∨ s.cur.convoy.isOpen = false))
    (hl : limitBroken s.cur.convoy u = none) : beginMember b u s = .ok () s := by
  have hc : ¬(u.c || !s.cur.convoy.isOpen) = true := by simpa using h
  unfold beginMember
  simp only [get_bind]
  rw [if_neg hc]
  simp only [get_bind, hl, pure_run]
/-- One that breaks a limit traps with ILLEGAL_CONVOY, the limit's number as reason (R62). -/
theorem beginMember_trap {b r : Nat} {u : Uses} {s : State} (h : ¬(u.c = true ∨ s.cur.convoy.isOpen = false))
    (hl : limitBroken s.cur.convoy u = some r) :
    beginMember b u s = .error (.trap cCONVOY (w64 b) (w64 (r * 2 ^ 60 + s.cur.convoy.count))) s := by
  have hc : ¬(u.c || !s.cur.convoy.isOpen) = true := by simpa using h
  unfold beginMember
  simp only [get_bind]
  rw [if_neg hc]
  simp only [get_bind, hl, trap_run]

/-- Where the vector queue is not another convoy's, a member goes on (R36). -/
theorem passProbe_run {s : State} (h : s.queueTaken s.cur = false) : passProbe s = .ok () s := by
  unfold passProbe; simp only [get_bind, h]; rfl

/-- A member whose checks pass and that has its place in a convoy issues. -/
theorem startMember_pass {b : Nat} {u : Uses} {checks : List (Option Nat)} {feats : List Nat} {s e : State}
    (hr : ∀ x ∈ checks, x = none) (hf : ∀ f ∈ feats, s.feature s.cur.place.part f = true)
    (hb : beginMember b u s = .ok () e) (hq : e.queueTaken e.cur = false) (hi : e.interlocked e.cur u.rV u.wV = false) :
    startMember b u checks feats s = .ok () e := by
  unfold startMember
  rw [bind_ok (legal_pass hr hf b), bind_ok hb, bind_ok (passProbe_run hq)]
  exact interlock_run hi

/-- Settles O18: where the member opens a convoy the one before ends first; otherwise it joins the open one, or traps with
the limit that it breaks. -/
theorem memberIssues : Obligations.MemberIssues := by
  unfold Obligations.MemberIssues
  constructor
  · intro u checks feats s e hr hf he hl hq hi
    refine startMember_pass hr hf ?_ hq hi
    by_cases hc : u.c = true ∨ s.cur.convoy.isOpen = false
    · rw [if_pos hc] at he
      exact beginMember_opens hc he hl
    · rw [if_neg hc] at he
      subst he
      exact beginMember_joins hc hl
  · intro u s checks r hr hopen huc hl
    have reason {n : Nat} (h : limitBroken s.cur.convoy u = some n) : r = n := Option.some.inj (hl.symm.trans h)
    refine ⟨⟨0, ?_⟩, fun h => reason (limitBroken_members h), fun h hu h2 => reason (limitBroken_loads h hu h2),
      fun h hnl hu h1 => reason (limitBroken_stores h hnl hu h1),
      fun h hnl hns hu h1 => reason (limitBroken_cross h hnl hns hu h1)⟩
    unfold startMember
    rw [bind_ok (legal_pass hr (by simp) 0)]
    exact bind_error (beginMember_trap (by simp [hopen, huc]) hl)

/-! ## What a member leaves -/

theorem enterQueue_only (s : State) : onlyLanes s (enterQueue s) := by
  unfold enterQueue
  extract_lets
  split
  · exact (setCore_only ..).trans (heddle_only ..)
  · exact setCore_only ..
theorem noteConvoy_only (b : Nat) (s : State) : onlyLanes s (noteConvoy b s) := by
  unfold noteConvoy
  split
  · exact onlyLanes.rfl' s
  · exact setLoom_only ..
/-- Beside lanes and blocks, a member leaves its entry in the convoy, and the next instruction follows it. -/
theorem endMember_only (b : Nat) (u : Uses) (before : Shuttle) (tr : Trace) (s : State) :
    onlyLanes { s with cur := (logMember before s.cur u tr).advance 4 } (endMember b u before tr s) := by
  obtain ⟨cs, ls, as, h⟩ := (enterQueue_only { s with cur := logMember before s.cur u tr }).trans (noteConvoy_only b _)
  exact ⟨cs, ls, as, congrArg (·.advance 4) h⟩
theorem endMember_cur (b : Nat) (u : Uses) (before : Shuttle) (tr : Trace) (s : State) :
    (endMember b u before tr s).cur = (logMember before s.cur u tr).advance 4 :=
  (endMember_only b u before tr s).get State.cur fun _ _ _ => rfl

/-- A member's entry changes the record of the convoy alone. -/
theorem logMember_only (before sh : Shuttle) (u : Uses) (tr : Trace) :
    ∃ c, logMember before sh u tr = { sh with convoy := c } ∧ c.isOpen = (!before.convoy.isOpen || sh.convoy.isOpen) ∧
      c.count = (if before.convoy.isOpen then sh.convoy.count else 0) + 1 := by
  refine ⟨_, rfl, ?_⟩
  cases before.convoy.isOpen <;> exact ⟨rfl, rfl⟩

/-- Settles O19: beside the convoy's record, what the next instruction follows and the lanes, nothing has changed. -/
theorem memberFrame : Obligations.MemberFrame := by
  unfold Obligations.MemberFrame
  intro b u before tr s t
  obtain ⟨c, hlog, hopen, hcount⟩ := logMember_only before s.cur u tr
  have hcur : t.cur = ({ s.cur with convoy := c } : Shuttle).advance 4 := (endMember_cur ..).trans (by rw [hlog])
  obtain ⟨_, _, _, ht⟩ : onlyLanes _ t := endMember_only b u before tr s
  rw [hcur]
  refine ⟨rfl, hopen, hcount, rfl, rfl, rfl, rfl, rfl, rfl, rfl, rfl, rfl, rfl, rfl, rfl, rfl, ?_, ?_, ?_, ?_⟩
  all_goals rw [ht]

end Sys2Proof.Machine
end

section
/-! Misaligned scalar accesses (R88), and addresses that no translation reaches (R79, R80). -/
namespace Sys2Proof.Machine

/-! ## The alignment check comes first -/

theorem aligned_trap {va : Word} {n : Nat} (h : va.toNat % n ≠ 0) (code : Nat) (s : State) :
    aligned va n code s = .error (.trap cMISALIGNED va (w64 code)) s := by
  unfold aligned
  rw [if_pos h, trap_run]
theorem scalarLoad_misaligned {va : Word} {n : Nat} (h : va.toNat % n ≠ 0) (s : State) :
    scalarLoad va n s = .error (.trap cMISALIGNED va 0) s := by
  unfold scalarLoad
  exact bind_error (aligned_trap h 0 s)
theorem scalarAtomic_misaligned {va : Word} {n : Nat} (h : va.toNat % n ≠ 0) (ord : Nat) (ret : Bool) (op : Nat)
    (data : List Byte) (f : Nat → Option Nat) (s : State) :
    scalarAtomic va n ord ret op data f s = .error (.trap cMISALIGNED va 2) s := by
  unfold scalarAtomic
  exact bind_error (aligned_trap h 2 s)

/-! The instructions end their convoy, in `u`, and then trap there: nothing else has changed. -/

theorem loadOp_misaligned {s u : State} {w : Fin 8} {ea : State → Word} (he : endConvoy s = .ok () u)
    (h : (ea u).toNat % widthBytes w ≠ 0) (len : Nat) (acq : Bool) (d : SReg) :
    loadOp len acq d w ea s = .next (takeTrap u cMISALIGNED (ea u) 0) := by
  apply run_trap
  rw [bind_ok he, get_bind]
  exact bind_error (scalarLoad_misaligned h u)
theorem storeOp_misaligned {s u : State} {n : Nat} {ea : State → Word} (he : endConvoy s = .ok () u)
    (h : (ea u).toNat % n ≠ 0) (len : Nat) (rel : Bool) (r : SReg) :
    storeOp len rel r n ea s = .next (takeTrap u cMISALIGNED (ea u) 1) := by
  apply run_trap
  rw [bind_ok he, get_bind]
  exact bind_error (aligned_trap h 1 u)
theorem amoOp_misaligned {s u : State} {a : SReg} {z : Bool} (he : endConvoy s = .ok () u)
    (h : (u.reg a).toNat % (if z then 8 else 4) ≠ 0) (op : Nat) (d b : SReg) (q : Fin 4) :
    amoOp op d a b q z s = .next (takeTrap u cMISALIGNED (u.reg a) 2) := by
  apply run_trap
  rw [bind_ok he, get_bind]
  exact bind_error (scalarAtomic_misaligned h ..)
theorem execCas_misaligned {s u : State} {a : SReg} {z : Bool} (he : endConvoy s = .ok () u)
    (h : (u.reg a).toNat % (if z then 8 else 4) ≠ 0) (d b c : SReg) (q : Fin 4) :
    execCas d a b c q z s = .next (takeTrap u cMISALIGNED (u.reg a) 2) := by
  apply run_trap
  rw [bind_ok he, get_bind]
  exact bind_error (scalarAtomic_misaligned h ..)

/-! ## Addresses at and above the window's base -/

theorem xlate_beyond {va : Nat} (h : 2 ^ 56 ≤ va) (ctx : Ctx) (core kind : Nat) (found : List Found) (missed : List Miss)
    (losses : List LostSource) (hint : Hint) (s : State) :
    xlate ctx core va kind found missed losses hint s = (.fault cACCESS (w64 va) 1, s) := by
  unfold xlate
  rw [if_pos h]
theorem xlate_hole {va : Nat} (hlow : windowBase + spadBytes ≤ va) (hhigh : va < 2 ^ 56) (ctx : Ctx) (core kind : Nat)
    (found : List Found) (missed : List Miss) (losses : List LostSource) (hint : Hint) (s : State) :
    xlate ctx core va kind found missed losses hint s = (.fault cACCESS (w64 va) 2, s) := by
  have hhole : inHole va = true := by simp only [inHole, decide_eq_true_eq]; omega
  have hwindow : inWindow va = false := by simp only [inWindow, decide_eq_false_iff_not]; omega
  unfold xlate
  rw [if_neg (Nat.not_le.2 hhigh), if_pos hhole, hwindow]
  rfl

/-- A fault from the window's base on is not kept for the convoy's other accesses, so that nothing at all changes. -/
theorem translate_fault {va kind c : Nat} {ea ei : Word} {s : State} (hva : windowBase ≤ va)
    (hx : xlate ⟨s.cur.place.part, s.cur.priv⟩ s.cur.place.core va kind s.cur.found s.cur.missed s.cur.lostSources (0, 0) s =
      (.fault c ea ei, s)) :
    translate va kind s = .error (.trap c ea ei) s := by
  have htry : tryXlate va kind (0, 0) s = .ok (.fault c ea ei) s := by
    unfold tryXlate
    simp only [get_bind]
    rw [if_pos hva, pure_run, hx]
  unfold translate
  rw [bind_ok htry]
  exact trap_run ..

/-- Settles O17: the alignment check precedes the translation, and an address beyond 2^56 or in the hole beyond the window
faults before any page is looked for. -/
theorem scalarAccessTraps : Obligations.ScalarAccessTraps := by
  unfold Obligations.ScalarAccessTraps
  constructor
  · intro d a b w o q z s u he
    refine ⟨fun _ h => ⟨?ld, ?lda⟩, fun _ h => ⟨?st, ?stl⟩, fun h => ⟨?amo, ?cas⟩⟩
    case ld => exact loadOp_misaligned he h 4 false d
    case lda => exact loadOp_misaligned he h 4 true d
    case st => exact storeOp_misaligned he h 4 false d
    case stl => exact storeOp_misaligned he h 4 true d
    case amo => exact amoOp_misaligned he h 1 d b q
    case cas => exact execCas_misaligned he h d b b q
  · intro s va kind
    constructor
    · intro h
      exact translate_fault (by unfold windowBase; omega) (xlate_beyond h ..)
    · intro hlow hhigh
      exact translate_fault (by unfold windowBase; omega) (xlate_hole hlow hhigh ..)

end Sys2Proof.Machine
end

section
/-! BWAIT, BCHK, BREL and BSTAT (R266 to R269): how predicate bits are written, what an acquire of a copy's arrivals
changes, and the four instructions once their checks pass and their convoy has ended. -/
namespace Sys2Proof.Machine

/-! ## Predicate bits (R156) -/

theorem bit_eq_testBit (x i : Nat) : bit x i = x.testBit i := by
  rw [bit, Nat.testBit_eq_decide_div_mod_eq]; rfl

/-- A number with one bit replaced: what is above the bit, the bit, what is below it. -/
theorem setBit_eq (x i : Nat) (b : Bool) : setBit x i b = 2 ^ i * (2 * (x / 2 ^ i / 2) + b.toNat) + x % 2 ^ i := by
  have hx := Nat.div_add_mod x (2 ^ i)
  have hq := Nat.div_add_mod (x / 2 ^ i) 2
  have hb : b.toNat % 2 = b.toNat := Nat.mod_eq_of_lt b.toNat_lt
  simp only [setBit, setBits, bits, Nat.pow_one, hb]
  rw [← hq, Nat.mul_add] at hx
  rw [Nat.mul_add, Nat.mul_comm _ (2 ^ i), Nat.mul_comm _ (2 ^ i)]
  omega

theorem bit_setBit (x i j : Nat) (b : Bool) : bit (setBit x i b) j = if j = i then b else bit x j := by
  rw [bit_eq_testBit, bit_eq_testBit, setBit_eq, Nat.testBit_two_pow_mul_add _ (Nat.mod_lt _ (Nat.two_pow_pos i))]
  obtain hlt | rfl | hgt := Nat.lt_trichotomy j i
  · rw [if_pos hlt, if_neg (Nat.ne_of_lt hlt), Nat.testBit_mod_two_pow]
    simp [hlt]
  · cases b <;> simp [Nat.testBit_zero]
  · obtain ⟨k, rfl⟩ := Nat.exists_eq_add_of_lt hgt
    rw [if_neg (by omega), if_neg (by omega), Nat.add_assoc, Nat.add_sub_cancel_left, Nat.testBit_succ,
      Nat.mul_add_div Nat.two_pos, Nat.div_eq_of_lt b.toNat_lt, Nat.add_zero, Nat.div_div_eq_div_mul, ← Nat.pow_succ,
      Nat.testBit_div_two_pow]
    congr 1; omega

/-- A write of a predicate bit changes that bit alone, and nothing where it names p0. -/
theorem pbit_setPbit (sh : Shuttle) (d : PReg) (e r f : Nat) (b : Bool) :
    (sh.setPbit d.val e b).pbit r f = if d ≠ 0 ∧ r = d.val ∧ f = e then b else sh.pbit r f := by
  by_cases hd : d = 0
  · subst hd; simp [Shuttle.setPbit]
  have hd' : d.val ≠ 0 := fun h => hd (Fin.ext h)
  by_cases hr : r = d.val
  · subst hr
    simp [Shuttle.setPbit, Shuttle.pbit, hd, hd', bit_setBit]
  · simp [Shuttle.setPbit, Shuttle.pbit, hd', hr, Ne.symm hr]

/-- Beside the predicate registers a write of a predicate bit leaves the shuttle as it was. -/
theorem setPbit_only (sh : Shuttle) (d e : Nat) (b : Bool) : ∃ p, sh.setPbit d e b = { sh with p := p } := by
  unfold Shuttle.setPbit
  split
  · exact ⟨sh.p, rfl⟩
  · exact ⟨_, rfl⟩

/-- The bits of a predicate register at some elements, written one after another. -/
def Shuttle.setPbits (sh : Shuttle) (d : PReg) (es : List Nat) (f : Nat → Bool) : Shuttle :=
  es.foldl (fun y e => y.setPbit d.val e (f e)) sh

theorem pbit_setPbits (sh : Shuttle) (d : PReg) (es : List Nat) (f : Nat → Bool) (r e : Nat) :
    (sh.setPbits d es f).pbit r e = if d ≠ 0 ∧ r = d.val ∧ e ∈ es then f e else sh.pbit r e := by
  unfold Shuttle.setPbits
  induction es generalizing sh with
  | nil => simp
  | cons x es ih =>
    rw [List.foldl_cons, ih, pbit_setPbit]
    grind

@[simp] theorem pc_setPbits (sh : Shuttle) (d : PReg) (es : List Nat) (f : Nat → Bool) :
    (sh.setPbits d es f).pc = sh.pc :=
  foldl_keep Shuttle.pc _ (fun y e => by obtain ⟨p, h⟩ := setPbit_only y d.val e (f e); rw [h]) es sh
@[simp] theorem regs_setPbits (sh : Shuttle) (d : PReg) (es : List Nat) (f : Nat → Bool) :
    (sh.setPbits d es f).regs = sh.regs :=
  foldl_keep Shuttle.regs _ (fun y e => by obtain ⟨p, h⟩ := setPbit_only y d.val e (f e); rw [h]) es sh

/-! ## What an acquire of a copy's arrivals changes (R98, R263) -/

/-- `t` differs from `s` in what the issuing shuttle has seen of the stores alone. -/
def onlySeen (s t : State) : Prop := ∃ vs st, t = { s with cur := { s.cur with views := vs }, stores := st }

theorem onlySeen.rfl' (s : State) : onlySeen s s := ⟨_, _, rfl⟩
theorem onlySeen.trans {s t u : State} (h : onlySeen s t) (k : onlySeen t u) : onlySeen s u := by
  obtain ⟨_, _, rfl⟩ := h; obtain ⟨_, _, rfl⟩ := k; exact ⟨_, _, rfl⟩

theorem acquireRuns_only (s : State) (b : Bobbin) (runs : List Landing) : onlySeen s (s.acquireRuns b runs) := by
  unfold State.acquireRuns
  split
  · exact onlySeen.rfl' s
  · exact ⟨_, _, rfl⟩

/-- The acquires of BCHK: for each element the runs of the copy's destination that hold a byte of its chunks (R267). -/
def State.acquireElems (s : State) (x : Bobbin) (off w : Nat) (es : List Nat) : State :=
  es.foldl (fun s e =>
    let lo := (8 * off + e * w) / 8 / x.chunk * x.chunk
    let hi := ((8 * off + e * w + w - 1) / 8 / x.chunk + 1) * x.chunk
    s.acquireRuns x (x.runsIn lo (hi - lo))) s

theorem acquireElems_only (s : State) (x : Bobbin) (off w : Nat) (es : List Nat) :
    onlySeen s (s.acquireElems x off w es) :=
  foldl_rel onlySeen onlySeen.rfl' onlySeen.trans _ (fun t _ => acquireRuns_only t ..) es s

/-! ## The four instructions -/

/-- With feature 12 accepted, an instruction of bobbins goes on from where its convoy has ended. -/
theorem afterConvoy_run {s u : State} {rest : M Unit} (hf : s.feature s.cur.place.part 12 = true)
    (he : endConvoy s = .ok () u) (ibits : Nat) :
    (do legal ibits [] [12]; endConvoy; rest : M Unit) s = rest u := by
  rw [bind_ok (legal_pass (by simp) (by simpa using hf) ibits), bind_ok he]

section
variable {n : Bob} {s u : State} (hf : s.feature s.cur.place.part 12 = true) (he : endConvoy s = .ok () u)
include hf he

/-- BWAIT first lets the lanes of its core return (R38; log entry 26), then asks the bobbin's state (R266). -/
theorem execBwait_done (hx : (u.cur.bob n).st = .done) :
    let y := wantReturn u.closed u.cur.place.core
    execBwait n s = .next (({ y with cur := y.cur.after 7 (u.cur.bob n).at_ } : State).advance 4) := by
  apply run_ok
  rw [afterConvoy_run hf he, get_bind, bind_ok (blockingWait_run u)]
  simp only [hx, reduceCtorEq, if_false, if_true, onCur_bind, retire_run]
theorem execBwait_idle (hx : (u.cur.bob n).st = .idle) :
    execBwait n s = .next ((wantReturn u.closed u.cur.place.core).advance 4) := by
  apply run_ok
  rw [afterConvoy_run hf he, get_bind, bind_ok (blockingWait_run u)]
  simp only [hx, reduceCtorEq, if_false, retire_run]
theorem execBwait_failed (hx : (u.cur.bob n).st = .failed) :
    execBwait n s = .next (takeTrap (wantReturn u.closed u.cur.place.core) cBOBBIN 0
      (w64 ((u.cur.bob n).fcause * 2 ^ 16 + n.val * 2 ^ 8 + 3))) := by
  apply run_trap
  rw [afterConvoy_run hf he, get_bind, bind_ok (blockingWait_run u)]
  simp only [hx, reduceCtorEq, if_false, if_true, bobTrap, trap_bind]
theorem execBwait_busy (hx : (u.cur.bob n).st = .busy) :
    let y := wantReturn u.closed u.cur.place.core
    execBwait n s = .next { y with cur := y.cur.startWait (.bobbin n.val) } := by
  apply run_wait
  rw [afterConvoy_run hf he, get_bind, bind_ok (blockingWait_run u)]
  simp only [hx, if_true, park_bind]

theorem execBchk_idle (hx : (u.cur.bob n).st = .idle) (q : PReg) (b : SReg) :
    execBchk q n b s = .next (takeTrap u cBOBBIN 0 (w64 (n.val * 2 ^ 8 + 4))) := by
  apply run_trap
  rw [afterConvoy_run hf he, get_bind]
  simp only [hx, if_true, bobTrap, trap_bind, Nat.zero_mul, Nat.zero_add]
/-- BCHK writes the bits of the elements below VL, then acquires the arrivals that they report (R267). -/
theorem execBchk_run (hx : (u.cur.bob n).st ≠ .idle) (q : PReg) (b : SReg) :
    let off := (u.reg b).toNat
    let w := ebits u.cur.ety
    let here := (u.cur.bob n).arrived off w
    let es := List.range u.cur.vl.toNat
    execBchk q n b s = .next ((({ u with cur := u.cur.setPbits q es here } : State).acquireElems (u.cur.bob n) off w
      (es.filter here)).advance 4) := by
  apply run_ok
  rw [afterConvoy_run hf he, get_bind]
  simp only [hx, if_false, onCur_bind, modify_bind, retire_run]
  rfl

theorem execBrel_notBusy (hx : (u.cur.bob n).st ≠ .busy) :
    execBrel n s = .next (({ u with cur := u.cur.setBob n.val {} } : State).advance 4) := by
  apply run_ok
  rw [afterConvoy_run hf he, get_bind]
  simp only [hx, if_false, onCur_bind, retire_run]
theorem execBrel_busy (hx : (u.cur.bob n).st = .busy) :
    execBrel n s = .next { u with cur := u.cur.startWait (.arrival n.val (2 ^ 64)) } := by
  apply run_wait
  rw [afterConvoy_run hf he, get_bind]
  simp only [hx, if_true, park_bind]
theorem execBstat_run (d b : SReg) :
    execBstat d n b s = .next ((u.wr d ((u.cur.bob n).word (u.reg b).toNat)).advance 4) := by
  apply run_ok
  rw [afterConvoy_run hf he, get_bind, writeReg_bind, retire_run]

end

/-- The word of BREL, whose bobbin stands in bits [18:14] (R268). -/
theorem decode_brel (n : Bob) : decode 4 (0xBB000002 + n.val * 2 ^ 14) = .ok (.brel n) :=
  Laws.decode_eq_ok (i := .brel n) rfl rfl rfl

/-- Settles O35: each instruction, where its convoy has ended, in each state of the bobbin; BCHK's acquire leaves the
predicate bits, so that they are those it has written. -/
theorem bobbinInstructions : Obligations.BobbinInstructions := by
  unfold Obligations.BobbinInstructions
  intro n d b q s u hf he
  refine ⟨execBwait_done hf he, execBwait_idle hf he, execBwait_failed hf he, execBwait_busy hf he,
    fun hx => execBchk_idle hf he hx q b, fun hx => ?bchk, execBrel_notBusy hf he, execBrel_busy hf he,
    decode_brel n, execBstat_run hf he d b⟩
  refine ⟨_, execBchk_run hf he hx q b, ?_⟩
  generalize hw : State.acquireElems .. = w
  obtain ⟨_, _, rfl⟩ : onlySeen _ w := hw ▸ acquireElems_only ..
  refine ⟨?pc, rfl, ?regs, fun e hlt hq => ?written, fun e r hout => ?kept⟩
  case pc => exact congrArg (· + w64 4) (pc_setPbits ..)
  case regs => exact regs_setPbits ..
  case written => exact (pbit_setPbits ..).trans (if_pos ⟨hq, rfl, List.mem_range.2 hlt⟩)
  case kept =>
    refine (pbit_setPbits ..).trans (if_neg fun ⟨_, hr, hmem⟩ => ?_)
    have hlt := List.mem_range.1 hmem
    omega

end Sys2Proof.Machine
end
